-- ==== Sys2Proof/Word.lean ====
section
/-! DEFINITION. The word types of the SH-HM64A (R5, R103) and the sparse store that holds every large array of the
machine: a list of (key, value) pairs in one canonical form. -/

namespace Sys2Proof

/-- A 32-bit word: an entry of one thread, an instruction word, an extension word. -/
abbrev Word := BitVec 32

/-- A 64-bit word: a uniform register, a slot, a virtual address. -/
abbrev DWord := BitVec 64

/-- A mask with one bit for each of a group's 256 threads; bit t is thread t. -/
abbrev LaneMask := BitVec 256

/-- A sparse array of `w`-bit values. A key that is not listed holds 0. The canonical form (`SMap.wf`) has strictly
rising keys and lists no 0, so that equal arrays are equal lists. -/
abbrev SMap (w : Nat) := List (Nat × BitVec w)

end Sys2Proof
end

