-- ==== Sys2Proof/Config.lean ====
section
/-! DEFINITION. What the manual leaves to the part: free values, each a constant with no body, so that nothing can be proved
of it. A claim that mentions one holds for every value. Each is named in a log entry. -/

namespace Sys2Proof.Config

/-- The bits a T-pipe instruction returns for an input where R130 gives only a bound: operation number (the V2 op of R153)
and input encoding. R133: a fixed function of its inputs. Used only where it lies within the bound (log 8). -/
opaque tPipe : Nat → Nat → Nat

/-- A fresh value for the n-th open choice the manual leaves (log 3). -/
opaque fresh : Nat → Nat

/-- What a byte of newly granted scratchpad or main file that R25 leaves undefined reads as: core, epoch of the grant, byte
offset (log 12). -/
opaque undefByte : Nat → Nat → Nat → BitVec 8

/-- An element of an accumulator tile whose contents the manual leaves undefined: core, epoch, element (log 12). -/
opaque undefTile : Nat → Nat → Nat → Word

/-- Whether a peer device refuses a request to one of its 64 KiB pages for a link number (R417): what it has exported is its own
firmware's affair (log 18). -/
opaque peerRefuses : Nat → Nat → Nat → Bool

/-- Whether this device has exported one of its 64 KiB pages to a source device for a link number (R417): firmware's choice (log 18). -/
opaque peerExports : Nat → Nat → Nat → Bool

/-- A byte of a peer's memory as a read of it returns: draw, physical address (log 18). -/
opaque peerByte : Nat → Nat → BitVec 8

/-- The key by which the lanes of a store that meet at an address are ordered: the last survives (R271, log 9). -/
opaque laneOrder : Nat → Nat → Nat

/-- A decoded ASTC texel: format code, block, and the texel's column and row in it; four channels of 16 bits under the LDR profile, of
8 bits under the sRGB mode. The profile is another body's standard (R371, log 13). -/
opaque astc : Nat → Nat → Nat → Nat → Nat

/-- A texel index, or a level, where a texture coordinate or an LOD is not a finite number: the manual states no result (log 34). -/
opaque texIndex : Nat → Nat

/-- Whether the bytes of an image carry a signature that verifies under the vendor key (R427), and the security version they name: the
manual gives no layout of an image (log 14). -/
opaque imageSigned : List (BitVec 8) → Bool
opaque imageVersion : List (BitVec 8) → Nat

/-- Whether the bytes of a debug certificate verify under the vendor debug key and name this part (R426, log 14). -/
opaque certOk : List (BitVec 8) → Bool

/-- An attestation report for a nonce, draw by draw: the manual gives its contents, not its layout or its keys (R430, log 14). -/
opaque report : List (BitVec 8) → Nat → List (BitVec 8)

/-- The base and limit, in 2 MiB units, of each secure GDDR-7 region that firmware sets at boot (R421): its choice (log 1). -/
opaque secureRegion : Nat → Nat × Nat

/-- A byte of GDDR-7 that one secure job's key enciphers, as another secure job reads it (R423): the two keys, draw, address, and the 16-byte
block as its owner wrote it. The manual does not say what that job reads (log 57). -/
opaque xts : Nat → Nat → Nat → Nat → Nat → BitVec 8

/-- Whether, at a draw, the software of a job has broken an obligation of which no chapter states the consequence (R3, log 51). -/
opaque breach : Nat → Nat → Bool

/-- Whether the debug state of the part is N-enabled where no certificate has authorised more (R425, log 14). -/
opaque debugEnabled : Bool

end Sys2Proof.Config
end

