-- ==== Sys2Proof/Machine/Float.lean ====
section
/-! DEFINITION. Number formats and exact arithmetic with one rounding (R105 to R126, R134). A finite value is a sign, a
natural mantissa and a power of two; every operation is computed exactly and narrowed once by `roundTo`. -/

namespace Sys2Proof.Machine

/-- FPFLAGS bits (R134): 0 invalid, 1 divide-by-zero, 2 overflow, 3 underflow, 4 inexact. -/
abbrev FFlags := BitVec 5

def fInvalid : FFlags := 1
def fDivZero : FFlags := 2
def fOverflow : FFlags := 4
def fUnderflow : FFlags := 8
def fInexact : FFlags := 16

/-- Which encodings of a format are special (R105, R106). -/
inductive Specials where
  | ieee
  | e4m3
  | none
  deriving DecidableEq, Repr

/-- A floating-point format: fraction bits, exponent bits, bias and special encodings (R105, R106). -/
structure Fmt where
  frac : Nat
  ebits : Nat
  bias : Nat
  sp : Specials
  deriving DecidableEq, Repr

def Fmt.b64 : Fmt := ⟨52, 11, 1023, .ieee⟩
def Fmt.b32 : Fmt := ⟨23, 8, 127, .ieee⟩
def Fmt.b16 : Fmt := ⟨10, 5, 15, .ieee⟩
def Fmt.bf16 : Fmt := ⟨7, 8, 127, .ieee⟩
def Fmt.e4m3 : Fmt := ⟨3, 4, 7, .e4m3⟩
def Fmt.e5m2 : Fmt := ⟨2, 5, 15, .ieee⟩
def Fmt.e2m3 : Fmt := ⟨3, 2, 1, .none⟩
def Fmt.e3m2 : Fmt := ⟨2, 3, 3, .none⟩
def Fmt.e2m1 : Fmt := ⟨1, 2, 1, .none⟩

/-- Precision with the hidden bit. -/
def Fmt.p (f : Fmt) : Nat := f.frac + 1
/-- The smallest normal exponent. -/
def Fmt.emin (f : Fmt) : Int := 1 - (f.bias : Int)
/-- The position of the sign bit. -/
def Fmt.signPos (f : Fmt) : Nat := f.frac + f.ebits
/-- The width in bits. -/
def Fmt.width (f : Fmt) : Nat := f.signPos + 1
/-- The largest finite encoding without its sign. -/
def Fmt.maxBits (f : Fmt) : Nat :=
  match f.sp with
  | .ieee => (2 ^ f.ebits - 1) * 2 ^ f.frac - 1
  | .e4m3 => 2 ^ f.signPos - 2
  | .none => 2 ^ f.signPos - 1
/-- The canonical NaN (R107); a format without NaN has 0 here (R122). -/
def Fmt.nan (f : Fmt) : Nat :=
  match f.sp with
  | .ieee => (2 ^ f.ebits - 1) * 2 ^ f.frac + 2 ^ (f.frac - 1)
  | .e4m3 => 2 ^ f.signPos - 1
  | .none => 0
/-- +∞ of an IEEE format. -/
def Fmt.inf (f : Fmt) : Nat := (2 ^ f.ebits - 1) * 2 ^ f.frac
def Fmt.one (f : Fmt) : Nat := f.bias * 2 ^ f.frac
/-- The sign bit's weight when `s` holds. -/
def Fmt.signBit (f : Fmt) (s : Bool) : Nat := if s then 2 ^ f.signPos else 0

/-- A value: NaN (signalling or quiet), infinity, or (-1)^s × m × 2^e. -/
inductive Num where
  | nan (signalling : Bool)
  | inf (s : Bool)
  | fin (s : Bool) (m : Nat) (e : Int)
  deriving DecidableEq, Repr

/-- The value an encoding holds (R105, R106). Bits above the format's width are ignored. -/
def Fmt.num (f : Fmt) (bits : Nat) : Num :=
  let m := bits % 2 ^ f.frac
  let e := bits / 2 ^ f.frac % 2 ^ f.ebits
  let s := bits / 2 ^ f.signPos % 2 == 1
  if f.sp == .ieee && e == 2 ^ f.ebits - 1 then
    if m == 0 then .inf s else .nan (m / 2 ^ (f.frac - 1) == 0)
  else if f.sp == .e4m3 && e == 2 ^ f.ebits - 1 && m == 2 ^ f.frac - 1 then .nan false
  else if e == 0 then .fin s m (f.emin - f.frac)
  else .fin s (2 ^ f.frac + m) ((e : Int) - f.bias - f.frac)

def Num.isNan : Num → Bool
  | .nan _ => true
  | _ => false
def Num.isSNan : Num → Bool
  | .nan s => s
  | _ => false
def Num.isZero : Num → Bool
  | .fin _ 0 _ => true
  | _ => false
def Num.isInf : Num → Bool
  | .inf _ => true
  | _ => false
def Num.neg : Num → Bool
  | .nan _ => false
  | .inf s => s
  | .fin s _ _ => s

/-- Rounding directions (R111). -/
inductive RMode where
  | rne | rz | rp | rm
  deriving DecidableEq, Repr

/-- The rounding mode of a two-bit code (R111, R198). -/
def rmode : Nat → RMode
  | 0 => .rne
  | 1 => .rz
  | 2 => .rp
  | _ => .rm

/-- A result: the encoding and the flags it raises. -/
structure FRes where
  bits : Nat
  fl : FFlags
  deriving DecidableEq, Repr

/-- Rounds m × 2^e (plus a positive amount below one unit of m when `sticky`) to a multiple of 2^q. -/
def roundAt (mode : RMode) (neg : Bool) (m : Nat) (e : Int) (sticky : Bool) (q : Int) : Nat × Bool :=
  if q ≤ e then (m * 2 ^ (e - q).toNat, sticky)
  else
    let k := (q - e).toNat
    let d := m / 2 ^ k
    let r := m % 2 ^ k
    let exact := r == 0 && !sticky
    let up := match mode with
      | .rne => 2 * r > 2 ^ k || (2 * r == 2 ^ k && (sticky || d % 2 == 1))
      | .rz => false
      | .rp => !neg && !exact
      | .rm => neg && !exact
    (if up then d + 1 else d, !exact)

/-- What rounding to a format gives before overflow is decided: r × 2^q, and whether it is inexact, tiny (R115) or beyond the
largest finite value (R118). -/
structure Rounded where
  r : Nat
  q : Int
  inexact : Bool
  tiny : Bool
  tooBig : Bool
  deriving DecidableEq, Repr

/-- Rounds a non-zero m × 2^e to the format's precision, with tininess judged after rounding with an unbounded exponent. -/
def roundTo (f : Fmt) (mode : RMode) (neg : Bool) (m : Nat) (e : Int) (sticky : Bool) : Rounded :=
  let top : Int := (Nat.log2 m : Int) + e
  let qu : Int := top - f.frac
  let qmin : Int := f.emin - f.frac
  let q := max qu qmin
  let (r, inexact) := roundAt mode neg m e sticky q
  let (ru, _) := roundAt mode neg m e sticky qu
  let tiny := qu < qmin && ru < 2 ^ (f.emin - qu).toNat
  let maxM := f.maxBits % 2 ^ f.frac + 2 ^ f.frac
  let qmax : Int := (f.maxBits / 2 ^ f.frac : Nat) - f.bias - f.frac
  let tooBig := q ≥ qmax && r * 2 ^ (q - qmax).toNat > maxM
  ⟨r, q, inexact, tiny, tooBig⟩

/-- The encoding of r × 2^q without a sign, for a value in range. -/
def Rounded.encode (f : Fmt) (x : Rounded) : Nat :=
  let r := if x.r == 2 ^ f.p then 2 ^ f.frac else x.r
  let q := if x.r == 2 ^ f.p then x.q + 1 else x.q
  if r < 2 ^ f.frac then r else (q + f.frac + f.bias).toNat * 2 ^ f.frac + (r - 2 ^ f.frac)

/-- The overflow result of R118. -/
def overflowBits (f : Fmt) (mode : RMode) (neg : Bool) : Nat :=
  f.signBit neg + (match mode, neg with
    | .rne, _ => f.inf
    | .rz, _ => f.maxBits
    | .rp, false => f.inf
    | .rp, true => f.maxBits
    | .rm, false => f.maxBits
    | .rm, true => f.inf)

/-- Rounds a value to one of the four standard formats with its flags (R115, R118), flushing the result when `ftz` (R114). -/
def packRound (f : Fmt) (mode : RMode) (ftz : Bool) (neg : Bool) (m : Nat) (e : Int) (sticky : Bool) : FRes :=
  if m == 0 && !sticky then ⟨f.signBit neg, 0⟩
  else
    let x := roundTo f mode neg m e sticky
    if x.tooBig then ⟨overflowBits f mode neg, fOverflow ||| fInexact⟩
    else
      let b := x.encode f
      if ftz && b != 0 && b < 2 ^ f.frac then ⟨f.signBit neg, fUnderflow ||| fInexact⟩
      else ⟨f.signBit neg + b,
        (if x.inexact then fInexact else 0) ||| (if x.tiny && x.inexact then fUnderflow else 0)⟩

/-- The environment of an operation: rounding mode and whether its format is flushed (R111, R114). -/
structure FEnv where
  mode : RMode
  ftz : Bool
  deriving DecidableEq, Repr

/-- RNE without flushing. -/
def FEnv.plain : FEnv := ⟨.rne, false⟩

/-- Reads an operand, flushing a subnormal to zero of its sign without a flag when `ftz` (R114). -/
def readNum (f : Fmt) (ftz : Bool) (bits : Nat) : Num :=
  match f.num bits with
  | .fin s m e => if ftz && m < 2 ^ f.frac then .fin s 0 e else .fin s m e
  | x => x

/-- Invalid when one of the inputs is a signalling NaN (R116). -/
def snanFlag (l : List Num) : FFlags := if l.any Num.isSNan then fInvalid else 0

/-- A signed exact dyadic value i × 2^e. -/
structure Dy where
  i : Int
  e : Int
  deriving DecidableEq, Repr

def Dy.add (a b : Dy) : Dy :=
  let e := min a.e b.e
  ⟨a.i * 2 ^ (a.e - e).toNat + b.i * 2 ^ (b.e - e).toNat, e⟩
def Dy.neg (a : Dy) : Dy := ⟨-a.i, a.e⟩
def Dy.sub (a b : Dy) : Dy := a.add b.neg
def Dy.mul (a b : Dy) : Dy := ⟨a.i * b.i, a.e + b.e⟩
def Dy.abs (a : Dy) : Dy := ⟨a.i.natAbs, a.e⟩
def Dy.le (a b : Dy) : Bool := (b.sub a).i ≥ 0
def Dy.lt (a b : Dy) : Bool := (b.sub a).i > 0
def Dy.eq (a b : Dy) : Bool := (b.sub a).i == 0
/-- 2^e. -/
def Dy.pow2 (e : Int) : Dy := ⟨1, e⟩
def Dy.ofInt (i : Int) : Dy := ⟨i, 0⟩
/-- The largest integer not above the value. -/
def Dy.floor (a : Dy) : Int := if a.e ≥ 0 then a.i * 2 ^ a.e.toNat else a.i / 2 ^ (-a.e).toNat

def signed (s : Bool) (m : Nat) : Int := if s then -(m : Int) else m

/-- A finite value as an exact dyadic; NaN and infinity give 0. -/
def Num.dy : Num → Dy
  | .fin s m e => ⟨signed s m, e⟩
  | _ => ⟨0, 0⟩

/-- Rounds an exact dyadic; an exact zero takes the sign `zneg`. -/
def roundDy (f : Fmt) (env : FEnv) (zneg : Bool) (x : Dy) : FRes :=
  if x.i == 0 then ⟨f.signBit zneg, 0⟩ else packRound f env.mode env.ftz (x.i < 0) x.i.natAbs x.e false

/-- The sign of an exact zero sum (R117): the common sign of two zeros, else + except under rounding toward −∞. -/
def zeroSumSign (mode : RMode) (az bz : Bool) (as bs : Bool) : Bool :=
  if az && bz && as == bs then as else mode == .rm

/-- The sum of two values (R116, R117). -/
def addNum (f : Fmt) (env : FEnv) (a b : Num) : FRes :=
  match a, b with
  | .nan x, .nan y => ⟨f.nan, if x || y then fInvalid else 0⟩
  | .nan x, _ => ⟨f.nan, if x then fInvalid else 0⟩
  | _, .nan y => ⟨f.nan, if y then fInvalid else 0⟩
  | .inf s, .inf t => if s == t then ⟨f.signBit s + f.inf, 0⟩ else ⟨f.nan, fInvalid⟩
  | .inf s, _ => ⟨f.signBit s + f.inf, 0⟩
  | _, .inf t => ⟨f.signBit t + f.inf, 0⟩
  | .fin s m e, .fin t n g =>
    roundDy f env (zeroSumSign env.mode (m == 0) (n == 0) s t) ((Dy.mk (signed s m) e).add ⟨signed t n, g⟩)

/-- The exact product of two values: NaN-ness, infinity and 0 × ∞ apart (R116). -/
inductive Prod where
  | nan
  | invalid
  | inf (s : Bool)
  | fin (s : Bool) (m : Nat) (e : Int)
  deriving DecidableEq, Repr

def mulExact (a b : Num) : Prod :=
  match a, b with
  | .nan _, _ => .nan
  | _, .nan _ => .nan
  | .inf s, .inf t => .inf (s != t)
  | .inf s, .fin t n _ => if n == 0 then .invalid else .inf (s != t)
  | .fin s m _, .inf t => if m == 0 then .invalid else .inf (s != t)
  | .fin s m e, .fin t n g => .fin (s != t) (m * n) (e + g)

/-- The product of two values (R116, R117). -/
def mulNum (f : Fmt) (env : FEnv) (a b : Num) : FRes :=
  match mulExact a b with
  | .nan => ⟨f.nan, snanFlag [a, b]⟩
  | .invalid => ⟨f.nan, fInvalid⟩
  | .inf s => ⟨f.signBit s + f.inf, 0⟩
  | .fin s m e => packRound f env.mode env.ftz s m e false

/-- A × B + C rounded once (R116, R117, R177). -/
def fmaNum (f : Fmt) (env : FEnv) (a b c : Num) : FRes :=
  let sn := snanFlag [a, b, c]
  match mulExact a b, c with
  | .invalid, _ => ⟨f.nan, fInvalid⟩
  | .nan, _ => ⟨f.nan, sn⟩
  | _, .nan _ => ⟨f.nan, sn⟩
  | .inf s, .inf t => if s == t then ⟨f.signBit s + f.inf, 0⟩ else ⟨f.nan, fInvalid⟩
  | .inf s, _ => ⟨f.signBit s + f.inf, 0⟩
  | _, .inf t => ⟨f.signBit t + f.inf, 0⟩
  | .fin s m e, .fin t n g =>
    roundDy f env (zeroSumSign env.mode (m == 0) (n == 0) s t) ((Dy.mk (signed s m) e).add ⟨signed t n, g⟩)

def fadd (f : Fmt) (env : FEnv) (a b : Nat) : FRes := addNum f env (readNum f env.ftz a) (readNum f env.ftz b)
def fmul (f : Fmt) (env : FEnv) (a b : Nat) : FRes := mulNum f env (readNum f env.ftz a) (readNum f env.ftz b)
def ffma (f : Fmt) (env : FEnv) (a b c : Nat) : FRes :=
  fmaNum f env (readNum f env.ftz a) (readNum f env.ftz b) (readNum f env.ftz c)

/-- The encoding with its sign flipped. -/
def flipSign (f : Fmt) (x : Nat) : Nat := if x / 2 ^ f.signPos % 2 == 1 then x - 2 ^ f.signPos else x + 2 ^ f.signPos
/-- The encoding with its sign cleared. -/
def clearSign (f : Fmt) (x : Nat) : Nat := if x / 2 ^ f.signPos % 2 == 1 then x - 2 ^ f.signPos else x

def fsub (f : Fmt) (env : FEnv) (a b : Nat) : FRes := fadd f env a (flipSign f (b % 2 ^ f.width))

/-- The value order of R119: −0 below +0. NaN does not reach here. -/
def Num.below : Num → Num → Bool
  | .inf s, .inf t => s && !t
  | .inf s, _ => s
  | _, .inf t => !t
  | .fin s m e, .fin t n g =>
    if m == 0 && n == 0 then s && !t else (Dy.mk (signed s m) e).lt ⟨signed t n, g⟩
  | _, _ => false

/-- An operand as minimumNumber and maximumNumber return it: flushed, never rounded (R114, R119). -/
def flushIn (f : Fmt) (ftz : Bool) (bits : Nat) : Nat :=
  let b := bits % 2 ^ f.width
  if ftz && clearSign f b < 2 ^ f.frac then f.signBit (b / 2 ^ f.signPos == 1) else b

/-- minimumNumber (`min` true) and maximumNumber (R119). -/
def fminmax (f : Fmt) (isMin : Bool) (ftz : Bool) (a b : Nat) : FRes :=
  let x := flushIn f ftz a
  let y := flushIn f ftz b
  let fl := snanFlag [f.num x, f.num y]
  match f.num x, f.num y with
  | .nan _, .nan _ => ⟨f.nan, fl⟩
  | .nan _, _ => ⟨y, fl⟩
  | _, .nan _ => ⟨x, fl⟩
  | u, v => ⟨if (if isMin then u.below v else v.below u) then x else if (if isMin then v.below u else u.below v) then y else x, fl⟩

/-- The relation of two values: less, equal, greater or unordered (R120). -/
inductive Rel where
  | lt | eq | gt | un
  deriving DecidableEq, Repr

def relNum (a b : Num) : Rel :=
  match a, b with
  | .nan _, _ => .un
  | _, .nan _ => .un
  | .inf s, .inf t => if s == t then .eq else if s then .lt else .gt
  | .inf s, _ => if s then .lt else .gt
  | _, .inf t => if t then .gt else .lt
  | .fin s m e, .fin t n g =>
    let d := (Dy.sub ⟨signed s m, e⟩ ⟨signed t n, g⟩).i
    if d < 0 then .lt else if d == 0 then .eq else .gt

/-- The condition codes of R153 on a relation. -/
def condRel (c : Nat) (r : Rel) : Bool :=
  match c with
  | 0 => r == .eq
  | 1 => r != .eq
  | 2 => r == .lt
  | 3 => r == .lt || r == .eq
  | 4 => r == .gt
  | 5 => r == .gt || r == .eq
  | 6 => r != .un
  | _ => r == .un

/-- A floating-point compare with its invalid flag (R120). -/
def fcompare (f : Fmt) (ftz : Bool) (c : Nat) (a b : Nat) : Bool × FFlags :=
  let x := readNum f ftz a
  let y := readNum f ftz b
  let ordered := 2 ≤ c && c ≤ 5
  (condRel c (relNum x y),
    if (ordered && (x.isNan || y.isNan)) || x.isSNan || y.isSNan then fInvalid else 0)

/-- The clamp to [0, 1] of R121. -/
def fclamp (f : Fmt) (x : Nat) : Nat :=
  match f.num x with
  | .nan _ => 0
  | .inf s => if s then 0 else f.one
  | .fin s m _ => if s || m == 0 then 0 else if f.one < x then f.one else x

def clampRes (f : Fmt) (s : Bool) (r : FRes) : FRes := if s then ⟨fclamp f r.bits, r.fl⟩ else r

/-- The class of an encoding, a bit number of R197. -/
def fclassBit (f : Fmt) (x : Nat) : Nat :=
  match f.num x with
  | .nan s => if s then 0 else 1
  | .inf s => if s then 2 else 9
  | .fin s m _ =>
    if m == 0 then (if s then 5 else 6) else if m < 2 ^ f.frac then (if s then 4 else 7) else (if s then 3 else 8)

/-- Rounds a value to an integral value of the same format (R198). -/
def fintNum (f : Fmt) (mode : RMode) (ftz : Bool) (x : Nat) : FRes :=
  match readNum f ftz x with
  | .nan s => ⟨f.nan, if s then fInvalid else 0⟩
  | .inf s => ⟨f.signBit s + f.inf, 0⟩
  | .fin s m e =>
    if e ≥ 0 then ⟨x % 2 ^ f.width, 0⟩
    else
      let (r, _) := roundAt mode s m e false 0
      ⟨(packRound f .rne false s r 0 false).bits, 0⟩

/-! ## Conversions (R122 to R124, R201) -/

/-- A value rounded to a standard format, with NaNs canonical (R123). -/
def toFmt (f : Fmt) (env : FEnv) : Num → FRes
  | .nan s => ⟨f.nan, if s then fInvalid else 0⟩
  | .inf s => ⟨f.signBit s + f.inf, 0⟩
  | .fin s m e => packRound f env.mode env.ftz s m e false

/-- A value rounded to FP8 or a narrow format by the table of R122. -/
def toNarrow (f : Fmt) (sat : Bool) : Num → FRes
  | .nan s => match f.sp with
    | .none => ⟨0, fInvalid⟩
    | _ => ⟨f.nan, if s then fInvalid else 0⟩
  | .inf s => match f.sp with
    | .none => ⟨f.signBit s + f.maxBits, fInvalid⟩
    | .e4m3 => if sat then ⟨f.signBit s + f.maxBits, 0⟩ else ⟨f.nan, fInvalid⟩
    | .ieee => if sat then ⟨f.signBit s + f.maxBits, 0⟩ else ⟨f.signBit s + f.inf, 0⟩
  | .fin s m e =>
    if m == 0 then ⟨f.signBit s, 0⟩
    else
      let x := roundTo f .rne s m e false
      if x.tooBig then
        ⟨match f.sp with
          | .none => f.signBit s + f.maxBits
          | .e4m3 => if sat then f.signBit s + f.maxBits else f.nan
          | .ieee => if sat then f.signBit s + f.maxBits else f.signBit s + f.inf, fOverflow ||| fInexact⟩
      else ⟨f.signBit s + x.encode f,
        (if x.inexact then fInexact else 0) ||| (if x.tiny && x.inexact then fUnderflow else 0)⟩

/-- A value converted to an integer of `n` bits, toward zero and saturating (R124). -/
def toInteger (n : Nat) (sgn : Bool) : Num → FRes
  | .nan _ => ⟨0, fInvalid⟩
  | .inf s => ⟨if sgn then (if s then 2 ^ (n - 1) else 2 ^ (n - 1) - 1) else (if s then 0 else 2 ^ n - 1), fInvalid⟩
  | .fin s m e =>
    let (r, inexact) := roundAt .rz s m e false 0
    let lo : Nat := if sgn then 2 ^ (n - 1) else 0
    let hi : Nat := if sgn then 2 ^ (n - 1) - 1 else 2 ^ n - 1
    if s then
      if r > lo then ⟨(2 ^ n - lo) % 2 ^ n, fInvalid⟩ else ⟨(2 ^ n - r) % 2 ^ n, if inexact then fInexact else 0⟩
    else if r > hi then ⟨hi, fInvalid⟩ else ⟨r, if inexact then fInexact else 0⟩

/-- An integer as a value. -/
def Num.ofInt (i : Int) : Num := .fin (i < 0) i.natAbs 0

/-! ## Dot products (R125, R126) -/

/-- The exact sum of products and an addend rounded once to binary32 (R126). `sn` says that an operand is signalling. -/
def dotSum (env : FEnv) (sn : Bool) (prods : List Prod) (c : Num) : FRes :=
  let f := Fmt.b32
  let anyNan := prods.any (fun p => p == .nan) || c.isNan
  let anyInv := prods.any (fun p => p == .invalid)
  let infs := prods.filterMap (fun p => match p with | .inf s => some s | _ => none) ++
    (match c with | .inf s => [s] | _ => [])
  let both := infs.any id && infs.any (fun s => !s)
  let snf : FFlags := if sn then fInvalid else 0
  if anyNan || anyInv || both then ⟨f.nan, snf ||| (if anyInv || both then fInvalid else 0)⟩
  else match infs with
    | s :: _ => ⟨f.signBit s + f.inf, 0⟩
    | [] =>
      let terms : List (Bool × Dy) := prods.filterMap fun p => match p with | .fin s m e => some (s, ⟨signed s m, e⟩) | _ => none
      let sum := terms.foldl (fun acc t => acc.add t.2) c.dy
      let allNeg := c.neg && terms.all fun t => t.1
      roundDy f env allNeg sum

end Sys2Proof.Machine
end

