-- ==== Sys2Proof/Machine/Trans.lean ====
section
/-! DEFINITION. The T pipe (R130 to R133). A result that R130 only bounds is `Config.tPipe` where that lies within the bound,
and the nearest value otherwise, so that the result is free within the bound and never outside it. -/

namespace Sys2Proof.Machine

/-- The integer square root, one bit at a time from bit `k - 1` down. -/
def isqrtFrom (n : Nat) : Nat → Nat → Nat
  | 0, r => r
  | k + 1, r => isqrtFrom n k (if (r + 2 ^ k) * (r + 2 ^ k) ≤ n then r + 2 ^ k else r)

def isqrt (n : Nat) : Nat := isqrtFrom n (Nat.log2 n / 2 + 1) 0

/-! ## Fixed point with 300 fraction bits, for the transcendental functions -/

def fxBits : Nat := 300
def fxOne : Int := 2 ^ fxBits
def fxMul (a b : Int) : Int := a * b / fxOne

/-- The sum of `n` terms, each made from the one before by `next`. -/
def fxSeries (next : Nat → Int → Int) : Nat → Nat → Int → Int → Int
  | 0, _, _, acc => acc
  | n + 1, k, t, acc => fxSeries next n (k + 1) (next k t) (acc + t)

/-- e^x for 0 ≤ x < 1. -/
def fxExp (x : Int) : Int := fxSeries (fun k t => fxMul t x / (k + 1)) 90 0 fxOne 0

/-- The odd powers z^(2k+1). -/
def fxAtanhSum (z2 : Int) : Nat → Nat → Int → Int → Int
  | 0, _, _, acc => acc
  | n + 1, k, t, acc => fxAtanhSum z2 n (k + 1) (fxMul t z2) (acc + t / (2 * k + 1))

/-- The natural logarithm of num ÷ den, for 1 ≤ num ÷ den ≤ 2. -/
def fxLn (num den : Int) : Int :=
  let z := (num - den) * fxOne / (num + den)
  2 * fxAtanhSum (fxMul z z) 110 0 z 0

def fxLn2 : Int := fxLn 2 1

/-- sin x for |x| < 4. -/
def fxSin (x : Int) : Int :=
  let x2 := fxMul x x
  fxSeries (fun k t => -(fxMul t x2) / ((2 * k + 2) * (2 * k + 3))) 70 0 x 0

/-- cos x for |x| < 4. -/
def fxCos (x : Int) : Int :=
  let x2 := fxMul x x
  fxSeries (fun k t => -(fxMul t x2) / ((2 * k + 1) * (2 * k + 2))) 70 0 fxOne 0

/-- π × 2^520, rounded down. -/
def piBits : Int := 0x3243f6a8885a308d313198a2e03707344a4093822299f31d0082efa98ec4e6c89452821e638d01377be5466cf34e90c6cc0ac29b7c97c50dd3f84d5b5b547091792

/-- 2π rounded to 66 significant bits, times 2^63 (R132). -/
def twoPiC : Int := 0x3243f6a8885a308d3

/-- A dyadic as a fixed-point value. -/
def Dy.fx (x : Dy) : Int := if x.e + fxBits ≥ 0 then x.i * 2 ^ (x.e + fxBits).toNat else x.i / 2 ^ (-(x.e + fxBits)).toNat

/-- The base-2 logarithm of m × 2^e as a fixed-point value. -/
def fxLog2 (m : Nat) (e : Int) : Int :=
  let k := Nat.log2 m
  (k + e) * fxOne + fxLn m (2 ^ k) * fxOne / fxLn2

/-- 2^x for a fixed-point x, as a dyadic. -/
def exp2Dy (x : Int) : Dy :=
  let n := x / fxOne
  let f := x - n * fxOne
  ⟨fxExp (fxMul f fxLn2), n - fxBits⟩

/-- e^x for a fixed-point x, as a dyadic. -/
def expDy (x : Int) : Dy := exp2Dy (x * fxOne / fxLn2)

/-- The integer nearest to i ÷ d, ties to even. -/
def nearestInt (i d : Int) : Int :=
  let q := i / d
  let r := i - q * d
  if 2 * r > d || (2 * r == d && q % 2 == 1) then q + 1 else q

/-- The reduced argument of R132. -/
def reduceArg (x : Dy) : Dy :=
  let num := if x.e ≥ 0 then x.i * 2 ^ x.e.toNat * 2 ^ 519 else x.i * 2 ^ 519
  let den := if x.e ≥ 0 then piBits else piBits * 2 ^ (-x.e).toNat
  let n := nearestInt num den
  x.sub ⟨n * twoPiC, -63⟩

/-- A dyadic less the multiple of 2π nearest to it, as a fixed-point value: sine and cosine have period 2π. -/
def modTwoPi (r : Dy) : Int :=
  let x := r.i * 2 ^ (520 + r.e).toNat
  (x - nearestInt x (2 * piBits) * (2 * piBits)) / 2 ^ 220

/-! ## Bounds -/

/-- The exponent of one unit in the last place of a value of magnitude 2^l up to 2^(l+1) (R130). -/
def ulpExp (f : Fmt) (l : Int) : Int := max l f.emin - f.frac

/-- The floor of log2 of a non-zero dyadic's magnitude. -/
def Dy.log2 (x : Dy) : Int := (Nat.log2 x.i.natAbs : Int) + x.e

/-- A candidate encoding is used where it is finite and within the bound; otherwise the nearest value stands. -/
def pick (f : Fmt) (op input : Nat) (ok : Dy → Bool) (near : FRes) : Nat :=
  let c := Config.tPipe op input % 2 ^ f.width
  match f.num c with
  | .fin s m e =>
    if ok ⟨signed s m, e⟩ && (m != 0 || s == (near.bits / 2 ^ f.signPos == 1)) then c else near.bits
  | _ => near.bits

/-- Flags and flush of a T-pipe result (R131, R114): `exact` results raise none; a subnormal one raises underflow and
inexact where the table says so. -/
def tFinish (f : Fmt) (ftz sub exact : Bool) (bits : Nat) : FRes :=
  let mag := clearSign f bits
  if ftz && mag != 0 && mag < 2 ^ f.frac then ⟨bits - mag, fUnderflow ||| fInexact⟩
  else ⟨bits, if sub && !exact then fUnderflow ||| fInexact else 0⟩

/-- The reciprocal (R130, R131). -/
def tRcp (f : Fmt) (op : Nat) (ftz : Bool) (x : Nat) : FRes :=
  match readNum f ftz x with
  | .nan s => ⟨f.nan, if s then fInvalid else 0⟩
  | .inf s => ⟨f.signBit s, 0⟩
  | .fin s m e =>
    if m == 0 then ⟨f.signBit s + f.inf, fDivZero⟩
    else
      let k := Nat.log2 m
      let pow := m == 2 ^ k
      let l : Int := if pow then -(k + e) else -(k + e) - 1
      let sh := k + f.p + 3
      let near := packRound f .rne false s (2 ^ sh / m) (-(sh : Int) - e) (!pow)
      let maxD : Dy := (f.num f.maxBits).dy
      if (maxD.mul ⟨m, e⟩).lt (Dy.ofInt 1) then ⟨f.signBit s + f.inf, fOverflow ||| fInexact⟩
      else
        let sub := l < f.emin
        if pow && l ≥ f.emin - f.frac then tFinish f ftz sub true near.bits
        else
          let v : Dy := ⟨signed s m, e⟩
          let err (c : Dy) : Dy := ((c.mul v).sub (Dy.ofInt 1)).abs
          let ok (c : Dy) : Bool :=
            if f.width == 64 && !sub then (err c).le (Dy.pow2 (-50))
            else (err c).le ((Dy.pow2 (ulpExp f l)).mul v.abs)
          tFinish f ftz sub false (pick f op x ok near)

/-- The square root rounded to nearest, with sticky bits below: mantissa, exponent, inexact. -/
def sqrtExact (f : Fmt) (m : Nat) (e : Int) : Nat × Int × Bool :=
  let k := 2 * f.p + 6
  let e2 := e - k
  let odd := e2 % 2 != 0
  let n := if odd then m * 2 ^ (k + 1) else m * 2 ^ k
  let g := if odd then e2 - 1 else e2
  let r := isqrt n
  (r, g / 2, r * r != n)

/-- The square root: within 1 ulp in binary32, correctly rounded in binary64 (R130, R131). -/
def tSqrt (f : Fmt) (op : Nat) (ftz : Bool) (x : Nat) : FRes :=
  match readNum f ftz x with
  | .nan s => ⟨f.nan, if s then fInvalid else 0⟩
  | .inf s => if s then ⟨f.nan, fInvalid⟩ else ⟨f.inf, 0⟩
  | .fin s m e =>
    if m == 0 then ⟨f.signBit s, 0⟩
    else if s then ⟨f.nan, fInvalid⟩
    else
      let (r, g, st) := sqrtExact f m e
      let near := packRound f .rne false false r g st
      if f.width == 64 then near
      else
        let u := Dy.pow2 (ulpExp f (((Nat.log2 m : Int) + e) / 2))
        let ok (c : Dy) : Bool :=
          let lo := c.sub u
          let hi := c.add u
          (lo.i < 0 || (lo.mul lo).le ⟨m, e⟩) && hi.i ≥ 0 && (Dy.mk m e).le (hi.mul hi)
        ⟨pick f op x ok near, 0⟩

/-- The reciprocal square root (R130, R131). -/
def tRsq (f : Fmt) (op : Nat) (ftz : Bool) (x : Nat) : FRes :=
  match readNum f ftz x with
  | .nan s => ⟨f.nan, if s then fInvalid else 0⟩
  | .inf s => if s then ⟨f.nan, fInvalid⟩ else ⟨0, 0⟩
  | .fin s m e =>
    if m == 0 then ⟨f.signBit s + f.inf, fDivZero⟩
    else if s then ⟨f.nan, fInvalid⟩
    else
      let v : Dy := ⟨m, e⟩
      let k : Int := v.log2
      let l : Int := if m == 2 ^ Nat.log2 m then (-k) / 2 else (-(k + 1)) / 2
      let u := Dy.pow2 (ulpExp f l)
      -- 1 ÷ √x from the square root of 2^(2n) ÷ x
      let n := f.p + 40
      let q : Int := if (e % 2 : Int) == 0 then e else e - 1
      let m' := if (e % 2 : Int) == 0 then m else 2 * m
      let num := 2 ^ (2 * n + 2 * f.p) / m'
      let near := packRound f .rne false false (isqrt num) (-(n + f.p : Int) - q / 2) true
      let one := Dy.ofInt 1
      let ok (c : Dy) : Bool :=
        let lo := c.sub u
        let hi := c.add u
        (lo.i < 0 || ((lo.mul lo).mul v).le one) && hi.i ≥ 0 && one.le ((hi.mul hi).mul v)
      ⟨pick f op x ok near, 0⟩

/-- Within `n` ulp of an approximation good to 280 bits. -/
def nearEnough (f : Fmt) (n : Int) (y : Dy) (c : Dy) : Bool :=
  (c.sub y).abs.le (((Dy.ofInt n).mul (Dy.pow2 (ulpExp f y.log2))).add ⟨1, max (y.log2 - 250) (-280)⟩)

/-- The nearest encoding of an approximation. -/
def nearestOf (f : Fmt) (y : Dy) : FRes := packRound f .rne false (y.i < 0) y.i.natAbs y.e (y.i != 0)

/-- The base-2 exponential (R130, R131). -/
def tExp2 (f : Fmt) (op : Nat) (ftz : Bool) (x : Nat) : FRes :=
  match readNum f ftz x with
  | .nan s => ⟨f.nan, if s then fInvalid else 0⟩
  | .inf s => if s then ⟨0, 0⟩ else ⟨f.inf, 0⟩
  | .fin s m e =>
    let v : Dy := ⟨signed s m, e⟩
    let fl := v.floor
    if m == 0 then ⟨f.one, 0⟩
    else if fl ≥ f.bias + 1 then ⟨f.inf, fOverflow ||| fInexact⟩
    else
      let whole := v.eq (Dy.ofInt fl)
      let sub := fl < f.emin
      if whole && fl ≥ f.emin - f.frac then tFinish f ftz sub true (packRound f .rne false false 1 fl false).bits
      else if fl < f.emin - f.frac - 4 then
        tFinish f ftz sub false (pick f op x (fun c => c.i ≥ 0 && c.abs.le (Dy.pow2 (f.emin - f.frac + 1))) ⟨0, 0⟩)
      else
        let y := exp2Dy v.fx
        tFinish f ftz sub false (pick f op x (fun c => c.i ≥ 0 && nearEnough f 2 y c) (nearestOf f y))

/-- The base-2 logarithm (R130, R131). -/
def tLog2 (f : Fmt) (op : Nat) (ftz : Bool) (x : Nat) : FRes :=
  match readNum f ftz x with
  | .nan s => ⟨f.nan, if s then fInvalid else 0⟩
  | .inf s => if s then ⟨f.nan, fInvalid⟩ else ⟨f.inf, 0⟩
  | .fin s m e =>
    if m == 0 then ⟨f.signBit true + f.inf, fDivZero⟩
    else if s then ⟨f.nan, fInvalid⟩
    else
      let k := Nat.log2 m
      let y : Dy := ⟨fxLog2 m e, -(fxBits : Int)⟩
      if m == 2 ^ k && (k : Int) + e ≥ f.emin then roundDy f .plain false (Dy.ofInt (k + e))
      else ⟨pick f op x (nearEnough f 2 y) (nearestOf f y), 0⟩

/-- Sine and cosine (R130 to R132). -/
def tTrig (f : Fmt) (op : Nat) (cosine ftz : Bool) (x : Nat) : FRes :=
  match readNum f ftz x with
  | .nan s => ⟨f.nan, if s then fInvalid else 0⟩
  | .inf _ => ⟨f.nan, fInvalid⟩
  | .fin s m e =>
    if m == 0 then (if cosine then ⟨f.one, 0⟩ else ⟨f.signBit s, 0⟩)
    else
      let v : Dy := ⟨signed s m, e⟩
      let r := if v.abs.le ⟨piBits, -520⟩ then v else reduceArg v
      let y : Dy := ⟨if cosine then fxCos (modTwoPi r) else fxSin (modTwoPi r), -(fxBits : Int)⟩
      tFinish f ftz false false (pick f op x (nearEnough f 2 y) (nearestOf f y))

/-- The T-pipe function of a V2 op number (R153, R199). -/
def tPipe (op : Nat) (ftz : Bool) (x : Nat) : FRes :=
  match op with
  | 32 => tRcp .b32 op ftz x
  | 33 => tRsq .b32 op ftz x
  | 34 => tSqrt .b32 op ftz x
  | 35 => tExp2 .b32 op ftz x
  | 36 => tLog2 .b32 op ftz x
  | 37 => tTrig .b32 op false ftz x
  | 38 => tTrig .b32 op true ftz x
  | 44 => tRcp .b64 op false x
  | _ => tSqrt .b64 op false x

end Sys2Proof.Machine
end

