-- ==== Sys2Proof/Syntax.lean ====
section
/-! DEFINITION. The steps of the SH-HM64A: one constructor for each row of the opcode table. Instructions carry the
fields of their class (R138, R152 to R159), packets the fields of R85, events the unit they happen at. The file
spec/95_what_each_step_holds.md says that each row is one step, whole and indivisible. -/

namespace Sys2Proof

/-- The safe-point mask word of R151: present when the SP bit of the instruction word is 1. -/
abbrev Sp := Option Word

/-- A 6-bit source field of R140: bits [4:0] select, bit [5] last-use. R173 compares two of them as numbers. -/
abbrev SrcField := BitVec 6

/-- A predicate field of R172: the predicate and its inversion bit. -/
structure PredField where
  p : Fin 8
  inv : Bool
  deriving DecidableEq, Repr

/-- The 16-bit format of R138: W, last-use of S, S and D. -/
structure H16 where
  w : Bool
  u : Bool
  s : BitVec 5
  d : BitVec 4
  deriving DecidableEq, Repr

/-- V3 of R152. -/
structure V3 where
  sp : Sp
  d : BitVec 4
  w : Bool
  a : SrcField
  b : SrcField
  c : SrcField
  deriving DecidableEq, Repr

/-- CHOOSE (R152, R180): V3 with a predicate field in C. -/
structure ChooseArgs where
  sp : Sp
  d : BitVec 4
  w : Bool
  a : SrcField
  b : SrcField
  p : PredField
  deriving DecidableEq, Repr

/-- V2 of R153. For some ops of R184 A or B is a control value or a predicate field of the same six bits. -/
structure V2 where
  sp : Sp
  mod : BitVec 3
  d : BitVec 4
  w : Bool
  a : SrcField
  b : SrcField
  s : Bool
  deriving DecidableEq, Repr

/-- VI of R154. -/
structure VI where
  sp : Sp
  d : BitVec 4
  w : Bool
  a : SrcField
  imm : BitVec 12
  deriving DecidableEq, Repr

/-- MEM of R155. `g` is [29:27], `m` is [31:30]; the scratchpad and private ops reuse [31:27]. `disp` is the displacement
word, present in mode 11, or when bit [29] of a scratchpad or private access is 1. -/
structure Mem where
  sp : Sp
  d : BitVec 4
  w : Bool
  a : SrcField
  b : SrcField
  g : BitVec 3
  m : BitVec 2
  disp : Option Word
  deriving DecidableEq, Repr

/-- The order word of R156, without its bits [31:23], which are 0. -/
structure Order where
  method : BitVec 4
  size : BitVec 2
  reassoc : Bool
  aop : BitVec 5
  fail : BitVec 3
  ord : BitVec 3
  mask : BitVec 5
  deriving DecidableEq, Repr

/-- UNI of R157. -/
structure Uni where
  sp : Sp
  d : BitVec 6
  a : BitVec 6
  b : BitVec 6
  mod : BitVec 3
  deriving DecidableEq, Repr

/-- ASY of R159. -/
structure Asy where
  sp : Sp
  d : BitVec 4
  w : Bool
  a : SrcField
  b : SrcField
  sub : BitVec 4
  deriving DecidableEq, Repr

/-- One item of REGION (R146). -/
structure RegionItem where
  entry : Fin 16
  v : BitVec 8
  load : Bool
  keep : Bool
  deriving DecidableEq, Repr

/-- One item of REGIONU (R147). -/
structure SlotItem where
  w : Fin 8
  s : BitVec 6
  deriving DecidableEq, Repr

/-- The condition of a PRED or WAIT packet (R86): condition code, size bit, word address and value. -/
structure MemCond where
  code : BitVec 3
  wide : Bool
  addr : DWord
  value : DWord
  deriving DecidableEq, Repr

/-- The body of a LAUNCH packet (R85), which is also bytes +4 to +63 of a LAUNCH2 parameter block (R91). -/
structure LaunchPacket where
  desc : DWord
  args : DWord
  dx : Nat
  dy : Nat
  dz : Nat
  record : DWord
  cancel : DWord
  taskQ : Nat
  pool : Nat
  coResident : Bool
  prio : Nat
  privZ : Nat
  privBase : DWord
  deriving DecidableEq, Repr

/-- A unit that a cancel word names (R90). -/
inductive UnitRef where
  | launch (l : Nat)
  | graph (g : Nat)
  | phase (job : Nat)
  deriving DecidableEq, Repr

/-- The atomic units outside the homes (R282). -/
inductive Edge where
  | gddr
  | host
  | brual
  deriving DecidableEq, Repr

/-- What the host does with memory of the device: a read, a write, or an AtomicOp at 32 bits, or 64 where `wide` (R404). -/
inductive HostOp where
  | read
  | write (bytes : List (BitVec 8))
  | fetchAdd (wide : Bool) (v : DWord)
  | swap (wide : Bool) (v : DWord)
  | cas (wide : Bool) (cmp v : DWord)
  deriving DecidableEq, Repr

/-- What the patrol scrubber finds at a line (R494). -/
inductive Scrub where
  | clean
  | corrected
  | uncorrectable
  deriving DecidableEq, Repr

/-- The five message classes of R418 with what each carries to this device. `link` is the peer link number (R417). A collective
message carries the operation, the type and a vector; an empty one carries an abort (R508). -/
inductive PeerMessage where
  | read (link : Nat) (off : Nat) (len : Nat)
  | write (link : Nat) (off : Nat) (data : List (BitVec 8))
  | atomic (link : Nat) (off : Nat) (aop : BitVec 5) (bytes : Nat) (op1 compare : BitVec 128)
  | callm (link : Nat) (base : DWord) (method : Nat) (bytes : Nat) (arg : DWord) (core slot lane : Nat) (post pair : Bool)
  | collective (ident op ty : Nat) (vals : List Word) (fromParent : Bool)
  deriving DecidableEq, Repr

/-- The header of a firmware request (R411): host tag, job number and the function whose ring holds it. -/
structure Request where
  tag : Word
  job : Nat
  fn : Nat
  deriving DecidableEq, Repr

/-- Operands of CREATE_JOB (R411). `vaultMap` bit v marks vault v DIRECT for the job. -/
structure JobOperands where
  root : DWord
  handler : DWord
  objTable : DWord
  objM : Nat
  secure : Bool
  hostShared : Bool
  control : DWord
  coreMask : BitVec 64
  vaultMap : BitVec 512
  link : Nat
  deriving DecidableEq, Repr

/-- Operands of COLLECTIVE (R420). -/
structure CollectiveOperands where
  ident : Nat
  locals : Nat
  parent : Nat
  port : Nat
  children : Nat
  deriving DecidableEq, Repr

/-- Registers whose write has no behaviour of its own beyond R7 (R410, R519). -/
inductive PlainReg where
  | rqbase | rqsize | rqwrite | rqread | evbase | evsize | evwrite | evread | fwstatus
  | rcvaddr | rcvlen | rcvstatus | pkgstrap | pkgfuse
  deriving DecidableEq, Repr

/-- Power states of a block (R425). -/
inductive PowerState where
  | c0 | c1 | c2 | c3
  deriving DecidableEq, Repr

/-- Blocks that carry a world and a power state (R421, R425). -/
inductive Block where
  | core (c : Nat)
  | whorl (p : Nat)
  | column (c : Nat)
  | port (p : Nat)
  deriving DecidableEq, Repr

/-- The steps of the machine: instructions, packets and events. -/
inductive Instr where
  /-- NOP (R138): Canonical 16-bit no-operation parcel 0x0000, issued on the X port for 2 beats. -/
  | nop
  /-- MOV_16 (R138): 16-bit form of MOV: D := S. -/
  | mov16 (x : H16)
  /-- IADD_16 (R138): 16-bit form of IADD: D := D + S. -/
  | iadd16 (x : H16)
  /-- ISUB_16 (R138): 16-bit form of ISUB: D := D - S. -/
  | isub16 (x : H16)
  /-- IMUL_16 (R138): 16-bit form of IMUL. -/
  | imul16 (x : H16)
  /-- AND_16 (R138): 16-bit form of AND. -/
  | and16 (x : H16)
  /-- OR_16 (R138): 16-bit form of OR. -/
  | or16 (x : H16)
  /-- XOR_16 (R138): 16-bit form of XOR. -/
  | xor16 (x : H16)
  /-- SHL_16 (R138): 16-bit form of SHL. -/
  | shl16 (x : H16)
  /-- SHR_16 (R138): 16-bit form of SHR. -/
  | shr16 (x : H16)
  /-- SAR_16 (R138): 16-bit form of SAR. -/
  | sar16 (x : H16)
  /-- FADD_16 (R138): 16-bit form of FADD. -/
  | fadd16 (x : H16)
  /-- FSUB_16 (R138): 16-bit form of FSUB. -/
  | fsub16 (x : H16)
  /-- FMUL_16 (R138): 16-bit form of FMUL. -/
  | fmul16 (x : H16)
  /-- FMIN_16 (R138): 16-bit form of FMIN. -/
  | fmin16 (x : H16)
  /-- FMAX_16 (R138): 16-bit form of FMAX. -/
  | fmax16 (x : H16)
  /-- IMIN_16 (R138): 16-bit form of signed IMIN. -/
  | imin16 (x : H16)
  /-- FMA32 (R177): Binary32 fused multiply-add A x B + C rounded once under RMODE. -/
  | fma32 (x : V3)
  /-- FMA64 (R177): Binary64 fused multiply-add with a 64-bit destination pair. -/
  | fma64 (x : V3)
  /-- FMAH2 (R178): Packed binary16 fused multiply-add per element, RNE. -/
  | fmah2 (x : V3)
  /-- FMAB2 (R178): Packed bfloat16 fused multiply-add per element, RNE. -/
  | fmab2 (x : V3)
  /-- MULADD (R179): Integer multiply-add modulo 2^32. -/
  | muladd (x : V3)
  /-- MULADDH (R179): High half of the 64-bit product plus C, signed or unsigned by field order. -/
  | muladdh (x : V3)
  /-- CHOOSE (R180): Per-thread choice of A or B by a predicate. -/
  | choose (x : ChooseArgs)
  /-- BITINS (R181): Inserts a bit field of B into A under a control word. -/
  | bitins (x : V3)
  /-- SHRCAT (R182): Right shift of the concatenated B:A pair, low word returned. -/
  | shrcat (x : V3)
  /-- DP4S8 (R183): Dot product of four signed bytes plus addend, wrapping or saturating. -/
  | dp4s8 (x : V3)
  /-- DP4U8 (R183): Dot product of four unsigned bytes plus addend. -/
  | dp4u8 (x : V3)
  /-- DP8S4 (R183): Dot product of eight signed nibbles plus addend. -/
  | dp8s4 (x : V3)
  /-- DP4E4 (R183): Dot product of four E4M3 values plus binary32 addend. -/
  | dp4e4 (x : V3)
  /-- DP4E5 (R183): Dot product of four E5M2 values plus binary32 addend. -/
  | dp4e5 (x : V3)
  /-- DP8F4 (R183): Dot product of eight E2M1 values plus binary32 addend. -/
  | dp8f4 (x : V3)
  /-- DP2H (R183): Dot product of two binary16 values plus binary32 addend. -/
  | dp2h (x : V3)
  /-- MOV (R185): Moves B into the destination, 32 or 64 bits wide. -/
  | mov (x : V2)
  /-- IADD (R186): Integer add, wrapping or saturating. -/
  | iadd (x : V2)
  /-- ISUB (R186): Integer subtract, wrapping or saturating. -/
  | isub (x : V2)
  /-- IMUL (R187): Low 32 bits of the integer product. -/
  | imul (x : V2)
  /-- IMULHI (R187): High 32 bits of the signed or unsigned product. -/
  | imulhi (x : V2)
  /-- IMIN (R187): Signed or unsigned integer minimum. -/
  | imin (x : V2)
  /-- IMAX (R187): Signed or unsigned integer maximum. -/
  | imax (x : V2)
  /-- IABS (R187): Integer absolute value. -/
  | iabs (x : V2)
  /-- AND (R188): Bitwise AND. -/
  | and (x : V2)
  /-- OR (R188): Bitwise OR. -/
  | or (x : V2)
  /-- XOR (R188): Bitwise XOR. -/
  | xor (x : V2)
  /-- ANDN (R188): A AND NOT B. -/
  | andn (x : V2)
  /-- SHL (R189): Left shift, 32 or 64 bits. -/
  | shl (x : V2)
  /-- SHR (R189): Logical right shift, 32 or 64 bits. -/
  | shr (x : V2)
  /-- SAR (R189): Arithmetic right shift, 32 or 64 bits. -/
  | sar (x : V2)
  /-- ROT (R189): Left rotate, 32 or 64 bits. -/
  | rot (x : V2)
  /-- POPC (R190): Population count. -/
  | popc (x : V2)
  /-- CLZ (R190): Count of leading zeros. -/
  | clz (x : V2)
  /-- BREV (R190): Bit reversal. -/
  | brev (x : V2)
  /-- BFX (R191): Bit-field extract with optional sign extension. -/
  | bfx (x : V2)
  /-- LEA (R192): 64-bit address from base plus shifted index. -/
  | lea (x : V2)
  /-- IADD64 (R192): 64-bit integer add. -/
  | iadd64 (x : V2)
  /-- ICMP (R193): Integer compare writing a predicate with a combine mode. -/
  | icmp (x : V2)
  /-- PMOV (R209): Moves the eight predicates of each thread to or from an entry. -/
  | pmov (x : V2)
  /-- FADD (R194): Binary32 add with sign modifiers and optional clamp. -/
  | fadd (x : V2)
  /-- FSUB (R194): Binary32 subtract. -/
  | fsub (x : V2)
  /-- FMUL (R194): Binary32 multiply. -/
  | fmul (x : V2)
  /-- FMIN (R194): Binary32 minimumNumber. -/
  | fmin (x : V2)
  /-- FMAX (R194): Binary32 maximumNumber. -/
  | fmax (x : V2)
  /-- FCMP (R196): Binary32 compare writing a predicate. -/
  | fcmp (x : V2)
  /-- FCLASS (R197): Returns a one-hot class mask of A in a named format. -/
  | fclass (x : V2)
  /-- FINT (R198): Rounds binary32 to an integral value in a chosen direction. -/
  | fint (x : V2)
  /-- FRCP (R199): Binary32 reciprocal on the T pipe. -/
  | frcp (x : V2)
  /-- FRSQ (R199): Binary32 reciprocal square root. -/
  | frsq (x : V2)
  /-- FSQRT (R199): Binary32 square root. -/
  | fsqrt (x : V2)
  /-- FEXP2 (R199): Binary32 base-2 exponential. -/
  | fexp2 (x : V2)
  /-- FLOG2 (R199): Binary32 base-2 logarithm. -/
  | flog2 (x : V2)
  /-- FSIN (R199): Binary32 sine with argument reduction. -/
  | fsin (x : V2)
  /-- FCOS (R199): Binary32 cosine with argument reduction. -/
  | fcos (x : V2)
  /-- DADD (R194): Binary64 add. -/
  | dadd (x : V2)
  /-- DMUL (R194): Binary64 multiply. -/
  | dmul (x : V2)
  /-- DMIN (R194): Binary64 minimumNumber. -/
  | dmin (x : V2)
  /-- DMAX (R194): Binary64 maximumNumber. -/
  | dmax (x : V2)
  /-- DCMP (R196): Binary64 compare writing a predicate. -/
  | dcmp (x : V2)
  /-- DRCP (R199): Binary64 reciprocal. -/
  | drcp (x : V2)
  /-- DSQRT (R199): Binary64 correctly rounded square root. -/
  | dsqrt (x : V2)
  /-- HADD2 (R194): Packed binary16 add. -/
  | hadd2 (x : V2)
  /-- HMUL2 (R194): Packed binary16 multiply. -/
  | hmul2 (x : V2)
  /-- BADD2 (R194): Packed bfloat16 add. -/
  | badd2 (x : V2)
  /-- BMUL2 (R194): Packed bfloat16 multiply. -/
  | bmul2 (x : V2)
  /-- CVT (R201): Converts between integer and floating-point formats. -/
  | cvt (x : V2)
  /-- PACK (R202): Builds packed sub-word values from A and B. -/
  | pack (x : V2)
  /-- UNPACK (R203): Extracts and widens one packed element. -/
  | unpack (x : V2)
  /-- XLANE (R204): Reads a source value from another lane. -/
  | xlane (x : V2)
  /-- POLL (R205): Group vote, ballot or count over a predicate. -/
  | poll (x : V2)
  /-- SCAN (R206): Prefix combination across active lanes in lane order. -/
  | scan (x : V2)
  /-- LRED (R206): Reduction across active lanes broadcast to all. -/
  | lred (x : V2)
  /-- MOVX (R207): Reads a main register through an index register. -/
  | movx (x : V2)
  /-- STX (R207): Writes a main register through an index register. -/
  | stx (x : V2)
  /-- PCOMB (R208): Combines two predicates into a predicate. -/
  | pcomb (x : V2)
  /-- HMIN2 (R195): Packed binary16 minimumNumber. -/
  | hmin2 (x : V2)
  /-- HMAX2 (R195): Packed binary16 maximumNumber. -/
  | hmax2 (x : V2)
  /-- HCMP2 (R196): Packed binary16 compare writing two predicates. -/
  | hcmp2 (x : V2)
  /-- IADDI (R210): Integer add of a sign-extended immediate. -/
  | iaddi (x : VI)
  /-- ANDI (R210): AND with an immediate. -/
  | andi (x : VI)
  /-- ORI (R210): OR with an immediate. -/
  | ori (x : VI)
  /-- XORI (R210): XOR with an immediate. -/
  | xori (x : VI)
  /-- SHLI (R210): Left shift by an immediate count. -/
  | shli (x : VI)
  /-- SHRI (R210): Logical right shift by an immediate count. -/
  | shri (x : VI)
  /-- SARI (R210): Arithmetic right shift by an immediate count. -/
  | sari (x : VI)
  /-- IMULI (R210): Multiply by an immediate. -/
  | imuli (x : VI)
  /-- ICMPI (R211): Signed compare with a 9-bit immediate writing a predicate. -/
  | icmpi (x : VI)
  /-- MOVI (R210): Moves a sign-extended immediate. -/
  | movi (x : VI)
  /-- MOVW (R210): Moves a 32-bit extension-word constant. -/
  | movw (x : VI) (k : Word)
  /-- LEAI (R210): 64-bit add of a sign-extended immediate. -/
  | leai (x : VI)
  /-- FADDW (R210): Binary32 add of a 32-bit constant. -/
  | faddw (x : VI) (k : Word)
  /-- FMULW (R210): Binary32 multiply by a 32-bit constant. -/
  | fmulw (x : VI) (k : Word)
  /-- IADDW (R210): Integer add of a 32-bit constant. -/
  | iaddw (x : VI) (k : Word)
  /-- LD_8 (R232): Loads a byte zero-extended per active thread. -/
  | ld8 (x : Mem)
  /-- LD_8S (R232): Loads a byte sign-extended. -/
  | ld8s (x : Mem)
  /-- LD_16 (R232): Loads 2 bytes zero-extended. -/
  | ld16 (x : Mem)
  /-- LD_16S (R232): Loads 2 bytes sign-extended. -/
  | ld16s (x : Mem)
  /-- LD_32 (R232): Loads 4 bytes into an entry. -/
  | ld32 (x : Mem)
  /-- LD_64 (R232): Loads 8 bytes into an entry pair. -/
  | ld64 (x : Mem)
  /-- LD_128 (R232): Loads 16 bytes into four entries. -/
  | ld128 (x : Mem)
  /-- ST_8 (R232): Stores a byte per active thread. -/
  | st8 (x : Mem)
  /-- ST_16 (R232): Stores 2 bytes. -/
  | st16 (x : Mem)
  /-- ST_32 (R232): Stores 4 bytes. -/
  | st32 (x : Mem)
  /-- ST_64 (R232): Stores 8 bytes. -/
  | st64 (x : Mem)
  /-- ST_128 (R232): Stores 16 bytes. -/
  | st128 (x : Mem)
  /-- LDA (R234): Acquire-ordered load with an observer mask. -/
  | lda (x : Mem) (o : Order)
  /-- STL (R234): Release-ordered store with an observer mask. -/
  | stl (x : Mem) (o : Order)
  /-- ATOM (R235): Atomic read-modify-write returning the old value per lane. -/
  | atom (x : Mem) (o : Order)
  /-- RED (R235): Atomic read-modify-write with no result. -/
  | red (x : Mem) (o : Order)
  /-- CALLM (R236): Sends a method request per lane to an object's home and awaits its reply. -/
  | callm (x : Mem) (o : Order)
  /-- POSTM (R236): Sends a method request per lane with no reply. -/
  | postm (x : Mem) (o : Order)
  /-- LDS (R237): Loads from the team scratchpad. -/
  | lds (x : Mem)
  /-- STS (R237): Stores to the team scratchpad. -/
  | sts (x : Mem)
  /-- ATOMS (R237): Atomic on the scratchpad bank ALUs. -/
  | atoms (x : Mem) (o : Order)
  /-- LDP (R238): Loads from the thread's private memory. -/
  | ldp (x : Mem)
  /-- STP (R238): Stores to the thread's private memory. -/
  | stp (x : Mem)
  /-- LDPK (R240): Load that parks the group on a park-on-miss page. -/
  | ldpk (x : Mem)
  /-- PREF (R241): Prefetches lines into L1 or the home vault without faulting. -/
  | pref (x : Mem)
  /-- FENCE (R242): Acquire, release or seq_cst fence toward an observer mask. -/
  | fence (x : Mem) (o : Order)
  /-- SMOV (R214): Copies a uniform register. -/
  | smov (x : Uni)
  /-- SADD (R214): 64-bit uniform add. -/
  | sadd (x : Uni)
  /-- SSUB (R214): 64-bit uniform subtract. -/
  | ssub (x : Uni)
  /-- SMUL (R214): 64-bit uniform multiply. -/
  | smul (x : Uni)
  /-- SMULHI (R214): High 64 bits of the uniform product. -/
  | smulhi (x : Uni)
  /-- SAND (R214): Uniform bitwise AND. -/
  | sand (x : Uni)
  /-- SOR (R214): Uniform bitwise OR. -/
  | sor (x : Uni)
  /-- SXOR (R214): Uniform bitwise XOR. -/
  | sxor (x : Uni)
  /-- SSHL (R214): Uniform left shift. -/
  | sshl (x : Uni)
  /-- SSHR (R214): Uniform logical right shift. -/
  | sshr (x : Uni)
  /-- SSAR (R214): Uniform arithmetic right shift. -/
  | ssar (x : Uni)
  /-- SMIN (R214): Uniform 64-bit minimum. -/
  | smin (x : Uni)
  /-- SMAX (R214): Uniform 64-bit maximum. -/
  | smax (x : Uni)
  /-- SCMP (R214): Uniform compare writing a c flag. -/
  | scmp (x : Uni)
  /-- SSEL (R214): Uniform select by a c flag. -/
  | ssel (x : Uni)
  /-- SMOVW (R214): Moves an extended 32-bit constant into a uniform register. -/
  | smovw (x : Uni) (k : Word)
  /-- SMOVD (R214): Moves a 64-bit constant into a uniform register. -/
  | smovd (x : Uni) (k : DWord)
  /-- SADDW (R214): Adds a sign-extended 32-bit constant to a uniform register. -/
  | saddw (x : Uni) (k : Word)
  /-- SLD (R215): Uniform load that blocks the group until written. -/
  | sld (x : Uni)
  /-- SST (R215): Uniform store. -/
  | sst (x : Uni)
  /-- SLDA (R215): Uniform acquire load. -/
  | slda (x : Uni) (o : Order)
  /-- SSTL (R215): Uniform release store. -/
  | sstl (x : Uni) (o : Order)
  /-- SATOM (R215): Uniform atomic on one word, blocking. -/
  | satom (x : Uni) (o : Order)
  /-- SREAD (R218): Copies a special register into a uniform register. -/
  | sread (x : Uni)
  /-- SWRITE (R218): Writes FPMODE, FPFLAGS or STOREHASH. -/
  | swrite (x : Uni)
  /-- RDLANE (R217): Reads one lane's source value into a uniform register, split-phase. -/
  | rdlane (x : Uni)
  /-- BCAST (R217): Writes a uniform value into an entry of every active thread. -/
  | bcast (x : Uni)
  /-- SFADD (R214): Uniform binary32 add. -/
  | sfadd (x : Uni)
  /-- SFMUL (R214): Uniform binary32 multiply. -/
  | sfmul (x : Uni)
  /-- SCVT (R214): Uniform format conversion as CVT. -/
  | scvt (x : Uni)
  /-- SPOPC (R214): Uniform population count. -/
  | spopc (x : Uni)
  /-- SCLZ (R214): Uniform count of leading zeros. -/
  | sclz (x : Uni)
  /-- ACTMASK (R217): Writes the active mask into four uniform registers. -/
  | actmask (x : Uni)
  /-- ELECT (R217): Writes the lowest active lane index. -/
  | elect (x : Uni)
  /-- SDADD (R214): Uniform binary64 add. -/
  | sdadd (x : Uni)
  /-- SDMUL (R214): Uniform binary64 multiply. -/
  | sdmul (x : Uni)
  /-- BRA (R219): Unconditional branch. -/
  | bra (sp : Sp) (off : BitVec 22)
  /-- BRC (R219): Branch on a uniform c flag. -/
  | brc (sp : Sp) (c : Fin 4) (sense : Bool) (off : BitVec 18)
  /-- BRD (R44): Divergent branch that splits the active mask and pushes the divergence stack. -/
  | brd (sp : Sp) (p : PredField) (off : BitVec 18) (joinOff : Word)
  /-- JOIN (R44): Runs the pending else path or pops the divergence stack. -/
  | join (sp : Sp)
  /-- CALL (R220): Pushes the return address and divergence depth, then branches. -/
  | call (sp : Sp) (off : BitVec 22)
  /-- RET (R220): Pops the call stack and resumes at the return address. -/
  | ret (sp : Sp)
  /-- CALLI (R220): Indirect call to the address in a uniform register. -/
  | calli (sp : Sp) (s : BitVec 6)
  /-- REGION (R146): Writes back the old map and maps main registers into operand-buffer entries. -/
  | region (sp : Sp) (items : List RegionItem)
  /-- REGIONU (R147): Copies uniform registers into uniform slots. -/
  | regionu (sp : Sp) (items : List SlotItem)
  /-- EXIT (R221): Ends the group, writing back dirty entries. -/
  | exit (sp : Sp)
  /-- YIELD (R225): Gives up the operand-buffer slot and parks until a barrier phase change. -/
  | yield (sp : Sp) (nb : BitVec 4) (off : BitVec 18)
  /-- BAR_ARRIVE (R223): One arrival on a named barrier. -/
  | barArrive (sp : Sp) (nb : BitVec 4)
  /-- BAR_WAIT (R223): Waits for a named barrier's next phase change. -/
  | barWait (sp : Sp) (nb : BitVec 4)
  /-- BAR_ARRIVEWAIT (R223): Arrives on a named barrier and then waits. -/
  | barArrivewait (sp : Sp) (nb : BitVec 4)
  /-- BARINIT (R224): Sets a named barrier's expected count. -/
  | barinit (sp : Sp) (nb : BitVec 4) (count : BitVec 8)
  /-- CARVE (R227): Requests a new scratchpad size for the team. -/
  | carve (sp : Sp) (nb : BitVec 4) (s : BitVec 6)
  /-- IXSET (R228): Sets an index register's base and length. -/
  | ixset (sp : Sp) (ix : Fin 4) (base len : BitVec 8)
  /-- SPAWN (R64): Creates spawned groups from the core's spawn pool. -/
  | spawn (sp : Sp) (s : BitVec 6) (entry : BitVec 16)
  /-- TRAP (R229): Enters the trap handler with cause SOFT_TRAP and a code. -/
  | trap (sp : Sp) (code : BitVec 16)
  /-- TRET (R459): Ends handler execution, restores state from the frame and acts by the frame's action. -/
  | tret (sp : Sp)
  /-- BKPT (R229): Enters the handler with BREAKPOINT or halts under an armed debugger. -/
  | bkpt (sp : Sp)
  /-- SETFPM (R111): Sets FPMODE from an immediate. -/
  | setfpm (sp : Sp) (mode : BitVec 5)
  /-- KILL (R230): Removes threads whose predicate holds from the group for good. -/
  | kill (sp : Sp) (p : PredField)
  /-- NOP32 (R219): 32-bit no-operation that may carry a safe point. -/
  | nop32 (sp : Sp)
  /-- IDEM_START (R477): Commits held effects and takes a replay snapshot in graphics groups. -/
  | idemStart (sp : Sp)
  /-- IDEM_COMMIT (R477): Performs every held effect of the replay region in program order. -/
  | idemCommit (sp : Sp)
  /-- COPY (R246): Queues a stream-engine box copy between tensor, scratchpad and weight buffer. -/
  | copy (x : Asy) (k : Word)
  /-- COPYG (R247): Queues a gather of indexed tensor rows into scratchpad. -/
  | copyg (x : Asy) (k : Word)
  /-- SQFENCE (R249): Places a fence entry in the named stream queues. -/
  | sqfence (x : Asy)
  /-- STREAM (R248): Queues a ring of fill or drain boxes synchronised by barriers. -/
  | stream (x : Asy) (k : Word)
  /-- MMA (R334): Enters a matrix multiply-accumulate into a tile queue, solo or pair. -/
  | mma (x : Asy) (k : Word)
  /-- MBATCH (R332): Closes the group's open batch of tile and Whorl operations. -/
  | mbatch (x : Asy)
  /-- MWAIT (R333): Waits for a batch to retire and writes its error flag. -/
  | mwait (x : Asy) (k : Word)
  /-- MDRAIN (R339): Reads a tile band to entries or the whole tile to scratchpad, with optional scaling. -/
  | mdrain (x : Asy) (k : Word)
  /-- MFILL (R340): Writes tile elements from entries or scratchpad. -/
  | mfill (x : Asy) (k : Word)
  /-- MZERO (R340): Writes +0 to every element of a tile. -/
  | mzero (x : Asy)
  /-- NEVAL (R342): Sends each active thread's network request to the pair's Whorl unit. -/
  | neval (x : Asy) (k : Word)
  /-- TEX (R373): Filtered texture sample, split-phase. -/
  | tex (x : Asy) (k : Word)
  /-- TEXF (R375): Unfiltered texel fetch by integer index, blocking. -/
  | texf (x : Asy) (k : Word)
  /-- TEXQ (R376): Queries texture size, level count or residency. -/
  | texq (x : Asy)
  /-- TRACE (R401): Traverses a BVH per lane for the closest, any or appended hits. -/
  | trace (x : Asy)
  /-- FLINS (R395): Inserts each lane's fragment into its sample's fragment list. -/
  | flins (x : Asy)
  /-- FLRES (R396): Reads the node at a cursor position of a fragment list. -/
  | flres (x : Asy)
  /-- ORDENT (R383): Enters an ordered section, waiting for lower-sequence fragments of each key. -/
  | ordent (x : Asy)
  /-- ORDLV (R384): Releases each lane's key reservation after a release of writes. -/
  | ordlv (x : Asy)
  /-- PATCH (R359): Submits patch records to the core's dicer. -/
  | patch (x : Asy)
  /-- GVTX (R365): Hands the grid's vertex records to the sampler. -/
  | gvtx (x : Asy) (k : Word)
  /-- TKPUSH (R250): Pushes a task record at the owner end of the core's deque. -/
  | tkpush (x : Asy) (k : Word)
  /-- TKPOP (R250): Takes the newest task record from the owner end. -/
  | tkpop (x : Asy) (k : Word)
  /-- TKSTEAL (R250): Takes the oldest task record from another core's deque. -/
  | tksteal (x : Asy) (k : Word)
  /-- TKDONE (R251): Decrements a task's successor counter and pushes or returns the successor. -/
  | tkdone (x : Asy) (k : Word)
  /-- XCHG (R253): Exchanges per-thread values with a partner group of the team. -/
  | xchg (x : Asy)
  /-- CRED (R254): Contributes a vector to a configured collective reduction. -/
  | cred (x : Asy) (k : Word)
  /-- RLOG_DISABLE (R255): Turns off the job's order-log mode at every home. -/
  | rlogDisable (x : Asy)
  /-- RLOG_RECORD (R255): Starts recording the job's order log at the named log. -/
  | rlogRecord (x : Asy)
  /-- RLOG_REPLAY (R255): Starts replay, every home reading and gating its sublog. -/
  | rlogReplay (x : Asy)
  /-- RLOG_MARK (R319): Records or compares STOREHASH in the mark area. -/
  | rlogMark (x : Asy)
  /-- LAUNCH (R88): Packet that starts a launch of a kernel over a grid. -/
  | launch (sl : Nat) (x : LaunchPacket)
  /-- LAUNCH2 (R91): Packet that runs a prologue on the Taproot core and makes launches. -/
  | launch2 (sl : Nat) (prologue params arg : DWord)
  /-- IB (R92): Packet that enters an indirect buffer at the next nesting level. -/
  | ib (sl : Nat) (addr : DWord) (len : Nat)
  /-- PRED (R93): Packet that skips the next packets when a memory condition is false. -/
  | pred (sl : Nat) (c : MemCond) (skip : Nat)
  /-- LOOP (R94): Packet that runs the next n packets k times. -/
  | loop (sl : Nat) (body iters : Nat)
  /-- WAIT (R82): Packet that parks the queue or waits in place until a memory condition holds. -/
  | wait (sl : Nat) (c : MemCond)
  /-- SIGNAL (R96): Packet that performs a release atomic on a word after earlier work completes. -/
  | signal (sl : Nat) (addr value : DWord) (op : BitVec 2) (wide : Bool) (mask : BitVec 5)
  /-- FFENCE (R95): Packet that discards every held fetch-window byte. -/
  | ffence (sl : Nat)
  /-- GRAPH (R55): Packet that starts a graph of launches from a graph table. -/
  | graph (sl : Nat) (table cancel : DWord) (prio : Nat)
  /-- PHASE (R97): Packet that opens the next phase of the job. -/
  | phase (sl : Nat) (record cancel : DWord)
  /-- PASS_BEGIN (R351): Packet action that opens a render pass from its pass state block. -/
  | passBegin (sl : Nat) (block : DWord)
  /-- PASS_NEXT (R357): Packet action that processes binned grids and advances to the next sub-pass. -/
  | passNext (sl : Nat)
  /-- PASS_END (R357): Packet action that ends the pass, resolves tiles and writes the status word. -/
  | passEnd (sl : Nat)
  /-- NOPP (R85): Packet that is ignored. -/
  | nopp (sl : Nat)
  /-- WAIT_RECHECK (R82): A WAIT inside a LOOP reads its word again on a home write, wake write or 4096-clock timer. -/
  | waitRecheck (sl : Nat)
  /-- WRITE_OFFSET_REREAD (R83): The front end reads a bound idle queue's write offset again every 4096 Canopy clocks. -/
  | writeOffsetReread (sl : Nat)
  /-- SLOT_RELEASE (R79): Releases a slot at a level-0 packet boundary and posts a release notice. -/
  | slotRelease (sl : Nat)
  /-- BIND_ROUND (R80): One pass of firmware's binding policy, on release, wake or 16,384-clock timer. -/
  | bindRound
  /-- PARK_CONDITION_EVAL (R82): The signal unit evaluates a parked queue's condition on a home write, wake write or bind round. -/
  | parkConditionEval (q : Nat)
  /-- CANCEL_WORD_WRITE (R90): The signal unit sees a non-zero cancel word and cancels the unit. -/
  | cancelWordWrite (u : UnitRef)
  /-- GROUP_KILL (R61): Kills a running group at its next instruction boundary. -/
  | groupKill (g : Nat)
  /-- TEAM_ADMIT (R100): Dispatch admits a team to a qualifying core or pair. -/
  | teamAdmit (l : Nat)
  /-- SLOT_MASK_RESERVE (R101): After 256 consecutive passes a slot reserves its core mask. -/
  | slotMaskReserve (sl : Nat)
  /-- LAUNCH_COMPLETE (R59): A launch's counter reaches zero and its completion record is written. -/
  | launchComplete (l : Nat)
  /-- PROLOGUE_RUN (R91): Runs one iteration of a LAUNCH2 prologue, possibly after a launch completes. -/
  | prologueRun (sl : Nat)
  /-- TEAM_END (R483): A team ends when all its groups exited and queues emptied, releasing its resources. -/
  | teamEnd (tm : Nat)
  /-- GROUP_STORAGE_DRAIN (R481): An exited group's storage is granted again once every outstanding write has arrived. -/
  | groupStorageDrain (g : Nat)
  /-- OPERAND_SLOT_GRANT (R72): A waiting group receives an operand-buffer slot in order of waiting. -/
  | operandSlotGrant (g : Nat)
  /-- BARRIER_WAIT_RETURN (R223): A waiting group resumes once the barrier phase differs from its seen number. -/
  | barrierWaitReturn (g : Nat)
  /-- YIELD_WAKE (R225): A yielded group is woken on the barrier's phase change. -/
  | yieldWake (g : Nat)
  /-- XCHG_PAIRING (R253): Two partner XCHGs pair and each receives the other's values. -/
  | xchgPairing (g h : Nat)
  /-- CARVE_ARRIVAL (R227): The core completes a scratchpad resize and arrives on the named barrier. -/
  | carveArrival (tm : Nat)
  /-- SPLIT_PHASE_RESULT (R149): A returning load, texture, ray or lane result writes its destination and clears its scoreboard slot. -/
  | splitPhaseResult (g slot : Nat)
  /-- TRAP_ENTRY (R457): Waits for scoreboard slots, writes the trap frame and starts the job's handler. -/
  | trapEntry (g : Nat)
  /-- PREEMPT_REQUEST (R468): Firmware requests pre-emption of a whole team. -/
  | preemptRequest (tm : Nat)
  /-- PREEMPT_STOP (R470): At a group's stop point the engine saves its entries, registers, frame and context. -/
  | preemptStop (g : Nat)
  /-- TEAM_CONTEXT_SAVE (R474): After the producer's TRET, waits for tile and queue work and saves team state. -/
  | teamContextSave (tm : Nat)
  /-- GRAPHICS_KILL (R479): Kills a graphics group for replay, discarding its held effects. -/
  | graphicsKill (g : Nat)
  /-- GRAPHICS_REPLAY (R479): A killed graphics group is readmitted and restarts from its snapshot. -/
  | graphicsReplay (g : Nat)
  /-- PATCH_DICE (R363): The dicer projects, culls, splits and numbers a submitted patch. -/
  | patchDice (core : Nat)
  /-- GRID_GROUP_START (R364): The dicer starts a grid-program group for a grid. -/
  | gridGroupStart (core : Nat)
  /-- SEQUENCE_WRAP (R361): After fragments retire, grid sequence numbers restart at 0 and SEQWRAP is set. -/
  | sequenceWrap (ps : Nat)
  /-- BIN_FLUSH (R361): A full bin area makes every binned tile be processed and sets BINFLUSH. -/
  | binFlush (ps : Nat)
  /-- MICROPOLYGON_SAMPLE (R366): The sampler tests coverage of a grid's micropolygons and creates fragments. -/
  | micropolygonSample (core : Nat)
  /-- FRAGMENT_GROUP_CLOSE (R381): A fragment group closes when full, on a repeated key or after 64 idle clocks. -/
  | fragmentGroupClose (core : Nat)
  /-- SAMPLE_GROUP_START (R369): A sample-program group starts for a closed fragment group. -/
  | sampleGroupStart (core : Nat)
  /-- FRAGMENT_LIST_INSERTION (R391): The fragment-list engine inserts a fragment, merging under the budget. -/
  | fragmentListInsertion (core : Nat)
  /-- TILE_RESOLVE (R378): After every fragment of a tile retires, resolves it by default or by a resolve team. -/
  | tileResolve (ps tile : Nat)
  /-- PAGE_WALK (R263): A page walker reads and checks table entries for a TLB miss. -/
  | pageWalk (job : Nat) (pair : Nat) (va : DWord)
  /-- PRI_RESPONSE (R409): A host PRI response retries or faults the waiting access. -/
  | priResponse (job : Nat) (va : DWord) (success : Bool)
  /-- ATS_INVALIDATION (R409): An ATS Invalidation Request completes once R265 holds. -/
  | atsInvalidation (job : Nat) (va : DWord) (pages : Nat)
  /-- HOST_SNOOP (R406): The home answers a host CXL snoop once its current access completes. -/
  | hostSnoop (pa : Nat)
  /-- HOST_MEMORY_ACCESS (R407): A host CXL.mem or BAR2 access is performed at the line's point of coherence. -/
  | hostMemoryAccess (pa : Nat) (op : HostOp)
  /-- PEER_MESSAGE_RECEIVE (R418): A Brual message is applied in stream sequence order at the destination. -/
  | peerMessageReceive (src seq : Nat) (msg : PeerMessage)
  /-- PEER_LINK_LOSS (R418): A port losing its link has unacknowledged messages resent on another port. -/
  | peerLinkLoss (port : Nat)
  /-- PEER_DESTINATION_TIMEOUT (R506): After 2^24 clocks with no port to a device, pending requests fail with PERM. -/
  | peerDestinationTimeout (dev : Nat)
  /-- GCM_TAG_FAILURE (R424): A batch failing its tag is discarded and resent; 16 in a row take the port down. -/
  | gcmTagFailure (port : Nat)
  /-- BRUAL_LINK_TRAINING (R424): Link training establishes keys and resets stream sequences. -/
  | brualLinkTraining (port dev : Nat)
  /-- HOME_REQUEST_ARRIVAL (R300): A home checks an arriving CALLM or POSTM and makes it pending or faults it. -/
  | homeRequestArrival (col : Nat)
  /-- COMBINER_LAUNCH (R302): The Burl launches a combiner group for an object's batch in a free home slot. -/
  | combinerLaunch (col : Nat)
  /-- COMBINER_INSTRUCTION_LIMIT (R495): A combiner issuing its 16,777,216th instruction without EXIT ends in fault. -/
  | combinerInstructionLimit (g : Nat)
  /-- BURL_ATOMIC_UPDATE (R311): The Burl ALU applies one run of pending atomics to a word per Canopy clock. -/
  | burlAtomicUpdate (col : Nat)
  /-- EDGE_ATOMIC (R283): An atomic executes at the GDDR-7, host or Brual atomic unit. -/
  | edgeAtomic (edge : Edge)
  /-- SLICE_MAP_REMAP (R38): Firmware moves slice-map entries to a new vault by the stall-drain-writeback sequence. -/
  | sliceMapRemap (slice vault : Nat)
  /-- COLUMN_POWER_OFF (R37): Firmware powers off an all-CACHE column after remapping its slices. -/
  | columnPowerOff (col : Nat)
  /-- COLUMN_POWER_ON (R38): Firmware powers a column on and remaps slices back. -/
  | columnPowerOn (col : Nat)
  /-- PATROL_SCRUB (R494): Reads every Canopy and GDDR-7 line once per 2^40 clocks, correcting or poisoning. -/
  | patrolScrub (line : Nat) (found : Scrub)
  /-- STREAM_ENTRY_COMPLETE (R246): A COPY or COPYG queue entry finishes and arrives on its barrier. -/
  | streamEntryComplete (core q : Nat)
  /-- STREAM_FILL_BOX (R248): After its empty-barrier wait, a fill box is written and arrives on the full barrier. -/
  | streamFillBox (core q : Nat)
  /-- STREAM_DRAIN_BOX (R248): After its full-barrier wait, a drain box is written out and arrives on the empty barrier. -/
  | streamDrainBox (core q : Nat)
  /-- TILE_OPERATION_RETIRE (R328): A tile operation is applied in queue order and retires. -/
  | tileOperationRetire (core tile : Nat)
  /-- A_FETCH_RESUME (R498): A stalled global A fetch retries after RESIDENT or PRI Success. -/
  | aFetchResume (core tile : Nat)
  /-- WHORL_REQUEST_ARRIVAL (R344): NEVAL lanes enter bins at the Whorl unit, forming a tile when a bin fills. -/
  | whorlRequestArrival (pair : Nat)
  /-- WHORL_IDLE_TILE_FORM (R344): A non-empty bin idle for 64 leader clocks forms a tile. -/
  | whorlIdleTileForm (pair bin : Nat)
  /-- WHORL_TILE_RETURN (R346): A Whorl tile's layers are evaluated and results returned to lanes. -/
  | whorlTileReturn (pair : Nat)
  /-- COLLECTIVE_COMBINE (R420): The reduction engine combines contributions and children and writes destinations. -/
  | collectiveCombine (ident : Nat)
  /-- CREATE_JOB (R411): Firmware request that creates a job. -/
  | createJob (h : Request) (x : JobOperands)
  /-- DESTROY_JOB (R411): Firmware request that destroys a job once its phases complete. -/
  | destroyJob (h : Request)
  /-- CANCEL_JOB (R411): Firmware request that cancels every phase of a job. -/
  | cancelJob (h : Request)
  /-- REGISTER_QUEUE (R515): Firmware request that registers a queue and sets it ENABLED. -/
  | registerQueue (h : Request) (qcb : DWord) (wake : Nat)
  /-- UNREGISTER_QUEUE (R411): Firmware request that unregisters a queue. -/
  | unregisterQueue (h : Request) (qcb : DWord)
  /-- INVALIDATE (R265): Firmware request that invalidates TLB entries for a page range. -/
  | invalidate (h : Request) (va : DWord) (pages : Nat)
  /-- RESIDENT (R413): Firmware request reporting a page made resident or refused, resuming parked groups. -/
  | resident (h : Request) (va : DWord) (refused : Nat)
  /-- COLLECTIVE (R420): Firmware request that configures one reduction-engine entry. -/
  | collective (h : Request) (x : CollectiveOperands)
  /-- ATTEST (R430): Firmware request that writes a signed attestation report. -/
  | attest (h : Request) (nonce : List (BitVec 8)) (addr : DWord)
  /-- DEBUG_AUTH (R426): Firmware request that checks a debug certificate and grants authorisation. -/
  | debugAuth (h : Request) (addr : DWord) (len : Nat)
  /-- FLASH_UPDATE (R428): Firmware request that verifies and writes a new image to flash. -/
  | flashUpdate (h : Request) (addr : DWord) (len : Nat)
  /-- WAKE_REGISTER_WRITE (R414): A write to a notify-aperture wake register wakes its slot or queue. -/
  | wakeRegisterWrite (reg : Nat)
  /-- WAKE_BUFFER_REPLAY (R415): On wake-up the wake buffer replays captured writes and rescans after overflow. -/
  | wakeBufferReplay
  /-- PFCTL_CLEAR (R269): Writing 1 to PFCTL.CLEAR zeroes the core's prefetch counters. -/
  | pfctlClear (core : Nat) (v : DWord)
  /-- THERMSTAT_WRITE (R439): A write clears the sticky CRIT and THROT bits it names. -/
  | thermstatWrite (v : DWord)
  /-- PWRCTL_WRITE (R437): Selects the power profile and limit, taking effect within 1 ms. -/
  | pwrctlWrite (v : DWord)
  /-- RCVCTL_GO (R519): Writing GO in recovery fetches and verifies a host image. -/
  | rcvctlGo (v : DWord)
  /-- RECOVERY_FETCH_DONE (R520): A recovery image fetch ends, running the image or setting REASON. -/
  | recoveryFetchDone
  /-- REGISTER_WRITE (R7): Write to a register with no behaviour of its own. -/
  | registerWrite (fn : Nat) (reg : PlainReg) (v : DWord)
  /-- DEBUG_ACCESS (R425): A debugger read or write of a block, performed or refused by state. -/
  | debugAccess (block : Block) (reg : Nat) (data : Option DWord)
  /-- RESET_N_RISE (R440): Cold reset release starts strap sampling, boot and bring-up. -/
  | resetNRise
  /-- PCIE_LINK_UP (R440): The PCIe link finishes training and BAR0 answers. -/
  | pcieLinkUp
  /-- RAIL_FAULT (R432): A rail leaving tolerance with RESET_N high resets the part. -/
  | railFault
  /-- PERST_N (R442): Conventional reset cancels all jobs, zeroes secure state and retrains the link. -/
  | perstN
  /-- D3COLD_ENTRY (R426): Entering D3cold zeroes secure state and revokes debug authorisation. -/
  | d3coldEntry
  /-- POWER_LIMIT_EVAL (R438): Each 1 ms firmware picks the highest core clock within the power limit. -/
  | powerLimitEval (watts : Nat)
  /-- POWER_LIMIT_NOT_MET (R524): Power above the limit for 10 ms at 1.2 GHz posts an error event. -/
  | powerLimitNotMet (watts : Nat)
  /-- PMBUS_FAULT (R524): A regulator PMBus fault is treated as a 105 degree reading. -/
  | pmbusFault
  /-- THERMAL_THROTTLE_STEP (R439): Each 1 ms over a throttle point lowers the clock by 100 MHz. -/
  | thermalThrottleStep (coreC canopyC : Nat)
  /-- THERMAL_CRITICAL (R522): A 105 degree reading sets 1.2 GHz, sets CRIT and posts an event. -/
  | thermalCritical (celsius : Nat) (canopy : Bool)
  /-- THERMAL_CRITICAL_TIMEOUT (R522): 105 degrees held for 100 ms cancels every job and places cores in C3. -/
  | thermalCriticalTimeout
  /-- THERMAL_TRIP (R523): The 115 degree trip removes core and Canopy power without firmware. -/
  | thermalTrip (celsius : Nat) (canopy : Bool)
  /-- WATCHDOG_EXPIRY (R516): The Taproot watchdog expires and the Taproot core alone restarts. -/
  | watchdogExpiry
  /-- SPARE_TAKEOVER (R518): The spare core takes the Taproot role, cancelling every job. -/
  | spareTakeover
  /-- RESET_N_FALL (R432): Assertion of RESET_N puts the part into cold reset, ending all work and revoking debug authorisation. -/
  | resetNFall
  /-- D3HOT_ENTRY (R425): The host places the device in D3hot, putting every block outside the always-on domain into C2 or C3. -/
  | d3hotEntry
  /-- BLOCK_POWER_STATE_CHANGE (R426): Firmware moves a core or other block between C0, C1, C2 and C3, waiting while a core holds a halted group. -/
  | blockPowerStateChange (block : Block) (target : PowerState)
  /-- TDI_IDE_STATE_CHANGE (R421): A TDI or IDE state change of a PCIe function, at which firmware sets the function's world and secure-job admission changes. -/
  | tdiIdeStateChange (fn : Nat) (run ide : Bool)
  /-- THERMAL_RECOVERY (R439): Readings falling 5 degrees below the throttle points (or below 90 degrees after a critical action) let firmware raise the clock and return the cores from C3. -/
  | thermalRecovery (coreC canopyC : Nat)
  deriving DecidableEq, Repr

end Sys2Proof
end

