-- ==== Sys2Proof/Machine/Arith.lean ====
section
/-! DEFINITION. The function of each thread and uniform arithmetic instruction on the operands of one thread (R176 to R203,
R210, R214), with the FPFLAGS bits it raises. -/

namespace Sys2Proof.Machine

/-- A thread's result: up to 64 bits and the flags raised. -/
structure LaneRes where
  val : DWord
  fl : FFlags
  deriving DecidableEq, Repr

def res32 (x : Word) : LaneRes := ⟨x.setWidth 64, 0⟩
def res64 (x : DWord) : LaneRes := ⟨x, 0⟩
def resF (r : FRes) : LaneRes := ⟨BitVec.ofNat 64 r.bits, r.fl⟩

/-- FPMODE as an operation reads it (R111, R112, R114). -/
def env32 (fpm : DWord) : FEnv := ⟨rmode (fpm.toNat % 4), fpm.getLsbD 2⟩
def env64 (fpm : DWord) : FEnv := ⟨rmode (fpm.toNat % 4), false⟩
def env16 (fpm : DWord) : FEnv := ⟨.rne, fpm.getLsbD 3⟩
/-- Binary32 work that always rounds to nearest (R112). -/
def env32n (fpm : DWord) : FEnv := ⟨.rne, fpm.getLsbD 2⟩

/-- Element `i` of `n` bits (R109). -/
def elem (x : Word) (n i : Nat) : Nat := x.toNat / 2 ^ (n * i) % 2 ^ n
def lo32 (x : DWord) : Word := x.setWidth 32
def hi32 (x : DWord) : Word := x.extractLsb' 32 32

/-- Two packed results. -/
def pack2 (e0 e1 : FRes) : LaneRes := ⟨BitVec.ofNat 64 (e0.bits + 2 ^ 16 * e1.bits), e0.fl ||| e1.fl⟩

/-- An operation on each of two packed 16-bit elements. -/
def per2 (g : Nat → Nat → FRes) (a b : Word) : LaneRes := pack2 (g (elem a 16 0) (elem b 16 0)) (g (elem a 16 1) (elem b 16 1))
def per3 (g : Nat → Nat → Nat → FRes) (a b c : Word) : LaneRes :=
  pack2 (g (elem a 16 0) (elem b 16 0) (elem c 16 0)) (g (elem a 16 1) (elem b 16 1) (elem c 16 1))

/-! ## V3 -/

def fFma32 (fpm : DWord) (a b c : Word) : LaneRes := resF (ffma .b32 (env32 fpm) a.toNat b.toNat c.toNat)
def fFma64 (fpm : DWord) (a b c : DWord) : LaneRes := resF (ffma .b64 (env64 fpm) a.toNat b.toNat c.toNat)
def fFmah2 (fpm : DWord) (a b c : Word) : LaneRes := per3 (ffma .b16 (env16 fpm)) a b c
def fFmab2 (fpm : DWord) (a b c : Word) : LaneRes := per3 (ffma .bf16 (env16 fpm)) a b c
def fMuladd (a b c : Word) : Word := a * b + c
/-- The high half of the exact product, signed or not (R179, R187). -/
def mulHigh (sgn : Bool) (a b : Word) : Word :=
  if sgn then BitVec.ofInt 32 (a.toInt * b.toInt / 2 ^ 32) else BitVec.ofNat 32 (a.toNat * b.toNat / 2 ^ 32)
def fMuladdh (v : Bool) (a b c : Word) : Word := mulHigh (!v) a b + c

/-- Position and width of a bit field (R181). -/
def fieldPos (ctl : Word) : Nat := ctl.toNat % 32
def fieldWidth (ctl : Word) : Nat := min (ctl.toNat / 256 % 64) (32 - fieldPos ctl)

def fBitins (a b ctl : Word) : Word :=
  let p := fieldPos ctl
  let mask := BitVec.ofNat 32 ((2 ^ fieldWidth ctl - 1) * 2 ^ p)
  (a &&& ~~~mask) ||| ((b <<< p) &&& mask)

def fShrcat (a b c : Word) : Word := ((b ++ a) >>> (c.toNat % 32)).setWidth 32

/-- An element as an integer. -/
def elemInt (x : Word) (n i : Nat) (sgn : Bool) : Int :=
  let e := elem x n i
  if sgn && e ≥ 2 ^ (n - 1) then (e : Int) - 2 ^ n else e

/-- The integer dot products (R125, R183). -/
def dotInt (n count : Nat) (sgn sat : Bool) (a b c : Word) : Word :=
  let cv : Int := if sgn then c.toInt else c.toNat
  let s := (List.range count).foldl (fun acc i => acc + elemInt a n i sgn * elemInt b n i sgn) cv
  let lo : Int := if sgn then -(2 ^ 31) else 0
  let hi : Int := if sgn then 2 ^ 31 - 1 else 2 ^ 32 - 1
  BitVec.ofInt 32 (if sat then max lo (min hi s) else s)

/-- The floating-point dot products (R125, R126). -/
def dotFloat (f : Fmt) (count : Nat) (fpm : DWord) (a b c : Word) : LaneRes :=
  let ftz := f == .b16 && fpm.getLsbD 3
  let xs := (List.range count).map fun i => (readNum f ftz (elem a f.width i), readNum f ftz (elem b f.width i))
  let cn := readNum .b32 (fpm.getLsbD 2) c.toNat
  let sn := cn.isSNan || xs.any fun x => x.1.isSNan || x.2.isSNan
  resF (dotSum (env32n fpm) sn (xs.map fun x => mulExact x.1 x.2) cn)

/-! ## V2, integers -/

def clampInt (sgn : Bool) (i : Int) : Word :=
  if sgn then BitVec.ofInt 32 (max (-(2 ^ 31)) (min (2 ^ 31 - 1) i)) else BitVec.ofInt 32 (max 0 (min (2 ^ 32 - 1) i))
def intOf (sgn : Bool) (a : Word) : Int := if sgn then a.toInt else a.toNat

def fIadd (sat sgn : Bool) (a b : Word) : Word := if sat then clampInt sgn (intOf sgn a + intOf sgn b) else a + b
def fIsub (sat sgn : Bool) (a b : Word) : Word := if sat then clampInt sgn (intOf sgn a - intOf sgn b) else a - b
def fImin (sgn : Bool) (a b : Word) : Word := if intOf sgn a ≤ intOf sgn b then a else b
def fImax (sgn : Bool) (a b : Word) : Word := if intOf sgn a ≤ intOf sgn b then b else a
def fIabs (a : Word) : Word := if a.getLsbD 31 then -a else a

def fShl (wide : Bool) (a : DWord) (b : Word) : DWord :=
  if wide then a <<< (b.toNat % 64) else ((lo32 a) <<< (b.toNat % 32)).setWidth 64
def fShr (wide : Bool) (a : DWord) (b : Word) : DWord :=
  if wide then a >>> (b.toNat % 64) else ((lo32 a) >>> (b.toNat % 32)).setWidth 64
def fSar (wide : Bool) (a : DWord) (b : Word) : DWord :=
  if wide then a.sshiftRight (b.toNat % 64) else ((lo32 a).sshiftRight (b.toNat % 32)).setWidth 64
def fRot (wide : Bool) (a : DWord) (b : Word) : DWord :=
  if wide then a.rotateLeft (b.toNat % 64) else ((lo32 a).rotateLeft (b.toNat % 32)).setWidth 64

/-- Number of 1 bits of an n-bit number. -/
def popCount : Nat → Nat → Nat
  | 0, _ => 0
  | n + 1, x => x % 2 + popCount n (x / 2)

def fPopc (a : Word) : Word := BitVec.ofNat 32 (popCount 32 a.toNat)
/-- Leading zeros of a w-bit number. -/
def leadingZeros (w x : Nat) : Nat := if x == 0 then w else w - 1 - Nat.log2 x
def fClz (a : Word) : Word := BitVec.ofNat 32 (leadingZeros 32 a.toNat)
def fBrev (a : Word) : Word := a.reverse

def fBfx (sgn : Bool) (a ctl : Word) : Word :=
  let n := fieldWidth ctl
  let x := a.toNat / 2 ^ fieldPos ctl % 2 ^ n
  if n == 0 then 0
  else if sgn && x ≥ 2 ^ (n - 1) then BitVec.ofInt 32 ((x : Int) - 2 ^ n) else BitVec.ofNat 32 x

def fLea (sh : Nat) (sgn : Bool) (a : DWord) (b : Word) : DWord :=
  a + ((if sgn then b.signExtend 64 else b.setWidth 64) <<< sh)

/-- The integer conditions of R193. -/
def icond (c : Nat) (a b : Int) : Bool :=
  match c with
  | 0 => a == b
  | 1 => a != b
  | 2 => a < b
  | 3 => a ≤ b
  | 4 => a > b
  | _ => a ≥ b

/-! ## V2, floating point -/

/-- The sign modifiers of R194 on operand A and operand B. -/
def modA (f : Fmt) (mod : BitVec 3) (a : Nat) : Nat :=
  let x := if mod.getLsbD 1 then clearSign f a else a
  if mod.getLsbD 0 then flipSign f x else x
def modB (f : Fmt) (mod : BitVec 3) (b : Nat) : Nat := if mod.getLsbD 2 then flipSign f b else b

/-- The five operations of R194. -/
inductive FOp where
  | add | sub | mul | min | max
  deriving DecidableEq, Repr

/-- One floating-point operation with modifiers and clamp (R194). -/
def fop (f : Fmt) (op : FOp) (env : FEnv) (mod : BitVec 3) (sat : Bool) (a b : Nat) : FRes :=
  let x := modA f mod a
  let y := modB f mod b
  clampRes f sat (match op with
    | .add => fadd f env x y
    | .sub => fsub f env x y
    | .mul => fmul f env x y
    | .min => fminmax f true env.ftz x y
    | .max => fminmax f false env.ftz x y)

def fOp32 (op : FOp) (fpm : DWord) (mod : BitVec 3) (sat : Bool) (a b : Word) : LaneRes :=
  resF (fop .b32 op (env32 fpm) mod sat a.toNat b.toNat)
def fOp64 (op : FOp) (fpm : DWord) (mod : BitVec 3) (sat : Bool) (a b : DWord) : LaneRes :=
  resF (fop .b64 op (env64 fpm) mod sat a.toNat b.toNat)
def fOp16 (f : Fmt) (op : FOp) (fpm : DWord) (mod : BitVec 3) (sat : Bool) (a b : Word) : LaneRes :=
  per2 (fop f op (env16 fpm) mod sat) a b

def fFclass (fmtCode : Nat) (a : DWord) : Word :=
  let f := match fmtCode with | 0 => Fmt.b32 | 1 => .b64 | 2 => .b16 | _ => .bf16
  BitVec.ofNat 32 (2 ^ fclassBit f (a.toNat % 2 ^ f.width))

def fFint (fpm : DWord) (dir : Nat) (sat : Bool) (a : Word) : LaneRes :=
  let m := if dir == 4 then rmode (fpm.toNat % 4) else rmode dir
  resF (clampRes .b32 sat (fintNum .b32 m (fpm.getLsbD 2) a.toNat))

def fT32 (op : Nat) (fpm : DWord) (sat : Bool) (a : Word) : LaneRes := resF (clampRes .b32 sat (tPipe op (fpm.getLsbD 2) a.toNat))
def fT64 (op : Nat) (sat : Bool) (a : DWord) : LaneRes := resF (clampRes .b64 sat (tPipe op false a.toNat))

/-! ## Conversions -/

/-- A floating-point source of CVT (R200), flushed under R114. -/
def cvtNum (fpm : DWord) (code : Nat) (a : DWord) : Num :=
  match code with
  | 4 => readNum .b32 (fpm.getLsbD 2) (a.toNat % 2 ^ 32)
  | 5 => readNum .b64 false a.toNat
  | 6 => readNum .b16 (fpm.getLsbD 3) (a.toNat % 2 ^ 16)
  | _ => readNum .bf16 (fpm.getLsbD 3) (a.toNat % 2 ^ 16)

/-- An integer source of CVT. -/
def cvtInt (code : Nat) (a : DWord) : Int :=
  match code with
  | 0 => (lo32 a).toInt
  | 1 => (lo32 a).toNat
  | 2 => a.toInt
  | _ => a.toNat

/-- A value to a floating-point destination of CVT (R201). -/
def cvtToFloat (fpm : DWord) (dst : Nat) (sat : Bool) (x : Num) : FRes :=
  match dst with
  | 4 => toFmt .b32 (env32 fpm) x
  | 5 => toFmt .b64 (env64 fpm) x
  | 6 => toFmt .b16 (env16 fpm) x
  | 7 => toFmt .bf16 (env16 fpm) x
  | 8 => toNarrow .e4m3 sat x
  | 9 => toNarrow .e5m2 sat x
  | _ => toNarrow .e2m1 false x

/-- CVT (R200, R201): source code, control value and source. -/
def fCvt (fpm : DWord) (src : Nat) (ctl : BitVec 6) (a : DWord) : LaneRes :=
  let dst := ctl.toNat % 16
  let sat := ctl.getLsbD 4
  if src ≤ 3 then
    let i := cvtInt src a
    if dst ≤ 1 then res32 (BitVec.ofInt 32 i)
    else if dst ≤ 3 then res64 (BitVec.ofInt 64 i)
    else resF (cvtToFloat fpm dst sat (Num.ofInt i))
  else
    let x := cvtNum fpm src a
    if dst ≤ 3 then resF (toInteger (if dst ≤ 1 then 32 else 64) (dst % 2 == 0) x)
    else resF (cvtToFloat fpm dst sat x)

/-- PACK (R202). -/
def fPack (fpm : DWord) (kind : Nat) (a b : Word) : LaneRes :=
  let rd (x : Word) := readNum .b32 (fpm.getLsbD 2) x.toNat
  match kind with
  | 0 => pack2 (toFmt .b16 (env16 fpm) (rd a)) (toFmt .b16 (env16 fpm) (rd b))
  | 1 => pack2 (toFmt .bf16 (env16 fpm) (rd a)) (toFmt .bf16 (env16 fpm) (rd b))
  | 2 => res32 (BitVec.ofNat 32 (elem a 16 0 + 2 ^ 16 * elem b 16 0))
  | 3 => res32 (BitVec.ofNat 32 (elem a 8 0 + 2 ^ 8 * elem b 8 0))
  | _ => res32 (BitVec.ofNat 32 (elem a 4 0 + 2 ^ 4 * elem b 4 0))

/-- UNPACK (R203). -/
def fUnpack (fpm : DWord) (kind : Nat) (ctl : BitVec 6) (a : Word) : LaneRes :=
  let i := ctl.toNat % 8
  let sgn := ctl.getLsbD 3
  let fl (f : Fmt) (ftz : Bool) := resF (toFmt .b32 (env32n fpm) (readNum f ftz (elem a f.width i)))
  match kind with
  | 0 => fl .b16 (fpm.getLsbD 3)
  | 1 => fl .bf16 (fpm.getLsbD 3)
  | 2 => fl .e4m3 false
  | 3 => fl .e5m2 false
  | 4 => fl .e2m1 false
  | 5 => res32 (BitVec.ofInt 32 (elemInt a 8 i sgn))
  | 6 => res32 (BitVec.ofInt 32 (elemInt a 4 i sgn))
  | _ => res32 (BitVec.ofInt 32 (elemInt a 16 i sgn))

/-! ## Lane combination (R206) -/

/-- One step of SCAN and LRED. -/
def scanStep (op : Nat) (sgn : Bool) (fpm : DWord) (acc a : Word) : Word × FFlags :=
  match op with
  | 0 => (acc + a, 0)
  | 1 => (fImin sgn acc a, 0)
  | 2 => (fImax sgn acc a, 0)
  | 3 => (acc &&& a, 0)
  | 4 => (acc ||| a, 0)
  | 5 => (acc ^^^ a, 0)
  | _ => let r := fadd .b32 (env32n fpm) acc.toNat a.toNat; (BitVec.ofNat 32 r.bits, r.fl)

/-- The identity of the operation. -/
def scanIdentity (op : Nat) (sgn : Bool) : Word :=
  match op with
  | 1 => if sgn then 0x7FFFFFFF else 0xFFFFFFFF
  | 2 => if sgn then 0x80000000 else 0
  | 3 => 0xFFFFFFFF
  | 6 => 0x80000000
  | _ => 0

/-! ## 64-bit uniform arithmetic (R214) -/

def mulHigh64 (sgn : Bool) (a b : DWord) : DWord :=
  if sgn then BitVec.ofInt 64 (a.toInt * b.toInt / 2 ^ 64) else BitVec.ofNat 64 (a.toNat * b.toNat / 2 ^ 64)
def intOf64 (sgn : Bool) (a : DWord) : Int := if sgn then a.toInt else a.toNat

end Sys2Proof.Machine
end

