-- ==== Sys2Proof/WellFormed.lean ====
section
/-! DEFINITION. Which instructions the encoding admits: R160 with the field uses of R138, R152 to R159, R184, R214, R233,
the reserved encodings of R466 and the per-instruction table of R464. What breaks one of these traps ILLEGAL_ENC. -/

namespace Sys2Proof

/-- The bits `[hi:lo]` of an extension word, as a number. -/
def fld (k : Word) (hi lo : Nat) : Nat := (k.toNat / 2 ^ lo) % 2 ^ (hi + 1 - lo)

/-- The bits of `k` from bit `n` up are 0. -/
def hi (k : Word) (n : Nat) : Bool := k.toNat / 2 ^ n == 0

/-- The select bits [4:0] of a source field (R140). -/
def selNat (f : SrcField) : Nat := f.toNat % 32

/-- The last-use bit of a source field (R140). -/
def lastUse (f : SrcField) : Bool := f.getLsbD 5

/-- The source field selects an entry o0 to o15. -/
def isEntry (f : SrcField) : Bool := selNat f < 16

/-- The source field selects w0 to w7, without last-use (R160, R143). -/
def isSlot (f : SrcField) : Bool := 20 ≤ f.toNat && f.toNat ≤ 27

/-- Last-use stands only on an entry (R143). -/
def srcOk (f : SrcField) : Bool := !lastUse f || isEntry f

/-- A 64-bit operand names no odd entry (R141). -/
def evenSrc (f : SrcField) : Bool := !isEntry f || f.toNat % 2 == 0

/-- A predicate field has bits [5:4] zero (R172). -/
def predOk (f : SrcField) : Bool := f.toNat / 16 == 0

/-- The mask word has [31:27] zero (R151). -/
def spOk (sp : Sp) : Bool := match sp with | none => true | some m => m.toNat / 2 ^ 27 == 0

/-- The CVT and SCVT control value (R200, R214). -/
def cvtCtlOk (b : SrcField) : Bool :=
  let d := b.toNat % 16
  d ≤ 10 && (!b.getLsbD 4 || d == 8 || d == 9) && !b.getLsbD 5

/-- The CVT formats that take 64 bits (R200). -/
def cvtWide (f : Nat) : Bool := f == 2 || f == 3 || f == 5

/-- The UNPACK control value (R203). -/
def unpackOk (kind : Nat) (b : SrcField) : Bool :=
  let limit := match kind with | 0 | 1 | 7 => 1 | 2 | 3 | 5 => 3 | _ => 7
  b.toNat % 8 ≤ limit && (!b.getLsbD 3 || kind ≥ 5) && b.toNat / 16 == 0

def H16.ok (x : H16) : Bool := !x.u || x.s.toNat < 16

def V3.srcs (x : V3) : Bool := srcOk x.a && srcOk x.b && srcOk x.c
def V3.wide (x : V3) : Bool := evenSrc x.a && evenSrc x.b && evenSrc x.c && !x.d.getLsbD 0

def V2.two (x : V2) : Bool := srcOk x.a && srcOk x.b
def V2.one (x : V2) : Bool := srcOk x.a && x.b == 0
def V2.wideA (x : V2) : Bool := evenSrc x.a
def V2.wideB (x : V2) : Bool := evenSrc x.b
def V2.wideD (x : V2) : Bool := !x.d.getLsbD 0
/-- The combine pair {D[3], W} is not 11 (R171). -/
def V2.combOk (x : V2) : Bool := !(x.d.getLsbD 3 && x.w)

/-- Entry alignment of an access of `n` bytes (R232): even for 64 bits, a multiple of 4 for 128. -/
def entryAligned (e n : Nat) : Bool := if n == 16 then e % 4 == 0 else if n == 8 then e % 2 == 0 else true

/-- The fields of a global access (R155, R231): mode 01 has base 0 and an even entry pair; a displacement word in mode 11. -/
def Mem.globalOk (x : Mem) : Bool :=
  srcOk x.a && (x.m != 1 || (x.g == 0 && isEntry x.a && evenSrc x.a)) && (x.disp.isSome == (x.m == 3))

/-- The fields of a scratchpad or private access (R155): [31:30] 0; bit [29] says that a displacement word is present. -/
def Mem.scratchOk (x : Mem) : Bool := srcOk x.a && x.m == 0 && (x.disp.isSome == x.g.getLsbD 2)

/-- The access size in bytes of a scratchpad or private access (R155). -/
def Mem.scratchBytes (x : Mem) : Nat := match x.g.toNat % 4 with | 0 => 4 | 1 => 8 | 2 => 16 | _ => 1

def Mem.loadOk (x : Mem) : Bool := x.w
def Mem.storeOk (x : Mem) : Bool := x.d == 0 && !x.w
def Mem.destOk (x : Mem) (n : Nat) : Bool := entryAligned x.d.toNat n
/-- The data field of an access of `n` bytes (R232): a 128-bit access takes an entry that is a multiple of 4. -/
def Mem.dataOk (x : Mem) (n : Nat) : Bool :=
  srcOk x.b && (if isEntry x.b then entryAligned (selNat x.b) n else n != 16)
def Mem.fenceOk (x : Mem) : Bool := x.d == 0 && !x.w && x.a == 0 && x.b == 0 && x.g == 0 && x.m == 0 && x.disp.isNone

/-- The size of an order word in bytes (R156); the reserved code gives 0. -/
def Order.bytes (o : Order) : Nat := match o.size.toNat with | 0 => 4 | 1 => 8 | 2 => 16 | _ => 0

/-- Atomic operation and size go together (R234). -/
def Order.opSize (o : Order) : Bool :=
  match o.aop.toNat with
  | 9 => o.bytes != 0
  | 11 | 12 | 13 => o.bytes == 4
  | n => n ≤ 10 && (o.bytes == 4 || o.bytes == 8)

/-- The CAS failure order of R233. -/
def Order.failOk (o : Order) : Bool :=
  o.fail == 0 || (o.fail == 1 && o.aop == 10 && (o.ord == 1 || o.ord == 3 || o.ord == 4))

def Order.plain (o : Order) : Bool := o.fail == 0 && o.aop == 0 && o.method == 0 && !o.reassoc
def Order.ldaOk (o : Order) : Bool := o.plain && (o.ord == 0 || o.ord == 1 || o.ord == 4) && o.bytes != 0
def Order.stlOk (o : Order) : Bool := o.plain && (o.ord == 0 || o.ord == 2 || o.ord == 4) && o.bytes != 0
def Order.atomOk (o : Order) : Bool :=
  o.ord.toNat ≤ 4 && o.failOk && o.opSize && o.method == 0 && o.mask != 0 && (!o.reassoc || o.aop == 11)
def Order.redOk (o : Order) : Bool :=
  (o.ord == 0 || o.ord == 2 || o.ord == 4) && o.fail == 0 && o.opSize && o.aop != 9 && o.aop != 10 && o.method == 0 &&
    o.mask != 0 && (!o.reassoc || o.aop == 11)
def Order.callOk (o : Order) : Bool := o.fail == 0 && o.aop == 0 && !o.reassoc && (o.bytes == 4 || o.bytes == 8) && o.mask != 0
def Order.callmOk (o : Order) : Bool := o.callOk && o.ord.toNat ≤ 4
def Order.postmOk (o : Order) : Bool := o.callOk && (o.ord == 0 || o.ord == 2 || o.ord == 4)
def Order.atomsOk (o : Order) : Bool :=
  o.ord.toNat ≤ 4 && o.failOk && o.opSize && o.method == 0 && o.mask == 0 && !o.reassoc
def Order.fenceOk (o : Order) : Bool := o.plain && 1 ≤ o.ord.toNat && o.ord.toNat ≤ 4 && o.size == 0

/-- The compare entries of a cas (R235, R237): A selects an entry; for 64 bits or mode 01 they are A+2 (and A+3), A even. -/
def Mem.casOk (x : Mem) (n : Nat) : Bool :=
  isEntry x.a &&
    (if n == 8 then selNat x.a % 2 == 0 && selNat x.a + 3 ≤ 15
     else if x.m == 1 then selNat x.a % 2 == 0 && selNat x.a + 2 ≤ 15
     else selNat x.a + 1 ≤ 15)

/-- Destination, data and compare entries of an atomic of `n` bytes; `res` is false for a form without a result. -/
def Mem.atomForm (x : Mem) (o : Order) (_glob : Bool) (n : Nat) : Bool :=
  x.destOk n && x.dataOk n && (o.aop != 10 || x.casOk n)

/-- No repeated element. -/
def noDup [BEq α] : List α → Bool
  | [] => true
  | a :: l => !l.elem a && noDup l

/-- REGION items name no entry and no v register twice (R146). -/
def regionOk (items : List RegionItem) : Bool := noDup (items.map (·.entry)) && noDup (items.map (·.v))

/-- REGIONU items name no slot twice (R147). -/
def regionuOk (items : List SlotItem) : Bool := noDup (items.map (·.w))

/-- Operand kinds of MMA (R321): 0 to 6, a 16-bit kind only with a 16-bit kind. -/
def mmaKinds (ka kb : Nat) : Bool := ka ≤ 6 && kb ≤ 6 && ((ka ≤ 1) == (kb ≤ 1))

/-- The entry range that starts at the entry `f` selects and has `n` entries ends at or before o15 (R160). -/
def Asy.entryRange (_x : Asy) (f : SrcField) (n : Nat) : Bool := selNat f + n ≤ 16

/-- MDRAIN (R337): entries with W = 1 and A 0, or scratchpad with D, W and band 0; format 0 to 2; B a slot with scales, else 0. -/
def Asy.drainOk (x : Asy) (k : Word) : Bool :=
  hi k 8 && fld k 5 4 ≤ 2 && ((fld k 7 6 == 0) == (x.b == 0)) &&
    (if fld k 0 0 == 0 then x.w && x.a == 0 && x.d.toNat + (if fld k 5 4 == 0 then 8 else 4) ≤ 16
     else !x.w && x.d == 0 && isSlot x.a && fld k 3 1 == 0)

/-- MFILL (R337). -/
def Asy.fillOk (x : Asy) (k : Word) : Bool :=
  hi k 6 && fld k 5 4 ≤ 2 &&
    (if fld k 0 0 == 0 then x.a == 0 && x.d.toNat + (if fld k 5 4 == 0 then 8 else 4) ≤ 16
     else x.d == 0 && isSlot x.a && fld k 3 1 == 0)

/-- Coordinates of a texture dimension: 1-D, 2-D, 3-D, cube (R373). -/
def texCoords (k : Word) : Nat := match fld k 1 0 with | 0 => 1 | 1 => 2 | _ => 3

/-- TEX (R159, R466): LOD code 3 and a cube with gradients are reserved. -/
def texOk (k : Word) : Bool := fld k 3 2 ≤ 2 && !(fld k 1 0 == 3 && fld k 3 2 == 2)

/-- Entries that TEX reads from A: coordinates, then one LOD entry or the derivatives (R373). -/
def texInputs (k : Word) : Nat :=
  texCoords k + (match fld k 3 2 with | 0 => 0 | 1 => 1 | _ => 2 * texCoords k)

/-- Entries that TEXF reads from A (R375): coordinates, then a level entry under `.lev`. -/
def texfInputs (k : Word) : Nat := texCoords k + fld k 3 2

/-- Result entries of TEX and TEXF (R373). -/
def texOutputs (k : Word) : Nat :=
  let n := fld k 6 5 + 1
  if fld k 4 4 == 1 then (n + 1) / 2 else n

/-- TRACE (R401): the ray entries end by o15; under APPEND A is even and D one entry, else D takes four entries. -/
def Asy.traceRange (x : Asy) : Bool :=
  if x.sub == 2 then selNat x.a ≤ 5 && selNat x.a % 2 == 0 else selNat x.a ≤ 8 && x.d.toNat ≤ 12


/-- What the instruction word alone must satisfy (R160, R184, R464). Packets and events have no encoding. -/
def wfWord : Instr → Bool
  | .nop => true
  | .mov16 x => x.ok && (x.w || x.u || x.s != 0 || x.d != 0)
  | .iadd16 x => x.ok
  | .isub16 x => x.ok
  | .imul16 x => x.ok
  | .and16 x => x.ok
  | .or16 x => x.ok
  | .xor16 x => x.ok
  | .shl16 x => x.ok
  | .shr16 x => x.ok
  | .sar16 x => x.ok
  | .fadd16 x => x.ok
  | .fsub16 x => x.ok
  | .fmul16 x => x.ok
  | .fmin16 x => x.ok
  | .fmax16 x => x.ok
  | .imin16 x => x.ok
  | .fma32 x => x.srcs
  | .fma64 x => x.srcs && x.wide
  | .fmah2 x => x.srcs
  | .fmab2 x => x.srcs
  | .muladd x => x.srcs
  | .muladdh x => x.srcs
  | .choose x => srcOk x.a && srcOk x.b
  | .bitins x => x.srcs
  | .shrcat x => x.srcs
  | .dp4s8 x => x.srcs
  | .dp4u8 x => x.srcs
  | .dp8s4 x => x.srcs
  | .dp4e4 x => x.srcs
  | .dp4e5 x => x.srcs
  | .dp8f4 x => x.srcs
  | .dp2h x => x.srcs
  | .mov x => x.two && isEntry x.a && x.mod.toNat ≤ 1 && !x.s && (x.mod == 0 || (x.wideB && x.wideD))
  | .iadd x => x.two && x.mod.toNat ≤ 1 && (x.mod == 1 || !x.s)
  | .isub x => x.two && x.mod.toNat ≤ 1 && (x.mod == 1 || !x.s)
  | .imul x => x.two && x.mod == 0 && !x.s
  | .imulhi x => x.two && x.mod == 0
  | .imin x => x.two && x.mod == 0
  | .imax x => x.two && x.mod == 0
  | .iabs x => x.one && x.mod == 0 && !x.s
  | .and x => x.two && x.mod == 0 && !x.s
  | .or x => x.two && x.mod == 0 && !x.s
  | .xor x => x.two && x.mod == 0 && !x.s
  | .andn x => x.two && x.mod == 0 && !x.s
  | .shl x => x.two && x.mod.toNat ≤ 1 && !x.s && (x.mod == 0 || (x.wideA && x.wideD))
  | .shr x => x.two && x.mod.toNat ≤ 1 && !x.s && (x.mod == 0 || (x.wideA && x.wideD))
  | .sar x => x.two && x.mod.toNat ≤ 1 && !x.s && (x.mod == 0 || (x.wideA && x.wideD))
  | .rot x => x.two && x.mod.toNat ≤ 1 && !x.s && (x.mod == 0 || (x.wideA && x.wideD))
  | .popc x => x.one && x.mod == 0 && !x.s
  | .clz x => x.one && x.mod == 0 && !x.s
  | .brev x => x.one && x.mod == 0 && !x.s
  | .bfx x => x.two && x.mod == 0
  | .lea x => x.two && x.wideA && x.wideD
  | .iadd64 x => x.two && x.mod == 0 && !x.s && x.wideA && x.wideB && x.wideD
  | .icmp x => x.two && x.mod.toNat ≤ 5 && x.combOk
  | .pmov x => x.one && x.mod.toNat ≤ 1 && !x.s && (if x.mod == 0 then x.a == 0 else x.d == 0 && !x.w)
  | .fadd x => x.two
  | .fsub x => x.two
  | .fmul x => x.two
  | .fmin x => x.two
  | .fmax x => x.two
  | .fcmp x => x.two && !x.s && x.combOk
  | .fclass x => x.one && x.mod.toNat ≤ 3 && !x.s && (x.mod != 1 || x.wideA)
  | .fint x => x.one && x.mod.toNat ≤ 4
  | .frcp x => x.one && x.mod == 0
  | .frsq x => x.one && x.mod == 0
  | .fsqrt x => x.one && x.mod == 0
  | .fexp2 x => x.one && x.mod == 0
  | .flog2 x => x.one && x.mod == 0
  | .fsin x => x.one && x.mod == 0
  | .fcos x => x.one && x.mod == 0
  | .dadd x => x.two && x.wideA && x.wideB && x.wideD
  | .dmul x => x.two && x.wideA && x.wideB && x.wideD
  | .dmin x => x.two && x.wideA && x.wideB && x.wideD
  | .dmax x => x.two && x.wideA && x.wideB && x.wideD
  | .dcmp x => x.two && !x.s && x.combOk && x.wideA && x.wideB
  | .drcp x => x.one && x.mod == 0 && x.wideA && x.wideD
  | .dsqrt x => x.one && x.mod == 0 && x.wideA && x.wideD
  | .hadd2 x => x.two
  | .hmul2 x => x.two
  | .badd2 x => x.two
  | .bmul2 x => x.two
  | .cvt x => srcOk x.a && !x.s && cvtCtlOk x.b && (!cvtWide x.mod.toNat || x.wideA) && (!cvtWide (x.b.toNat % 16) || x.wideD)
  | .pack x => x.two && x.mod.toNat ≤ 4 && !x.s
  | .unpack x => srcOk x.a && !x.s && unpackOk x.mod.toNat x.b
  | .xlane x => x.two && x.mod.toNat ≤ 3 && !x.s
  | .poll x => predOk x.a && x.b == 0 && x.mod.toNat ≤ 4 && !x.s && (x.mod.toNat ≥ 3 || x.combOk)
  | .scan x => srcOk x.a && x.mod.toNat ≤ 6 && x.b.toNat ≤ 1 && (x.mod == 1 || x.mod == 2 || !x.s)
  | .lred x => x.one && x.mod.toNat ≤ 6 && (x.mod == 1 || x.mod == 2 || !x.s)
  | .movx x => x.one && x.mod.toNat ≤ 3 && !x.s
  | .stx x => x.two && x.mod.toNat ≤ 3 && !x.s && x.d == 0 && !x.w
  | .pcomb x => predOk x.a && predOk x.b && x.mod.toNat ≤ 3 && !x.s && x.combOk && (x.mod != 3 || x.b == 0)
  | .hmin2 x => x.two && x.mod == 0
  | .hmax2 x => x.two && x.mod == 0
  | .hcmp2 x => x.two && !x.s && x.combOk && !x.d.getLsbD 0
  | .iaddi x => srcOk x.a
  | .andi x => srcOk x.a
  | .ori x => srcOk x.a
  | .xori x => srcOk x.a
  | .shli x => srcOk x.a
  | .shri x => srcOk x.a
  | .sari x => srcOk x.a
  | .imuli x => srcOk x.a
  | .icmpi x => srcOk x.a && (x.imm.toNat / 512) ≤ 5 && !(x.d.getLsbD 3 && x.w)
  | .movi x => x.a == 0
  | .movw x _ => x.a == 0 && x.imm == 0
  | .leai x => srcOk x.a && evenSrc x.a && !x.d.getLsbD 0
  | .faddw x _ => srcOk x.a && x.imm == 0
  | .fmulw x _ => srcOk x.a && x.imm == 0
  | .iaddw x _ => srcOk x.a && x.imm == 0
  | .ld8 x => x.globalOk && x.loadOk && x.b == 0 && x.destOk 1
  | .ld8s x => x.globalOk && x.loadOk && x.b == 0 && x.destOk 1
  | .ld16 x => x.globalOk && x.loadOk && x.b == 0 && x.destOk 2
  | .ld16s x => x.globalOk && x.loadOk && x.b == 0 && x.destOk 2
  | .ld32 x => x.globalOk && x.loadOk && x.b == 0 && x.destOk 4
  | .ld64 x => x.globalOk && x.loadOk && x.b == 0 && x.destOk 8
  | .ld128 x => x.globalOk && x.loadOk && x.b == 0 && x.destOk 16
  | .st8 x => x.globalOk && x.storeOk && x.dataOk 1
  | .st16 x => x.globalOk && x.storeOk && x.dataOk 2
  | .st32 x => x.globalOk && x.storeOk && x.dataOk 4
  | .st64 x => x.globalOk && x.storeOk && x.dataOk 8
  | .st128 x => x.globalOk && x.storeOk && x.dataOk 16
  | .lda x _ => x.globalOk && x.loadOk && x.b == 0
  | .stl x _ => x.globalOk && x.storeOk && srcOk x.b
  | .atom x _ => x.globalOk && x.loadOk && srcOk x.b
  | .red x _ => x.globalOk && x.storeOk && srcOk x.b
  | .callm x _ => x.globalOk && x.loadOk && srcOk x.b
  | .postm x _ => x.globalOk && x.storeOk && srcOk x.b
  | .lds x => x.scratchOk && x.loadOk && x.b == 0 && x.destOk x.scratchBytes
  | .sts x => x.scratchOk && x.storeOk && x.dataOk x.scratchBytes
  | .atoms x _ => x.scratchOk && x.loadOk && srcOk x.b
  | .ldp x => x.scratchOk && x.loadOk && x.b == 0 && x.destOk x.scratchBytes
  | .stp x => x.scratchOk && x.storeOk && x.dataOk x.scratchBytes
  | .ldpk x => x.globalOk && x.loadOk && x.b.toNat ≤ 2 && x.destOk (4 * 2 ^ x.b.toNat)
  | .pref x => x.globalOk && x.storeOk && x.b.toNat ≤ 1
  | .fence x _ => x.fenceOk
  | .smov x => x.mod == 0 && x.b == 0
  | .sadd x => x.mod == 0
  | .ssub x => x.mod == 0
  | .smul x => x.mod == 0
  | .smulhi x => x.mod.toNat ≤ 1
  | .sand x => x.mod == 0
  | .sor x => x.mod == 0
  | .sxor x => x.mod == 0
  | .sshl x => x.mod == 0
  | .sshr x => x.mod == 0
  | .ssar x => x.mod == 0
  | .smin x => x.mod.toNat ≤ 1
  | .smax x => x.mod.toNat ≤ 1
  | .scmp x => x.d.toNat ≤ 3
  | .ssel _ => true
  | .smovw x _ => x.a == 0 && x.b == 0 && x.mod.toNat ≤ 1
  | .smovd x _ => x.a == 0 && x.b == 0 && x.mod == 0
  | .saddw x _ => x.b == 0 && x.mod == 0
  | .sld x => x.mod != 7
  | .sst x => x.mod.toNat ≤ 3
  | .slda x _ => x.b == 0 && x.mod == 0
  | .sstl x _ => x.b == 0 && x.mod == 0
  | .satom x _ => x.mod == 0
  | .sread x => x.b == 0 && x.mod == 0 && x.a.toNat ≤ 24
  | .swrite x => x.d == 0 && x.mod == 0 && (x.a == 13 || x.a == 14 || x.a == 19)
  | .rdlane x => srcOk x.a && x.mod.toNat ≤ 1 && (x.mod == 0 || evenSrc x.a)
  | .bcast x => x.b == 0 && x.mod.toNat ≤ 1 && x.d.toNat ≤ 15 && (x.mod == 0 || !x.d.getLsbD 0)
  | .sfadd x => x.mod == 0
  | .sfmul x => x.mod == 0
  | .scvt x => cvtCtlOk x.b
  | .spopc x => x.mod == 0 && x.b == 0
  | .sclz x => x.mod == 0 && x.b == 0
  | .actmask x => x.a == 0 && x.b == 0 && x.mod == 0 && x.d.toNat ≤ 60
  | .elect x => x.a == 0 && x.b == 0 && x.mod == 0
  | .sdadd x => x.mod == 0
  | .sdmul x => x.mod == 0
  | .bra _ _ => true
  | .brc _ _ _ _ => true
  | .brd _ _ _ _ => true
  | .join _ => true
  | .call _ _ => true
  | .ret _ => true
  | .calli _ _ => true
  | .region _ items => 1 ≤ items.length && items.length ≤ 16
  | .regionu _ items => 1 ≤ items.length && items.length ≤ 8
  | .exit _ => true
  | .yield _ _ _ => true
  | .barArrive _ _ => true
  | .barWait _ _ => true
  | .barArrivewait _ _ => true
  | .barinit _ _ count => count != 0
  | .carve _ _ _ => true
  | .ixset _ _ _ len => len != 0
  | .spawn _ _ _ => true
  | .trap _ _ => true
  | .tret _ => true
  | .bkpt _ => true
  | .setfpm _ mode => !mode.getLsbD 4
  | .kill _ _ => true
  | .nop32 _ => true
  | .idemStart _ => true
  | .idemCommit _ => true
  | .copy x _ => x.d == 0 && !x.w && isSlot x.a && x.b == 0
  | .copyg x _ => x.d == 0 && !x.w && isSlot x.a && x.b == 0
  | .sqfence x => x.d == 0 && !x.w && x.a == 0 && x.b == 0 && 1 ≤ x.sub.toNat && x.sub.toNat ≤ 3
  | .stream x _ => x.d == 0 && !x.w && isSlot x.a && x.b == 0 && x.sub == 0
  | .mma x _ => x.d == 0 && !x.w && isSlot x.a && isSlot x.b
  | .mbatch x => x.d == 0 && !x.w && x.a == 0 && x.b == 0 && x.sub == 0
  | .mwait x _ => x.d == 0 && !x.w && x.a == 0 && x.b == 0 && x.sub == 0
  | .mdrain x _ => (x.a == 0 || isSlot x.a) && (x.b == 0 || isSlot x.b)
  | .mfill x _ => !x.w && x.b == 0 && (x.a == 0 || isSlot x.a)
  | .mzero x => x.d == 0 && !x.w && x.a == 0 && x.b == 0
  | .neval x _ => x.d == 0 && !x.w && isSlot x.a && x.b == 0 && x.sub == 0
  | .tex x _ => x.w && isEntry x.a && srcOk x.a && isSlot x.b
  | .texf x _ => x.w && isEntry x.a && srcOk x.a && isSlot x.b && x.sub == 0
  | .texq x => x.w && isEntry x.a && srcOk x.a && isSlot x.b && x.sub.toNat ≤ 2 && (x.sub != 0 || x.d.toNat ≤ 13)
  | .trace x => x.w && isEntry x.a && srcOk x.a && isSlot x.b && x.sub.toNat ≤ 2 && x.traceRange
  | .flins x => x.w && x.d.toNat ≤ 7 && isEntry x.a && srcOk x.a && evenSrc x.a && x.entryRange x.a 6 && x.b == 0 && x.sub == 0
  | .flres x => x.w && x.d.toNat ≤ 11 && isEntry x.a && srcOk x.a && evenSrc x.a && x.b == 0 && x.sub == 0
  | .ordent x => x.d == 0 && !x.w && isEntry x.a && srcOk x.a && evenSrc x.a && x.b == 0 && x.sub == 0
  | .ordlv x => x.d == 0 && !x.w && isEntry x.a && srcOk x.a && evenSrc x.a && x.b == 0 && x.sub == 0
  | .patch x => x.d == 0 && !x.w && isEntry x.a && srcOk x.a && evenSrc x.a && x.b == 0 && x.sub == 0
  | .gvtx x _ => x.d == 0 && !x.w && isEntry x.a && srcOk x.a && x.b == 0 && x.sub == 0
  | .tkpush x _ => x.d == 0 && !x.w && x.a == 0 && x.b == 0 && x.sub == 0
  | .tkpop x _ => x.d == 0 && !x.w && x.a == 0 && x.b == 0 && x.sub == 0
  | .tksteal x _ => x.d == 0 && !x.w && x.a == 0 && x.b == 0 && x.sub == 0
  | .tkdone x _ => x.d == 0 && !x.w && x.a == 0 && x.b == 0 && x.sub == 0
  | .xchg x => x.w && isEntry x.a && srcOk x.a && isSlot x.b && x.sub == 0
  | .cred x _ => x.d == 0 && !x.w && isEntry x.a && srcOk x.a && isSlot x.b && x.sub == 0
  | .rlogDisable x => x.d == 0 && !x.w && x.a == 0 && x.b == 0 && x.sub == 0
  | .rlogRecord x => x.d == 0 && !x.w && x.a == 0 && isSlot x.b && x.sub == 1
  | .rlogReplay x => x.d == 0 && !x.w && x.a == 0 && isSlot x.b && x.sub == 2
  | .rlogMark x => x.d == 0 && !x.w && x.a == 0 && x.b == 0 && x.sub == 3
  | .launch _ _ => false
  | .launch2 _ _ _ _ => false
  | .ib _ _ _ => false
  | .pred _ _ _ => false
  | .loop _ _ _ => false
  | .wait _ _ => false
  | .signal _ _ _ _ _ _ => false
  | .ffence _ => false
  | .graph _ _ _ _ => false
  | .phase _ _ _ => false
  | .passBegin _ _ => false
  | .passNext _ => false
  | .passEnd _ => false
  | .nopp _ => false
  | .waitRecheck _ => false
  | .writeOffsetReread _ => false
  | .slotRelease _ => false
  | .bindRound => false
  | .parkConditionEval _ => false
  | .cancelWordWrite _ => false
  | .groupKill _ => false
  | .teamAdmit _ => false
  | .slotMaskReserve _ => false
  | .launchComplete _ => false
  | .prologueRun _ => false
  | .teamEnd _ => false
  | .groupStorageDrain _ => false
  | .operandSlotGrant _ => false
  | .barrierWaitReturn _ => false
  | .yieldWake _ => false
  | .xchgPairing _ _ => false
  | .carveArrival _ => false
  | .splitPhaseResult _ _ => false
  | .trapEntry _ => false
  | .preemptRequest _ => false
  | .preemptStop _ => false
  | .teamContextSave _ => false
  | .graphicsKill _ => false
  | .graphicsReplay _ => false
  | .patchDice _ => false
  | .gridGroupStart _ => false
  | .sequenceWrap _ => false
  | .binFlush _ => false
  | .micropolygonSample _ => false
  | .fragmentGroupClose _ => false
  | .sampleGroupStart _ => false
  | .fragmentListInsertion _ => false
  | .tileResolve _ _ => false
  | .pageWalk _ _ _ => false
  | .priResponse _ _ _ => false
  | .atsInvalidation _ _ _ => false
  | .hostSnoop _ => false
  | .hostMemoryAccess _ _ => false
  | .peerMessageReceive _ _ _ => false
  | .peerLinkLoss _ => false
  | .peerDestinationTimeout _ => false
  | .gcmTagFailure _ => false
  | .brualLinkTraining _ _ => false
  | .homeRequestArrival _ => false
  | .combinerLaunch _ => false
  | .combinerInstructionLimit _ => false
  | .burlAtomicUpdate _ => false
  | .edgeAtomic _ => false
  | .sliceMapRemap _ _ => false
  | .columnPowerOff _ => false
  | .columnPowerOn _ => false
  | .patrolScrub _ _ => false
  | .streamEntryComplete _ _ => false
  | .streamFillBox _ _ => false
  | .streamDrainBox _ _ => false
  | .tileOperationRetire _ _ => false
  | .aFetchResume _ _ => false
  | .whorlRequestArrival _ => false
  | .whorlIdleTileForm _ _ => false
  | .whorlTileReturn _ => false
  | .collectiveCombine _ => false
  | .createJob _ _ => false
  | .destroyJob _ => false
  | .cancelJob _ => false
  | .registerQueue _ _ _ => false
  | .unregisterQueue _ _ => false
  | .invalidate _ _ _ => false
  | .resident _ _ _ => false
  | .collective _ _ => false
  | .attest _ _ _ => false
  | .debugAuth _ _ _ => false
  | .flashUpdate _ _ _ => false
  | .wakeRegisterWrite _ => false
  | .wakeBufferReplay => false
  | .pfctlClear _ _ => false
  | .thermstatWrite _ => false
  | .pwrctlWrite _ => false
  | .rcvctlGo _ => false
  | .recoveryFetchDone => false
  | .registerWrite _ _ _ => false
  | .debugAccess _ _ _ => false
  | .resetNRise => false
  | .pcieLinkUp => false
  | .railFault => false
  | .perstN => false
  | .d3coldEntry => false
  | .powerLimitEval _ => false
  | .powerLimitNotMet _ => false
  | .pmbusFault => false
  | .thermalThrottleStep _ _ => false
  | .thermalCritical _ _ => false
  | .thermalCriticalTimeout => false
  | .thermalTrip _ _ => false
  | .watchdogExpiry => false
  | .spareTakeover => false
  | .resetNFall => false
  | .d3hotEntry => false
  | .blockPowerStateChange _ _ => false
  | .tdiIdeStateChange _ _ _ => false
  | .thermalRecovery _ _ => false

/-- What the extension words must satisfy (R146, R147, R151, R159, R233, R464). -/
def wfExt : Instr → Bool
  | .nop => true
  | .mov16 _ => true
  | .iadd16 _ => true
  | .isub16 _ => true
  | .imul16 _ => true
  | .and16 _ => true
  | .or16 _ => true
  | .xor16 _ => true
  | .shl16 _ => true
  | .shr16 _ => true
  | .sar16 _ => true
  | .fadd16 _ => true
  | .fsub16 _ => true
  | .fmul16 _ => true
  | .fmin16 _ => true
  | .fmax16 _ => true
  | .imin16 _ => true
  | .fma32 x => spOk x.sp
  | .fma64 x => spOk x.sp
  | .fmah2 x => spOk x.sp
  | .fmab2 x => spOk x.sp
  | .muladd x => spOk x.sp
  | .muladdh x => spOk x.sp
  | .choose x => spOk x.sp
  | .bitins x => spOk x.sp
  | .shrcat x => spOk x.sp
  | .dp4s8 x => spOk x.sp
  | .dp4u8 x => spOk x.sp
  | .dp8s4 x => spOk x.sp
  | .dp4e4 x => spOk x.sp
  | .dp4e5 x => spOk x.sp
  | .dp8f4 x => spOk x.sp
  | .dp2h x => spOk x.sp
  | .mov x => spOk x.sp
  | .iadd x => spOk x.sp
  | .isub x => spOk x.sp
  | .imul x => spOk x.sp
  | .imulhi x => spOk x.sp
  | .imin x => spOk x.sp
  | .imax x => spOk x.sp
  | .iabs x => spOk x.sp
  | .and x => spOk x.sp
  | .or x => spOk x.sp
  | .xor x => spOk x.sp
  | .andn x => spOk x.sp
  | .shl x => spOk x.sp
  | .shr x => spOk x.sp
  | .sar x => spOk x.sp
  | .rot x => spOk x.sp
  | .popc x => spOk x.sp
  | .clz x => spOk x.sp
  | .brev x => spOk x.sp
  | .bfx x => spOk x.sp
  | .lea x => spOk x.sp
  | .iadd64 x => spOk x.sp
  | .icmp x => spOk x.sp
  | .pmov x => spOk x.sp
  | .fadd x => spOk x.sp
  | .fsub x => spOk x.sp
  | .fmul x => spOk x.sp
  | .fmin x => spOk x.sp
  | .fmax x => spOk x.sp
  | .fcmp x => spOk x.sp
  | .fclass x => spOk x.sp
  | .fint x => spOk x.sp
  | .frcp x => spOk x.sp
  | .frsq x => spOk x.sp
  | .fsqrt x => spOk x.sp
  | .fexp2 x => spOk x.sp
  | .flog2 x => spOk x.sp
  | .fsin x => spOk x.sp
  | .fcos x => spOk x.sp
  | .dadd x => spOk x.sp
  | .dmul x => spOk x.sp
  | .dmin x => spOk x.sp
  | .dmax x => spOk x.sp
  | .dcmp x => spOk x.sp
  | .drcp x => spOk x.sp
  | .dsqrt x => spOk x.sp
  | .hadd2 x => spOk x.sp
  | .hmul2 x => spOk x.sp
  | .badd2 x => spOk x.sp
  | .bmul2 x => spOk x.sp
  | .cvt x => spOk x.sp
  | .pack x => spOk x.sp
  | .unpack x => spOk x.sp
  | .xlane x => spOk x.sp
  | .poll x => spOk x.sp
  | .scan x => spOk x.sp
  | .lred x => spOk x.sp
  | .movx x => spOk x.sp
  | .stx x => spOk x.sp
  | .pcomb x => spOk x.sp
  | .hmin2 x => spOk x.sp
  | .hmax2 x => spOk x.sp
  | .hcmp2 x => spOk x.sp
  | .iaddi x => spOk x.sp
  | .andi x => spOk x.sp
  | .ori x => spOk x.sp
  | .xori x => spOk x.sp
  | .shli x => spOk x.sp
  | .shri x => spOk x.sp
  | .sari x => spOk x.sp
  | .imuli x => spOk x.sp
  | .icmpi x => spOk x.sp
  | .movi x => spOk x.sp
  | .movw x _ => spOk x.sp
  | .leai x => spOk x.sp
  | .faddw x _ => spOk x.sp
  | .fmulw x _ => spOk x.sp
  | .iaddw x _ => spOk x.sp
  | .ld8 x => spOk x.sp
  | .ld8s x => spOk x.sp
  | .ld16 x => spOk x.sp
  | .ld16s x => spOk x.sp
  | .ld32 x => spOk x.sp
  | .ld64 x => spOk x.sp
  | .ld128 x => spOk x.sp
  | .st8 x => spOk x.sp
  | .st16 x => spOk x.sp
  | .st32 x => spOk x.sp
  | .st64 x => spOk x.sp
  | .st128 x => spOk x.sp
  | .lda x o => spOk x.sp && o.ldaOk && x.destOk o.bytes
  | .stl x o => spOk x.sp && o.stlOk && x.dataOk o.bytes
  | .atom x o => spOk x.sp && o.atomOk && x.atomForm o true o.bytes
  | .red x o => spOk x.sp && o.redOk && x.dataOk o.bytes
  | .callm x o => spOk x.sp && o.callmOk && x.dataOk o.bytes
  | .postm x o => spOk x.sp && o.postmOk && x.dataOk o.bytes
  | .lds x => spOk x.sp
  | .sts x => spOk x.sp
  | .atoms x o => spOk x.sp && o.atomsOk && o.bytes == x.scratchBytes && x.atomForm o false o.bytes
  | .ldp x => spOk x.sp
  | .stp x => spOk x.sp
  | .ldpk x => spOk x.sp
  | .pref x => spOk x.sp
  | .fence x o => spOk x.sp && o.fenceOk
  | .smov x => spOk x.sp
  | .sadd x => spOk x.sp
  | .ssub x => spOk x.sp
  | .smul x => spOk x.sp
  | .smulhi x => spOk x.sp
  | .sand x => spOk x.sp
  | .sor x => spOk x.sp
  | .sxor x => spOk x.sp
  | .sshl x => spOk x.sp
  | .sshr x => spOk x.sp
  | .ssar x => spOk x.sp
  | .smin x => spOk x.sp
  | .smax x => spOk x.sp
  | .scmp x => spOk x.sp
  | .ssel x => spOk x.sp
  | .smovw x _ => spOk x.sp
  | .smovd x _ => spOk x.sp
  | .saddw x _ => spOk x.sp
  | .sld x => spOk x.sp
  | .sst x => spOk x.sp
  | .slda x o => spOk x.sp && o.ldaOk && o.bytes ≤ 8
  | .sstl x o => spOk x.sp && o.stlOk && o.bytes ≤ 8
  | .satom x o => spOk x.sp && o.atomOk && o.bytes ≤ 8
  | .sread x => spOk x.sp
  | .swrite x => spOk x.sp
  | .rdlane x => spOk x.sp
  | .bcast x => spOk x.sp
  | .sfadd x => spOk x.sp
  | .sfmul x => spOk x.sp
  | .scvt x => spOk x.sp
  | .spopc x => spOk x.sp
  | .sclz x => spOk x.sp
  | .actmask x => spOk x.sp
  | .elect x => spOk x.sp
  | .sdadd x => spOk x.sp
  | .sdmul x => spOk x.sp
  | .bra sp _ => spOk sp
  | .brc sp _ _ _ => spOk sp
  | .brd sp _ _ _ => spOk sp
  | .join sp => spOk sp
  | .call sp _ => spOk sp
  | .ret sp => spOk sp
  | .calli sp _ => spOk sp
  | .region sp items => spOk sp && regionOk items
  | .regionu sp items => spOk sp && regionuOk items
  | .exit sp => spOk sp
  | .yield sp _ _ => spOk sp
  | .barArrive sp _ => spOk sp
  | .barWait sp _ => spOk sp
  | .barArrivewait sp _ => spOk sp
  | .barinit sp _ _ => spOk sp
  | .carve sp _ _ => spOk sp
  | .ixset sp _ _ _ => spOk sp
  | .spawn sp _ _ => spOk sp
  | .trap sp _ => spOk sp
  | .tret sp => spOk sp
  | .bkpt sp => spOk sp
  | .setfpm sp _ => spOk sp
  | .kill sp _ => spOk sp
  | .nop32 sp => spOk sp
  | .idemStart sp => spOk sp
  | .idemCommit sp => spOk sp
  | .copy x k => spOk x.sp && hi k 9 && fld k 2 1 ≤ 2 && fld k 8 3 ≤ 58
  | .copyg x k => spOk x.sp && hi k 9 && fld k 2 1 == 0 && fld k 8 3 ≤ 61
  | .sqfence x => spOk x.sp
  | .stream x k => spOk x.sp && hi k 20 && fld k 5 2 ≥ 1 && fld k 19 14 ≤ 56
  | .mma x k => spOk x.sp && hi k 13 && mmaKinds (fld k 4 2) (fld k 7 5)
  | .mbatch x => spOk x.sp
  | .mwait x k => spOk x.sp && hi k 10
  | .mdrain x k => spOk x.sp && x.drainOk k
  | .mfill x k => spOk x.sp && x.fillOk k
  | .mzero x => spOk x.sp
  | .neval x k => spOk x.sp && hi k 16 && fld k 9 4 ≥ 7 && fld k 15 10 ≥ 3
  | .tex x k => spOk x.sp && hi k 7 && texOk k && x.entryRange x.a (texInputs k) && x.d.toNat + texOutputs k ≤ 16
  | .texf x k => spOk x.sp && hi k 7 && fld k 3 2 ≤ 1 && x.entryRange x.a (texfInputs k) && x.d.toNat + texOutputs k ≤ 16
  | .texq x => spOk x.sp
  | .trace x => spOk x.sp
  | .flins x => spOk x.sp
  | .flres x => spOk x.sp
  | .ordent x => spOk x.sp
  | .ordlv x => spOk x.sp
  | .patch x => spOk x.sp
  | .gvtx x k => spOk x.sp && hi k 3 && fld k 2 0 ≤ 4 && x.entryRange x.a (6 + 2 * fld k 2 0)
  | .tkpush x k => spOk x.sp && hi k 8 && fld k 7 2 ≤ 56
  | .tkpop x k => spOk x.sp && hi k 8 && fld k 7 2 ≤ 56
  | .tksteal x k => spOk x.sp && hi k 8 && fld k 7 2 ≤ 56
  | .tkdone x k => spOk x.sp && hi k 8 && fld k 7 2 ≤ 56
  | .xchg x => spOk x.sp
  | .cred x k => spOk x.sp && fld k 15 4 == 0 && fld k 1 0 ≤ 2 && fld k 3 2 ≤ 2
  | .rlogDisable x => spOk x.sp
  | .rlogRecord x => spOk x.sp
  | .rlogReplay x => spOk x.sp
  | .rlogMark x => spOk x.sp
  | .launch _ _ => false
  | .launch2 _ _ _ _ => false
  | .ib _ _ _ => false
  | .pred _ _ _ => false
  | .loop _ _ _ => false
  | .wait _ _ => false
  | .signal _ _ _ _ _ _ => false
  | .ffence _ => false
  | .graph _ _ _ _ => false
  | .phase _ _ _ => false
  | .passBegin _ _ => false
  | .passNext _ => false
  | .passEnd _ => false
  | .nopp _ => false
  | .waitRecheck _ => false
  | .writeOffsetReread _ => false
  | .slotRelease _ => false
  | .bindRound => false
  | .parkConditionEval _ => false
  | .cancelWordWrite _ => false
  | .groupKill _ => false
  | .teamAdmit _ => false
  | .slotMaskReserve _ => false
  | .launchComplete _ => false
  | .prologueRun _ => false
  | .teamEnd _ => false
  | .groupStorageDrain _ => false
  | .operandSlotGrant _ => false
  | .barrierWaitReturn _ => false
  | .yieldWake _ => false
  | .xchgPairing _ _ => false
  | .carveArrival _ => false
  | .splitPhaseResult _ _ => false
  | .trapEntry _ => false
  | .preemptRequest _ => false
  | .preemptStop _ => false
  | .teamContextSave _ => false
  | .graphicsKill _ => false
  | .graphicsReplay _ => false
  | .patchDice _ => false
  | .gridGroupStart _ => false
  | .sequenceWrap _ => false
  | .binFlush _ => false
  | .micropolygonSample _ => false
  | .fragmentGroupClose _ => false
  | .sampleGroupStart _ => false
  | .fragmentListInsertion _ => false
  | .tileResolve _ _ => false
  | .pageWalk _ _ _ => false
  | .priResponse _ _ _ => false
  | .atsInvalidation _ _ _ => false
  | .hostSnoop _ => false
  | .hostMemoryAccess _ _ => false
  | .peerMessageReceive _ _ _ => false
  | .peerLinkLoss _ => false
  | .peerDestinationTimeout _ => false
  | .gcmTagFailure _ => false
  | .brualLinkTraining _ _ => false
  | .homeRequestArrival _ => false
  | .combinerLaunch _ => false
  | .combinerInstructionLimit _ => false
  | .burlAtomicUpdate _ => false
  | .edgeAtomic _ => false
  | .sliceMapRemap _ _ => false
  | .columnPowerOff _ => false
  | .columnPowerOn _ => false
  | .patrolScrub _ _ => false
  | .streamEntryComplete _ _ => false
  | .streamFillBox _ _ => false
  | .streamDrainBox _ _ => false
  | .tileOperationRetire _ _ => false
  | .aFetchResume _ _ => false
  | .whorlRequestArrival _ => false
  | .whorlIdleTileForm _ _ => false
  | .whorlTileReturn _ => false
  | .collectiveCombine _ => false
  | .createJob _ _ => false
  | .destroyJob _ => false
  | .cancelJob _ => false
  | .registerQueue _ _ _ => false
  | .unregisterQueue _ _ => false
  | .invalidate _ _ _ => false
  | .resident _ _ _ => false
  | .collective _ _ => false
  | .attest _ _ _ => false
  | .debugAuth _ _ _ => false
  | .flashUpdate _ _ _ => false
  | .wakeRegisterWrite _ => false
  | .wakeBufferReplay => false
  | .pfctlClear _ _ => false
  | .thermstatWrite _ => false
  | .pwrctlWrite _ => false
  | .rcvctlGo _ => false
  | .recoveryFetchDone => false
  | .registerWrite _ _ _ => false
  | .debugAccess _ _ _ => false
  | .resetNRise => false
  | .pcieLinkUp => false
  | .railFault => false
  | .perstN => false
  | .d3coldEntry => false
  | .powerLimitEval _ => false
  | .powerLimitNotMet _ => false
  | .pmbusFault => false
  | .thermalThrottleStep _ _ => false
  | .thermalCritical _ _ => false
  | .thermalCriticalTimeout => false
  | .thermalTrip _ _ => false
  | .watchdogExpiry => false
  | .spareTakeover => false
  | .resetNFall => false
  | .d3hotEntry => false
  | .blockPowerStateChange _ _ => false
  | .tdiIdeStateChange _ _ _ => false
  | .thermalRecovery _ _ => false

/-- A well-formed instruction: one whose encoding is not reserved and has 0 in every field marked 0. -/
def wf (i : Instr) : Bool := wfWord i && wfExt i

end Sys2Proof
end

