-- ==== Sys2Proof/Decode.lean ====
section
/-! DEFINITION. The decoder (R136 to R160, R466) and, after it, the encoder. Both are written from the field tables of
chapter 5. Decoding has two stages, because R453 reports ILLEGAL_ENC before the FETCH causes of later parcels: `wordOk`
looks at the instruction word alone, `decodeLong` at the word with its extension words. -/

namespace Sys2Proof

/-- Why bytes hold no instruction. -/
inductive DecodeError where
  /-- Fewer bytes than the instruction's parcels and extension words. -/
  | truncated
  /-- A reserved or malformed encoding: the trap cause ILLEGAL_ENC of R447. -/
  | illegalEnc
  deriving DecidableEq, Repr

/-- Bits `[lo+n-1:lo]` of a word as a number. -/
def bits (w : Word) (lo n : Nat) : Nat := w.toNat / 2 ^ lo % 2 ^ n

/-- Bit `i` of a word. -/
def bitAt (w : Word) (i : Nat) : Bool := w.toNat / 2 ^ i % 2 == 1

/-- Bits `[lo+n-1:lo]` of a word as a bit vector. -/
def fb (w : Word) (lo n : Nat) : BitVec n := BitVec.ofNat n (w.toNat / 2 ^ lo)

/-- A predicate field: bits [2:0] the predicate, bit [3] the inversion (R172). -/
def predField (w : Word) (lo : Nat) : PredField := ⟨Fin.ofNat 8 (bits w lo 3), bitAt w (lo + 3)⟩

def h16 (p : Word) : H16 := { w := bitAt p 15, u := bitAt p 14, s := fb p 9 5, d := fb p 5 4 }

def v3 (w : Word) (sp : Sp) : V3 :=
  { sp := sp, d := fb w 9 4, w := bitAt w 13, a := fb w 14 6, b := fb w 20 6, c := fb w 26 6 }

def chooseArgs (w : Word) (sp : Sp) : ChooseArgs :=
  { sp := sp, d := fb w 9 4, w := bitAt w 13, a := fb w 14 6, b := fb w 20 6, p := predField w 26 }

def v2 (w : Word) (sp : Sp) : V2 :=
  { sp := sp, mod := fb w 11 3, d := fb w 14 4, w := bitAt w 18, a := fb w 19 6, b := fb w 25 6, s := bitAt w 31 }

def vi (w : Word) (sp : Sp) : VI :=
  { sp := sp, d := fb w 9 4, w := bitAt w 13, a := fb w 14 6, imm := fb w 20 12 }

def mem (w : Word) (disp : Option Word) (sp : Sp) : Mem :=
  { sp := sp, d := fb w 10 4, w := bitAt w 14, a := fb w 15 6, b := fb w 21 6, g := fb w 27 3, m := fb w 30 2, disp := disp }

def uni (w : Word) (sp : Sp) : Uni :=
  { sp := sp, d := fb w 11 6, a := fb w 17 6, b := fb w 23 6, mod := fb w 29 3 }

def asy (w : Word) (sp : Sp) : Asy :=
  { sp := sp, d := fb w 11 4, w := bitAt w 15, a := fb w 16 6, b := fb w 22 6, sub := fb w 28 4 }

/-- The order word (R156). Bits [31:23] must be 0. -/
def orderOf (k : Word) : Order :=
  { method := fb k 19 4, size := fb k 17 2, reassoc := bitAt k 16, aop := fb k 11 5, fail := fb k 8 3, ord := fb k 5 3, mask := fb k 0 5 }

def orderThen (k : Word) (f : Order → Instr) : Option Instr := if hi k 23 then some (f (orderOf k)) else none


/-- Every parcel of the 16-bit format (R138); 0x0000 is the canonical NOP. -/
def build16 (p : Word) : Instr :=
  if p == 0 then .nop else
  match bits p 1 4 with
  | 0 => .mov16 (h16 p)
  | 1 => .iadd16 (h16 p)
  | 2 => .isub16 (h16 p)
  | 3 => .imul16 (h16 p)
  | 4 => .and16 (h16 p)
  | 5 => .or16 (h16 p)
  | 6 => .xor16 (h16 p)
  | 7 => .shl16 (h16 p)
  | 8 => .shr16 (h16 p)
  | 9 => .sar16 (h16 p)
  | 10 => .fadd16 (h16 p)
  | 11 => .fsub16 (h16 p)
  | 12 => .fmul16 (h16 p)
  | 13 => .fmin16 (h16 p)
  | 14 => .fmax16 (h16 p)
  | _ => .imin16 (h16 p)

/-- The V3 op map (R152). -/
def buildV3 (w : Word) (sp : Sp) : Option Instr :=
  match bits w 5 4 with
  | 0 => some (.fma32 (v3 w sp))
  | 1 => some (.fma64 (v3 w sp))
  | 2 => some (.fmah2 (v3 w sp))
  | 3 => some (.fmab2 (v3 w sp))
  | 4 => some (.muladd (v3 w sp))
  | 5 => some (.muladdh (v3 w sp))
  | 6 => if bits w 30 2 == 0 then some (.choose (chooseArgs w sp)) else none
  | 7 => some (.bitins (v3 w sp))
  | 8 => some (.shrcat (v3 w sp))
  | 9 => some (.dp4s8 (v3 w sp))
  | 10 => some (.dp4u8 (v3 w sp))
  | 11 => some (.dp8s4 (v3 w sp))
  | 12 => some (.dp4e4 (v3 w sp))
  | 13 => some (.dp4e5 (v3 w sp))
  | 14 => some (.dp8f4 (v3 w sp))
  | 15 => some (.dp2h (v3 w sp))
  | _ => none

/-- The V2 op map (R153); op 63 is reserved. -/
def buildV2 (w : Word) (sp : Sp) : Option Instr :=
  match bits w 5 6 with
  | 0 => some (.mov (v2 w sp))
  | 1 => some (.iadd (v2 w sp))
  | 2 => some (.isub (v2 w sp))
  | 3 => some (.imul (v2 w sp))
  | 4 => some (.imulhi (v2 w sp))
  | 5 => some (.imin (v2 w sp))
  | 6 => some (.imax (v2 w sp))
  | 7 => some (.iabs (v2 w sp))
  | 8 => some (.and (v2 w sp))
  | 9 => some (.or (v2 w sp))
  | 10 => some (.xor (v2 w sp))
  | 11 => some (.andn (v2 w sp))
  | 12 => some (.shl (v2 w sp))
  | 13 => some (.shr (v2 w sp))
  | 14 => some (.sar (v2 w sp))
  | 15 => some (.rot (v2 w sp))
  | 16 => some (.popc (v2 w sp))
  | 17 => some (.clz (v2 w sp))
  | 18 => some (.brev (v2 w sp))
  | 19 => some (.bfx (v2 w sp))
  | 20 => some (.lea (v2 w sp))
  | 21 => some (.iadd64 (v2 w sp))
  | 22 => some (.icmp (v2 w sp))
  | 23 => some (.pmov (v2 w sp))
  | 24 => some (.fadd (v2 w sp))
  | 25 => some (.fsub (v2 w sp))
  | 26 => some (.fmul (v2 w sp))
  | 27 => some (.fmin (v2 w sp))
  | 28 => some (.fmax (v2 w sp))
  | 29 => some (.fcmp (v2 w sp))
  | 30 => some (.fclass (v2 w sp))
  | 31 => some (.fint (v2 w sp))
  | 32 => some (.frcp (v2 w sp))
  | 33 => some (.frsq (v2 w sp))
  | 34 => some (.fsqrt (v2 w sp))
  | 35 => some (.fexp2 (v2 w sp))
  | 36 => some (.flog2 (v2 w sp))
  | 37 => some (.fsin (v2 w sp))
  | 38 => some (.fcos (v2 w sp))
  | 39 => some (.dadd (v2 w sp))
  | 40 => some (.dmul (v2 w sp))
  | 41 => some (.dmin (v2 w sp))
  | 42 => some (.dmax (v2 w sp))
  | 43 => some (.dcmp (v2 w sp))
  | 44 => some (.drcp (v2 w sp))
  | 45 => some (.dsqrt (v2 w sp))
  | 46 => some (.hadd2 (v2 w sp))
  | 47 => some (.hmul2 (v2 w sp))
  | 48 => some (.badd2 (v2 w sp))
  | 49 => some (.bmul2 (v2 w sp))
  | 50 => some (.cvt (v2 w sp))
  | 51 => some (.pack (v2 w sp))
  | 52 => some (.unpack (v2 w sp))
  | 53 => some (.xlane (v2 w sp))
  | 54 => some (.poll (v2 w sp))
  | 55 => some (.scan (v2 w sp))
  | 56 => some (.lred (v2 w sp))
  | 57 => some (.movx (v2 w sp))
  | 58 => some (.stx (v2 w sp))
  | 59 => some (.pcomb (v2 w sp))
  | 60 => some (.hmin2 (v2 w sp))
  | 61 => some (.hmax2 (v2 w sp))
  | 62 => some (.hcmp2 (v2 w sp))
  | _ => none

/-- The VI op map (R154); op 15 is reserved. `k` is the extension word of MOVW, FADDW, FMULW and IADDW. -/
def buildVI (w : Word) (k : Word) (sp : Sp) : Option Instr :=
  match bits w 5 4 with
  | 0 => some (.iaddi (vi w sp))
  | 1 => some (.andi (vi w sp))
  | 2 => some (.ori (vi w sp))
  | 3 => some (.xori (vi w sp))
  | 4 => some (.shli (vi w sp))
  | 5 => some (.shri (vi w sp))
  | 6 => some (.sari (vi w sp))
  | 7 => some (.imuli (vi w sp))
  | 8 => some (.icmpi (vi w sp))
  | 9 => some (.movi (vi w sp))
  | 10 => some (.movw (vi w sp) k)
  | 11 => some (.leai (vi w sp))
  | 12 => some (.faddw (vi w sp) k)
  | 13 => some (.fmulw (vi w sp) k)
  | 14 => some (.iaddw (vi w sp) k)
  | _ => none

/-- The MEM op map (R155); ops 26 to 31 are reserved. `o` is the order word (R156). -/
def buildMem (w : Word) (disp : Option Word) (o : Word) (sp : Sp) : Option Instr :=
  let x := mem w disp sp
  match bits w 5 5 with
  | 0 => some (.ld8 x)
  | 1 => some (.ld8s x)
  | 2 => some (.ld16 x)
  | 3 => some (.ld16s x)
  | 4 => some (.ld32 x)
  | 5 => some (.ld64 x)
  | 6 => some (.ld128 x)
  | 7 => some (.st8 x)
  | 8 => some (.st16 x)
  | 9 => some (.st32 x)
  | 10 => some (.st64 x)
  | 11 => some (.st128 x)
  | 12 => orderThen o (.lda x)
  | 13 => orderThen o (.stl x)
  | 14 => orderThen o (.atom x)
  | 15 => orderThen o (.red x)
  | 16 => orderThen o (.callm x)
  | 17 => orderThen o (.postm x)
  | 18 => some (.lds x)
  | 19 => some (.sts x)
  | 20 => orderThen o (.atoms x)
  | 21 => some (.ldp x)
  | 22 => some (.stp x)
  | 23 => some (.ldpk x)
  | 24 => some (.pref x)
  | 25 => orderThen o (.fence x)
  | _ => none

/-- The UNI op map (R157); ops 36 to 63 are reserved. `k` is the first own word, `k2` the second. -/
def buildUni (w : Word) (k k2 : Word) (sp : Sp) : Option Instr :=
  let x := uni w sp
  match bits w 5 6 with
  | 0 => some (.smov x)
  | 1 => some (.sadd x)
  | 2 => some (.ssub x)
  | 3 => some (.smul x)
  | 4 => some (.smulhi x)
  | 5 => some (.sand x)
  | 6 => some (.sor x)
  | 7 => some (.sxor x)
  | 8 => some (.sshl x)
  | 9 => some (.sshr x)
  | 10 => some (.ssar x)
  | 11 => some (.smin x)
  | 12 => some (.smax x)
  | 13 => some (.scmp x)
  | 14 => some (.ssel x)
  | 15 => some (.smovw x k)
  | 16 => some (.smovd x (k2 ++ k))
  | 17 => some (.saddw x k)
  | 18 => some (.sld x)
  | 19 => some (.sst x)
  | 20 => orderThen k (.slda x)
  | 21 => orderThen k (.sstl x)
  | 22 => orderThen k (.satom x)
  | 23 => some (.sread x)
  | 24 => some (.swrite x)
  | 25 => some (.rdlane x)
  | 26 => some (.bcast x)
  | 27 => some (.sfadd x)
  | 28 => some (.sfmul x)
  | 29 => some (.scvt x)
  | 30 => some (.spopc x)
  | 31 => some (.sclz x)
  | 32 => some (.actmask x)
  | 33 => some (.elect x)
  | 34 => some (.sdadd x)
  | 35 => some (.sdmul x)
  | _ => none

/-- The ASY op map (R159); ops 28 to 63 are reserved. `k` is the extension word. -/
def buildAsy (w : Word) (k : Word) (sp : Sp) : Option Instr :=
  let x := asy w sp
  match bits w 5 6 with
  | 0 => some (.copy x k)
  | 1 => some (.copyg x k)
  | 2 => some (.sqfence x)
  | 3 => some (.stream x k)
  | 4 => some (.mma x k)
  | 5 => some (.mbatch x)
  | 6 => some (.mwait x k)
  | 7 => some (.mdrain x k)
  | 8 => some (.mfill x k)
  | 9 => some (.mzero x)
  | 10 => some (.neval x k)
  | 11 => some (.tex x k)
  | 12 => some (.texf x k)
  | 13 => some (.texq x)
  | 14 => some (.trace x)
  | 15 => some (.flins x)
  | 16 => some (.flres x)
  | 17 => some (.ordent x)
  | 18 => some (.ordlv x)
  | 19 => some (.patch x)
  | 20 => some (.gvtx x k)
  | 21 => some (.tkpush x k)
  | 22 => some (.tkpop x k)
  | 23 => some (.tksteal x k)
  | 24 => some (.tkdone x k)
  | 25 => some (.xchg x)
  | 26 => some (.cred x k)
  | 27 => match x.sub.toNat with
    | 0 => some (.rlogDisable x)
    | 1 => some (.rlogRecord x)
    | 2 => some (.rlogReplay x)
    | 3 => some (.rlogMark x)
    | _ => none
  | _ => none

/-- Item `i` of REGION's extension words (R146): 16 bits, two to a word. -/
def regionItem (ws : List Word) (i : Nat) : Nat := (ws.getD (i / 2) 0).toNat / 2 ^ (16 * (i % 2)) % 2 ^ 16

def regionItemOf (n : Nat) : RegionItem :=
  { entry := Fin.ofNat 16 (n / 2 ^ 12), v := BitVec.ofNat 8 (n / 2 ^ 4), load := n / 2 ^ 3 % 2 == 1, keep := n / 2 ^ 2 % 2 == 1 }

/-- The items of REGION: bits [1:0] of each and an unused upper half are 0 (R146). -/
def regionItems (n : Nat) (ws : List Word) : Option (List RegionItem) :=
  if (List.range n).all (fun i => regionItem ws i % 4 == 0) && (n % 2 == 0 || regionItem ws n == 0) then
    some ((List.range n).map fun i => regionItemOf (regionItem ws i))
  else none

/-- Item `i` of REGIONU's extension words (R147): 9 bits, three to a word. -/
def slotItem (ws : List Word) (i : Nat) : Nat := (ws.getD (i / 3) 0).toNat / 2 ^ (9 * (i % 3)) % 2 ^ 9

def slotItemOf (n : Nat) : SlotItem := { w := Fin.ofNat 8 (n / 2 ^ 6), s := BitVec.ofNat 6 n }

/-- The items of REGIONU: bits [31:27] of each word and unused items are 0 (R147). -/
def slotItems (n : Nat) (ws : List Word) : Option (List SlotItem) :=
  if ws.all (fun k => hi k 27) && (List.range (3 * ws.length)).all (fun i => i < n || slotItem ws i == 0) then
    some ((List.range n).map fun i => slotItemOf (slotItem ws i))
  else none

/-- Own extension words of an instruction word (R154, R155, R157, R158, R159), the order word included. -/
def ownWords (w : Word) : Nat :=
  match bits w 2 3 with
  | 2 => let op := bits w 5 4; if op == 10 || op == 12 || op == 13 || op == 14 then 1 else 0
  | 3 =>
    let op := bits w 5 5
    let short := op == 18 || op == 19 || op == 20 || op == 21 || op == 22
    let disp := if op == 25 then 0 else if short then bits w 29 1 else if bits w 30 2 == 3 then 1 else 0
    disp + (if (12 ≤ op && op ≤ 17) || op == 20 || op == 25 then 1 else 0)
  | 4 => let op := bits w 5 6; if op == 16 then 2 else if op == 15 || op == 17 || (20 ≤ op && op ≤ 22) then 1 else 0
  | 5 =>
    match bits w 5 5 with
    | 2 => 1
    | 7 => (bits w 10 4 + 2) / 2
    | 8 => (bits w 10 3 + 3) / 3
    | _ => 0
  | 6 =>
    let op := bits w 5 6
    if op == 2 || op == 5 || op == 9 || (13 ≤ op && op ≤ 19) || op == 25 || 27 ≤ op then 0 else 1
  | _ => 0

/-- Extension words that follow an instruction word (R136, R137). -/
def extCount (w : Word) : Nat := ownWords w + (if bitAt w 1 then 1 else 0)

/-- The CTL op map (R158); ops 23 to 31 are reserved and every bit the table does not name is 0. -/
def buildCtl (w : Word) (own : List Word) (sp : Sp) : Option Instr :=
  let k := own.getD 0 0
  match bits w 5 5 with
  | 0 => some (.bra sp (fb w 10 22))
  | 1 => if bitAt w 13 then none else some (.brc sp (Fin.ofNat 4 (bits w 10 2)) (bitAt w 12) (fb w 14 18))
  | 2 => some (.brd sp (predField w 10) (fb w 14 18) k)
  | 3 => if hi w 10 then some (.join sp) else none
  | 4 => some (.call sp (fb w 10 22))
  | 5 => if hi w 10 then some (.ret sp) else none
  | 6 => if hi w 16 then some (.calli sp (fb w 10 6)) else none
  | 7 => if hi w 14 then (regionItems (bits w 10 4 + 1) own).map (.region sp) else none
  | 8 => if hi w 13 then (slotItems (bits w 10 3 + 1) own).map (.regionu sp) else none
  | 9 => if hi w 10 then some (.exit sp) else none
  | 10 => some (.yield sp (fb w 10 4) (fb w 14 18))
  | 11 => if hi w 16 then
      match bits w 14 2 with
      | 0 => some (.barArrive sp (fb w 10 4))
      | 1 => some (.barWait sp (fb w 10 4))
      | 2 => some (.barArrivewait sp (fb w 10 4))
      | _ => none
    else none
  | 12 => if hi w 22 then some (.barinit sp (fb w 10 4) (fb w 14 8)) else none
  | 13 => if hi w 20 then some (.carve sp (fb w 10 4) (fb w 14 6)) else none
  | 14 => if hi w 28 then some (.ixset sp (Fin.ofNat 4 (bits w 10 2)) (fb w 12 8) (fb w 20 8)) else none
  | 15 => some (.spawn sp (fb w 10 6) (fb w 16 16))
  | 16 => if hi w 26 then some (.trap sp (fb w 10 16)) else none
  | 17 => if hi w 10 then some (.tret sp) else none
  | 18 => if hi w 10 then some (.bkpt sp) else none
  | 19 => if hi w 15 then some (.setfpm sp (fb w 10 5)) else none
  | 20 => if hi w 14 then some (.kill sp (predField w 10)) else none
  | 21 => if hi w 10 then some (.nop32 sp) else none
  | 22 => if hi w 12 then
      match bits w 10 2 with
      | 0 => some (.idemStart sp)
      | 1 => some (.idemCommit sp)
      | _ => none
    else none
  | _ => none

/-- The instruction of a word, its own words and its safe-point word (R139). Class 111 is reserved. -/
def buildClass (w : Word) (own : List Word) (sp : Sp) : Option Instr :=
  let k := own.getD 0 0
  match bits w 2 3 with
  | 0 => buildV3 w sp
  | 1 => buildV2 w sp
  | 2 => buildVI w k sp
  | 3 =>
    let op := bits w 5 5
    let short := op == 18 || op == 19 || op == 20 || op == 21 || op == 22
    let disp := if op == 25 then false else if short then bitAt w 29 else bits w 30 2 == 3
    if disp then buildMem w (some k) (own.getD 1 0) sp else buildMem w none k sp
  | 4 => buildUni w k (own.getD 1 0) sp
  | 5 => buildCtl w own sp
  | 6 => buildAsy w k sp
  | _ => none

/-- The instruction of a word and exactly its `extCount` extension words (R137): own words, then the safe-point word. -/
def build (w : Word) (ext : List Word) : Option Instr :=
  if ext.length == extCount w then
    if bitAt w 1 then buildClass w (ext.take (ownWords w)) (some (ext.getD (ownWords w) 0))
    else buildClass w ext none
  else none

/-- The instruction word alone is not reserved or malformed (R160). -/
def wordOk (w : Word) : Bool :=
  match build w (List.replicate (extCount w) 0) with
  | some i => wfWord i
  | none => false

/-- The well-formed instruction of a word with its extension words, or none: ILLEGAL_ENC. -/
def decodeLong (w : Word) (ext : List Word) : Option Instr :=
  match build w ext with
  | some i => if wf i then some i else none
  | none => none

/-- The well-formed instruction of a 16-bit parcel, or none: ILLEGAL_ENC. -/
def decodeShort (p : Word) : Option Instr := if wf (build16 p) then some (build16 p) else none

/-- The little-endian word at byte offset `i` of a list of bytes, when its four bytes are there. -/
def wordOf (bs : List (BitVec 8)) (i : Nat) : Word :=
  BitVec.ofNat 32 ((bs.getD i 0).toNat + 2 ^ 8 * (bs.getD (i + 1) 0).toNat + 2 ^ 16 * (bs.getD (i + 2) 0).toNat +
    2 ^ 24 * (bs.getD (i + 3) 0).toNat)

/-- The low 16 bits of a word. -/
def low16 (w : Word) : Word := BitVec.ofNat 32 (w.toNat % 2 ^ 16)

/-- The first instruction of a list of bytes with the number of bytes it takes (R136). -/
def decode (bs : List (BitVec 8)) : Except DecodeError (Instr × Nat) :=
  let w := wordOf bs 0
  if bs.length < 2 then .error .truncated
  else if !bitAt w 0 then
    match decodeShort (low16 w) with
    | some i => .ok (i, 2)
    | none => .error .illegalEnc
  else if bs.length < 4 then .error .truncated
  else if !wordOk w then .error .illegalEnc
  else
    let n := extCount w
    if bs.length < 4 + 4 * n then .error .truncated
    else
      match decodeLong w ((List.range n).map fun j => wordOf bs (4 + 4 * j)) with
      | some i => .ok (i, 4 + 4 * n)
      | none => .error .illegalEnc

/-- The longest instruction is REGION with 16 items and a safe point: a word and nine extension words. -/
def maxInstrBytes : Nat := 40

/-- The bytes of an instruction whose bits are `w`, numbered as the opcode table numbers them; bits from `nbits` up are 0. -/
def tableBytes (nbits w : Nat) : List (BitVec 8) :=
  (List.range maxInstrBytes).map fun i => BitVec.ofNat 8 (w % 2 ^ nbits / 2 ^ (8 * i))

/-- The instruction the decoder reads from a table word. -/
def decodeTableWord (nbits w : Nat) : Option Instr :=
  match decode (tableBytes nbits w) with
  | .ok (i, _) => some i
  | .error _ => none

/-! ## The encoder, written from the same tables -/

def spBit (sp : Sp) : Nat := if sp.isSome then 2 else 0

def encH16 (op : Nat) (x : H16) : Word :=
  BitVec.ofNat 32 (2 * op + 2 ^ 5 * x.d.toNat + 2 ^ 9 * x.s.toNat + 2 ^ 14 * x.u.toNat + 2 ^ 15 * x.w.toNat)

def encV3 (op : Nat) (x : V3) : Word :=
  BitVec.ofNat 32 (1 + spBit x.sp + 2 ^ 5 * op + 2 ^ 9 * x.d.toNat + 2 ^ 13 * x.w.toNat + 2 ^ 14 * x.a.toNat +
    2 ^ 20 * x.b.toNat + 2 ^ 26 * x.c.toNat)

def encPred (p : PredField) : Nat := p.p.val + 8 * p.inv.toNat

def encChoose (x : ChooseArgs) : Word :=
  BitVec.ofNat 32 (1 + spBit x.sp + 2 ^ 5 * 6 + 2 ^ 9 * x.d.toNat + 2 ^ 13 * x.w.toNat + 2 ^ 14 * x.a.toNat +
    2 ^ 20 * x.b.toNat + 2 ^ 26 * encPred x.p)

def encV2 (op : Nat) (x : V2) : Word :=
  BitVec.ofNat 32 (1 + spBit x.sp + 4 * 1 + 2 ^ 5 * op + 2 ^ 11 * x.mod.toNat + 2 ^ 14 * x.d.toNat + 2 ^ 18 * x.w.toNat +
    2 ^ 19 * x.a.toNat + 2 ^ 25 * x.b.toNat + 2 ^ 31 * x.s.toNat)

def encVI (op : Nat) (x : VI) : Word :=
  BitVec.ofNat 32 (1 + spBit x.sp + 4 * 2 + 2 ^ 5 * op + 2 ^ 9 * x.d.toNat + 2 ^ 13 * x.w.toNat + 2 ^ 14 * x.a.toNat +
    2 ^ 20 * x.imm.toNat)

def encMem (op : Nat) (x : Mem) : List Word :=
  BitVec.ofNat 32 (1 + spBit x.sp + 4 * 3 + 2 ^ 5 * op + 2 ^ 10 * x.d.toNat + 2 ^ 14 * x.w.toNat + 2 ^ 15 * x.a.toNat +
    2 ^ 21 * x.b.toNat + 2 ^ 27 * x.g.toNat + 2 ^ 30 * x.m.toNat) :: x.disp.toList

def encOrder (o : Order) : Word :=
  BitVec.ofNat 32 (o.mask.toNat + 2 ^ 5 * o.ord.toNat + 2 ^ 8 * o.fail.toNat + 2 ^ 11 * o.aop.toNat + 2 ^ 16 * o.reassoc.toNat +
    2 ^ 17 * o.size.toNat + 2 ^ 19 * o.method.toNat)

def encUni (op : Nat) (x : Uni) : Word :=
  BitVec.ofNat 32 (1 + spBit x.sp + 4 * 4 + 2 ^ 5 * op + 2 ^ 11 * x.d.toNat + 2 ^ 17 * x.a.toNat + 2 ^ 23 * x.b.toNat +
    2 ^ 29 * x.mod.toNat)

def encCtl (op : Nat) (sp : Sp) (rest : Nat) : Word := BitVec.ofNat 32 (1 + spBit sp + 4 * 5 + 2 ^ 5 * op + rest)

def encAsy (op : Nat) (x : Asy) : Word :=
  BitVec.ofNat 32 (1 + spBit x.sp + 4 * 6 + 2 ^ 5 * op + 2 ^ 11 * x.d.toNat + 2 ^ 15 * x.w.toNat + 2 ^ 16 * x.a.toNat +
    2 ^ 22 * x.b.toNat + 2 ^ 28 * x.sub.toNat)

def encRegionItem (i : RegionItem) : Nat := 2 ^ 12 * i.entry.val + 2 ^ 4 * i.v.toNat + 8 * i.load.toNat + 4 * i.keep.toNat

/-- REGION's items, two to a word (R146). -/
def regionWords : List RegionItem → List Word
  | [] => []
  | [i] => [BitVec.ofNat 32 (encRegionItem i)]
  | i :: j :: l => BitVec.ofNat 32 (encRegionItem i + 2 ^ 16 * encRegionItem j) :: regionWords l

def encSlotItem (i : SlotItem) : Nat := 2 ^ 6 * i.w.val + i.s.toNat

/-- REGIONU's items, three to a word (R147). -/
def regionuWords : List SlotItem → List Word
  | [] => []
  | [i] => [BitVec.ofNat 32 (encSlotItem i)]
  | [i, j] => [BitVec.ofNat 32 (encSlotItem i + 2 ^ 9 * encSlotItem j)]
  | i :: j :: k :: l => BitVec.ofNat 32 (encSlotItem i + 2 ^ 9 * encSlotItem j + 2 ^ 18 * encSlotItem k) :: regionuWords l


/-- The word of each instruction and its own extension words (R138, R152 to R159), without the safe-point word. Packets
and events have no encoding. -/
def encodeWords : Instr → List Word
  | .nop => [0]
  | .mov16 x => [encH16 0 x]
  | .iadd16 x => [encH16 1 x]
  | .isub16 x => [encH16 2 x]
  | .imul16 x => [encH16 3 x]
  | .and16 x => [encH16 4 x]
  | .or16 x => [encH16 5 x]
  | .xor16 x => [encH16 6 x]
  | .shl16 x => [encH16 7 x]
  | .shr16 x => [encH16 8 x]
  | .sar16 x => [encH16 9 x]
  | .fadd16 x => [encH16 10 x]
  | .fsub16 x => [encH16 11 x]
  | .fmul16 x => [encH16 12 x]
  | .fmin16 x => [encH16 13 x]
  | .fmax16 x => [encH16 14 x]
  | .imin16 x => [encH16 15 x]
  | .fma32 x => [encV3 0 x]
  | .fma64 x => [encV3 1 x]
  | .fmah2 x => [encV3 2 x]
  | .fmab2 x => [encV3 3 x]
  | .muladd x => [encV3 4 x]
  | .muladdh x => [encV3 5 x]
  | .choose x => [encChoose x]
  | .bitins x => [encV3 7 x]
  | .shrcat x => [encV3 8 x]
  | .dp4s8 x => [encV3 9 x]
  | .dp4u8 x => [encV3 10 x]
  | .dp8s4 x => [encV3 11 x]
  | .dp4e4 x => [encV3 12 x]
  | .dp4e5 x => [encV3 13 x]
  | .dp8f4 x => [encV3 14 x]
  | .dp2h x => [encV3 15 x]
  | .mov x => [encV2 0 x]
  | .iadd x => [encV2 1 x]
  | .isub x => [encV2 2 x]
  | .imul x => [encV2 3 x]
  | .imulhi x => [encV2 4 x]
  | .imin x => [encV2 5 x]
  | .imax x => [encV2 6 x]
  | .iabs x => [encV2 7 x]
  | .and x => [encV2 8 x]
  | .or x => [encV2 9 x]
  | .xor x => [encV2 10 x]
  | .andn x => [encV2 11 x]
  | .shl x => [encV2 12 x]
  | .shr x => [encV2 13 x]
  | .sar x => [encV2 14 x]
  | .rot x => [encV2 15 x]
  | .popc x => [encV2 16 x]
  | .clz x => [encV2 17 x]
  | .brev x => [encV2 18 x]
  | .bfx x => [encV2 19 x]
  | .lea x => [encV2 20 x]
  | .iadd64 x => [encV2 21 x]
  | .icmp x => [encV2 22 x]
  | .pmov x => [encV2 23 x]
  | .fadd x => [encV2 24 x]
  | .fsub x => [encV2 25 x]
  | .fmul x => [encV2 26 x]
  | .fmin x => [encV2 27 x]
  | .fmax x => [encV2 28 x]
  | .fcmp x => [encV2 29 x]
  | .fclass x => [encV2 30 x]
  | .fint x => [encV2 31 x]
  | .frcp x => [encV2 32 x]
  | .frsq x => [encV2 33 x]
  | .fsqrt x => [encV2 34 x]
  | .fexp2 x => [encV2 35 x]
  | .flog2 x => [encV2 36 x]
  | .fsin x => [encV2 37 x]
  | .fcos x => [encV2 38 x]
  | .dadd x => [encV2 39 x]
  | .dmul x => [encV2 40 x]
  | .dmin x => [encV2 41 x]
  | .dmax x => [encV2 42 x]
  | .dcmp x => [encV2 43 x]
  | .drcp x => [encV2 44 x]
  | .dsqrt x => [encV2 45 x]
  | .hadd2 x => [encV2 46 x]
  | .hmul2 x => [encV2 47 x]
  | .badd2 x => [encV2 48 x]
  | .bmul2 x => [encV2 49 x]
  | .cvt x => [encV2 50 x]
  | .pack x => [encV2 51 x]
  | .unpack x => [encV2 52 x]
  | .xlane x => [encV2 53 x]
  | .poll x => [encV2 54 x]
  | .scan x => [encV2 55 x]
  | .lred x => [encV2 56 x]
  | .movx x => [encV2 57 x]
  | .stx x => [encV2 58 x]
  | .pcomb x => [encV2 59 x]
  | .hmin2 x => [encV2 60 x]
  | .hmax2 x => [encV2 61 x]
  | .hcmp2 x => [encV2 62 x]
  | .iaddi x => [encVI 0 x]
  | .andi x => [encVI 1 x]
  | .ori x => [encVI 2 x]
  | .xori x => [encVI 3 x]
  | .shli x => [encVI 4 x]
  | .shri x => [encVI 5 x]
  | .sari x => [encVI 6 x]
  | .imuli x => [encVI 7 x]
  | .icmpi x => [encVI 8 x]
  | .movi x => [encVI 9 x]
  | .movw x k => [encVI 10 x, k]
  | .leai x => [encVI 11 x]
  | .faddw x k => [encVI 12 x, k]
  | .fmulw x k => [encVI 13 x, k]
  | .iaddw x k => [encVI 14 x, k]
  | .ld8 x => encMem 0 x
  | .ld8s x => encMem 1 x
  | .ld16 x => encMem 2 x
  | .ld16s x => encMem 3 x
  | .ld32 x => encMem 4 x
  | .ld64 x => encMem 5 x
  | .ld128 x => encMem 6 x
  | .st8 x => encMem 7 x
  | .st16 x => encMem 8 x
  | .st32 x => encMem 9 x
  | .st64 x => encMem 10 x
  | .st128 x => encMem 11 x
  | .lda x o => encMem 12 x ++ [encOrder o]
  | .stl x o => encMem 13 x ++ [encOrder o]
  | .atom x o => encMem 14 x ++ [encOrder o]
  | .red x o => encMem 15 x ++ [encOrder o]
  | .callm x o => encMem 16 x ++ [encOrder o]
  | .postm x o => encMem 17 x ++ [encOrder o]
  | .lds x => encMem 18 x
  | .sts x => encMem 19 x
  | .atoms x o => encMem 20 x ++ [encOrder o]
  | .ldp x => encMem 21 x
  | .stp x => encMem 22 x
  | .ldpk x => encMem 23 x
  | .pref x => encMem 24 x
  | .fence x o => encMem 25 x ++ [encOrder o]
  | .smov x => [encUni 0 x]
  | .sadd x => [encUni 1 x]
  | .ssub x => [encUni 2 x]
  | .smul x => [encUni 3 x]
  | .smulhi x => [encUni 4 x]
  | .sand x => [encUni 5 x]
  | .sor x => [encUni 6 x]
  | .sxor x => [encUni 7 x]
  | .sshl x => [encUni 8 x]
  | .sshr x => [encUni 9 x]
  | .ssar x => [encUni 10 x]
  | .smin x => [encUni 11 x]
  | .smax x => [encUni 12 x]
  | .scmp x => [encUni 13 x]
  | .ssel x => [encUni 14 x]
  | .smovw x k => [encUni 15 x, k]
  | .smovd x k => [encUni 16 x, k.extractLsb' 0 32, k.extractLsb' 32 32]
  | .saddw x k => [encUni 17 x, k]
  | .sld x => [encUni 18 x]
  | .sst x => [encUni 19 x]
  | .slda x o => [encUni 20 x, encOrder o]
  | .sstl x o => [encUni 21 x, encOrder o]
  | .satom x o => [encUni 22 x, encOrder o]
  | .sread x => [encUni 23 x]
  | .swrite x => [encUni 24 x]
  | .rdlane x => [encUni 25 x]
  | .bcast x => [encUni 26 x]
  | .sfadd x => [encUni 27 x]
  | .sfmul x => [encUni 28 x]
  | .scvt x => [encUni 29 x]
  | .spopc x => [encUni 30 x]
  | .sclz x => [encUni 31 x]
  | .actmask x => [encUni 32 x]
  | .elect x => [encUni 33 x]
  | .sdadd x => [encUni 34 x]
  | .sdmul x => [encUni 35 x]
  | .bra sp off => [encCtl 0 sp (off.toNat * 2 ^ 10)]
  | .brc sp c sense off => [encCtl 1 sp (c.val * 2 ^ 10 + sense.toNat * 2 ^ 12 + off.toNat * 2 ^ 14)]
  | .brd sp p off joinOff => [encCtl 2 sp (encPred p * 2 ^ 10 + off.toNat * 2 ^ 14), joinOff]
  | .join sp => [encCtl 3 sp 0]
  | .call sp off => [encCtl 4 sp (off.toNat * 2 ^ 10)]
  | .ret sp => [encCtl 5 sp 0]
  | .calli sp s => [encCtl 6 sp (s.toNat * 2 ^ 10)]
  | .region sp items => encCtl 7 sp ((items.length - 1) * 2 ^ 10) :: regionWords items
  | .regionu sp items => encCtl 8 sp ((items.length - 1) * 2 ^ 10) :: regionuWords items
  | .exit sp => [encCtl 9 sp 0]
  | .yield sp nb off => [encCtl 10 sp (nb.toNat * 2 ^ 10 + off.toNat * 2 ^ 14)]
  | .barArrive sp nb => [encCtl 11 sp (nb.toNat * 2 ^ 10)]
  | .barWait sp nb => [encCtl 11 sp (nb.toNat * 2 ^ 10 + 2 ^ 14)]
  | .barArrivewait sp nb => [encCtl 11 sp (nb.toNat * 2 ^ 10 + 2 * 2 ^ 14)]
  | .barinit sp nb count => [encCtl 12 sp (nb.toNat * 2 ^ 10 + count.toNat * 2 ^ 14)]
  | .carve sp nb s => [encCtl 13 sp (nb.toNat * 2 ^ 10 + s.toNat * 2 ^ 14)]
  | .ixset sp ix base len => [encCtl 14 sp (ix.val * 2 ^ 10 + base.toNat * 2 ^ 12 + len.toNat * 2 ^ 20)]
  | .spawn sp s entry => [encCtl 15 sp (s.toNat * 2 ^ 10 + entry.toNat * 2 ^ 16)]
  | .trap sp code => [encCtl 16 sp (code.toNat * 2 ^ 10)]
  | .tret sp => [encCtl 17 sp 0]
  | .bkpt sp => [encCtl 18 sp 0]
  | .setfpm sp mode => [encCtl 19 sp (mode.toNat * 2 ^ 10)]
  | .kill sp p => [encCtl 20 sp (encPred p * 2 ^ 10)]
  | .nop32 sp => [encCtl 21 sp 0]
  | .idemStart sp => [encCtl 22 sp 0]
  | .idemCommit sp => [encCtl 22 sp (2 ^ 10)]
  | .copy x k => [encAsy 0 x, k]
  | .copyg x k => [encAsy 1 x, k]
  | .sqfence x => [encAsy 2 x]
  | .stream x k => [encAsy 3 x, k]
  | .mma x k => [encAsy 4 x, k]
  | .mbatch x => [encAsy 5 x]
  | .mwait x k => [encAsy 6 x, k]
  | .mdrain x k => [encAsy 7 x, k]
  | .mfill x k => [encAsy 8 x, k]
  | .mzero x => [encAsy 9 x]
  | .neval x k => [encAsy 10 x, k]
  | .tex x k => [encAsy 11 x, k]
  | .texf x k => [encAsy 12 x, k]
  | .texq x => [encAsy 13 x]
  | .trace x => [encAsy 14 x]
  | .flins x => [encAsy 15 x]
  | .flres x => [encAsy 16 x]
  | .ordent x => [encAsy 17 x]
  | .ordlv x => [encAsy 18 x]
  | .patch x => [encAsy 19 x]
  | .gvtx x k => [encAsy 20 x, k]
  | .tkpush x k => [encAsy 21 x, k]
  | .tkpop x k => [encAsy 22 x, k]
  | .tksteal x k => [encAsy 23 x, k]
  | .tkdone x k => [encAsy 24 x, k]
  | .xchg x => [encAsy 25 x]
  | .cred x k => [encAsy 26 x, k]
  | .rlogDisable x => [encAsy 27 x]
  | .rlogRecord x => [encAsy 27 x]
  | .rlogReplay x => [encAsy 27 x]
  | .rlogMark x => [encAsy 27 x]
  | .launch _ _ => []
  | .launch2 _ _ _ _ => []
  | .ib _ _ _ => []
  | .pred _ _ _ => []
  | .loop _ _ _ => []
  | .wait _ _ => []
  | .signal _ _ _ _ _ _ => []
  | .ffence _ => []
  | .graph _ _ _ _ => []
  | .phase _ _ _ => []
  | .passBegin _ _ => []
  | .passNext _ => []
  | .passEnd _ => []
  | .nopp _ => []
  | .waitRecheck _ => []
  | .writeOffsetReread _ => []
  | .slotRelease _ => []
  | .bindRound => []
  | .parkConditionEval _ => []
  | .cancelWordWrite _ => []
  | .groupKill _ => []
  | .teamAdmit _ => []
  | .slotMaskReserve _ => []
  | .launchComplete _ => []
  | .prologueRun _ => []
  | .teamEnd _ => []
  | .groupStorageDrain _ => []
  | .operandSlotGrant _ => []
  | .barrierWaitReturn _ => []
  | .yieldWake _ => []
  | .xchgPairing _ _ => []
  | .carveArrival _ => []
  | .splitPhaseResult _ _ => []
  | .trapEntry _ => []
  | .preemptRequest _ => []
  | .preemptStop _ => []
  | .teamContextSave _ => []
  | .graphicsKill _ => []
  | .graphicsReplay _ => []
  | .patchDice _ => []
  | .gridGroupStart _ => []
  | .sequenceWrap _ => []
  | .binFlush _ => []
  | .micropolygonSample _ => []
  | .fragmentGroupClose _ => []
  | .sampleGroupStart _ => []
  | .fragmentListInsertion _ => []
  | .tileResolve _ _ => []
  | .pageWalk _ _ _ => []
  | .priResponse _ _ _ => []
  | .atsInvalidation _ _ _ => []
  | .hostSnoop _ => []
  | .hostMemoryAccess _ _ => []
  | .peerMessageReceive _ _ _ => []
  | .peerLinkLoss _ => []
  | .peerDestinationTimeout _ => []
  | .gcmTagFailure _ => []
  | .brualLinkTraining _ _ => []
  | .homeRequestArrival _ => []
  | .combinerLaunch _ => []
  | .combinerInstructionLimit _ => []
  | .burlAtomicUpdate _ => []
  | .edgeAtomic _ => []
  | .sliceMapRemap _ _ => []
  | .columnPowerOff _ => []
  | .columnPowerOn _ => []
  | .patrolScrub _ _ => []
  | .streamEntryComplete _ _ => []
  | .streamFillBox _ _ => []
  | .streamDrainBox _ _ => []
  | .tileOperationRetire _ _ => []
  | .aFetchResume _ _ => []
  | .whorlRequestArrival _ => []
  | .whorlIdleTileForm _ _ => []
  | .whorlTileReturn _ => []
  | .collectiveCombine _ => []
  | .createJob _ _ => []
  | .destroyJob _ => []
  | .cancelJob _ => []
  | .registerQueue _ _ _ => []
  | .unregisterQueue _ _ => []
  | .invalidate _ _ _ => []
  | .resident _ _ _ => []
  | .collective _ _ => []
  | .attest _ _ _ => []
  | .debugAuth _ _ _ => []
  | .flashUpdate _ _ _ => []
  | .wakeRegisterWrite _ => []
  | .wakeBufferReplay => []
  | .pfctlClear _ _ => []
  | .thermstatWrite _ => []
  | .pwrctlWrite _ => []
  | .rcvctlGo _ => []
  | .recoveryFetchDone => []
  | .registerWrite _ _ _ => []
  | .debugAccess _ _ _ => []
  | .resetNRise => []
  | .pcieLinkUp => []
  | .railFault => []
  | .perstN => []
  | .d3coldEntry => []
  | .powerLimitEval _ => []
  | .powerLimitNotMet _ => []
  | .pmbusFault => []
  | .thermalThrottleStep _ _ => []
  | .thermalCritical _ _ => []
  | .thermalCriticalTimeout => []
  | .thermalTrip _ _ => []
  | .watchdogExpiry => []
  | .spareTakeover => []
  | .resetNFall => []
  | .d3hotEntry => []
  | .blockPowerStateChange _ _ => []
  | .tdiIdeStateChange _ _ _ => []
  | .thermalRecovery _ _ => []

/-- The safe-point field of an instruction (R151); the 16-bit format has none. -/
def spOf : Instr → Sp
  | .nop => none
  | .mov16 _ => none
  | .iadd16 _ => none
  | .isub16 _ => none
  | .imul16 _ => none
  | .and16 _ => none
  | .or16 _ => none
  | .xor16 _ => none
  | .shl16 _ => none
  | .shr16 _ => none
  | .sar16 _ => none
  | .fadd16 _ => none
  | .fsub16 _ => none
  | .fmul16 _ => none
  | .fmin16 _ => none
  | .fmax16 _ => none
  | .imin16 _ => none
  | .fma32 x => x.sp
  | .fma64 x => x.sp
  | .fmah2 x => x.sp
  | .fmab2 x => x.sp
  | .muladd x => x.sp
  | .muladdh x => x.sp
  | .choose x => x.sp
  | .bitins x => x.sp
  | .shrcat x => x.sp
  | .dp4s8 x => x.sp
  | .dp4u8 x => x.sp
  | .dp8s4 x => x.sp
  | .dp4e4 x => x.sp
  | .dp4e5 x => x.sp
  | .dp8f4 x => x.sp
  | .dp2h x => x.sp
  | .mov x => x.sp
  | .iadd x => x.sp
  | .isub x => x.sp
  | .imul x => x.sp
  | .imulhi x => x.sp
  | .imin x => x.sp
  | .imax x => x.sp
  | .iabs x => x.sp
  | .and x => x.sp
  | .or x => x.sp
  | .xor x => x.sp
  | .andn x => x.sp
  | .shl x => x.sp
  | .shr x => x.sp
  | .sar x => x.sp
  | .rot x => x.sp
  | .popc x => x.sp
  | .clz x => x.sp
  | .brev x => x.sp
  | .bfx x => x.sp
  | .lea x => x.sp
  | .iadd64 x => x.sp
  | .icmp x => x.sp
  | .pmov x => x.sp
  | .fadd x => x.sp
  | .fsub x => x.sp
  | .fmul x => x.sp
  | .fmin x => x.sp
  | .fmax x => x.sp
  | .fcmp x => x.sp
  | .fclass x => x.sp
  | .fint x => x.sp
  | .frcp x => x.sp
  | .frsq x => x.sp
  | .fsqrt x => x.sp
  | .fexp2 x => x.sp
  | .flog2 x => x.sp
  | .fsin x => x.sp
  | .fcos x => x.sp
  | .dadd x => x.sp
  | .dmul x => x.sp
  | .dmin x => x.sp
  | .dmax x => x.sp
  | .dcmp x => x.sp
  | .drcp x => x.sp
  | .dsqrt x => x.sp
  | .hadd2 x => x.sp
  | .hmul2 x => x.sp
  | .badd2 x => x.sp
  | .bmul2 x => x.sp
  | .cvt x => x.sp
  | .pack x => x.sp
  | .unpack x => x.sp
  | .xlane x => x.sp
  | .poll x => x.sp
  | .scan x => x.sp
  | .lred x => x.sp
  | .movx x => x.sp
  | .stx x => x.sp
  | .pcomb x => x.sp
  | .hmin2 x => x.sp
  | .hmax2 x => x.sp
  | .hcmp2 x => x.sp
  | .iaddi x => x.sp
  | .andi x => x.sp
  | .ori x => x.sp
  | .xori x => x.sp
  | .shli x => x.sp
  | .shri x => x.sp
  | .sari x => x.sp
  | .imuli x => x.sp
  | .icmpi x => x.sp
  | .movi x => x.sp
  | .movw x _ => x.sp
  | .leai x => x.sp
  | .faddw x _ => x.sp
  | .fmulw x _ => x.sp
  | .iaddw x _ => x.sp
  | .ld8 x => x.sp
  | .ld8s x => x.sp
  | .ld16 x => x.sp
  | .ld16s x => x.sp
  | .ld32 x => x.sp
  | .ld64 x => x.sp
  | .ld128 x => x.sp
  | .st8 x => x.sp
  | .st16 x => x.sp
  | .st32 x => x.sp
  | .st64 x => x.sp
  | .st128 x => x.sp
  | .lda x _ => x.sp
  | .stl x _ => x.sp
  | .atom x _ => x.sp
  | .red x _ => x.sp
  | .callm x _ => x.sp
  | .postm x _ => x.sp
  | .lds x => x.sp
  | .sts x => x.sp
  | .atoms x _ => x.sp
  | .ldp x => x.sp
  | .stp x => x.sp
  | .ldpk x => x.sp
  | .pref x => x.sp
  | .fence x _ => x.sp
  | .smov x => x.sp
  | .sadd x => x.sp
  | .ssub x => x.sp
  | .smul x => x.sp
  | .smulhi x => x.sp
  | .sand x => x.sp
  | .sor x => x.sp
  | .sxor x => x.sp
  | .sshl x => x.sp
  | .sshr x => x.sp
  | .ssar x => x.sp
  | .smin x => x.sp
  | .smax x => x.sp
  | .scmp x => x.sp
  | .ssel x => x.sp
  | .smovw x _ => x.sp
  | .smovd x _ => x.sp
  | .saddw x _ => x.sp
  | .sld x => x.sp
  | .sst x => x.sp
  | .slda x _ => x.sp
  | .sstl x _ => x.sp
  | .satom x _ => x.sp
  | .sread x => x.sp
  | .swrite x => x.sp
  | .rdlane x => x.sp
  | .bcast x => x.sp
  | .sfadd x => x.sp
  | .sfmul x => x.sp
  | .scvt x => x.sp
  | .spopc x => x.sp
  | .sclz x => x.sp
  | .actmask x => x.sp
  | .elect x => x.sp
  | .sdadd x => x.sp
  | .sdmul x => x.sp
  | .copy x _ => x.sp
  | .copyg x _ => x.sp
  | .sqfence x => x.sp
  | .stream x _ => x.sp
  | .mma x _ => x.sp
  | .mbatch x => x.sp
  | .mwait x _ => x.sp
  | .mdrain x _ => x.sp
  | .mfill x _ => x.sp
  | .mzero x => x.sp
  | .neval x _ => x.sp
  | .tex x _ => x.sp
  | .texf x _ => x.sp
  | .texq x => x.sp
  | .trace x => x.sp
  | .flins x => x.sp
  | .flres x => x.sp
  | .ordent x => x.sp
  | .ordlv x => x.sp
  | .patch x => x.sp
  | .gvtx x _ => x.sp
  | .tkpush x _ => x.sp
  | .tkpop x _ => x.sp
  | .tksteal x _ => x.sp
  | .tkdone x _ => x.sp
  | .xchg x => x.sp
  | .cred x _ => x.sp
  | .rlogDisable x => x.sp
  | .rlogRecord x => x.sp
  | .rlogReplay x => x.sp
  | .rlogMark x => x.sp
  | .bra sp _ => sp
  | .brc sp _ _ _ => sp
  | .brd sp _ _ _ => sp
  | .join sp => sp
  | .call sp _ => sp
  | .ret sp => sp
  | .calli sp _ => sp
  | .region sp _ => sp
  | .regionu sp _ => sp
  | .exit sp => sp
  | .yield sp _ _ => sp
  | .barArrive sp _ => sp
  | .barWait sp _ => sp
  | .barArrivewait sp _ => sp
  | .barinit sp _ _ => sp
  | .carve sp _ _ => sp
  | .ixset sp _ _ _ => sp
  | .spawn sp _ _ => sp
  | .trap sp _ => sp
  | .tret sp => sp
  | .bkpt sp => sp
  | .setfpm sp _ => sp
  | .kill sp _ => sp
  | .nop32 sp => sp
  | .idemStart sp => sp
  | .idemCommit sp => sp
  | .launch _ _ => none
  | .launch2 _ _ _ _ => none
  | .ib _ _ _ => none
  | .pred _ _ _ => none
  | .loop _ _ _ => none
  | .wait _ _ => none
  | .signal _ _ _ _ _ _ => none
  | .ffence _ => none
  | .graph _ _ _ _ => none
  | .phase _ _ _ => none
  | .passBegin _ _ => none
  | .passNext _ => none
  | .passEnd _ => none
  | .nopp _ => none
  | .waitRecheck _ => none
  | .writeOffsetReread _ => none
  | .slotRelease _ => none
  | .bindRound => none
  | .parkConditionEval _ => none
  | .cancelWordWrite _ => none
  | .groupKill _ => none
  | .teamAdmit _ => none
  | .slotMaskReserve _ => none
  | .launchComplete _ => none
  | .prologueRun _ => none
  | .teamEnd _ => none
  | .groupStorageDrain _ => none
  | .operandSlotGrant _ => none
  | .barrierWaitReturn _ => none
  | .yieldWake _ => none
  | .xchgPairing _ _ => none
  | .carveArrival _ => none
  | .splitPhaseResult _ _ => none
  | .trapEntry _ => none
  | .preemptRequest _ => none
  | .preemptStop _ => none
  | .teamContextSave _ => none
  | .graphicsKill _ => none
  | .graphicsReplay _ => none
  | .patchDice _ => none
  | .gridGroupStart _ => none
  | .sequenceWrap _ => none
  | .binFlush _ => none
  | .micropolygonSample _ => none
  | .fragmentGroupClose _ => none
  | .sampleGroupStart _ => none
  | .fragmentListInsertion _ => none
  | .tileResolve _ _ => none
  | .pageWalk _ _ _ => none
  | .priResponse _ _ _ => none
  | .atsInvalidation _ _ _ => none
  | .hostSnoop _ => none
  | .hostMemoryAccess _ _ => none
  | .peerMessageReceive _ _ _ => none
  | .peerLinkLoss _ => none
  | .peerDestinationTimeout _ => none
  | .gcmTagFailure _ => none
  | .brualLinkTraining _ _ => none
  | .homeRequestArrival _ => none
  | .combinerLaunch _ => none
  | .combinerInstructionLimit _ => none
  | .burlAtomicUpdate _ => none
  | .edgeAtomic _ => none
  | .sliceMapRemap _ _ => none
  | .columnPowerOff _ => none
  | .columnPowerOn _ => none
  | .patrolScrub _ _ => none
  | .streamEntryComplete _ _ => none
  | .streamFillBox _ _ => none
  | .streamDrainBox _ _ => none
  | .tileOperationRetire _ _ => none
  | .aFetchResume _ _ => none
  | .whorlRequestArrival _ => none
  | .whorlIdleTileForm _ _ => none
  | .whorlTileReturn _ => none
  | .collectiveCombine _ => none
  | .createJob _ _ => none
  | .destroyJob _ => none
  | .cancelJob _ => none
  | .registerQueue _ _ _ => none
  | .unregisterQueue _ _ => none
  | .invalidate _ _ _ => none
  | .resident _ _ _ => none
  | .collective _ _ => none
  | .attest _ _ _ => none
  | .debugAuth _ _ _ => none
  | .flashUpdate _ _ _ => none
  | .wakeRegisterWrite _ => none
  | .wakeBufferReplay => none
  | .pfctlClear _ _ => none
  | .thermstatWrite _ => none
  | .pwrctlWrite _ => none
  | .rcvctlGo _ => none
  | .recoveryFetchDone => none
  | .registerWrite _ _ _ => none
  | .debugAccess _ _ _ => none
  | .resetNRise => none
  | .pcieLinkUp => none
  | .railFault => none
  | .perstN => none
  | .d3coldEntry => none
  | .powerLimitEval _ => none
  | .powerLimitNotMet _ => none
  | .pmbusFault => none
  | .thermalThrottleStep _ _ => none
  | .thermalCritical _ _ => none
  | .thermalCriticalTimeout => none
  | .thermalTrip _ _ => none
  | .watchdogExpiry => none
  | .spareTakeover => none
  | .resetNFall => none
  | .d3hotEntry => none
  | .blockPowerStateChange _ _ => none
  | .tdiIdeStateChange _ _ _ => none
  | .thermalRecovery _ _ => none

/-- The instruction is one 16-bit parcel (R138). -/
def isShort (i : Instr) : Bool :=
  match encodeWords i with
  | [p] => !bitAt p 0
  | _ => false

/-- The words of a well-formed instruction, the safe-point word last (R137). A 16-bit form gives its parcel in [15:0]. -/
def encode (i : Instr) : List Word := encodeWords i ++ (spOf i).toList

/-- The length of an instruction in bytes. -/
def instrBytes (i : Instr) : Nat := if isShort i then 2 else 4 * (encode i).length

/-- The decoder of the words that `encode` writes. -/
def decodeWords : List Word → Option Instr
  | [] => none
  | w :: ext => if bitAt w 0 then (if wordOk w then decodeLong w ext else none)
    else if ext.isEmpty && w.toNat / 2 ^ 16 == 0 then decodeShort w else none

end Sys2Proof
end

