-- ==== Sys2Proof/Machine/State.lean ====
section
/-! DEFINITION. The state of the machine as plain data: memory, cores, groups and the units above them. A field that is the
model's own and not the spec's says so. INVENTORY.md lists every piece with its rule and its reset value. -/

namespace Sys2Proof.Machine

/-- A value of every thread of a group (R40). -/
abbrev Lanes := Vector Word 256
/-- A 64-bit value of every thread. -/
abbrev DLanes := Vector DWord 256

def Lanes.zero : Lanes := Vector.replicate 256 0

/-! ## A group's own state (R40, R44, R142 to R151) -/

/-- State of an operand-buffer entry (R142). -/
inductive EState where
  | free | clean | dirty
  deriving DecidableEq, Repr

/-- An operand-buffer entry: its map, its state and its value in every thread (R142). -/
structure Entry where
  map : Option (BitVec 8)
  st : EState
  val : Lanes
  deriving DecidableEq, Repr

/-- A uniform slot w0 to w7 (R147). -/
structure USlot where
  mapped : Bool
  val : DWord
  deriving DecidableEq, Repr

/-- A bypass latch and whether the next instruction may read it (R144, R145). -/
structure Latch where
  valid : Bool
  val : DLanes
  deriving DecidableEq, Repr

/-- An entry of the divergence stack (R44). -/
structure DivEntry where
  joinpc : DWord
  outer : LaneMask
  elsemask : LaneMask
  elsepc : DWord
  second : Bool
  deriving DecidableEq, Repr

/-- An entry of the call stack: the return address and the divergence depth (R45, R220). -/
structure CallEntry where
  ret : DWord
  depth : Nat
  deriving DecidableEq, Repr

/-- An index register (R228). -/
structure IxReg where
  base : BitVec 8
  len : BitVec 8
  deriving DecidableEq, Repr

/-- One instruction of the rebuild run of R462, latest first: its address, the latch it wrote, the latches it read, its W, and
the values of the entries it freed. -/
structure RunItem where
  pc : DWord
  latch : Nat
  reads : List Nat
  w : Bool
  freed : List (Nat × Lanes)
  deriving DecidableEq, Repr

/-- The architectural context of a group (R40) with its operand-buffer slot and latches: what a replay snapshot holds (R477). -/
structure Ctx where
  pc : DWord
  active : LaneMask
  /-- Threads removed by KILL (R230, R459). -/
  killed : LaneMask
  preds : Vector LaneMask 8
  s : Vector DWord 64
  c : Vector Bool 4
  ix : Vector IxReg 4
  dstack : List DivEntry
  cstack : List CallEntry
  fpmode : DWord
  fpflags : DWord
  storehash : DWord
  /-- v0 to v(n-1) (R40). -/
  main : List Lanes
  entries : Vector Entry 16
  slots : Vector USlot 8
  latches : Vector Latch 4
  /-- Entries whose freeing waits until the reader of the last result latch completes (R143). -/
  pendFree : BitVec 16
  run : List RunItem
  deriving DecidableEq, Repr

/-- The causes of R447. -/
inductive Cause where
  | illegalEnc | illegalOperand | privilege | align | xlate | perm | world | stackLimit | ixBounds | divStack | copyRights
  | combiner | objPoisoned | whorlLane | mmaRole | orderRule | xchgPartner | eccUncorrected | replayDiverge | softTrap
  | breakpoint | preempt | carveDenied | spawnEmpty
  deriving DecidableEq, Repr

/-- Where a request's result goes. -/
inductive Dest where
  | none
  /-- Entries `e` to `e+n-1` (R232). -/
  | entries (e n : Nat)
  /-- Uniform register `d` (R213). -/
  | sreg (d : Nat)
  /-- Main registers from `v`, or the entries that map them (R150). -/
  | main (v n : Nat)
  deriving DecidableEq, Repr

/-- A request of a group that has issued and whose destination is not yet written (R149): a scoreboard slot, or the request a
blocked group waits for. Lists are keyed by lane. -/
structure Pend where
  pc : DWord
  /-- The instruction that issued it. -/
  i : Instr
  iword : Word
  oword : Word
  dest : Dest
  lanes : LaneMask
  /-- Lanes whose result has returned, with the words it holds. -/
  vals : List (Nat × List Word)
  /-- Lanes that met a deferred cause, with its address (R454). -/
  causes : List (Nat × Cause × DWord)
  addrs : List (Nat × DWord)
  data : List (Nat × BitVec 128)
  write : Bool
  /-- The observer mask of its acquire, performed when it returns (R277, R278). -/
  acq : Option (BitVec 5)
  deriving DecidableEq, Repr

/-- What a fault record and trap frame say of a trap (R448 to R456). -/
structure TrapInfo where
  cause : Cause
  code : BitVec 16
  pc : DWord
  addr : Option DWord
  lanes : LaneMask
  write : Bool
  fetch : Bool
  deferred : Bool
  done : LaneMask
  replies : List (Nat × BitVec 128)
  iword : Word
  oword : Word
  reqAddr : List (Nat × DWord)
  reqData : List (Nat × BitVec 128)
  deriving DecidableEq, Repr

/-- What TRET leaves for the retried instruction (R461). -/
structure Retry where
  pc : DWord
  done : LaneMask
  replies : List (Nat × BitVec 128)
  deriving DecidableEq, Repr

/-- What the device keeps of a trap while its handler runs, beside the frame: where a retry restarts, the instruction at which
the trap was taken, where a skip goes on, the run to rebuild and the request of a deferred cause (R460 to R462). -/
structure TrapSave where
  cause : Cause
  deferred : Bool
  restart : DWord
  xpc : DWord
  skip : DWord
  run : List RunItem
  req : Option Pend
  deriving DecidableEq, Repr

/-- A named barrier (R222). -/
structure Barrier where
  expected : Nat
  arrival : Nat
  phase : BitVec 16
  /-- Flips so far, which a ring counts (R248). -/
  flips : Nat
  deriving DecidableEq, Repr

/-- The kinds of group (R449). -/
inductive GKind where
  | team | spawned | combiner | grid | sample | resolve
  deriving DecidableEq, Repr

/-- Why a group does not issue. -/
inductive Status where
  | running
  /-- It waits for an operand-buffer slot (R43, R72). -/
  | slotWait
  /-- Waiting at a BAR, with the address after it. -/
  | barWait (nb : Nat) (next : DWord)
  | yielded (nb : Nat) (target : DWord)
  /-- It waits for the request in `block` (R149, R215), issued by an instruction with this safe-point word. -/
  | blocked (sp : Option Word)
  /-- Waiting at an XCHG for its pair, with the address after it. -/
  | xchgWait (next : DWord)
  /-- It waits for the operations ahead of its own in a tile's queue, or for its own when `own` (R329): which operation is its own, and its
  instruction's safe-point word. -/
  | tileWait (own : Bool) (op : Nat) (sp : Option Word)
  /-- A trap waits for its scoreboard slots to clear (R457 step 1). -/
  | trapPending (t : TrapInfo)
  /-- Parked on a page that is not resident (R240, R377), until the page arrives. -/
  | parked (va : DWord)
  /-- Waiting for a PRI response (R409). -/
  | priWait (va : DWord)
  /-- Halted under a debugger (R229, R425). -/
  | halted
  /-- Stopped for pre-emption, with the safe-point mask (R469). -/
  | stopped (mask : Word)
  /-- Saved in its context area (R470). -/
  | saved
  /-- Ended; its storage drains (R481). -/
  | exited
  /-- Its storage may be granted again. -/
  | gone
  deriving DecidableEq, Repr

/-- A fragment to be inserted in a list: key, depth, colour and sequence (R391). -/
structure ListFrag where
  key : Nat × Nat × Nat
  depth : Word
  colour : DWord
  seq : Nat
  deriving DecidableEq, Repr

/-- An effect held in the release buffer until commit (R387, R478). -/
inductive Held where
  /-- Bytes stored at a physical address, private or not, which was the translation of this address. -/
  | store (pa : Nat) (bytes : List (BitVec 8)) (priv : Bool) (va : DWord)
  /-- Bytes stored to the scratchpad, at an offset of the core array. -/
  | scratch (off : Nat) (bytes : List (BitVec 8))
  /-- A FLINS of lanes and their fragments, setting a predicate (R395). -/
  | flins (pc : DWord) (d : BitVec 4) (frags : List (Nat × ListFrag))
  /-- The hits of a TRACE APPEND: scoreboard slot, and per lane the fragments and whether more than 64 were accepted (R401). -/
  | hits (pc : DWord) (slot : Nat) (frags : List (Nat × List ListFrag × Bool))
  /-- The vertex records of GVTX, by lane (R365), and the colour count. -/
  | vertices (c : Nat) (recs : List (Nat × List Word))
  | ordlv (lanes : LaneMask)
  | discard (lanes : LaneMask)
  deriving DecidableEq, Repr

/-- What a grid, sample or resolve group has beyond a team group (R364, R369, R383, R477). -/
structure Gfx where
  pass : Nat
  /-- Tile index in TILED mode, else 0. -/
  tile : Nat
  /-- Graphics area number (R239). -/
  area : Nat
  patchId : DWord
  gridU : DWord
  gridV : DWord
  /-- Its age (R386): sequence of micropolygon 0, or the lowest fragment sequence; above every sequence for a resolve group. -/
  age : Nat
  gvtxDone : Bool
  /-- Fragments by lane: key (x, y, sample) and sequence (R380). -/
  keys : List (Nat × (Nat × Nat × Nat) × Nat)
  entered : LaneMask
  released : LaneMask
  /-- Lanes whose ORDLV or KILL is held (R387). -/
  leaving : LaneMask
  /-- Inside a replay region (R477), its snapshot and held effects, oldest first, with the bytes they take (R478). -/
  inRegion : Bool
  snap : Ctx
  snapKeys : LaneMask × LaneMask
  snapGvtx : Bool
  held : List Held
  heldBytes : Nat
  /-- Killed for replay and not readmitted (R479). -/
  replay : Bool
  deriving DecidableEq, Repr

/-- A batch of tile operations and Whorl requests (R332). -/
structure Batch where
  /-- Its place among the group's batches, and its number modulo 256. -/
  seq : Nat
  num : Nat
  /-- Operations that have not retired. -/
  left : Nat
  err : Bool
  deriving DecidableEq, Repr

structure Group where
  ctx : Ctx
  kind : GKind
  status : Status
  job : Nat
  launch : Nat
  team : Nat
  /-- GROUP (R46, R49); 255 for a spawned group (R64). -/
  number : Nat
  spawnSeq : Nat
  spawnArea : Nat
  core : Nat
  part : Nat
  /-- Resident slot in its partition (R18). -/
  rslot : Nat
  /-- Main registers, and so KiB of its main-file footprint, and the first KiB of it (R24). -/
  regs : Nat
  mainAt : Nat
  prio : Nat
  /-- It holds an operand-buffer slot (R43). -/
  hasSlot : Bool
  /-- When it began to wait, for the order of R72 (the model's own count). -/
  since : Nat
  board : Vector (Option Pend) 32
  block : Option Pend
  /-- Non-returning requests no unit has answered, with their numbers (RED, POSTM; R454), and the number of the next. -/
  posts : List (Nat × Pend)
  postSeq : Nat
  /-- Deferred causes of non-returning requests, with the request to send again (R454, R461). -/
  deferred : List (TrapInfo × Option Pend)
  handler : Bool
  retry : Option Retry
  trapSave : Option TrapSave
  /-- While a rebuild run re-executes: the address where it ends and the run (R462). -/
  rebuild : Option (DWord × List RunItem)
  /-- A request's instruction to be executed again for a retry: its address, and where the group resumes then (R461). -/
  again : Option (DWord × DWord)
  /-- How the group goes on when its pre-empted team resumes (R469, R475). -/
  resumeAs : Status
  /-- Main registers that its context area holds while it is saved (R470). -/
  saved : LaneMask
  seen : Vector (BitVec 16) 16
  /-- Barriers of a grid or sample group (R537). -/
  ownBars : Vector Barrier 16
  /-- The open batch, whose number is the batch counter, and the closed ones (R332). -/
  batch : Batch
  batches : List Batch
  taskrec : DWord
  markNum : Nat
  /-- XCHG waiting to pair: destination entry, partner and the values offered (R253). -/
  xchg : Option (Nat × Nat × Lanes)
  /-- Its group area (R239): priv_base, or none. -/
  area : Option DWord
  /-- PRIVLIMIT (R87, R239, R304). -/
  privLimit : Nat
  /-- The page the host has refused, on which its reissued instruction faults (R377). -/
  absent : Option Nat
  gfx : Option Gfx
  /-- Combiner: instructions issued (R495), the object and the batch it runs (R302). -/
  icount : Nat
  deriving DecidableEq, Repr

/-! ## Stream queues (R243 to R249) -/

/-- What a stream queue entry does. -/
inductive SqKind where
  | copy (dir : Nat)
  | gather
  /-- A ring: drain or fill, slots, full and empty barriers (R248). -/
  | ring (drain : Bool) (m full empty : Nat)
  /-- A fence of SQFENCE with its number, in both queues or one (R249). -/
  | fence (id : Nat) (queues : Nat)
  deriving DecidableEq, Repr

/-- An entry of a stream queue (R243). -/
structure SqEntry where
  kind : SqKind
  team : Nat
  grp : Nat
  job : Nat
  record : DWord
  nb : Nat
  /-- The s registers it read at issue. -/
  args : List DWord
  pc : DWord
  iword : Word
  oword : Word
  /-- Next box of a ring, and flips of the barrier it waits on when it began. -/
  box : Nat
  began : Option Nat
  err : Bool
  /-- When it entered, for the accesses that a CARVE waits for (R227; the model's own count). -/
  issued : Nat
  /-- Requests of its producer group, by number, whose releases with STRM it waits for (R286). -/
  after : List Nat
  deriving DecidableEq, Repr

/-! ## Teams, launches and jobs (R46 to R62) -/

structure Team where
  live : Bool
  job : Nat
  launch : Nat
  index : Nat
  x : Nat
  y : Nat
  z : Nat
  core : Nat
  /-- The other half of a twin team (R49). -/
  twin : Option Nat
  /-- First scratchpad granule and number of granules (R25, R47). -/
  scrBase : Nat
  scrLen : Nat
  accBase : Nat
  accLen : Nat
  producer : Nat
  bars : Vector Barrier 16
  nextSpawn : Nat
  /-- CARVE that has not arrived: barrier, new granule count and where the run will start (R227). -/
  carve : Option (Nat × Nat × Nat)
  /-- When it was issued: a shrinking one waits for the scratchpad accesses issued before it (R227; the model's own count). -/
  carveAt : Nat
  /-- Task queue size in bytes, owner and thief indices (R65, R67). -/
  taskQ : Nat
  taskHead : Nat
  taskTail : Nat
  /-- Carve values formed at admission (R26). -/
  mainLen : Nat
  /-- Pre-emption (R468 to R475): requested, saved, the stop masks of its groups ORed, the producer's handler has run, and it runs
  again before the team resumes. -/
  preempt : Bool
  saved : Bool
  saveMask : Word
  handled : Bool
  resuming : Bool
  /-- Its stream-queue entries while it is saved, with their queue (R474), and whether its tiles were saved. -/
  savedSq : List (Nat × SqEntry)
  savedTiles : Bool
  /-- A group of it has faulted, so that it does not complete DONE (R59). -/
  fault : Bool
  /-- A kernel that it runs carries the flag "contains NEVAL" (R28). -/
  neval : Bool
  deriving DecidableEq, Repr

/-- Completion status (R59). -/
inductive DoneStatus where
  | done | cancelled | faulted | rejected
  deriving DecidableEq, Repr

/-- What a launch keeps of its kernel descriptor (R87). -/
structure Kernel where
  addr : DWord
  regs : Nat
  groups : Nat
  twin : Bool
  scratch : Nat
  acc : Nat
  producer : Nat
  priv : Nat
  secure : Bool
  task : Bool
  neval : Bool
  entries : Nat
  entryTable : DWord
  /-- Entry 0, read when the launch starts (R89). -/
  entry : DWord
  liveness : DWord
  deriving DecidableEq, Repr

structure Launch where
  live : Bool
  job : Nat
  /-- LAUNCHID (R51). -/
  id : Nat
  kernel : Kernel
  args : DWord
  dx : Nat
  dy : Nat
  dz : Nat
  record : DWord
  cancel : DWord
  taskQ : Nat
  pool : Nat
  coResident : Bool
  prio : Nat
  privZ : Nat
  privBase : DWord
  /-- Queue that started it and its core mask (R78, R89). -/
  queue : Option Nat
  mask : BitVec 64
  /-- Graph and node it serves (R54), and its phase (R97). -/
  graph : Option (Nat × Nat)
  phase : Option Nat
  admitted : Nat
  /-- Teams not yet finished and teams completed DONE (R59). -/
  left : Nat
  doneTeams : Nat
  cancelled : Bool
  faulted : Bool
  rejected : Bool
  /-- Its completion record has been written (R59). -/
  complete : Bool
  /-- The pass it belongs to (R98). -/
  pass : Option Nat
  /-- LAUNCHID in the placement entries its groups fill while its job replays (R531). -/
  recorded : Option Nat
  deriving DecidableEq, Repr

/-- A node of a graph (R54, R55). -/
structure Node where
  packet : DWord
  counter : Nat
  succ : List Nat
  record : DWord
  /-- Not started, started, or complete with its status. -/
  started : Bool
  status : Option DoneStatus
  deriving DecidableEq, Repr

/-- A graph (R54 to R56). -/
structure Graph where
  live : Bool
  job : Nat
  queue : Option Nat
  slot : Nat
  mask : BitVec 64
  prio : Nat
  record : DWord
  cancel : DWord
  nodes : List Node
  /-- Nodes whose counter has reached 0 and that have not started, in the order in which they start (R55). -/
  ready : List Nat
  cancelled : Bool
  phase : Option Nat
  status : Option DoneStatus
  deriving DecidableEq, Repr

/-- A phase of a job (R57, R97). -/
structure Phase where
  job : Nat
  number : Nat
  record : DWord
  cancel : DWord
  cancelled : Bool
  status : Option DoneStatus
  deriving DecidableEq, Repr

/-- The order-log mode of a job (R255, R312). -/
inductive LogMode where
  | off
  | record (va : DWord)
  | replay (va : DWord)
  deriving DecidableEq, Repr

structure Job where
  live : Bool
  fn : Nat
  root : DWord
  handler : DWord
  objTable : DWord
  objM : Nat
  secure : Bool
  hostShared : Bool
  control : DWord
  coreMask : BitVec 64
  vaultMap : BitVec 512
  link : Nat
  /-- Launches so far (R51). -/
  launchSeq : Nat
  /-- Its number is free for nothing else once it is destroyed; the tag of the DESTROY_JOB that waits (R58, R411). -/
  destroy : Option Word
  log : LogMode
  /-- Placement entries read in replay, and where recording has stopped: placement area, mark area, columns (R312, R316). -/
  placed : Nat
  placeStop : Bool
  markStop : Bool
  colStop : BitVec 64
  /-- Its key for GDDR-7, which firmware generates for a secure job (R423). -/
  key : Nat
  /-- Code measured at the first launch of each kernel: start and bytes (R430). -/
  measured : List (DWord × List (BitVec 8))
  deriving DecidableEq, Repr

/-! ## Memory and cores (R22 to R31, R258 to R269) -/

/-- A leaf held by a TLB (R262, R264). -/
structure TlbEntry where
  job : Nat
  /-- Virtual page number in 64 KiB pages of the block's first page, and the block's size in 64 KiB pages. -/
  page : Nat
  pages : Nat
  leaf : DWord
  deriving DecidableEq, Repr

/-- An L1 line (R266): line number (physical address ÷ 128), bytes, and whether it is private and dirty. -/
structure L1Line where
  line : Nat
  data : List (BitVec 8)
  priv : Bool
  dirty : Bool
  /-- The group whose private data a private line holds (R268). -/
  owner : Nat
  deriving DecidableEq, Repr

/-- A granule of the core array (R22): how its undefined bytes read, 0 for zeros (log 12). -/
abbrev Epoch := Nat

/-! ## Engines, matrix and Whorl (R243 to R249, R328 to R348) -/

/-- What a tile operation does. -/
inductive TileKind where
  /-- MMA: half of the pair or none, A in global memory, kinds, K, A's place and B's offset. -/
  | mma (half : Option Bool) (ga : Bool) (ka kb k : Nat) (a : DWord) (b : Nat)
  /-- MDRAIN to entries from `d`, or to scratchpad: format, scales, band and their places. -/
  | drain (d : Option Nat) (fmt band : Nat) (rs cs : Bool) (out scale : Nat)
  /-- MFILL from values by lane, or from scratchpad. -/
  | fill (vals : Option (List (Nat × List Word))) (fmt band : Nat) (src : Nat)
  | zero
  /-- The layer operations of a Whorl tile (R328, R346). -/
  | layer
  deriving DecidableEq, Repr

/-- An operation in a tile's queue (R328). -/
structure TileOp where
  kind : TileKind
  grp : Nat
  team : Nat
  job : Nat
  /-- Its batch (R332). -/
  batch : Nat
  /-- A page its A fetch waits for (R498). -/
  stalled : Option DWord
  /-- When it entered, which tells it from its group's other operations (R227, R329; the model's own count). -/
  issued : Nat
  deriving DecidableEq, Repr

/-- A row of a Whorl bin: its NEVAL's group, scoreboard slot, lane, widths and inputs (R342, R344). -/
structure WRow where
  grp : Nat
  slot : Nat
  lane : Nat
  nin : Nat
  nout : Nat
  batch : Nat
  inputs : List Nat
  deriving DecidableEq, Repr

/-- Rows that name one network, and the job whose address space its handle lies in. -/
structure WBin where
  job : Nat
  handle : DWord
  rows : List WRow
  deriving DecidableEq, Repr

/-- The Whorl unit of a pair (R344). -/
structure Whorl where
  /-- NEVALs on their way, oldest first, each with its handle and rows. -/
  queue : List WBin
  bins : List WBin
  tiles : List WBin
  deriving DecidableEq, Repr

structure Core where
  /-- Granules in the main-file carve (R22, R26). -/
  mainLen : Nat
  secure : Bool
  /-- Scratchpad bytes by offset in the 8 MiB core array; bit 8 is 1 where a byte has been written since its granule was granted. -/
  array : SMap 9
  /-- Epoch of each granule, absent 0. -/
  granEpoch : List (Nat × Epoch)
  /-- Job that last held each granule, and each tile as 128 + its number (R476). -/
  owners : List (Nat × Nat)
  /-- Accumulator elements by tile × 16384 + row × 128 + column; bit 32 is 1 where written since the tile became undefined. -/
  tiles : SMap 33
  tileEpoch : List (Nat × Epoch)
  weight : SMap 8
  weightJob : Option Nat
  l1 : List L1Line
  tlb : List TlbEntry
  pfIssued : DWord
  pfUsed : DWord
  pfLate : DWord
  pfUnused : DWord
  /-- Lines prefetched into L1, and into their home vaults, not yet counted as used, late or unused (R269). -/
  pfLines : List Nat
  pfVault : List Nat
  ceCore : DWord
  ceAcc : DWord
  ceWb : DWord
  peOpb : DWord
  ueCore : DWord
  cycle : DWord
  stamp : BitVec 48
  /-- Spawn pool: the launch it serves and its size, and the footprints of its slots: first KiB and KiB (R63). -/
  pool : Option (Nat × Nat)
  poolAt : List (Nat × Nat)
  /-- Stream queues, the first error of each for each producer group (R243, R505), and the engines' stamps (R290). -/
  sq : Vector (List SqEntry) 2
  sqErr : Vector (List (Nat × TrapInfo)) 2
  sqStamp : Vector (BitVec 48) 2
  /-- Queues of tile operations (R328). -/
  tileQ : Vector (List TileOp) 16
  debugArmed : Bool
  deriving DecidableEq, Repr

/-- A lane's atomic request on its way to its unit (R282 to R284). -/
structure AtomReq where
  /-- Its group, or none for a peer's (R417). -/
  grp : Option Nat
  /-- Scoreboard slot, 32 for the blocking request, 33 + n for the group's n-th non-returning request. -/
  slot : Nat
  lane : Nat
  job : Nat
  /-- Source of R314: logical core and resident slot; a combiner's and a peer's requests are not recorded. -/
  core : Nat
  rslot : Nat
  logged : Bool
  va : DWord
  pa : Nat
  /-- Where it executes (R282): none for the home. -/
  edge : Option Edge
  op : Nat
  bytes : Nat
  op1 : Nat
  cmp : Nat
  reassoc : Bool
  /-- The sender's stamp (R290). -/
  stamp : BitVec 48
  deriving DecidableEq, Repr

/-! ## Homes (R292 to R317) -/

/-- Who sent a method request and where its reply goes. -/
inductive ReqSrc where
  /-- Group, request number as in `AtomReq.slot`, lane. -/
  | lane (grp slot lane : Nat)
  | peer (dev : Nat)
  deriving DecidableEq, Repr

/-- A request of CALLM or POSTM (R297). -/
structure MethodReq where
  job : Nat
  base : DWord
  method : Nat
  bytes : Nat
  arg : DWord
  ident : Word
  post : Bool
  pair : Bool
  src : ReqSrc
  /-- Physical address of the object's first line. -/
  pa : Nat
  /-- Number of its arrival at the home (R302), the sender's stamp (R290) and what R314 records of it. -/
  order : Nat
  stamp : BitVec 48
  core : Nat
  rslot : Nat
  logged : Bool
  deriving DecidableEq, Repr

/-- An object with requests pending or a combiner running (R296, R301). -/
structure ObjState where
  col : Nat
  job : Nat
  base : DWord
  pa : Nat
  z : Nat
  /-- Virtual address of its descriptor, its release mask and REPLY64 (R293). -/
  desc : DWord
  mask : BitVec 5
  reply64 : Bool
  methods : List DWord
  pending : List MethodReq
  /-- The combiner group that runs and its batch (R302). -/
  running : Option (Nat × List MethodReq)
  deriving DecidableEq, Repr

/-- An open run of requests to a line (R314). -/
structure OpenRun where
  col : Nat
  job : Nat
  line : Nat
  core : Nat
  rslot : Nat
  count : Nat
  stamp : BitVec 32
  deriving DecidableEq, Repr

/-- The chunks left for a gated line: core, resident slot and requests left (R317). -/
structure Gate where
  col : Nat
  job : Nat
  line : Nat
  chunks : List (Nat × Nat × Nat)
  deriving DecidableEq, Repr

/-- A Canopy column (R30 to R38, R290, R493). -/
structure Column where
  on : Bool
  stamp : BitVec 48
  ce : DWord
  ue : DWord
  deriving DecidableEq, Repr

/-! ## Render passes (R350 to R396) -/

/-- The fields of a pass state block (R350). -/
structure PassBlock where
  immediate : Bool
  logS : Nat
  motion : Bool
  defocus : Bool
  persistent : Bool
  width : Nat
  height : Nat
  budget : Nat
  depthFn : Nat
  merge : Nat
  rayScale : Word
  rayBias : Word
  pool : DWord
  poolPages : Nat
  nodeLimit : Nat
  tilePages : Nat
  view : List DWord
  origin : List DWord
  clearDepth : Word
  clearColour : DWord
  args : DWord
  colourAt : DWord
  pitch : Nat
  colourFmt : Nat
  depthAt : DWord
  spill : DWord
  bin : DWord
  binBytes : Nat
  plane : DWord
  statusAt : DWord
  privBase : DWord
  privZ : Nat
  areaLog : Nat
  deriving DecidableEq, Repr

/-- A patch handed to the dicer (R359, R361): its core, its place in patch order and its record. -/
structure Patch where
  core : Nat
  launch : Nat
  team : Nat
  grp : Nat
  addr : DWord
  user : Word
  rate : Word
  margin : Word
  corners : List DWord
  deriving DecidableEq, Repr

/-- A grid (R363, R364). -/
structure Grid where
  core : Nat
  launch : Nat
  tile : Nat
  seq : Nat
  addr : DWord
  user : Word
  nu : Nat
  nv : Nat
  u0 : Word
  du : Word
  v0 : Word
  dv : Word
  /-- Its group, once started; vertex records by lane and the colour count, once handed over (R365). -/
  grp : Option Nat
  verts : Option (Nat × List (Nat × List Word))
  /-- Next micropolygon to sample; it has been wholly sampled. -/
  next : Nat
  sampled : Bool
  deriving DecidableEq, Repr

/-- A fragment (R368): tile, key, sequence, depth, colour count and colours. -/
structure Frag where
  core : Nat
  tile : Nat
  key : Nat × Nat × Nat
  seq : Nat
  depth : Word
  c : Nat
  colours : List DWord
  deriving DecidableEq, Repr

/-- A tile of a TILED pass: where it is held (R354, R356). -/
structure TileSt where
  tile : Nat
  /-- Its tile team, while it is held by a core. -/
  team : Option Nat
  spilled : Bool
  /-- Resolve: started, with the groups that run, or done (R378). -/
  resolving : List Nat
  resolved : Bool
  deriving DecidableEq, Repr

/-- What a pass is doing (R357). -/
inductive Stage where
  /-- Open for launches. -/
  | draw
  /-- PASS next: the binned grids of the sub-pass are processed. -/
  | next
  /-- PASS end: binned grids, then the resolve. -/
  | finish
  deriving DecidableEq, Repr

/-- A render pass (R98, R350 to R358). -/
structure Pass where
  live : Bool
  job : Nat
  queue : Nat
  slot : Nat
  mask : BitVec 64
  block : PassBlock
  /-- Sample-pattern table: ox, oy, tt, lu, lv (R352). -/
  pattern : List (List Int)
  gridKernel : Kernel
  sampleKernel : Option Kernel
  resolveKernel : Option Kernel
  stage : Stage
  sub : Nat
  resolveFail : Bool
  guard : Bool
  seqwrap : Bool
  binflush : Bool
  poolEmpty : Bool
  gridSeq : Nat
  binUsed : Nat
  flushing : Bool
  patches : List Patch
  /-- Grids diced and not numbered yet (R361), then grids in sequence order. -/
  diced : List Grid
  grids : List Grid
  /-- Nodes in use: tile (0 in IMMEDIATE mode) and index (R390). -/
  used : List (Nat × Nat)
  /-- Fragments created that hold a reservation: tile, key and sequence (R382). -/
  reserved : List (Nat × (Nat × Nat × Nat) × Nat)
  /-- Translucent fragments for the list engine, and for sample programs: the open group of each core, and closed groups. -/
  toLists : List Frag
  opened : List Frag
  closed : List (List Frag)
  tiles : List TileSt
  deriving DecidableEq, Repr

/-! ## Front end (R74 to R101) -/

/-- A LOOP in progress: where its body starts, its packets, those left in this iteration and the iterations left (R94). -/
structure LoopSt where
  start : Nat
  body : Nat
  left : Nat
  iters : Nat
  deriving DecidableEq, Repr

/-- A nesting level (R92 to R95): ring or buffer base, ring size or 0, where its packets end, the next packet, held bytes (bit 8
is 1 where held), and the loop, skip and cover counts in force. -/
structure Nest where
  base : DWord
  ring : Nat
  limit : Nat
  pos : Nat
  win : SMap 9
  loop : Option LoopSt
  skip : Nat
  cover : Nat
  deriving DecidableEq, Repr

/-- A level-0 packet begun and not consumed (R96): its offset, the next one's, and what it waits for. -/
structure Begun where
  pos : Nat
  next : Nat
  launches : List Nat
  graphs : List Nat
  deriving DecidableEq, Repr

/-- A LAUNCH2 whose prologue runs again after a launch completes (R91). -/
structure Prologue where
  addr : DWord
  params : DWord
  arg : DWord
  iter : Nat
  /-- The launch it waits for. -/
  waits : Option Nat
  /-- Its graph and node: a LAUNCH2 of a queue is a graph of one node (R57), and otherwise a node of a GRAPH packet's (R54). -/
  graph : Nat × Nat
  isNode : Bool
  /-- Where the level-0 packet that holds it starts. -/
  at_ : Nat
  deriving DecidableEq, Repr

/-- A hardware slot with its bind record (R78) and what the front end keeps for it. -/
structure Slot where
  bound : Bool
  release : Bool
  queue : Nat
  qcb : DWord
  job : Nat
  prio : Nat
  secure : Bool
  mask : BitVec 64
  quota : Nat
  round : Nat
  /-- Innermost level first; the last is level 0. -/
  levels : List Nest
  begun : List Begun
  /-- Bytes of the packet that begins. -/
  len : Nat
  /-- Level-0 packets begun since the bind. -/
  packets : Nat
  /-- Launches with teams to admit, in packet order (R100). -/
  launches : List Nat
  waiting : Option MemCond
  prologues : List Prologue
  /-- Consecutive passes over, and the mask reserved (R101). -/
  passes : Nat
  reserved : Bool
  /-- A packet stopped the queue: the reason of R513. -/
  stopped : Option Nat
  deriving DecidableEq, Repr

/-- A registered queue (R79, R80, R97, R411). -/
structure Queue where
  live : Bool
  qcb : DWord
  job : Nat
  wake : Nat
  passCount : Nat
  phases : Nat
  /-- Its open pass (R98). -/
  pass : Option Nat
  /-- Last even generation read (R77). -/
  gen : Option Nat
  /-- It became runnable by its write offset in an earlier round, and the order of its last bind, for the round-robin of R80. -/
  lastBind : Nat
  deriving DecidableEq, Repr

/-! ## Peers and collectives (R416 to R420, R424) -/

/-- A Brual port: its peer when the link is up, world, consecutive tag failures (R416, R421, R507) and stamp. -/
structure Port where
  peer : Option Nat
  secure : Bool
  fails : Nat
  stamp : BitVec 48
  deriving DecidableEq, Repr

/-- A stream from a peer: device, class, next sequence, and messages that arrived ahead of it (R418). -/
structure InStream where
  dev : Nat
  cls : Nat
  next : Nat
  ahead : List (Nat × PeerMessage)
  deriving DecidableEq, Repr

/-- A contribution to a collective (R254): where it came from, its vector and its destination. -/
structure Contribution where
  core : Nat
  group : Nat
  job : Nat
  grp : Nat
  vals : List Word
  dest : DWord
  /-- Its own element type, by which its status word is placed. -/
  ty : Nat
  deriving DecidableEq, Repr

/-- An entry of the reduction engine (R420). -/
structure CollEntry where
  ident : Nat
  locals : Nat
  parent : Nat
  port : Nat
  children : Nat
  /-- Operation and type of the instance's first contribution. -/
  op : Option (Nat × Nat)
  contribs : List Contribution
  /-- Partial vectors of children, by device (R420). -/
  fromChildren : List (Nat × List Word)
  sent : Bool
  /-- The aborted instance waits for its late contributors (R509): those still expected. -/
  aborted : Bool
  late : Nat
  deriving DecidableEq, Repr

/-! ## Firmware, package and debug (R404 to R442, R512 to R525) -/

inductive DevState where
  | d0 | d3hot | d3cold
  deriving DecidableEq, Repr

inductive DebugState where
  | off | nEnabled | sAuthorised
  deriving DecidableEq, Repr

/-- A firmware image as the part sees it: whether its signature verifies, its security version and its length. -/
structure Image where
  signed : Bool
  version : Nat
  len : Nat
  deriving DecidableEq, Repr

/-- Something begun that waits to be tried again: a stream's next message, an access of the host, or a request in the journal (R517). -/
inductive Waiting where
  | stream (dev cls : Nat)
  | snoop (pa : Nat)
  | access (pa : Nat) (op : HostOp)
  | invalidate (h : Request) (va : DWord) (pages : Nat)
  | ats (job : Nat) (va : DWord) (pages : Nat)
  /-- A slice's entry moves to a vault (R38). -/
  | remap (slice vault : Nat)
  | columnOff (col : Nat)
  | power (block : Block) (target : PowerState)
  | d3hot
  | create (h : Request) (x : JobOperands)
  | unregister (h : Request) (qcb : DWord)
  | cancel (h : Request)
  /-- Firmware updates fields of a QCB, each an offset, a size and a value: the store of the generation protocol that comes next (R77). -/
  | update (job : Nat) (qcb : DWord) (fields : List (Nat × Nat × Nat)) (stage : Nat)
  | register (h : Request) (qcb : DWord)
  /-- Vaults return to the CACHE role (R30). -/
  | returns (vaults : BitVec 512)
  /-- A unit's own write that met a line or a page it must wait for (R306, R409). -/
  | write (job : Nat) (va : DWord) (bytes : List (BitVec 8))
  deriving DecidableEq, Repr

/-- What the signal unit or the front end has found at a word's home and not acted on yet (R82, R90): the cancel word of a unit was
non-zero, or the condition of a parked queue, or of a slot's WAIT in a loop body, held. -/
inductive Notice where
  | cancel (u : UnitRef)
  | park (queue : Nat)
  | wait (slot : Nat)
  deriving DecidableEq, Repr

/-- A PCIe function: whether its TDI runs and its IDE stream is active (R408), and its ring registers (R410) with the values of RQBASE,
RQSIZE, EVBASE and EVSIZE latched at step 6 (R441). -/
structure Fn where
  run : Bool
  ide : Bool
  rqbase : DWord
  rqsize : DWord
  rqwrite : DWord
  rqread : DWord
  evbase : DWord
  evsize : DWord
  evwrite : DWord
  evread : DWord
  latched : DWord × DWord × DWord × DWord
  deriving DecidableEq, Repr

/-- How far bring-up has come (R440): before the end of step 5, before step 6, or past it. -/
inductive Bring where
  | before
  | due
  | up
  deriving DecidableEq, Repr

/-- What the debugger was last told (R425). -/
inductive DebugStatus where
  | done | disabled | noauth | off | asleep
  deriving DecidableEq, Repr

/-- Registers and state of firmware and the package. -/
structure Sys where
  /-- RESET_N is low (R432). -/
  low : Bool
  bring : Bring
  /-- FWSTATUS (R410). -/
  fwState : Nat
  secver : Nat
  idexh : Bool
  /-- Recovery registers (R519). -/
  rcvaddr : DWord
  rcvlen : DWord
  rcvbusy : Bool
  rcvreason : Nat
  /-- Strap pins and fuses (R435). -/
  strap : DWord
  fuse : DWord
  /-- THERMSTAT (R439) and PWRCTL (R437). -/
  cnpmax : Nat
  coremax : Nat
  clock : Nat
  pwrnow : Nat
  crit : Bool
  throt : Bool
  throtnow : Bool
  limit : Nat
  profile : Nat
  /-- The clock to which temperature limits the cores until the readings have fallen (R439). -/
  cap : Nat
  /-- Milliseconds over the limit at the lowest clock, and whether the event of R524 has been posted. -/
  overMs : Nat
  overPosted : Bool
  /-- Cores held in C3 after a critical action (R522). -/
  held : Bool
  /-- The thermal trip has removed power (R523). -/
  tripped : Bool
  dev : DevState
  /-- PCIe link trained (R440); CXL.cache enabled by the host (R405). -/
  link : Bool
  cxlCache : Bool
  wakeBuf : List Nat
  wakeOvf : Bool
  debug : DebugState
  debugRejects : Nat
  /-- Status and data of the last debug access (R425). -/
  debugReply : DebugStatus × DWord
  /-- Antifuse counter, whether the key of R429 exists, and reports it has signed (R429). -/
  antifuse : Nat
  aliasKey : Bool
  signed : Nat
  flash : Image
  running : Image
  /-- Watchdog restarts since cold reset, and expiries in succession without STATE 1 (R516, R518). -/
  restarts : Nat
  expiries : Nat
  /-- The spare core holds the Taproot role (R518). -/
  spare : Bool
  /-- Queue-binding rounds so far, and the slot that admitted last (R100). -/
  rounds : Nat
  lastSlot : Nat
  fwStamp : BitVec 48
  feStamp : BitVec 48
  hostStamp : BitVec 48
  fns : Vector Fn 33
  /-- Secure GDDR-7 regions in 2 MiB units and secure vaults (R421). -/
  regions : List (Nat × Nat)
  secVaults : BitVec 512
  /-- Accesses of R510 counted, and the last 64 records: address, requester, stamp (R511). -/
  denied : Nat
  deniedLog : List (Nat × Nat × BitVec 48)
  /-- Requests, and outside accesses, begun and not complete, which are tried again (R517). -/
  journal : List Waiting
  /-- CEG7 and UEG7 of each position (R493). -/
  ceG7 : Vector DWord 24
  ueG7 : Vector DWord 24
  deriving DecidableEq, Repr

/-- Faults: the machine stops. -/
inductive Fault where
  /-- The thermal trip has removed core and Canopy power (R523): nothing runs until RESET_N. Raised by step when no outside
  event is due; safe. -/
  | powerOff
  deriving DecidableEq, Repr

/-- Refusals. -/
inductive Refusal where
  /-- An instruction whose meaning is not written yet. Raised by exec; safe. -/
  | notModelled (mnemonic : String)
  deriving DecidableEq, Repr

/-- An event that firmware has posted and not yet written to the event ring (R412). -/
structure HostEvent where
  fn : Nat
  code : Nat
  status : Nat
  tag : Nat
  job : Nat
  data : DWord
  deriving DecidableEq, Repr

structure State where
  /-- Memory at each physical address (R259); an unlisted byte reads 0 (log 5). -/
  mem : SMap 8
  /-- Poisoned 128-byte lines (R491). -/
  poison : List Nat
  /-- GDDR-7 lines that a secure job has written, each with the job whose key enciphers it (R423). -/
  keyed : List (Nat × Nat)
  cores : Vector Core 64
  /-- Visible GDDR-7 capacity in bytes (R259, R434). -/
  gddrTop : Nat
  /-- Vaults in the DIRECT role (R30). -/
  direct : BitVec 512
  /-- Translations the host has given for host-shared jobs (R409), and pages it has refused. -/
  ats : List TlbEntry
  priRefused : List (Nat × Nat)
  /-- The L2 TLB of each twin pair (R264). -/
  l2tlb : Vector (List TlbEntry) 32
  groups : List Group
  teams : List Team
  launches : List Launch
  jobs : List Job
  graphs : List Graph
  phases : List Phase
  /-- Hardware slots and registered queues (R78, R79). -/
  slots : Vector Slot 64
  queues : List Queue
  /-- Events firmware has yet to write to the event ring (R412), and pages on which groups parked since the last post (R413). -/
  events : List HostEvent
  pages : List (Nat × Nat)
  columns : Vector Column 64
  /-- Slice map and stall bits (R31, R38). -/
  sliceMap : Vector Nat 512
  stalled : BitVec 512
  /-- Method requests on their way to homes, oldest first; objects; arrivals so far (R299, R301). -/
  methods : List MethodReq
  objects : List ObjState
  arrivals : Nat
  runs : List OpenRun
  gates : List Gate
  ports : Vector Port 16
  /-- Next sequence of each outgoing stream: device, class, number (R418). -/
  outSeq : List (Nat × Nat × Nat)
  inStreams : List InStream
  /-- Devices that no port has reached for 2^24 clocks (R506). -/
  lost : List Nat
  colls : List CollEntry
  whorls : Vector Whorl 32
  passes : List Pass
  /-- Fences placed so far (the model's own number for SQFENCE). -/
  fences : Nat
  /-- Power states that are not C0 (R425), and blocks of the secure world other than cores (R421). -/
  power : List (Block × PowerState)
  secBlocks : List Block
  sys : Sys
  /-- Atomics pending at home columns and at the GDDR-7, host and Brual units, oldest first (R282). -/
  atomics : List AtomReq
  /-- What has been found at the words that the signal unit and the front end watch (R82, R90). -/
  noticed : List Notice
  /-- The group whose instruction `exec` runs (the model's own, log 1). -/
  cur : Nat
  /-- Steps the outside world has asked for, oldest first (the model's own, log 1). -/
  agenda : List Instr
  /-- The agent that takes the next step, where it is fixed; none leaves it to a free value (the model's own, log 1). -/
  turn : Option Nat
  /-- Counter of free values (the model's own, log 3). -/
  free : Nat
  deriving DecidableEq, Repr

/-! ## Reset (R440) -/

def Core.reset : Core :=
  { mainLen := 0, secure := false, array := [], granEpoch := [], owners := [], tiles := [], tileEpoch := [], weight := [], weightJob := none,
    l1 := [], tlb := [], pfIssued := 0, pfUsed := 0, pfLate := 0, pfUnused := 0, pfLines := [], pfVault := [], ceCore := 0, ceAcc := 0, ceWb := 0,
    peOpb := 0, ueCore := 0, cycle := 0, stamp := 0, pool := none, poolAt := [], sq := Vector.replicate 2 [], sqErr := Vector.replicate 2 [],
    sqStamp := Vector.replicate 2 0, tileQ := Vector.replicate 16 [], debugArmed := false }

def Slot.empty : Slot :=
  { bound := false, release := false, queue := 0, qcb := 0, job := 0, prio := 0, secure := false, mask := 0, quota := 0, round := 0,
    levels := [], begun := [], len := 0, packets := 0, launches := [], waiting := none, prologues := [], passes := 0,
    reserved := false, stopped := none }

def Fn.reset : Fn :=
  { run := false, ide := false, rqbase := 0, rqsize := 0, rqwrite := 0, rqread := 0, evbase := 0, evsize := 0, evwrite := 0, evread := 0,
    latched := (0, 0, 0, 0) }

def Sys.reset : Sys :=
  { low := true, bring := .before, fwState := 0, secver := 0, idexh := false, rcvaddr := 0, rcvlen := 0, rcvbusy := false, rcvreason := 0,
    strap := 0xA0, fuse := 0x0000240100000000 ||| 0x02000000, cnpmax := 0, coremax := 0, clock := 0, pwrnow := 0, crit := false,
    throt := false, throtnow := false, limit := 0, profile := 0, cap := 36, overMs := 0, overPosted := false, held := false, tripped := false, dev := .d0,
    link := false, cxlCache := false, wakeBuf := [], wakeOvf := false, debug := .off, debugRejects := 0, debugReply := (.done, 0), antifuse := 0,
    aliasKey := false, signed := 0, flash := ⟨true, 0, 4194304⟩, running := ⟨false, 0, 0⟩, restarts := 0, expiries := 0, spare := false,
    rounds := 0, lastSlot := 0, fwStamp := 0, feStamp := 0, hostStamp := 0, fns := Vector.replicate 33 Fn.reset, regions := [], secVaults := 0,
    denied := 0, deniedLog := [], journal := [], ceG7 := Vector.replicate 24 0, ueG7 := Vector.replicate 24 0 }

/-- The machine right after reset: RESET_N has risen, and bring-up (R440) is the step it takes first (log 2). -/
def State.reset : State :=
  { mem := [], poison := [], keyed := [], cores := Vector.replicate 64 Core.reset, gddrTop := 0x5A00000000, direct := 0, ats := [], priRefused := [],
    l2tlb := Vector.replicate 32 [], groups := [], teams := [], launches := [], jobs := [], graphs := [], phases := [],
    slots := Vector.replicate 64 Slot.empty, queues := [], events := [], pages := [],
    columns := Vector.replicate 64 ⟨true, 0, 0, 0⟩, sliceMap := Vector.ofFn fun k : Fin 512 => k.val, stalled := 0, methods := [],
    objects := [], arrivals := 0, runs := [], gates := [], ports := Vector.replicate 16 ⟨none, false, 0, 0⟩, outSeq := [], 
    inStreams := [], lost := [], colls := [], whorls := Vector.replicate 32 ⟨[], [], []⟩, passes := [], fences := 0,
    power := [], secBlocks := [], sys := Sys.reset, atomics := [], noticed := [], cur := 0, agenda := [.resetNRise], turn := none, free := 0 }

end Sys2Proof.Machine
end

