-- ==== Sys2Proof/Machine/Store.lean ====
section
/-! DEFINITION. The sparse store behind memory, scratchpad, tiles and the weight buffer: one canonical form, so that equal
contents are equal data. Bytes are little-endian (R5). -/

namespace Sys2Proof.Machine

/-- The value at a key; an unlisted key holds 0. -/
def SMap.get {w : Nat} : SMap w → Nat → BitVec w
  | [], _ => 0
  | (k, v) :: l, a => if k = a then v else SMap.get l a

/-- The store with a new value at a key. Writing 0 removes the entry. -/
def SMap.set {w : Nat} : SMap w → Nat → BitVec w → SMap w
  | [], a, v => if v = 0 then [] else [(a, v)]
  | (k, x) :: l, a, v =>
    if a < k then (if v = 0 then (k, x) :: l else (a, v) :: (k, x) :: l)
    else if a = k then (if v = 0 then l else (k, v) :: l)
    else (k, x) :: SMap.set l a v

/-- Every key of the list is above `lo`, the keys rise strictly, and no value is 0. -/
def SMap.wfFrom {w : Nat} : Nat → SMap w → Bool
  | _, [] => true
  | lo, (k, v) :: l => lo ≤ k && v != 0 && SMap.wfFrom (k + 1) l

/-- The canonical form: strictly rising keys and no listed 0. -/
def Memory.wf {w : Nat} (m : SMap w) : Bool := SMap.wfFrom 0 m

/-- The store with a list of values from a key upward. -/
def SMap.setList {w : Nat} (m : SMap w) (a : Nat) : List (BitVec w) → SMap w
  | [] => m
  | b :: l => SMap.setList (SMap.set m a b) (a + 1) l

/-- The `n` values from a key upward. -/
def SMap.getList {w : Nat} (m : SMap w) (a n : Nat) : List (BitVec w) := (List.range n).map fun i => SMap.get m (a + i)

/-- The store without the keys from `a` to `a + n - 1`. -/
def SMap.clear {w : Nat} (m : SMap w) (a n : Nat) : SMap w := m.filter fun p => !(a ≤ p.1 && p.1 < a + n)

/-- The number that little-endian bytes hold. -/
def leNat : List (BitVec 8) → Nat
  | [] => 0
  | b :: l => b.toNat + 256 * leNat l

/-- The `n` little-endian bytes of a number. -/
def leBytes : Nat → Nat → List (BitVec 8)
  | 0, _ => []
  | n + 1, x => BitVec.ofNat 8 x :: leBytes n (x / 256)

/-- The number held by `n` bytes of memory. -/
def memNat (m : SMap 8) (a n : Nat) : Nat := leNat (SMap.getList m a n)

/-- Memory with a number written to `n` bytes. -/
def memSet (m : SMap 8) (a n x : Nat) : SMap 8 := SMap.setList m a (leBytes n x)

end Sys2Proof.Machine
end

