-- ==== Sys2Proof/Machine/Mem.lean ====
section
/-! DEFINITION. The named operations over registers and memory, each said once: accessors, translation (R261 to R265), L1 and
the point of coherence (R266 to R268), scratchpad (R25, R237) and the layout of the trap frame (R448 to R456). -/

namespace Sys2Proof.Machine

/-! ## Accessors -/

def coreIx (c : Nat) : Fin 64 := Fin.ofNat 64 c
def pairIx (c : Nat) : Fin 32 := Fin.ofNat 32 (c / 2)
def State.core (s : State) (c : Nat) : Core := s.cores[coreIx c]
def State.setCore (s : State) (c : Nat) (x : Core) : State := { s with cores := s.cores.set (coreIx c) x }
def State.modCore (s : State) (c : Nat) (f : Core → Core) : State := s.setCore c (f (s.core c))
def State.setGroup (s : State) (g : Nat) (x : Group) : State := { s with groups := s.groups.set g x }
def State.modGroup (s : State) (g : Nat) (f : Group → Group) : State := { s with groups := s.groups.modify g f }
def State.setTeam (s : State) (t : Nat) (x : Team) : State := { s with teams := s.teams.set t x }
def State.modTeam (s : State) (t : Nat) (f : Team → Team) : State := { s with teams := s.teams.modify t f }
def State.modLaunch (s : State) (l : Nat) (f : Launch → Launch) : State := { s with launches := s.launches.modify l f }
def State.modJob (s : State) (j : Nat) (f : Job → Job) : State := { s with jobs := s.jobs.modify j f }
/-- The next free value and the state that has used it (log 3). -/
def State.take (s : State) : Nat × State := (Config.fresh s.free, { s with free := s.free + 1 })

def Group.setCtx (g : Group) (x : Ctx) : Group := { g with ctx := x }
def State.setCtx (s : State) (gi : Nat) (x : Ctx) : State := s.modGroup gi fun g => { g with ctx := x }

/-- The register with a new value. -/
def Ctx.setS (x : Ctx) (d : Nat) (v : DWord) : Ctx := { x with s := x.s.set (Fin.ofNat 64 d) v }
def Ctx.getS (x : Ctx) (d : Nat) : DWord := x.s[Fin.ofNat 64 d]
def Ctx.setC (x : Ctx) (d : Nat) (v : Bool) : Ctx := { x with c := x.c.set (Fin.ofNat 4 d) v }
def Ctx.getC (x : Ctx) (d : Nat) : Bool := x.c[Fin.ofNat 4 d]
def Ctx.entry (x : Ctx) (e : Nat) : Entry := x.entries[Fin.ofNat 16 e]
def Ctx.setEntry (x : Ctx) (e : Nat) (v : Entry) : Ctx := { x with entries := x.entries.set (Fin.ofNat 16 e) v }
def Ctx.slot (x : Ctx) (w : Nat) : DWord := let u := x.slots[Fin.ofNat 8 w]; if u.mapped then u.val else 0
def Ctx.orFlags (x : Ctx) (f : FFlags) : Ctx := { x with fpflags := x.fpflags ||| f.setWidth 64 }
/-- Active lanes in ascending order. -/
def Ctx.lanes (x : Ctx) : List Nat := (List.range 256).filter fun t => x.active.getLsbD t
def Lanes.at (v : Lanes) (t : Nat) : Word := v[Fin.ofNat 256 t]
/-- The number whose bit t, for t below `n`, is 1 where a condition holds. -/
def natOfBits (f : Nat → Bool) : Nat → Nat
  | 0 => 0
  | n + 1 => natOfBits f n + (if f n then 2 ^ n else 0)
/-- A mask with the bits where a condition holds. -/
def maskFn (f : Nat → Bool) : LaneMask := BitVec.ofNat 256 (natOfBits f 256)
def maskOf (l : List Nat) : LaneMask := maskFn fun t => l.contains t

/-- The main register `v` of the group; registers it does not have read 0. -/
def Ctx.mainReg (x : Ctx) (v : Nat) : Lanes := x.main.getD v Lanes.zero

/-! ## Address spaces (R258 to R263) -/

/-- Where a physical address lies (R259, R405, R416). -/
inductive Target where
  | gddr
  | direct (v : Nat)
  | host
  | peer (d : Nat)
  | reg
  | none
  deriving DecidableEq, Repr

def target (top pa : Nat) : Target :=
  if pa < top then .gddr
  else if 0x1000000000000 ≤ pa && pa < 0x1000000000000 + 512 * 0x400000 then .direct ((pa - 0x1000000000000) / 0x400000)
  else if 0x8000000000000 ≤ pa && pa < 0x8000000000000 + 2 ^ 50 then .host
  else if 0xC000000000000 ≤ pa && pa < 0xC000000000000 + 256 * 0x20000000000 then
    (if (pa - 0xC000000000000) % 0x20000000000 < 0x10000000000 + 512 * 0x400000 then .peer ((pa - 0xC000000000000) / 0x20000000000) else .none)
  else if 0xF000000000000 ≤ pa && pa < 2 ^ 52 then .reg
  else .none

/-- Bits [63:56] all equal bit 56 (R231). -/
def canonical (va : DWord) : Bool := va.toNat / 2 ^ 56 == 0 || va.toNat / 2 ^ 56 == 255

/-- What an access does. -/
inductive Access where
  | read | write | fetch
  deriving DecidableEq, Repr

/-- One level of the walk: index shift and width, leaf size in bits where a leaf may stand, alignment of the next table. -/
structure Level where
  shift : Nat
  width : Nat
  leaf : Option Nat
  align : Nat
  deriving DecidableEq, Repr

/-- The levels of R261. -/
def walkLevels : List Level := [⟨39, 18, none, 12⟩, ⟨30, 9, some 30, 12⟩, ⟨21, 9, some 21, 8⟩, ⟨16, 5, some 16, 8⟩]

/-- A leaf: the entry and its size in address bits. -/
structure Leaf where
  e : DWord
  bits : Nat
  deriving DecidableEq, Repr

def Leaf.flag (l : Leaf) (i : Nat) : Bool := l.e.getLsbD i
def Leaf.writable (l : Leaf) : Bool := l.flag 1
def Leaf.executable (l : Leaf) : Bool := l.flag 2
def Leaf.secure (l : Leaf) : Bool := l.flag 3
def Leaf.cacheable (l : Leaf) : Bool := l.flag 4
def Leaf.resident (l : Leaf) : Bool := l.flag 5
def Leaf.park (l : Leaf) : Bool := l.flag 6
/-- Every leaf of the tables may be read; one the host has given may not where its completion says so, which bit 52 holds (R409). -/
def Leaf.readable (l : Leaf) : Bool := !l.flag 52
/-- The physical address of a virtual address under the leaf. -/
def Leaf.pa (l : Leaf) (va : DWord) : Nat := l.e.toNat / 2 ^ l.bits * 2 ^ l.bits % 2 ^ 52 + va.toNat % 2 ^ l.bits

/-- The fields of a leaf that must be 0 (R262). -/
def leafOk (e : DWord) (bits : Nat) : Bool :=
  e.getLsbD 0 && e.toNat / 2 ^ 52 == 0 && e.toNat / 2 ^ 8 % 2 ^ 8 == 0 && e.toNat / 2 ^ 16 % 2 ^ (bits - 16) == 0

/-- The fields of a table entry that must be 0 (R262). -/
def tableOk (e : DWord) (align : Nat) : Bool :=
  e.getLsbD 0 && e.toNat / 2 ^ 52 == 0 && e.toNat / 2 % 2 ^ 6 == 0 && e.toNat / 2 ^ 8 % 2 ^ (align - 8) == 0

/-- A walk of the tables in memory (R261 to R263); none where it faults XLATE. -/
def walk (m : SMap 8) (va : DWord) : List Level → Nat → Option Leaf
  | [], _ => none
  | l :: rest, table =>
    let e : DWord := BitVec.ofNat 64 (memNat m (table + 8 * (va.toNat / 2 ^ l.shift % 2 ^ l.width)) 8)
    if e.getLsbD 7 then
      match l.leaf with
      | some b => if leafOk e b then some ⟨e, b⟩ else none
      | none => none
    else if tableOk e l.align && !rest.isEmpty then walk m va rest (e.toNat % 2 ^ 52 / 2 ^ 8 * 2 ^ 8)
    else none

/-- The 64 KiB page number of a virtual address. -/
def pageOf (va : DWord) : Nat := va.toNat % 2 ^ 57 / 2 ^ 16

def tlbFind (l : List TlbEntry) (job : Nat) (va : DWord) : Option Leaf :=
  match l.find? fun e => e.job == job && e.page ≤ pageOf va && pageOf va < e.page + e.pages with
  | some e => some ⟨e.leaf, 16 + Nat.log2 e.pages⟩
  | none => none

/-- What a translation gives. -/
inductive Xlat where
  | ok (pa : Nat) (cacheable : Bool)
  | fault (c : Cause)
  /-- The leaf is not resident and marked park-on-miss (R263). -/
  | miss
  /-- Host-shared tables: the page awaits a PRI response (R409). -/
  | pri
  deriving DecidableEq, Repr

/-- The leaf of a virtual address: from the core's L1 TLB, the pair's L2 TLB or a walk (R264); for a host-shared job from the
translations the host has given (R409). -/
def State.leaf (s : State) (core job : Nat) (va : DWord) : Option Leaf :=
  match tlbFind (s.core core).tlb job va with
  | some l => some l
  | none =>
    match tlbFind (s.l2tlb[pairIx core]) job va with
    | some l => some l
    | none =>
      match s.jobs[job]? with
      | some j => if j.hostShared then tlbFind s.ats job va else walk s.mem va walkLevels j.root.toNat
      | none => none

/-- A physical address the job may reach (R260): a vault only in the DIRECT role and mapped to the job. -/
def State.reachable (s : State) (job pa : Nat) : Bool :=
  match target s.gddrTop pa with
  | .none => false
  | .direct v => s.direct.getLsbD v && (match s.jobs[job]? with | some j => j.vaultMap.getLsbD v | none => false)
  | _ => true

/-- The memory at a physical address belongs to the secure world (R421). -/
def State.secureAt (s : State) (pa : Nat) : Bool :=
  match target s.gddrTop pa with
  | .gddr => s.sys.regions.any fun r => r.1 ≤ pa / 2097152 && pa / 2097152 ≤ r.2
  | .direct v => s.sys.secVaults.getLsbD v
  | _ => false

/-- The address at which a non-secure access to secure memory arrives: outside every range, 2^52 above it (R510). The world of the
access is its leaf's in a secure job (R263). -/
def State.worldPa (s : State) (secure : Bool) (pa : Nat) : Nat := if !secure && s.secureAt pa then pa + 2 ^ 52 else pa

/-- An access that R510 denies: it reads zeros and writes nothing. -/
def deniedPa (pa : Nat) : Bool := 2 ^ 52 ≤ pa

/-- The page's accesses may go through L1: host memory only through CXL.cache, where the host has enabled it (R266, R405). -/
def State.viaCache (s : State) (l : Leaf) (va : DWord) : Bool :=
  l.cacheable && (target s.gddrTop (l.pa va) != .host || s.sys.cxlCache)

/-- The checks of R260 and R263 on an access under the leaf found, or none. `park` holds for the accesses that park on a miss. -/
def State.xlateWith (s : State) (job : Nat) (va : DWord) (a : Access) (park : Bool) (leaf : Option Leaf) : Xlat :=
  if !canonical va then .fault .xlate
  else
    match s.jobs[job]? with
    | none => .fault .xlate
    | some j =>
      match leaf with
      | none => if j.hostShared && !(s.priRefused.contains (job, pageOf va)) then .pri else .fault .xlate
      | some l =>
        if !l.resident then (if park && l.park then .miss else .fault .xlate)
        else if !s.reachable job (l.pa va) then .fault .xlate
        else if a == .write && !l.writable then .fault .perm
        else if a == .fetch && !l.executable then .fault .perm
        else if a == .read && !l.readable then .fault .perm
        else if l.secure && !j.secure then .fault .world
        else .ok (s.worldPa (j.secure && l.secure) (l.pa va)) (s.viaCache l va)

/-- A group's translation on its core. -/
def State.xlate (s : State) (core job : Nat) (va : DWord) (a : Access) (park : Bool) : Xlat :=
  s.xlateWith job va a park (s.leaf core job va)

/-- The leaf as an agent without a TLB of its own finds it: the tables, or the host's translations. -/
def State.walkLeaf (s : State) (job : Nat) (va : DWord) : Option Leaf :=
  match s.jobs[job]? with
  | some j => if j.hostShared then tlbFind s.ats job va else walk s.mem va walkLevels j.root.toNat
  | none => none

/-- The k-th element dropped, or none where `k` is the length (a free choice of what to replace, log 7). -/
def dropNth {α : Type} (l : List α) (k : Nat) : List α := l.eraseIdx k

/-- A TLB with one more entry; a full one first loses the entry a free value names (log 7). -/
def tlbAdd (l : List TlbEntry) (cap pick : Nat) (e : TlbEntry) : List TlbEntry :=
  if l.contains e then l else e :: (if l.length ≥ cap then dropNth l (pick % l.length) else l)

/-- Holds a leaf in the L1 and L2 TLBs after a translation (R264). -/
def State.tlbFill (s : State) (core job : Nat) (va : DWord) : State :=
  match tlbFind (s.core core).tlb job va, s.leaf core job va with
  | none, some l =>
    if !l.resident then s
    else
      let pages := 2 ^ (l.bits - 16)
      let e : TlbEntry := ⟨job, pageOf va / pages * pages, pages, l.e⟩
      let (r, s) := s.take
      let s := s.modCore core fun c => { c with tlb := tlbAdd c.tlb 512 r e }
      let l2 := s.l2tlb[pairIx core]
      { s with l2tlb := s.l2tlb.set (pairIx core) (tlbAdd l2 8192 r e) }
  | _, _ => s

def State.jobSecure (s : State) (job : Nat) : Bool := match s.jobs[job]? with | some j => j.secure | none => false

/-! ## Ciphers of secure jobs (R423) -/

/-- The key of a job. -/
def State.keyOf (s : State) (job : Nat) : Nat := match s.jobs[job]? with | some j => j.key | none => 0

/-- The other job whose key enciphers the line of an address, for an access of a secure job. -/
def State.foreign (s : State) (job pa : Nat) : Option Nat :=
  if s.jobSecure job then (s.keyed.find? fun p => p.1 == pa / 128 && p.2 != job).map (·.2) else none

/-- A byte of memory as a job finds it: in a line under another job's key it is what no rule gives (log 57). -/
def State.plain (s : State) (job pa : Nat) : BitVec 8 :=
  match s.foreign job pa with
  | some k => Config.xts (s.keyOf k) (s.keyOf job) s.free pa (memNat s.mem (pa / 16 * 16) 16)
  | none => SMap.get s.mem pa

/-- The bytes of a line as a job finds them. -/
def State.lineFor (s : State) (job line : Nat) : List (BitVec 8) := (List.range 128).map fun i => s.plain job (line * 128 + i)

/-- `n` bytes of memory as a job finds them. -/
def State.memFor (s : State) (job pa n : Nat) : Nat := leNat ((List.range n).map fun i => s.plain job (pa + i))

/-- A line that a secure job writes is enciphered under its key from then on; what stood there under another key is as the job finds it. -/
def State.claimLine (s : State) (job line : Nat) : State :=
  if !s.jobSecure job || s.keyed.contains (line, job) then s
  else
    { s with
      mem := if (s.foreign job (line * 128)).isSome then SMap.setList s.mem (line * 128) (s.lineFor job line) else s.mem
      keyed := (line, job) :: s.keyed.filter fun p => p.1 != line }

/-- The lines of a write of `n` bytes, where they lie in GDDR-7. -/
def State.claim (s : State) (job pa n : Nat) : State :=
  if s.jobSecure job && target s.gddrTop pa == .gddr then
    (List.range ((pa % 128 + n + 127) / 128)).foldl (fun s k => s.claimLine job (pa / 128 + k)) s
  else s

/-- The job of a group. -/
def State.jobOf (s : State) (gi : Nat) : Nat := match s.groups[gi]? with | some g => g.job | none => s.jobs.length

/-! ## L1 and memory (R266 to R268) -/

def Core.lineFind (c : Core) (line : Nat) : Option L1Line := c.l1.find? fun l => l.line == line

/-- Scratchpad granules of the core: those of its live teams. -/
def State.scratchGranules (s : State) (core : Nat) : Nat :=
  (s.teams.filter fun t => t.live && t.core == core && !t.saved).foldl (fun n t =>
    n + max t.scrLen (match t.carve with | some (_, k, _) => k | none => 0)) 0

/-- Granules now in L1 (R22, R26). -/
def State.l1Len (s : State) (core : Nat) : Nat := 128 - (s.core core).mainLen - s.scratchGranules core

/-- A dirty private line written to memory (R266). -/
def State.lineBack (s : State) (l : L1Line) : State :=
  if l.dirty then
    { s with
      keyed := (s.claim (s.jobOf l.owner) (l.line * 128) 128).keyed
      mem := SMap.setList s.mem (l.line * 128) l.data }
  else s

/-- Granule `k` of the core's array belongs to a scratchpad (R22). -/
def State.inScratch (s : State) (core k : Nat) : Bool :=
  s.teams.any fun t => t.live && t.core == core && !t.saved &&
    ((t.scrBase ≤ k && k < t.scrBase + t.scrLen) || match t.carve with | some (_, n, b) => b ≤ k && k < b + n | none => false)

/-- Granules `g` to `g + n - 1` all lie in L1 (R22). -/
def State.inL1 (s : State) (core g n : Nat) : Bool :=
  (s.core core).mainLen ≤ g && g + n ≤ 128 && (List.range n).all fun k => !s.inScratch core (g + k)

/-- The lowest granule from which `n` granules lie in L1 (R25, R227). -/
def State.l1Run (s : State) (core n : Nat) : Option Nat := (List.range 128).find? fun g => s.inL1 core g n

/-- The core without the L1 lines of a set: a prefetched one among them that no demand has reached counts as unused (R269). -/
def Core.drop (c : Core) (gone : L1Line → Bool) : Core :=
  { c with
    l1 := c.l1.filter fun l => !gone l
    pfUnused := c.pfUnused + BitVec.ofNat 64 ((c.l1.filter fun l => gone l && c.pfLines.contains l.line).length)
    pfLines := c.pfLines.filter fun p => !c.l1.any fun l => gone l && l.line == p }

/-- Drops the k-th line of the core's L1, writing it back when dirty, and counts an unused prefetch (R269). -/
def State.evict (s : State) (core k : Nat) : State :=
  match (s.core core).l1[k]? with
  | none => s
  | some l =>
    (s.lineBack l).modCore core fun c =>
      { c with
        l1 := c.l1.eraseIdx k
        pfUnused := if c.pfLines.contains l.line then c.pfUnused + 1 else c.pfUnused
        pfLines := c.pfLines.filter fun p => p != l.line }

/-- Makes room and adds a line: the line that leaves, if any, is a free choice; a full L1 always loses one (log 6). -/
def State.allocLine (s : State) (core : Nat) (l : L1Line) : State :=
  let (r, s) := s.take
  let n := (s.core core).l1.length
  let s := if n ≥ 512 * s.l1Len core then s.evict core (r % n) else s.evict core (r % (n + 1))
  s.modCore core fun c => { c with l1 := l :: c.l1 }

/-- Cleans granules that leave L1: lines that no longer fit are written back and dropped (R25). Log 54: the oldest lines beyond what is left
of L1. -/
def State.shrinkL1 (s : State) (core : Nat) : State :=
  let excess := (s.core core).l1.length - 512 * s.l1Len core
  (List.range excess).foldl (fun s _ => s.evict core ((s.core core).l1.length - 1)) s

/-- A demand access settles a prefetch of its line: as used, or as late where the fill was in flight, which is timing; one into the home
vault also as unused, where the vault has lost the line (R269, log 17). -/
def State.settlePf (s : State) (core line : Nat) : State :=
  let (near, far) := ((s.core core).pfLines.contains line, (s.core core).pfVault.contains line)
  if near || far then
    let (r, s) := s.take
    s.modCore core fun c =>
      { c with
        pfUsed := if r % 3 == 0 then c.pfUsed + 1 else c.pfUsed
        pfLate := if r % 3 == 1 || (r % 3 == 2 && near) then c.pfLate + 1 else c.pfLate
        pfUnused := if r % 3 == 2 && !near then c.pfUnused + 1 else c.pfUnused
        pfLines := c.pfLines.filter fun p => p != line
        pfVault := c.pfVault.filter fun p => p != line }
  else s

/-- A load's demand on a line: it settles a prefetch, and the line enters L1 when the page is cacheable (R266, R269). -/
def State.demand (s : State) (core job : Nat) (cacheable : Bool) (line : Nat) : State :=
  if !cacheable then s
  else
    let s := s.settlePf core line
    match (s.core core).lineFind line with
    | some _ => s
    | none => s.allocLine core ⟨line, s.lineFor job line, false, false, 0⟩

/-- A byte as a job reads it on the core: its L1 line when cacheable and present, else memory. -/
def State.readByte (s : State) (core job : Nat) (cacheable : Bool) (pa : Nat) : BitVec 8 :=
  if cacheable then
    match (s.core core).lineFind (pa / 128) with
    | some l => l.data.getD (pa % 128) 0
    | none => s.plain job pa
  else s.plain job pa

def State.readBytes (s : State) (core job : Nat) (cacheable : Bool) (pa n : Nat) : List (BitVec 8) :=
  (List.range n).map fun i => s.readByte core job cacheable (pa + i)

/-- Counts an access of R510 (R511): address and requester. -/
def State.countDenied (s : State) (pa who : Nat) : State :=
  { s with sys := { s.sys with
      denied := s.sys.denied + 1
      deniedLog := ((pa % 2 ^ 52, who, s.sys.fwStamp) :: s.sys.deniedLog).take 64 } }

/-- Overwrites the bytes of a line at an offset. -/
def patch (l : List (BitVec 8)) (off : Nat) : List (BitVec 8) → List (BitVec 8)
  | [] => l
  | b :: bs => patch (l.set off b) (off + 1) bs

/-- A write applied at the point of coherence (R267). A line written whole loses its poison (R491). -/
def State.poke (s : State) (pa : Nat) (bs : List (BitVec 8)) : State :=
  { s with
    mem := SMap.setList s.mem pa bs
    poison := if bs.length ≥ 128 then s.poison.filter fun p => !(pa ≤ p * 128 && p * 128 + 128 ≤ pa + bs.length) else s.poison }

/-- A job's write, its line then under the job's key where the job is secure (R423). -/
def State.pokeFor (s : State) (job pa : Nat) (bs : List (BitVec 8)) : State := (s.claim job pa bs.length).poke pa bs

/-- A global store: performed at its point of coherence, updating the issuing core's line on a hit (R266, log 6). The access
does not cross a line: accesses are aligned and at most 16 bytes. -/
def State.store (s : State) (core pa : Nat) (bs : List (BitVec 8)) : State :=
  ((s.settlePf core (pa / 128)).poke pa bs).modCore core fun c =>
    { c with l1 := c.l1.map fun l => if l.line == pa / 128 then { l with data := patch l.data (pa % 128) bs } else l }

/-- A private store: written in L1, allocating on a miss (R266). -/
def State.storePrivate (s : State) (core gi pa : Nat) (bs : List (BitVec 8)) : State :=
  let s := s.settlePf core (pa / 128)
  let s := match (s.core core).lineFind (pa / 128) with
    | some _ => s
    | none => s.allocLine core ⟨pa / 128, s.lineFor (s.jobOf gi) (pa / 128), true, false, gi⟩
  s.modCore core fun c =>
    { c with l1 := c.l1.map fun l =>
        if l.line == pa / 128 then { l with data := patch l.data (pa % 128) bs, priv := true, dirty := true, owner := gi } else l }

/-- A store of private data: bypassing L1 where the page is non-cacheable (R266). -/
def State.privateStore (s : State) (cacheable : Bool) (core gi pa : Nat) (bs : List (BitVec 8)) : State :=
  if deniedPa pa then s.countDenied pa 0 else if cacheable then s.storePrivate core gi pa bs else s.pokeFor (s.jobOf gi) pa bs

/-- A private load's demand on a line: it allocates as private data (R266). -/
def State.demandPrivate (s : State) (core gi line : Nat) (cacheable : Bool) : State :=
  if !cacheable then s
  else
    let s := s.settlePf core line
    match (s.core core).lineFind line with
    | some _ => s
    | none => s.allocLine core ⟨line, s.lineFor (s.jobOf gi) line, true, false, gi⟩

/-- Writes back a group's dirty private lines (R268). -/
def State.flushPrivate (s : State) (core gi : Nat) : State :=
  let mine := (s.core core).l1.filter fun l => l.priv && l.dirty && l.owner == gi
  (mine.foldl State.lineBack s).modCore core fun c => c.drop fun l => l.priv && l.owner == gi

/-- Discards a group's private lines at its end (R268). -/
def State.dropPrivate (s : State) (core gi : Nat) : State :=
  s.modCore core fun c => c.drop fun l => l.priv && l.owner == gi

/-- An acquire whose mask is not TEAM alone invalidates the core's lines of non-private data (R278). -/
def State.acquire (s : State) (core : Nat) (mask : BitVec 5) : State :=
  if mask == 0 then s
  else s.modCore core fun c => c.drop fun l => !l.priv

/-- A line of a read is poisoned (R491). -/
def State.poisoned (s : State) (pa n : Nat) : Bool := s.poison.any fun p => pa / 128 ≤ p && p ≤ (pa + n - 1) / 128

/-! ## Homes, worlds and agents without a TLB (R31, R32, R300, R421, R510) -/

/-- The slice index of a physical address (R31). -/
def sliceIx (pa : Nat) : Nat :=
  let l : BitVec 45 := BitVec.ofNat 45 (pa / 128)
  (l.extractLsb' 0 9 ^^^ l.extractLsb' 9 9 ^^^ l.extractLsb' 18 9 ^^^ l.extractLsb' 27 9 ^^^ l.extractLsb' 36 9).toNat

/-- The home column of a physical address: that of its vault when it is a DIRECT address (R31, R292). -/
def State.homeCol (s : State) (pa : Nat) : Nat :=
  match target s.gddrTop pa with
  | .direct v => v / 8
  | _ => s.sliceMap[Fin.ofNat 512 (sliceIx pa)] / 8

/-- Requests to the address wait for a remap (R38). -/
def State.isStalled (s : State) (pa : Nat) : Bool :=
  match target s.gddrTop pa with
  | .direct _ => false
  | _ => s.stalled.getLsbD (sliceIx pa)

/-- Bytes of an object's lines. -/
def ObjState.covers (o : ObjState) (pa : Nat) : Bool := o.pa ≤ pa && pa < o.pa + 2 ^ o.z

/-- A combiner group other than `gi` holds the line of a physical address (R306). -/
def State.lockedFor (s : State) (gi pa : Nat) : Bool :=
  s.objects.any fun o => (o.covers pa || o.covers (pa / 128 * 128)) && match o.running with | some r => r.1 != gi | none => false

def State.locked (s : State) (pa : Nat) : Bool := s.objects.any fun o => o.covers pa && o.running.isSome

/-- The combiner group `gi` runs an object that holds the address: its accesses pass L1 (R306). -/
def State.ownObject (s : State) (gi pa : Nat) : Bool :=
  s.objects.any fun o => o.covers pa && match o.running with | some r => r.1 == gi | none => false

/-- What an agent without a TLB of its own meets: a value, a failure with its address, or a wait for a PRI response. -/
inductive Dev (α : Type) where
  | ok (a : α)
  | fail (c : Cause) (va : DWord)
  | wait

def Dev.bind {α β : Type} (x : Dev α) (f : α → Dev β) : Dev β :=
  match x with
  | .ok a => f a
  | .fail c va => .fail c va
  | .wait => .wait

/-- The physical address an agent's access reaches. -/
def State.devXlate (s : State) (job : Nat) (va : DWord) (a : Access) : Dev Nat :=
  match s.xlateWith job va a false (s.walkLeaf job va) with
  | .ok pa _ => .ok pa
  | .fault c => .fail c va
  | .miss => .fail .xlate va
  | .pri => .wait

/-! ## Scratchpad (R25, R227, R237) -/

/-- The byte at an offset of the core array; one not written since its granule was granted has no defined value (log 12). -/
def Core.arrayByte (c : Core) (core a : Nat) : BitVec 8 :=
  let v := SMap.get c.array a
  if v.getLsbD 8 then v.setWidth 8
  else
    match c.granEpoch.lookup (a / 65536) with
    | none => 0
    | some e => if e == 0 then 0 else Config.undefByte core e (a % 65536)

def Core.arrayBytes (c : Core) (core a n : Nat) : List (BitVec 8) := (List.range n).map fun i => c.arrayByte core (a + i)
def Core.arraySet (c : Core) (a : Nat) (bs : List (BitVec 8)) : Core :=
  { c with array := SMap.setList c.array a (bs.map fun b => b.setWidth 9 ||| 256) }

/-- New contents for granules: undefined with a fresh epoch, or zeros in the secure world (R227). -/
def State.grantGranules (s : State) (core first n : Nat) (zero : Bool) : State :=
  let e := if zero then 0 else s.free + 1
  { s with free := s.free + 1 }.modCore core fun c =>
    { c with
      array := SMap.clear c.array (first * 65536) (n * 65536)
      granEpoch := (List.range n).map (fun i => (first + i, e)) ++
        c.granEpoch.filter fun (p : Nat × Epoch) => !(first ≤ p.1 && p.1 < first + n) }

/-! ## Trap frames (R448 to R456) -/

def Cause.code : Cause → Nat
  | .illegalEnc => 0x01 | .illegalOperand => 0x02 | .privilege => 0x03 | .align => 0x04 | .xlate => 0x05 | .perm => 0x06
  | .world => 0x07 | .stackLimit => 0x08 | .ixBounds => 0x09 | .divStack => 0x0A | .copyRights => 0x0B | .combiner => 0x0C
  | .objPoisoned => 0x0D | .whorlLane => 0x0E | .mmaRole => 0x0F | .orderRule => 0x10 | .xchgPartner => 0x11
  | .eccUncorrected => 0x12 | .replayDiverge => 0x13 | .softTrap => 0x14 | .breakpoint => 0x15 | .preempt => 0x16
  | .carveDenied => 0x17 | .spawnEmpty => 0x18

def GKind.code : GKind → Nat
  | .team => 0 | .spawned => 1 | .combiner => 2 | .grid => 3 | .sample => 4 | .resolve => 5

/-- The group identity of R449. -/
def Group.identity (g : Group) : Nat :=
  let combiner := g.kind == .combiner
  g.core % 64 + 2 ^ 6 * ((if combiner then g.part else g.part * 32 + g.rslot) % 128) +
    2 ^ 13 * (if combiner then 0 else g.number % 256) + 2 ^ 21 * g.kind.code

/-- The fault record as (offset, bytes, value) items from a base offset (R448, R450). -/
def recordItems (base : Nat) (g : Group) (t : TrapInfo) (stamp : BitVec 48) (inHandler rebuild : Bool) : List (Nat × Nat × Nat) :=
  let flags := if t.cause == .softTrap then t.code.toNat
    else (if rebuild then 64 else 0) + (if inHandler then 32 else 0) + (if t.write then 16 else 0) + (if t.fetch then 8 else 0) +
      (if t.deferred then 4 else 0) + (if t.done != 0 || !t.replies.isEmpty then 2 else 0) + (if t.addr.isSome then 1 else 0)
  [(base, 2, t.cause.code), (base + 2, 2, flags), (base + 4, 4, g.identity), (base + 8, 8, t.pc.toNat),
   (base + 16, 8, (t.addr.getD 0).toNat), (base + 24, 8, stamp.toNat), (base + 32, 32, t.lanes.toNat)]

def EState.code : EState → Nat
  | .free => 0 | .clean => 1 | .dirty => 2

/-- Sums `f k × 2^(n × k)` for k below `count`. -/
def packBits (n count : Nat) (f : Nat → Nat) : Nat := (List.range count).foldr (fun k acc => acc ||| (f k <<< (n * k))) 0

/-- The byte of the predicates of thread `t` (R456). -/
def predByte (x : Ctx) (t : Nat) : Nat := packBits 1 8 fun k => (x.preds[Fin.ofNat 8 k].getLsbD t).toNat

/-- Writes each (lane, value) pair as `n` bytes at base + n × lane, and 0 for the others. -/
def laneArea (base n : Nat) (l : List (Nat × Nat)) : List (Nat × Nat × Nat) :=
  (List.range 256).map fun t => (base + n * t, n, (l.lookup t).getD 0)

/-- The frame's fields beyond the record (R456). `maps` is the context whose entry map and states are recorded. -/
def frameItems (g : Group) (maps : Ctx) (t : TrapInfo) (restart : DWord) : List (Nat × Nat × Nat) :=
  let x := g.ctx
  [(64, 8, 0), (72, 8, 0), (80, 8, restart.toNat), (88, 8, x.fpmode.toNat), (96, 8, x.fpflags.toNat), (104, 8, x.storehash.toNat),
   (112, 8, packBits 1 4 fun k => (x.getC k).toNat), (120, 8, x.dstack.length + 2 ^ 8 * x.cstack.length),
   (128, 32, x.active.toNat), (160, 32, t.done.toNat),
   (192, 32, packBits 16 16 fun e =>
     let en := maps.entry e
     match en.map with
     | some v => v.toNat * 256 + 128 + en.st.code
     | none => 0),
   (224, 8, packBits 1 8 fun k => (x.slots[Fin.ofNat 8 k].mapped).toNat), (232, 4, t.iword.toNat), (236, 4, t.oword.toNat), (240, 16, 0)] ++
  (List.range 64).map (fun k => (256 + 8 * k, 8, (x.getS k).toNat)) ++
  (List.range 8).map (fun k => (768 + 8 * k, 8, (x.slots[Fin.ofNat 8 k].val).toNat)) ++
  (List.range 256).map (fun k => (1024 + k, 1, predByte x k)) ++
  laneArea 2048 8 (t.reqAddr.map fun a => (a.1, a.2.toNat)) ++
  laneArea 4096 16 (t.reqData.map fun a => (a.1, a.2.toNat)) ++
  laneArea 8192 16 (t.replies.map fun a => (a.1, a.2.toNat))

end Sys2Proof.Machine
end

