-- ==== Sys2Proof/Machine/Homes.lean ====
section
/-! DEFINITION. Homes: replies to requests (R149, R454), events for firmware to post (R412, R485), the object table (R293 to
R296), the order log (R312 to R317), and the end of a combiner run (R307, R496). -/

namespace Sys2Proof.Machine

/-! ## Events and stamps -/

/-- Posts an event for firmware to write (R412). -/
def State.post (s : State) (e : HostEvent) : State := { s with events := s.events ++ [e] }

/-- Posts an error event for a job (R485). -/
def State.postError (s : State) (job kind : Nat) (data : DWord) : State :=
  s.post { fn := match s.jobs[job]? with | some j => j.fn | none => 0, code := 0x84, status := 0, tag := kind, job := job, data := data }

/-- A stamp after a recorded event (R290). -/
def stampUp (x : BitVec 48) : BitVec 48 := x + 1
/-- A stamp on receiving a message (R290). -/
def stampMax (own got : BitVec 48) : BitVec 48 := (if own < got then got else own) + 1

/-- The core records an event (R290). -/
def State.tick (s : State) (core : Nat) : State := s.modCore core fun c => { c with stamp := stampUp c.stamp }

def colIx (c : Nat) : Fin 64 := Fin.ofNat 64 c
def State.column (s : State) (c : Nat) : Column := s.columns[colIx c]
def State.modColumn (s : State) (c : Nat) (f : Column → Column) : State :=
  { s with columns := s.columns.set (colIx c) (f s.columns[colIx c]) }

/-- The blocks that keep a stamp (R290). -/
inductive Clocked where
  | core (c : Nat)
  | engine (c q : Nat)
  | column (c : Nat)
  | port (k : Nat)
  | host
  | front
  | firmware
  deriving DecidableEq, Repr

def State.stampOf (s : State) : Clocked → BitVec 48
  | .core c => (s.core c).stamp
  | .engine c q => (s.core c).sqStamp[Fin.ofNat 2 q]
  | .column c => (s.column c).stamp
  | .port k => (s.ports[Fin.ofNat 16 k]).stamp
  | .host => s.sys.hostStamp
  | .front => s.sys.feStamp
  | .firmware => s.sys.fwStamp

/-- A block receives a message with a stamp (R290). -/
def State.hears (s : State) (b : Clocked) (v : BitVec 48) : State :=
  let up (x : BitVec 48) : BitVec 48 := stampMax x v
  match b with
  | .core c => s.modCore c fun x => { x with stamp := up x.stamp }
  | .engine c q => s.modCore c fun x => { x with sqStamp := x.sqStamp.set (Fin.ofNat 2 q) (up x.sqStamp[Fin.ofNat 2 q]) }
  | .column c => s.modColumn c fun x => { x with stamp := up x.stamp }
  | .port k => { s with ports := s.ports.set (Fin.ofNat 16 k) { s.ports[Fin.ofNat 16 k] with stamp := up s.ports[Fin.ofNat 16 k].stamp } }
  | .host => { s with sys := { s.sys with hostStamp := up s.sys.hostStamp } }
  | .front => { s with sys := { s.sys with feStamp := up s.sys.feStamp } }
  | .firmware => { s with sys := { s.sys with fwStamp := up s.sys.fwStamp } }

/-- A message from one block to another. -/
def State.tell (s : State) (a b : Clocked) : State := s.hears b (s.stampOf a)

/-- The block that answers for an address: its home, the host block or the port to a peer. -/
def State.blockAt (s : State) (pa : Nat) : Option Clocked :=
  match target s.gddrTop pa with
  | .gddr | .direct _ => some (.column (s.homeCol pa))
  | .host => some .host
  | .peer d => (s.ports.toList.findIdx? fun p => p.peer == some d).map .port
  | .reg | .none => none

/-- A request from a block to the one that answers for an address, and its reply (R290). -/
def State.exchange (s : State) (a : Clocked) (pa : Nat) : State :=
  match s.blockAt pa with
  | some b => (s.tell a b).tell b a
  | none => s

/-- The `k`-th block. -/
def clockedAt (k : Nat) : Clocked :=
  if k < 64 then .core k
  else if k < 192 then .engine ((k - 64) / 2) (k % 2)
  else if k < 256 then .column (k - 192)
  else if k < 272 then .port (k - 256)
  else if k == 272 then .host else if k == 273 then .front else .firmware

/-- Blocks exchange messages beyond those that the model's operations name: walks, prefetches, the fetch of instructions, and what engines,
units and firmware send one another. Which block hears which, and when, is free (log 11). -/
def State.message (s : State) (n : Nat) : State := s.tell (clockedAt (n % 275)) (clockedAt (n / 275 % 275))

/-- A message goes out to a device on a stream of a class: its sequence number and its port's stamp (R290, R418). -/
def State.sendTo (s : State) (dev cls : Nat) : State :=
  let mine (o : Nat × Nat × Nat) : Bool := o.1 == dev && o.2.1 == cls
  { s with
    outSeq := if s.outSeq.any mine then s.outSeq.map (fun o => if mine o then (o.1, o.2.1, (o.2.2 + 1) % 2 ^ 32) else o) else s.outSeq ++ [(dev, cls, 1)]
    ports := match s.ports.toList.findIdx? fun p => p.peer == some dev with
      | some k => s.ports.set (Fin.ofNat 16 k) { s.ports[Fin.ofNat 16 k] with stamp := s.ports[Fin.ofNat 16 k].stamp + 1 }
      | none => s.ports }

/-- The device an address reaches, if it is a peer's. -/
def State.peerOf (s : State) (pa : Nat) : Option Nat := match target s.gddrTop pa with | .peer d => some d | _ => none

/-- An access at a peer's address goes out on the stream of its class; what reads return there is drawn afresh (log 18). -/
def State.sendAt (s : State) (pa cls : Nat) : State :=
  match s.peerOf pa with
  | some d => { s.sendTo d cls with free := s.free + 1 }
  | none => s

/-- What `n` bytes at a peer's address read as. -/
def State.peerBytes (s : State) (pa n : Nat) : List (BitVec 8) := (List.range n).map fun i => Config.peerByte s.free (pa + i)

/-- A port to a device with the job's world (R416, R422). -/
def State.portTo (s : State) (dev : Nat) (secure : Bool) : Option Nat :=
  (List.range 16).find? fun k => (s.ports[Fin.ofNat 16 k]).peer == some dev && (s.ports[Fin.ofNat 16 k]).secure == secure

/-- A peer device refuses the request, or is lost (R417, R506). -/
def State.peerDenies (s : State) (job dev pa : Nat) : Bool :=
  s.lost.contains dev || Config.peerRefuses dev (pa / 65536) (match s.jobs[job]? with | some j => j.link | none => 0)

/-- A request to a peer has no port to go out on and waits (R506). -/
def State.peerWaits (s : State) (job pa : Nat) : Bool :=
  match target s.gddrTop pa with
  | .peer d => (s.portTo d (s.jobSecure job)).isNone && !s.lost.contains d
  | _ => false

/-- A lane of the access is refused by a peer (R417). -/
def State.peerRefused (s : State) (job pa : Nat) : Bool :=
  match target s.gddrTop pa with
  | .peer d => s.peerDenies job d pa
  | _ => false

/-! ## Agents without a TLB (R300, R306, R510) -/

/-- An access from a source edge waits: a combiner holds the line, a remap stalls its slice, or no port leads to its peer (R38, R306,
R506). -/
def State.edgeWaits (s : State) (job pa : Nat) : Bool := s.locked pa || s.isStalled pa || s.peerWaits job pa

/-- What a job finds in `n` bytes at the point of coherence. -/
def State.devBytes (s : State) (job pa n : Nat) : Nat := if (s.peerOf pa).isSome then leNat (s.peerBytes pa n) else s.memFor job pa n

/-- The physical address of a home's own read or write, which waits for no line of its own (R296, R300, R496). -/
def State.homeXlate (s : State) (job : Nat) (va : DWord) (a : Access) : Dev Nat :=
  (s.devXlate job va a).bind fun pa => if s.peerRefused job pa then .fail .perm va else if s.peerWaits job pa then .wait else .ok pa

/-- A read of `n` bytes in one page by a home. -/
def State.homeRead (s : State) (job : Nat) (va : DWord) (n : Nat) : Dev Nat :=
  (s.homeXlate job va .read).bind fun pa =>
    if s.poisoned pa n then .fail .eccUncorrected va
    else if deniedPa pa then .ok 0
    else .ok (s.devBytes job pa n)

/-- A write in one page by a home. -/
def State.homeWrite (s : State) (job : Nat) (va : DWord) (bs : List (BitVec 8)) : Dev State :=
  (s.homeXlate job va .write).bind fun pa =>
    if deniedPa pa then .ok (s.countDenied pa 0) else .ok ((s.sendAt pa 1).pokeFor job pa bs)

/-- A read of `n` bytes in one page at the point of coherence. -/
def State.devRead (s : State) (job : Nat) (va : DWord) (n : Nat) : Dev Nat :=
  (s.devXlate job va .read).bind fun pa => if s.edgeWaits job pa then .wait else s.homeRead job va n

/-- A write in one page at the point of coherence. -/
def State.devWrite (s : State) (job : Nat) (va : DWord) (bs : List (BitVec 8)) : Dev State :=
  (s.devXlate job va .write).bind fun pa => if s.edgeWaits job pa then .wait else s.homeWrite job va bs

/-! ## The journal and the slice map (R31, R38, R517) -/

/-- A request or an outside access waits, to be tried again. -/
def State.later (s : State) (i : Waiting) : State :=
  if s.sys.journal.contains i then s else { s with sys := { s.sys with journal := s.sys.journal ++ [i] } }

/-- It is complete. -/
def State.taken (s : State) (i : Waiting) : State := { s with sys := { s.sys with journal := s.sys.journal.eraseP (· == i) } }

def Waiting.isWrite : Waiting → Bool
  | .write _ _ _ => true
  | _ => false

/-- A unit's write of its own: one that waits is made later, and those behind it after it (R306, R409). One that fails is dropped. -/
def State.devPut (s : State) (job : Nat) (va : DWord) (bs : List (BitVec 8)) : State :=
  let queued : State := { s with sys := { s.sys with journal := s.sys.journal ++ [.write job va bs] } }
  if s.sys.journal.any Waiting.isWrite then queued
  else
    match s.devWrite job va bs with
    | .ok s => s
    | .fail _ _ => s
    | .wait => queued

/-- The first of the writes that wait is tried again. -/
def State.putRetry (s : State) (job : Nat) (va : DWord) (bs : List (BitVec 8)) : State :=
  if s.sys.journal.find? Waiting.isWrite == some (.write job va bs) then
    match s.devWrite job va bs with
    | .ok t => t.taken (.write job va bs)
    | .fail _ _ => s.taken (.write job va bs)
    | .wait => s
  else s

/-- The vault is to be DIRECT for a job that is being created (R30). -/
def State.promised (s : State) (v : Nat) : Bool := s.sys.journal.any fun w => match w with | .create _ x => x.vaultMap.getLsbD v | _ => false

/-- An entry may point at the vault: a CACHE vault that stays one, in a powered column that is not on its way off (R31). -/
def State.vaultFit (s : State) (v : Nat) : Bool :=
  !s.direct.getLsbD v && !s.promised v && (s.column (v / 8)).on && !s.sys.journal.contains (.columnOff (v / 8))

/-- A live job records or replays: firmware changes neither the slice map nor the power state of a column (R313). -/
def State.mapFixed (s : State) : Bool := s.jobs.any fun j => j.live && j.log != .off

/-- Entries of the slice map, or columns, are on the move. -/
def State.mapMoves (s : State) : Bool := s.sys.journal.any fun w => match w with | .remap _ _ => true | .columnOff _ => true | _ => false

/-- The entries as R31 places them: vault k in entry k where it may stand there, and the rest spread over the vaults that may. Log 54: they
are dealt to those vaults in turn, in ascending order. -/
def spreadMap (fit : Nat → Bool) (l : List Nat) (k : Nat) : Nat → List Nat
  | 0 => []
  | n + 1 =>
    let slice := 511 - n
    if fit slice then slice :: spreadMap fit l k n else l.getD (k % l.length) 0 :: spreadMap fit l (k + 1) n

/-- Firmware begins to move an entry: its stall bit is set (R38 step 1). -/
def State.startRemap (s : State) (slice vault : Nat) : State :=
  let j := s.sys.journal.filter fun w => match w with | .remap k _ => k != slice | _ => true
  ({ s with stalled := s.stalled ||| (1#512 <<< slice), sys := { s.sys with journal := j } } : State).later (.remap slice vault)

/-- Firmware begins to move every entry that does not stand as R31 places it. -/
def State.retarget (s : State) : State :=
  let l := (List.range 512).filter s.vaultFit
  (spreadMap s.vaultFit l 0 512).zipIdx.foldl (fun s p => if s.sliceMap[Fin.ofNat 512 p.2] == p.1 then s else s.startRemap p.2 p.1) s

/-! ## Replies to a group's requests -/

/-- The order in which a deferred trap reports the causes of one request (R454). -/
def deferredRank : Cause → Nat
  | .eccUncorrected => 0
  | .xlate => 1
  | .perm => 2
  | .world => 3
  | .combiner => 4
  | .objPoisoned => 5
  | .illegalOperand => 6
  | .whorlLane => 7
  | _ => 8

/-- The deferred trap of a request (R454, R461): a load performs no lane as far as the program can see. -/
def deferredTrap (p : Pend) : Option TrapInfo :=
  match (List.range 9).filterMap (fun r => match p.causes.filter (fun x => deferredRank x.2.1 == r) with | [] => none | x => some x) with
  | (x :: xs) :: _ =>
    let done := if p.write then p.vals else []
    some { cause := x.2.1, code := 0, pc := p.pc, addr := some x.2.2, lanes := maskOf ((x :: xs).map fun y => y.1), write := p.write,
           fetch := false, deferred := true, done := maskOf (done.map fun v => v.1),
           replies := done.map fun v => (v.1, BitVec.ofNat 128 (v.2.foldr (fun w acc => w.toNat + 2 ^ 32 * acc) 0)),
           iword := p.iword, oword := p.oword, reqAddr := p.addrs, reqData := p.data }
  | _ => none

/-- Every lane of a request has its result or its cause. -/
def Pend.settled (p : Pend) : Bool :=
  (List.range 256).all fun t => !p.lanes.getLsbD t || p.vals.any (fun v => v.1 == t) || p.causes.any (fun v => v.1 == t)

/-- The request of a group with a number: a scoreboard slot, 32 the blocking request, 33 + n the n-th non-returning one. -/
def Group.pend (g : Group) (k : Nat) : Option Pend :=
  if k < 32 then g.board[Fin.ofNat 32 k] else if k == 32 then g.block else g.posts.lookup (k - 33)

/-- The group with a request changed. A non-returning request that has settled leaves, and its causes become a deferred trap. -/
def Group.setPend (g : Group) (k : Nat) (p : Pend) : Group :=
  if k < 32 then { g with board := g.board.set (Fin.ofNat 32 k) (some p) }
  else if k == 32 then { g with block := some p }
  else if p.settled then
    { g with
      posts := g.posts.filter fun q => q.1 != k - 33
      deferred := match deferredTrap p with | some t => g.deferred ++ [(t, some p)] | none => g.deferred }
  else { g with posts := g.posts.map fun q => if q.1 == k - 33 then (q.1, p) else q }

/-- The reply of one lane of a request: its result, or its cause and address (R454). -/
def Pend.answer (p : Pend) (lane : Nat) : Except (Cause × DWord) (List Word) → Pend
  | .ok v => if p.vals.any fun x => x.1 == lane && !x.2.isEmpty then p else { p with vals := (p.vals.filter fun x => x.1 != lane) ++ [(lane, v)] }
  | .error (c, a) => { p with causes := p.causes ++ [(lane, c, a)] }

/-- The orders of a cas on 32 or 64 bits, and its size (R233, R234). -/
def casOf : Instr → Option (Order × Nat)
  | .atom _ o => if o.aop == 10 then some (o, if o.size == 0 then 4 else 8) else none
  | .satom _ o => if o.aop == 10 then some (o, if o.size == 0 then 4 else 8) else none
  | _ => none

/-- An order that releases, and one that acquires (R156, R279). -/
def releases (ord : BitVec 3) : Bool := ord.toNat ≥ 2
def acquires (ord : BitVec 3) : Bool := ord == 1 || ord.toNat ≥ 3

/-- The number that the words of a result hold. -/
def numOf (l : List Word) : Nat := l.foldr (fun w acc => w.toNat + 2 ^ 32 * acc) 0

/-- The acquire that a request performs when it returns (R277). A cas is an atomic of its order in the lanes where it compared equal,
and a load of its failure order in the others (R234, R281). -/
def Pend.acquired (p : Pend) : Option (BitVec 5) :=
  match casOf p.i with
  | some (o, n) =>
    let cmp (t : Nat) : Nat := ((p.data.lookup t).getD 0).toNat / 2 ^ 64 % 2 ^ (8 * n)
    if p.vals.any fun v => acquires (if numOf v.2 % 2 ^ (8 * n) == cmp v.1 then o.ord else o.fail) then p.acq else none
  | none => p.acq

/-- A reply reaches a group. A request that is no longer there discards it (R61). A non-returning request performs its acquire when
the last of its lanes has been answered (R277). -/
def State.answer (s : State) (gi k lane : Nat) (r : Except (Cause × DWord) (List Word)) : State :=
  match s.groups[gi]? with
  | none => s
  | some g =>
    match g.pend k with
    | some p =>
      let q := p.answer lane r
      let t := s.setGroup gi (g.setPend k q)
      if k > 32 && q.settled then (match q.acquired with | some m => t.acquire g.core m | none => t) else t
    | none => s

/-- The words of a value of `n` bytes. -/
def wordsOf (n v : Nat) : List Word := (List.range (max 1 (n / 4))).map fun i => BitVec.ofNat 32 (v / 2 ^ (32 * i))

/-! ## The order log (R312 to R319) -/

/-- The log of a job that records, or of one that replays. -/
def State.recordLog (s : State) (job : Nat) : Option DWord :=
  match s.jobs[job]? with | some j => (match j.log with | .record va => some va | _ => none) | none => none
def State.replayLog (s : State) (job : Nat) : Option DWord :=
  match s.jobs[job]? with | some j => (match j.log with | .replay va => some va | _ => none) | none => none

/-- The offset of a column's write offset in the log header (R312). -/
def colOffset (col : Nat) : Nat := 64 + 16 * col

/-- Sets the overflow flag of the write offset at `va`, where it can be written (R312). -/
def State.overflow (s : State) (job : Nat) (va : DWord) : State :=
  match s.homeRead job va 8 with
  | .ok x => match s.homeWrite job va (leBytes 8 (x % 2 ^ 63 + 2 ^ 63)) with | .ok s => s | _ => s
  | _ => s

/-- What appending to an area of the log did. -/
inductive Append where
  | ok (s : State)
  | full (s : State)
  | failed (s : State) (va : DWord)
  /-- A page of the log awaits its PRI response (R409), or a port its link (R506). -/
  | wait

/-- Appends bytes to an area: its base and size, and where its write offset lies (R312). -/
def State.append (s : State) (job : Nat) (base : Dev Nat) (size : Dev Nat) (offVa : DWord) (bs : List (BitVec 8)) : Append :=
  match base.bind fun b => size.bind fun n => (s.homeRead job offVa 8).bind fun o => Dev.ok (b, n, o % 2 ^ 63) with
  | .ok (b, n, o) =>
    if o + bs.length > n then .full (s.overflow job offVa)
    else
      match (s.homeWrite job (BitVec.ofNat 64 (b + o)) bs).bind fun s => s.homeWrite job offVa (leBytes 8 (o + bs.length)) with
      | .ok s => .ok s
      | .fail _ va => .failed (s.overflow job offVa) va
      | .wait => .wait
  | .fail _ va => .failed (s.overflow job offVa) va
  | .wait => .wait

/-- The 16 bytes of a chunk (R315). -/
def OpenRun.chunk (r : OpenRun) : Nat :=
  r.line % 2 ^ 45 + 2 ^ 48 * (r.core % 64 + 2 ^ 6 * (r.rslot % 128)) + 2 ^ 64 * r.count + 2 ^ 80 * r.col + 2 ^ 96 * r.stamp.toNat

/-- A home stops recording a job (R314, R316). -/
def State.stopCol (s : State) (job : Nat) (m : BitVec 64) : State := s.modJob job fun j => { j with colStop := j.colStop ||| m }

/-- Appends 16 bytes to a column's sublog. -/
def State.appendCol (s : State) (job : Nat) (log : DWord) (col v : Nat) : Append :=
  s.append job ((s.homeRead job log 8).bind fun b => (s.homeRead job (log + 8) 8).bind fun n => Dev.ok (b + col * n)) (s.homeRead job (log + 8) 8)
    (log + BitVec.ofNat 64 (colOffset col)) (leBytes 16 v)

/-- A home's next chunk would wait, and so a request that it records does (R312, R409). -/
def State.logWaits (s : State) (job col : Nat) : Bool :=
  match s.recordLog job with
  | some log => (match s.appendCol job log col 0 with | .wait => true | _ => false)
  | none => false

/-- Appends a run's chunk to its column's sublog (R314). -/
def State.appendRun (s : State) (r : OpenRun) : State :=
  match s.recordLog r.job, s.jobs[r.job]? with
  | some log, some j =>
    if j.colStop.getLsbD r.col then s
    else
      match s.appendCol r.job log r.col r.chunk with
      | .ok s => s.modColumn r.col fun c => { c with stamp := c.stamp + 1 }
      | .full s => s.stopCol r.job (1#64 <<< r.col)
      | .failed s va => (s.stopCol r.job (1#64 <<< r.col)).postError r.job 12 va
      | .wait => s
  | _, _ => s

/-- Closes runs of a job (R314). -/
def State.closeRuns (s : State) (job : Nat) : State :=
  let mine := s.runs.filter fun r => r.job == job
  mine.foldl State.appendRun { s with runs := s.runs.filter fun r => r.job != job }

/-- A home records a request it applies to a line (R314). -/
def State.record (s : State) (job col pa core rslot : Nat) : State :=
  match s.recordLog job with
  | none => s
  | some _ =>
    let line := pa / 128
    let fresh : OpenRun := ⟨col, job, line, core, rslot, 1, (s.column col).stamp.setWidth 32⟩
    let others := s.runs.filter fun r => !(r.col == col && r.job == job && r.line == line)
    match s.runs.find? fun r => r.col == col && r.job == job && r.line == line with
    | some r =>
      if r.core == core && r.rslot == rslot then
        let r' := { r with count := r.count + 1 }
        if r'.count == 65535 then { s with runs := others }.appendRun r'
        else { s with runs := s.runs.map fun q => if q == r then r' else q }
      else { s with runs := others ++ [fresh] }.appendRun r
    | none =>
      match s.runs.filter fun r => r.col == col with
      | old :: rest =>
        if rest.length ≥ 255 then { s with runs := (s.runs.filter fun q => q != old) ++ [fresh] }.appendRun old
        else { s with runs := s.runs ++ [fresh] }
      | [] => { s with runs := s.runs ++ [fresh] }

/-- The gate of a line of a job that replays lets a source pass (R317). -/
def State.gateOpen (s : State) (job col pa core rslot : Nat) : Bool :=
  match s.gates.find? fun g => g.job == job && g.col == col && g.line == pa / 128 with
  | some g => match g.chunks with
    | (c, r, _) :: _ => c == core && r == rslot
    | [] => true
  | none => true

/-- A request has passed a gate: the current chunk has one request less (R317). -/
def State.passGate (s : State) (job col pa : Nat) : State :=
  { s with gates := s.gates.map fun g =>
      if g.job == job && g.col == col && g.line == pa / 128 then
        match g.chunks with
        | (c, r, n) :: l => { g with chunks := if n ≤ 1 then l else (c, r, n - 1) :: l }
        | [] => g
      else g }

/-! ## Objects (R292 to R300) -/

/-- What the descriptor of an object holds (R293). -/
structure Descriptor where
  addr : DWord
  z : Nat
  flags : Nat
  methods : DWord
  deriving DecidableEq, Repr

/-- The hash of an address in the object table (R295). -/
def objHash (b : DWord) : Nat := (b.extractLsb' 7 20 ^^^ b.extractLsb' 27 20 ^^^ (b.extractLsb' 47 10).setWidth 20).toNat

/-- Looks for a descriptor from entry `i` on (R295): `n` entries are left. -/
def State.findDesc (s : State) (job : Nat) (table : DWord) (m : Nat) (b : DWord) : Nat → Nat → Dev (Option Descriptor)
  | _, 0 => .ok none
  | i, n + 1 =>
    let e : DWord := table + BitVec.ofNat 64 (32 * ((objHash b % 2 ^ m + i) % 2 ^ m))
    (s.devRead job (e + 9) 1).bind fun flags =>
      (s.devRead job e 8).bind fun base =>
        if flags ≥ 128 && base == b.toNat then
          (s.devRead job (e + 8) 1).bind fun z =>
            (s.devRead job (e + 16) 8).bind fun mt => .ok (some ⟨e, z, flags, BitVec.ofNat 64 mt⟩)
        else s.findDesc job table m b (i + 1) n

/-- The 16 entries of a method table. -/
def State.readMethods (s : State) (job : Nat) (mt : DWord) : Nat → Dev (List DWord)
  | 0 => .ok []
  | n + 1 => (s.devRead job (mt + BitVec.ofNat 64 (8 * (15 - n))) 8).bind fun e =>
      (s.readMethods job mt n).bind fun l => .ok (BitVec.ofNat 64 e :: l)

/-- A reply to a method request: to its lane, or to the peer that sent it (R419). -/
def State.reply (s : State) (r : MethodReq) (x : Except (Cause × DWord) (List Word)) : State :=
  match r.src with
  | .lane gi k lane =>
    let s := s.answer gi k lane x
    match s.groups[gi]? with
    | some g => s.modCore g.core fun c => { c with stamp := stampMax c.stamp (s.column (s.homeCol r.pa)).stamp }
    | none => s
  | .peer dev => s.sendTo dev 3

/-- The object a request names, as its home holds it. -/
def State.objectFor (s : State) (r : MethodReq) : Option ObjState := s.objects.find? fun o => o.job == r.job && o.base == r.base

/-- The home has room for the request (R301). -/
def State.roomFor (s : State) (col : Nat) (r : MethodReq) : Bool :=
  match s.objectFor r with
  | some o => o.pending.length < 256
  | none => (s.objects.filter fun o => o.col == col).length < 32

/-- A request of the core is held back at the home, so that its source edge sends nothing more to the object's first line (R301). -/
def State.edgeHeld (s : State) (core pa : Nat) : Bool :=
  s.methods.any fun r => (match r.src with | .lane _ _ _ => r.core % 64 == core % 64 | .peer _ => false) && r.pa / 128 == pa / 128 &&
    !s.roomFor (s.homeCol r.pa) r

/-- The checks of R300 on an arriving request: the object it becomes pending for, or the cause of its fault reply. `o` is the
object as the home holds it while requests are pending (R296). -/
def State.admitMethod (s : State) (r : MethodReq) (col : Nat) (o : Option ObjState) : Dev (Except Cause ObjState) :=
  let late (o : ObjState) : Dev (Except Cause ObjState) :=
    match o.methods[r.method]? with
    | some e => .ok (if e == 0 then .error .illegalOperand
        else if !r.post && !r.pair && o.reply64 then .error .illegalOperand else .ok o)
    | none => .ok (.error .illegalOperand)
  match o with
  | some o => (s.devRead r.job (o.desc + 9) 1).bind fun f => if f % 2 == 1 then .ok (.error .objPoisoned) else late o
  | none =>
    match s.jobs[r.job]? with
    | none => .ok (.error .illegalOperand)
    | some j =>
      (s.findDesc r.job j.objTable j.objM r.base 0 8).bind fun d =>
        match d with
        | none => .ok (.error .illegalOperand)
        | some d =>
          if d.z < 7 || d.z > 12 || r.base.toNat % 2 ^ d.z != 0 || d.methods.toNat % 128 != 0 then .ok (.error .illegalOperand)
          else if d.flags % 2 == 1 then .ok (.error .objPoisoned)
          else
            (s.readMethods r.job d.methods 16).bind fun ms =>
              late { col := col, job := r.job, base := r.base, pa := r.pa, z := d.z, desc := d.addr, mask := BitVec.ofNat 5 (d.flags / 4),
                     reply64 := (d.flags / 2) % 2 == 1, methods := ms, pending := [], running := none }

/-! ## The end of a combiner run -/

/-- The object whose batch a combiner group runs. -/
def State.objectOf (s : State) (gi : Nat) : Option (ObjState × List MethodReq) :=
  s.objects.findSome? fun o => match o.running with | some (g, b) => if g == gi then some (o, b) else none | none => none

/-- The object without its run; it leaves the home when nothing is pending (R296). -/
def State.endRun (s : State) (gi : Nat) (drop : Bool) : State :=
  let ends (o : ObjState) : Bool := match o.running with | some (g, _) => g == gi | none => false
  { s with objects := s.objects.filterMap fun o =>
      if ends o then (if drop || o.pending.isEmpty then none else some { o with running := none }) else some o }

/-- The L1 copies of an object's lines leave the cores whose requests a batch has performed, so that a requester's later loads find what
its request has done (R272, R309). -/
def State.dropObject (s : State) (o : ObjState) (batch : List MethodReq) : State :=
  let from_ (c : Nat) : Bool := batch.any fun r => match r.src with | .lane _ _ _ => r.core % 64 == c | .peer _ => false
  { s with cores := s.cores.mapFinIdx fun c x _ => if from_ c then x.drop fun l => !l.priv && o.covers (l.line * 128) else x }

/-- The combiner group leaves its home slot. -/
def State.freeHome (s : State) (gi : Nat) : State :=
  s.modGroup gi fun g => { g with status := .gone, hasSlot := false, block := none, posts := [], board := Vector.replicate 32 none }

/-- A combiner run ends in fault (R495, R496): `code` is its trap cause or 0x7F. -/
def combinerFault (s : State) (gi code : Nat) : State :=
  match s.objectOf gi with
  | none => s.freeHome gi
  | some (o, batch) =>
    let ends (s : State) : State :=
      let s := batch.foldl (fun s r => s.reply r (.error (.combiner, o.base))) (s.endRun gi true)
      let s := o.pending.foldl (fun s r => s.reply r (.error (.objPoisoned, o.base))) s
      ((s.dropObject o batch).postError o.job 2 (o.base ||| BitVec.ofNat 64 code)).freeHome gi
    match (s.homeRead o.job (o.desc + 9) 1).bind fun f => s.homeWrite o.job (o.desc + 9) [BitVec.ofNat 8 f ||| 1] with
    | .ok s => ends s
    | .fail _ _ => ends (s.postError o.job 13 o.desc)
    | .wait => s

/-- The end of a combiner run at EXIT (R307): `words` gives o0 and o1 of a lane. -/
def combinerExit (s : State) (gi : Nat) (words : Nat → List Word) : State :=
  match s.objectOf gi with
  | none => s.freeHome gi
  | some (o, batch) =>
    let s := s.endRun gi false
    let s := batch.zipIdx.foldl (fun s (p : MethodReq × Nat) =>
      s.reply p.1 (.ok (if p.1.post then [] else (words p.2).take (if o.reply64 then 2 else 1)))) s
    (s.dropObject o batch).freeHome gi

end Sys2Proof.Machine
end

