-- ==== Sys2Proof/Machine/Ops.lean ====
section
/-! DEFINITION. Running one instruction of a group: its guards and waits, what it does at its end, taking a trap and returning
from one, each said once (R142 to R151, R449 to R462, R487). -/

namespace Sys2Proof.Machine

/-! ## What an instruction does to the machine -/

/-- The end of an instruction's own work. -/
inductive Eff where
  /-- It completed; the group goes on at the next instruction. -/
  | done (s : State)
  /-- It completed; the group goes on at another address. -/
  | jump (s : State) (pc : DWord)
  /-- It has not issued; the group stands at it. -/
  | wait (s : State)
  /-- The group no longer issues, and its address is already set. -/
  | ended (s : State)
  | trap (t : TrapInfo)
  /-- It traps after effects of its own (R538). -/
  | trapFrom (s : State) (t : TrapInfo)

/-- A trap of the instruction the group stands at, without an address. -/
def trapOf (i : Instr) (g : Group) (c : Cause) : TrapInfo :=
  { cause := c, code := 0, pc := g.ctx.pc, addr := none, lanes := 0, write := false, fetch := false, deferred := false,
    done := 0, replies := [], iword := (encode i).getD 0 0, oword := 0, reqAddr := [], reqData := [] }

def trapAt (i : Instr) (g : Group) (c : Cause) (addr : DWord) (lanes : LaneMask) (write : Bool) : TrapInfo :=
  { trapOf i g c with addr := some addr, lanes := lanes, write := write }

/-- The priority of the per-lane causes (R453). -/
def laneRank : Cause → Nat
  | .align => 0
  | .stackLimit => 1
  | .ixBounds => 2
  | .xlate => 3
  | .perm => 4
  | .world => 5
  | _ => 6

/-- The earliest per-lane cause, with the lowest lane's address and the mask of its lanes (R451, R453). -/
def firstLaneCause (l : List (Nat × Cause × DWord)) : Option (Cause × DWord × LaneMask) :=
  match (List.range 7).filterMap (fun r => match l.filter (fun x => laneRank x.2.1 == r) with | [] => none | x => some x) with
  | [] => none
  | [] :: _ => none
  | (x :: xs) :: _ => some (x.2.1, x.2.2, maskOf ((x :: xs).map fun y => y.1))

/-! ## A group's context -/

/-- Writes every DIRTY mapped entry to its main register, for every thread (R146, R148). -/
def Ctx.writeBack (x : Ctx) : Ctx :=
  { x with main := (List.range 16).foldl (fun m e =>
      match x.entry e with
      | ⟨some v, .dirty, val⟩ => m.set v.toNat val
      | _ => m) x.main }

/-- Makes entries FREE, the map kept (R143). -/
def Ctx.free (x : Ctx) (m : BitVec 16) : Ctx :=
  { x with entries := x.entries.mapFinIdx fun e en _ => if m.getLsbD e then { en with st := .free, val := Lanes.zero } else en }

/-- Main registers written back and the latches lost: what a group keeps when it gives its operand-buffer slot up (R148). Every
entry that was not FREE reloads as CLEAN. -/
def Ctx.surrender (x : Ctx) : Ctx :=
  { x.writeBack with
    entries := x.entries.map fun e => if e.st == .dirty then { e with st := .clean } else e
    latches := x.latches.map fun l => { l with valid := false }
    run := [] }

/-- Applies the freeing that waited for a latch reader (R143). -/
def Ctx.applyFrees (x : Ctx) : Ctx := { x.free x.pendFree with pendFree := 0 }

/-- Every latch invalid (R145). -/
def Ctx.clearLatches (x : Ctx) : Ctx := { x with latches := x.latches.map fun l => { l with valid := false }, run := [] }

/-- A value of the lanes in `m`, the others as they were. -/
def mergeLanes (m : LaneMask) (old : Lanes) (f : Nat → Word) : Lanes :=
  Vector.ofFn fun t : Fin 256 => if m.getLsbD t then f t else old[t]

/-- Writes an entry in the lanes of `m` and makes it DIRTY (R142). -/
def Ctx.writeEntry (x : Ctx) (e : Nat) (m : LaneMask) (f : Nat → Word) : Ctx :=
  let en := x.entry e
  x.setEntry e { en with st := .dirty, val := mergeLanes m (if en.st == .free then Lanes.zero else en.val) f }

/-- Writes a 32-bit or 64-bit result to D, or D and D+1 (R169). -/
def Ctx.writePair (x : Ctx) (wide : Bool) (e : Nat) (m : LaneMask) (f : Nat → DWord) : Ctx :=
  let y := x.writeEntry e m fun t => lo32 (f t)
  if wide then y.writeEntry (e + 1) m fun t => hi32 (f t) else y

/-- The entry that maps main register `v`, if any (R150). -/
def Ctx.entryOf (x : Ctx) (v : Nat) : Option Nat := (List.range 16).find? fun e => (x.entry e).map == some (BitVec.ofNat 8 v) && v < 256

/-- The value of main register `v`, or of the entry that maps it (R150). -/
def Ctx.readMain (x : Ctx) (v : Nat) : Lanes :=
  match x.entryOf v with
  | some e => if (x.entry e).st == .free then Lanes.zero else (x.entry e).val
  | none => x.mainReg v

/-- Writes main register `v` in the lanes of `m`, or the entry that maps it (R150). -/
def Ctx.writeMain (x : Ctx) (v : Nat) (m : LaneMask) (f : Nat → Word) : Ctx :=
  match x.entryOf v with
  | some e => x.writeEntry e m f
  | none => { x with main := x.main.set v (mergeLanes m (x.mainReg v) f) }

/-- The word `i` of lane `t`'s result. -/
def resultWord (vals : List (Nat × List Word)) (t i : Nat) : Word := ((vals.lookup t).getD []).getD i 0

/-- Lanes of a request whose result has more than `i` words: a 64-bit reply also writes D+1 (R236). -/
def Pend.lanesWith (p : Pend) (i : Nat) : LaneMask :=
  maskFn fun t => p.lanes.getLsbD t && ((p.vals.lookup t).getD []).length > i

/-- Writes a request's results to its destination (R149). -/
def Ctx.deliver (x : Ctx) (p : Pend) : Ctx :=
  let each (f : Ctx → Nat → LaneMask → Ctx) (n : Nat) : Ctx :=
    (List.range n).foldl (fun y i => if p.lanesWith i == 0 then y else f y i (p.lanesWith i)) x
  match p.dest with
  | .none => x
  | .entries e n => each (fun y i m => y.writeEntry (e + i) m fun t => resultWord p.vals t i) n
  | .sreg d => x.setS d (resultWord p.vals 0 1 ++ resultWord p.vals 0 0)
  | .main v n => each (fun y i m => y.writeMain (v + i) m fun t => resultWord p.vals t i) n

/-- Whether a request's destination meets entries or uniform registers (R149): a window of main registers guards the entries
mapped to them (R342). -/
def Dest.meets (x : Ctx) : Dest → BitVec 16 → BitVec 64 → Bool
  | Dest.none, _, _ => false
  | .entries e n, m, _ => (List.range n).any fun i => m.getLsbD (e + i)
  | .sreg d, _, m => m.getLsbD d
  | .main v n, m, _ => (List.range 16).any fun e => m.getLsbD e && match (x.entry e).map with | some r => v ≤ r.toNat && r.toNat < v + n | Option.none => false

/-! ## What an instruction uses -/

/-- What an instruction waits for before it issues (R145, R149, R454). -/
structure Uses where
  ents : BitVec 16 := 0
  sregs : BitVec 64 := 0
  /-- It waits for every scoreboard slot (R146). -/
  all : Bool := false
  /-- Latches it reads. -/
  latches : List Nat := []
  /-- A V, X or T pipe instruction that writes a latch. -/
  vec : Bool := false
  /-- A release or fence: it waits for the group's requests that no unit has performed (R276, R280). -/
  rel : Bool := false
  /-- A BAR, YIELD, REGION or EXIT: it waits for the answers of non-returning requests (R454). -/
  post : Bool := false
  /-- An instruction of the stream queues, or EXIT: it reports the first error of a queue (R505). -/
  eng : Bool := false
  /-- Main registers it names through an index register, with the entries that map them (R150, R174, R342). -/
  main : BitVec 256 := 0

/-- Main registers `v` to `v + n - 1`. -/
def mainRange (v n : Nat) : BitVec 256 := BitVec.ofNat 256 ((2 ^ n - 1) * 2 ^ v)

/-- The destination meets main registers. -/
def Dest.meetsMain (d : Dest) (m : BitVec 256) : Bool :=
  match d with
  | .main v n => mainRange v n &&& m != 0
  | _ => false

/-- The entries that map one of the main registers (R150). -/
def Ctx.entriesOf (x : Ctx) (m : BitVec 256) : BitVec 16 :=
  BitVec.ofNat 16 ((List.range 16).foldl (fun k e => match (x.entry e).map with | some v => if m.getLsbD v.toNat then k + 2 ^ e else k | none => k) 0)

/-- A free scoreboard slot (R149). -/
def Group.freeSlot (g : Group) : Option Nat := (List.range 32).find? fun k => (g.board[Fin.ofNat 32 k]).isNone

/-- The slots that guard what an instruction uses. -/
def Group.guards (g : Group) (u : Uses) : List (Nat × Pend) :=
  (List.range 32).filterMap fun k =>
    match g.board[Fin.ofNat 32 k] with
    | some p => if u.all || p.dest.meets g.ctx (u.ents ||| g.ctx.entriesOf u.main) u.sregs || p.dest.meetsMain u.main then some (k, p) else none
    | none => none

/-- The group with a request in a scoreboard slot. -/
def Group.setSlot (g : Group) (k : Nat) (p : Option Pend) : Group := { g with board := g.board.set (Fin.ofNat 32 k) p }

/-- A method request of the group. -/
def MethodReq.isOf (r : MethodReq) (gi : Nat) : Bool := match r.src with | .lane g _ _ => g == gi | .peer _ => false

/-- Atomics and method requests of the group that no unit has performed yet, and its non-returning requests without an answer:
a release or a fence waits for them (R276, R280, R454). -/
def State.outstanding (s : State) (gi : Nat) : Bool :=
  s.atomics.any (fun a => a.grp == some gi) || s.methods.any (fun r => r.isOf gi) ||
    s.objects.any (fun o => o.pending.any (fun r => r.isOf gi) || match o.running with | some (_, b) => b.any (fun r => r.isOf gi) | none => false) ||
    match s.groups[gi]? with | some g => !g.posts.isEmpty | none => false

/-- An acquire of the group has not returned: its later accesses wait (R277). -/
def Group.acquiring (g : Group) : Bool :=
  g.posts.any (fun q => q.2.acq.isSome) ||
    (List.range 32).any fun k => match g.board[Fin.ofNat 32 k] with | some p => p.acq.isSome | none => false

/-! ## Ending a group -/

/-- A request number that no request has: what is on its way for a killed run answers nobody, but is performed all the same (R60, R479,
R481). -/
def nobody : Nat := 2 ^ 64

/-- The launch of a group is marked faulted, and cancelled when `cancel` (R458, R460). -/
def State.failLaunch (s : State) (l : Nat) (cancel : Bool) : State :=
  s.modLaunch l fun x => { x with faulted := true, cancelled := x.cancelled || cancel }

/-- The launch and the team of a group fail. -/
def State.failTeam (s : State) (g : Group) (cancel : Bool) : State :=
  (s.failLaunch g.launch cancel).modTeam g.team fun t => { t with fault := true }

/-- The group that a GROUP number names in the team of `g`, the other half of a twin team included, ended or not (R253). -/
def State.partner (s : State) (g : Group) (n : Nat) : Option Nat :=
  let teams := g.team :: (match s.teams[g.team]? with | some t => t.twin.toList | none => [])
  s.groups.findIdx? fun h => (h.kind == .team || h.kind == .resolve) && teams.contains h.team && h.number == n

/-- The deferred trap of an XCHG whose partner ended (R253, R454). -/
def xchgTrap (h : Group) (n : Nat) : TrapInfo :=
  { cause := .xchgPartner, code := 0, pc := h.ctx.pc, addr := some (BitVec.ofNat 64 n), lanes := 0, write := false, fetch := false,
    deferred := true, done := 0, replies := [], iword := (h.block.map (·.iword)).getD 0, oword := 0, reqAddr := [], reqData := [] }

/-- Ends a group: it leaves issue at once, its storage drains, its private lines are dropped, and a group that waits to
exchange with it takes XCHG_PARTNER (R221, R253, R268, R481). -/
def endGroup (s : State) (gi : Nat) : State :=
  match s.groups[gi]? with
  | none => s
  | some g =>
    if g.status == .exited || g.status == .gone then s
    else
      let s := s.dropPrivate g.core gi
      let s := s.modGroup gi fun g => { g with status := .exited, hasSlot := false, block := none, xchg := none }
      { s with groups := s.groups.map fun h =>
          match h.status, h.xchg with
          | .xchgWait next, some (_, n, _) =>
            if n == g.number && (g.kind == .team || g.kind == .resolve) && (h.team == g.team || (s.teams[g.team]?.bind (·.twin)) == some h.team)
            then { h with status := .trapPending (xchgTrap h n), xchg := none, ctx := { h.ctx with pc := next } } else h
          | _, _ => h }

/-! ## Taking a trap (R452 to R458, R487) -/

/-- The rebuild run before an instruction that reads `nr` (R462), latest first. -/
def rebuildRun : List RunItem → List Nat → Bool → List Nat → List RunItem
  | [], _, _, _ => []
  | it :: l, nr, nextV, nnr =>
    if nr.contains it.latch || (it.latch == 0 && nextV && nnr.contains 3) then
      it :: rebuildRun l it.reads (it.latch == 0) nr
    else []

/-- The frame address of a group (R455). -/
def Group.frame (g : Group) : Option DWord := g.area.map fun a => a + BitVec.ofNat 64 (256 * g.privLimit)

/-- Writes bytes at a virtual address as private lines of the group; the failing address otherwise (R455). -/
def State.privWrite (s : State) (gi : Nat) (g : Group) (va : DWord) (bs : List (BitVec 8)) : Except DWord State :=
  match s.xlate g.core g.job va .write false with
  | .ok pa c => .ok ((s.tlbFill g.core g.job va).privateStore c g.core gi pa bs)
  | _ => .error va

/-- Writes items (offset, bytes, value) of a frame. -/
def State.frameWrite (s : State) (gi : Nat) (g : Group) (frame : DWord) : List (Nat × Nat × Nat) → Except DWord State
  | [] => .ok s
  | (off, n, v) :: l =>
    match s.privWrite gi g (frame + BitVec.ofNat 64 off) (leBytes n v) with
    | .ok s => s.frameWrite gi g frame l
    | .error e => .error e

/-- The bytes of the group's held stores lie over memory (R478). -/
def heldByte (held : List Held) (pa : Nat) (b : BitVec 8) : BitVec 8 :=
  held.foldl (fun b h => match h with
    | .store p bs _ _ => if p ≤ pa && pa < p + bs.length then bs.getD (pa - p) 0 else b
    | _ => b) b

def Group.heldOver (g : Group) (pa : Nat) (bs : List (BitVec 8)) : List (BitVec 8) :=
  match g.gfx with
  | some x => bs.mapIdx fun i b => heldByte x.held (pa + i) b
  | none => bs

/-- The part of a held effect outside the bytes from `lo` up to `hi`. -/
def Held.outside (lo hi : Nat) : Held → List Held
  | .store pa bs priv va =>
    [(pa, bs.take (lo - pa)), (max pa hi, bs.drop (hi - pa))].filterMap fun p => if p.2.isEmpty then none else some (.store p.1 p.2 priv va)
  | h => [h]

/-- The replay state of a group whose frame the device has written: its own older stores lie over the frame no more (R455). -/
def State.frameHeld (s : State) (g : Group) (frame : DWord) : Option Gfx :=
  g.gfx.map fun x =>
    { x with held := (List.range 48).foldl (fun l k => match s.xlate g.core g.job (frame + BitVec.ofNat 64 (256 * k)) .read false with
        | .ok pa _ => l.flatMap (Held.outside pa (pa + 256))
        | _ => l) x.held }

/-- Reads a frame field as the group's own access, its held stores over memory (R455, R478). -/
def State.frameRead (s : State) (g : Group) (frame : DWord) (off n : Nat) : Option Nat :=
  let va := frame + BitVec.ofNat 64 off
  match s.xlate g.core g.job va .read false with
  | .ok pa c => some (leNat (g.heldOver pa (s.readBytes g.core g.job c pa n)))
  | _ => none

/-- The trap frame cannot be written (R239, R487). -/
def frameFailure (s : State) (gi : Nat) (g : Group) (va : DWord) : State :=
  ((endGroup s gi).failTeam g false).postError g.job 1 va

/-- A trap in handler state, or one of a job without a handler (R458): the record goes to `base` in the frame. -/
def doubleFault (s : State) (gi : Nat) (g : Group) (t : TrapInfo) (base : Nat) : State :=
  let frame := g.frame.getD 0
  let s := s.tick g.core
  let s := match s.frameWrite gi g frame (recordItems base g t (s.core g.core).stamp (base != 0) false) with
    | .ok s => s
    | .error _ => s
  ((endGroup s gi).failTeam g true).postError g.job 1 frame

/-- The restart address of a trap taken at the instruction the group stands at (R460, R462). -/
def restartOf (g : Group) (t : TrapInfo) (next : DWord) (run : List RunItem) : DWord :=
  if t.cause == .softTrap || t.cause == .breakpoint then next
  else match run.getLast? with
    | some it => it.pc
    | none => g.ctx.pc

/-- Enters the handler (R457 steps 2 to 6). `next` is the address after the instruction, `run` its rebuild run. -/
def enterTrap (s : State) (gi : Nat) (g : Group) (t : TrapInfo) (next : DWord) (run : List RunItem) (req : Option Pend) : State :=
  match g.frame, s.jobs[g.job]? with
  | some frame, some job =>
    let restart := restartOf g t next run
    let x := g.ctx.writeBack
    let s := s.tick g.core
    let items := recordItems 0 g t (s.core g.core).stamp false (!run.isEmpty) ++ frameItems { g with ctx := x } g.ctx t restart
    match s.frameWrite gi g frame items with
    | .error va => frameFailure s gi g va
    | .ok s =>
      let y := { x.clearLatches with
        entries := Vector.replicate 16 ⟨none, .free, Lanes.zero⟩
        slots := Vector.replicate 8 ⟨false, 0⟩
        pendFree := 0
        fpmode := 0
        fpflags := 0
        pc := job.handler }
      s.setGroup gi { g with
        ctx := (y.setS 0 frame).setS 1 (BitVec.ofNat 64 t.cause.code)
        status := .running
        handler := true
        trapSave := some ⟨t.cause, t.deferred, restart, g.ctx.pc, if t.deferred then g.ctx.pc else next, run, req⟩
        rebuild := none
        retry := none
        gfx := s.frameHeld g frame }
  | _, _ => frameFailure s gi g 0

/-- A settled request without a cause lands: its destination is written, its slot cleared and its acquire performed (R149,
R277). One with a cause stays until its trap is taken (R454), its acquire performed all the same: later accesses wait for it no more. -/
def State.land (s : State) (gi k : Nat) : State :=
  match s.groups[gi]? with
  | some g =>
    match g.board[Fin.ofNat 32 k] with
    | some p =>
      if p.settled && p.causes.isEmpty then
        let s := s.setGroup gi { g.setSlot k none with ctx := g.ctx.deliver p }
        match p.acquired with | some m => s.acquire g.core m | none => s
      else
        match p.settled, p.acquired with
        | true, some m => (s.setGroup gi (g.setSlot k (some { p with acq := none }))).acquire g.core m
        | _, _ => s
    | none => s
  | none => s

/-- Every settled request of the group without a cause lands. -/
def State.landAll (s : State) (gi : Nat) : State := (List.range 32).foldl (fun s k => s.land gi k) s

/-- A request of the group has not settled. -/
def Group.unsettled (g : Group) : Bool :=
  (List.range 32).any fun k => match g.board[Fin.ofNat 32 k] with | some p => !p.settled | none => false

/-- The access that the host's refusal answered has faulted: the next one to the page asks again (R409). -/
def State.heard (s : State) (job : Nat) (va : Option DWord) : State :=
  match va with
  | some a => { s with priRefused := s.priRefused.filter (· != (job, pageOf a)) }
  | none => s

/-- Takes a trap at the instruction the group stands at: `next` is the address after it, `reads` the latches it reads, `req` the
request of a deferred cause. It waits for the group's other requests (R457 step 1), a double fault, a job without a handler, a
combiner group and a group without a frame having their own fates (R239, R458, R487, R495). -/
def takeTrap (s : State) (gi : Nat) (t : TrapInfo) (next : DWord) (reads : List Nat) (req : Option Pend) : State :=
  match s.groups[gi]? with
  | none => s
  | some g =>
    let s := if t.cause == .xlate then s.heard g.job t.addr else s
    if g.kind == .combiner then combinerFault s gi t.cause.code
    else if g.frame.isNone then frameFailure s gi g 0
    else if g.handler then doubleFault s gi g t 12288
    else if (match s.jobs[g.job]? with | some j => j.handler == 0 | none => true) then doubleFault s gi g t 0
    else if g.unsettled then
      s.setGroup gi { g with
        status := .trapPending t
        trapSave := some ⟨t.cause, t.deferred, 0, g.ctx.pc, next, rebuildRun g.ctx.run reads false [], req⟩ }
    else
      let s := s.landAll gi
      enterTrap s gi (s.groups.getD gi g) t next (rebuildRun g.ctx.run reads false []) req

/-- Goes on with a trap that waited for requests (R457 step 1). -/
def resumeTrap (s : State) (gi : Nat) : State :=
  match s.groups[gi]? with
  | some g =>
    match g.status, g.trapSave with
    | .trapPending t, some v =>
      if g.unsettled then s
      else
        let s := s.landAll gi
        enterTrap s gi (s.groups.getD gi g) t v.skip v.run v.req
    | .trapPending t, none =>
      if g.unsettled then s else takeTrap (s.setGroup gi { g with status := .running, block := none }) gi t g.ctx.pc [] g.block
    | _, _ => s
  | none => s

/-! ## Returning from a trap (R459) -/

/-- What TRET finds in the frame. -/
structure Tret where
  ctx : Ctx
  action : Nat
  target : DWord
  done : LaneMask
  replies : List (Nat × BitVec 128)
  addrs : List (Nat × DWord)
  data : List (Nat × BitVec 128)

/-- A lane area of the frame. -/
def State.laneRead (s : State) (g : Group) (frame : DWord) (base n : Nat) : List (Nat × Nat) :=
  (List.range 256).map fun t => (t, (s.frameRead g frame (base + n * t) n).getD 0)

/-- The entry of the frame's map, restored (R459): reloaded from its main register unless FREE. -/
def restoreEntry (main : List Lanes) (n : Nat) : Entry :=
  if n / 128 % 2 == 1 then
    let v := n / 256 % 256
    if n % 4 == 0 then ⟨some (BitVec.ofNat 8 v), .free, Lanes.zero⟩
    else ⟨some (BitVec.ofNat 8 v), .clean, main.getD v Lanes.zero⟩
  else ⟨none, .free, Lanes.zero⟩

/-- The frame's fields that must be 0 (R456, R459): (offset, bytes, shift of the first reserved bit). -/
def reservedItems : List (Nat × Nat × Nat) :=
  [(64, 8, 3), (112, 8, 4), (224, 8, 8), (240, 16, 0), (832, 192, 0), (1280, 768, 0), (12352, 4032, 0)]

/-- Reads and checks the frame (R459): none where TRET finds it invalid or cannot read it. -/
def readFrame (s : State) (g : Group) (frame : DWord) : Option Tret :=
  let rd (off n : Nat) : Nat := (s.frameRead g frame off n).getD 0
  let x := g.ctx
  let action := rd 64 8
  let target : DWord := BitVec.ofNat 64 (rd 72 8)
  let mapAt (e : Nat) : Nat := rd (192 + 2 * e) 2
  let readable := (List.range 256).all fun k => (s.frameRead g frame (64 * k) 1).isSome
  let bad := action > 4 || (action == 2 && target.getLsbD 0) || rd 120 8 != x.dstack.length + 2 ^ 8 * x.cstack.length ||
    (List.range 16).any (fun e => mapAt e / 128 % 2 == 1 && mapAt e / 256 ≥ g.regs) ||
    (List.range 16).any (fun e => mapAt e / 4 % 32 != 0 || mapAt e % 4 == 3) ||
    reservedItems.any fun r => rd r.1 r.2.1 / 2 ^ r.2.2 != 0
  if !readable || bad then none
  else
    let active := BitVec.ofNat 256 (rd 128 32) &&& ~~~x.killed
    some {
      ctx := { x.clearLatches with
        s := Vector.ofFn fun k : Fin 64 => BitVec.ofNat 64 (rd (256 + 8 * k) 8)
        slots := Vector.ofFn fun k : Fin 8 => ⟨(rd 224 8).testBit k, BitVec.ofNat 64 (rd (768 + 8 * k) 8)⟩
        preds := Vector.ofFn fun k : Fin 8 =>
          maskOf ((List.range 256).filter fun t => (rd (1024 + t) 1).testBit k)
        c := Vector.ofFn fun k : Fin 4 => (rd 112 8).testBit k
        fpmode := BitVec.ofNat 64 (rd 88 8 % 16)
        fpflags := BitVec.ofNat 64 (rd 96 8 % 32)
        storehash := BitVec.ofNat 64 (rd 104 8)
        active := active
        entries := Vector.ofFn fun e : Fin 16 => restoreEntry x.main (mapAt e)
        pendFree := 0 }
      action := if active == 0 then 3 else action
      target := target
      done := BitVec.ofNat 256 (rd 160 32)
      replies := (s.laneRead g frame 8192 16).map fun p => (p.1, BitVec.ofNat 128 p.2)
      addrs := (s.laneRead g frame 2048 8).map fun p => (p.1, BitVec.ofNat 64 p.2)
      data := (s.laneRead g frame 4096 16).map fun p => (p.1, BitVec.ofNat 128 p.2) }

/-! ## One instruction of the current group -/

/-- Instructions that R305 denies a combiner group. -/
def combinerDenied : Instr → Bool
  | .callm .. | .postm .. | .barArrive .. | .barWait .. | .barArrivewait .. | .barinit .. | .yield .. | .carve .. | .spawn ..
  | .copy .. | .copyg .. | .stream .. | .sqfence .. | .mma .. | .mbatch .. | .mwait .. | .mdrain .. | .mfill .. | .mzero ..
  | .neval .. | .tex .. | .texf .. | .texq .. | .trace .. | .patch .. | .gvtx .. | .flins .. | .flres .. | .ordent .. | .ordlv ..
  | .tkpush .. | .tkpop .. | .tksteal .. | .tkdone .. | .xchg .. | .cred .. | .rlogDisable .. | .rlogRecord .. | .rlogReplay ..
  | .rlogMark .. | .idemStart .. | .idemCommit .. => true
  | _ => false

/-- Instructions that R385 forbids in an ordered section. -/
def sectionDenied : Instr → Bool
  | .ordent .. | .barArrive .. | .barWait .. | .barArrivewait .. | .yield .. | .callm .. | .neval .. | .xchg .. => true
  | _ => false

/-- A lane has entered its ordered section and not released it (R383). -/
def Group.inSection (g : Group) : Bool :=
  match g.gfx with
  | some x => x.entered &&& ~~~x.released != 0
  | none => false

/-- The first error of the queues of the group's core that its producer group has not been told of (R505). -/
def State.engineError (s : State) (g : Group) (gi : Nat) : Option TrapInfo :=
  let c := s.core g.core
  ((c.sqErr[0].lookup gi).toList ++ (c.sqErr[1].lookup gi).toList).head?

/-- What stands before an instruction's own work: encoding, privilege and section rules (R453), then the scoreboard slots it
waits for and the deferred causes it takes (R149, R454). -/
def prelude (i : Instr) (u : Uses) (s : State) (gi : Nat) (g : Group) : Option (Eff × Option Pend) :=
  if !wf i then some (.trap (trapOf i g .illegalEnc), none)
  else if g.kind == .combiner && combinerDenied i then some (.trap (trapOf i g .privilege), none)
  else if g.inSection && sectionDenied i then some (.trap (trapOf i g .orderRule), none)
  else
    match g.guards u with
    | (k, p) :: _ =>
      if p.settled then
        match deferredTrap p with
        | some t => some (.trap t, some p)
        | none => some (.wait s, none)
      else some (.wait (s.setGroup gi (g.setSlot k (some p))), none)
    | [] =>
      match (if u.eng || (spOf i).isSome then s.engineError g gi else none) with
      | some t => some (.trap t, none)
      | none =>
      if u.rel || u.post || (spOf i).isSome then
        if !g.posts.isEmpty || (u.rel && s.outstanding gi) then some (.wait s, none)
        else match g.deferred with
          | (t, p) :: _ => some (.trap t, p)
          | [] => none
      else none

/-- The lanes of a retried instruction that its frame says are done (R461). -/
def Group.doneLanes (g : Group) : LaneMask :=
  match g.retry with
  | some r => if r.pc == g.ctx.pc then r.done else 0
  | none => 0

def Group.savedReply (g : Group) (lane : Nat) : Nat :=
  match g.retry with
  | some r => ((r.replies.lookup lane).getD 0).toNat
  | none => 0

/-- The lanes that a retried instruction issues: those not done (R461). -/
def Group.undone {α : Type} (g : Group) (l : List (Nat × α)) : List (Nat × α) := l.filter fun p => !g.doneLanes.getLsbD p.1

/-- Instructions of which lanes stay performed where others trap: stores, atomics, CALLM and POSTM (R461). -/
def performsLanes : Instr → Bool
  | .st8 .. | .st16 .. | .st32 .. | .st64 .. | .st128 .. | .stl .. | .sts .. | .stp .. | .sst .. | .sstl .. | .atom .. | .red .. | .satom .. |
    .atoms .. | .callm .. | .postm .. => true
  | _ => false

/-- The lanes done before a retry and their replies stay in the frame when the instruction meets a precise cause again (R453, R461). -/
def Group.keepDone (g : Group) (i : Instr) (t : TrapInfo) : TrapInfo :=
  match g.retry with
  | some r =>
    if performsLanes i && !t.deferred && r.pc == g.ctx.pc then
      { t with done := t.done ||| r.done, replies := t.replies ++ r.replies.filter fun p => r.done.getLsbD p.1 }
    else t
  | none => t

/-- The group after an instruction (R143, R145, R151): its address, its latches, the freeing that waited, and the stop of a
pre-empted team at a safe point (R469). What a retry left stays until its instruction issues, behind the rebuild run (R462). -/
def complete (i : Instr) (u : Uses) (s : State) (gi : Nat) (pc : DWord) : State :=
  s.modGroup gi fun g =>
    let x := if u.vec then g.ctx else g.ctx.applyFrees.clearLatches
    let x := if (spOf i).isSome then x.applyFrees.clearLatches else x
    let pc := match g.again with | some (a, r) => if a == x.pc then r else pc | none => pc
    let g := { g with ctx := { x with pc := pc }, retry := if g.rebuild.isSome then g.retry else none, absent := none, icount := g.icount + (if g.kind == .combiner then 1 else 0),
                      rebuild := match g.rebuild with
                        | some r => if (u.vec && pc != r.1) || g.again.any (fun a => a.1 == x.pc) then some r else none
                        | none => none
                      again := match g.again with | some (a, r) => if a == x.pc then none else some (a, r) | none => none }
    match spOf i, s.teams[g.team]? with
    | some m, some t =>
      if t.preempt && !g.handler && (g.kind == .team || g.kind == .spawned) && g.status == .running then { g with status := .stopped m }
      else g
    | _, _ => g

/-- Held hits of a request that leaves its slot answer nobody until it is retried (R461, R539). -/
def Held.detach (gone : Nat → Bool) : Held → Held
  | .hits pc slot frags => .hits pc (if gone slot then nobody else slot) frags
  | h => h

/-- Removes the slot of the request whose deferred cause is taken (R457 step 1), or the first deferred cause of a non-returning
request. -/
def clearCause (s : State) (gi : Nat) (t : TrapInfo) (req : Option Pend) : State :=
  if !t.deferred then s
  else
    let s := match s.groups[gi]? with
      | some g => s.modCore g.core fun c => { c with sqErr := c.sqErr.map fun (l : List (Nat × TrapInfo)) => l.filter fun e => !(e.1 == gi && e.2 == t) }
      | none => s
    s.modGroup gi fun g => { g with
      board := g.board.map fun q => if req.isSome && q == req then none else q
      gfx := g.gfx.map fun x => { x with held := x.held.map (Held.detach fun k => k < 32 && req.isSome && g.board[Fin.ofNat 32 k] == req) }
      deferred := g.deferred.filter fun d => d.1 != t }

/-- Where the group goes on after the instruction it stands at: behind it, or where it resumes after a retried request (R461). -/
def Group.after (g : Group) (i : Instr) : DWord :=
  let next := g.ctx.pc + BitVec.ofNat 64 (instrBytes i)
  match g.again with | some (a, r) => if a == g.ctx.pc then r else next | none => next

/-- Turns the end of an instruction into the next state. -/
def finish (i : Instr) (u : Uses) (s : State) (gi : Nat) (g : Group) (e : Eff) (req : Option Pend) : State :=
  let next := g.ctx.pc + BitVec.ofNat 64 (instrBytes i)
  let skip := g.after i
  match e with
  | .done s' => complete i u s' gi next
  | .jump s' pc => complete i u s' gi pc
  | .wait s' => s'
  | .ended s' => s'
  | .trap t => takeTrap (clearCause s gi t req) gi (g.keepDone i t) skip u.latches req
  | .trapFrom s' t => takeTrap s' gi (g.keepDone i t) skip u.latches req

/-- The group that `exec` runs, when it may issue: it is running and holds its operand-buffer slot (R43). -/
def State.issuing (s : State) : Option Group :=
  match s.groups[s.cur]? with
  | some g => if g.status == .running && g.hasSlot then some g else none
  | none => none

/-- The group's context as the instruction finds it: the freeing that waits for a reader of the last result's latch is done when
this is not one (R143). -/
def Ctx.begin (x : Ctx) (u : Uses) : Ctx :=
  if u.latches.any fun k => x.latches[Fin.ofNat 4 k].valid && (x.run.head?.map (·.latch)) == some k then x else x.applyFrees

/-- Runs one instruction of the current group. Nothing happens when the group may not issue. -/
def runInstr (i : Instr) (u : Uses) (s : State) (body : State → Nat → Group → Eff) : Host.Outcome State Fault Refusal :=
  match s.issuing with
  | none => .next s
  | some g0 =>
    let gi := s.cur
    let g := { g0 with ctx := g0.ctx.begin u }
    let s := s.setGroup gi g
    match prelude i u s gi g with
    | some (e, req) => .next (finish i u s gi g e req)
    | none => .next (finish i u s gi g (body s gi g) none)

end Sys2Proof.Machine
end

