-- ==== Sys2Proof/Machine/Fetch.lean ====
section
/-! DEFINITION. Fetching the instruction a group stands at: its parcels and extension words in order, with the causes of R453
and the skip length of an encoding that traps. -/

namespace Sys2Proof.Machine

/-- What a fetch gives. -/
inductive Fetched where
  | instr (i : Instr)
  /-- A trap, with the address after the instruction as far as its first word tells (R460). -/
  | trap (t : TrapInfo) (next : DWord)
  /-- A page awaits a PRI response (R409). -/
  | wait
  deriving DecidableEq, Repr

/-- What fetching one 2-byte parcel gives. -/
inductive Parcel where
  | ok (v : Nat)
  | fail (c : Cause)
  | wait
  deriving DecidableEq, Repr

/-- The parcel at a virtual address. -/
def State.parcel (s : State) (g : Group) (va : DWord) : Parcel :=
  match s.xlate g.core g.job va .fetch false with
  | .ok pa _ =>
    if g.kind != .combiner && s.edgeWaits g.job pa then .wait
    else if s.poisoned pa 2 then .fail .eccUncorrected
    else if s.peerRefused g.job pa then .fail .perm
    else .ok (if deniedPa pa then 0 else s.devBytes g.job pa 2)
  | .fault c => .fail c
  | .miss => .fail .xlate
  | .pri => .wait

/-- The trap of a group for an instruction that has not decoded. -/
def fetchTrap (g : Group) (c : Cause) (addr : Option DWord) (iword : Word) : TrapInfo :=
  { cause := c, code := 0, pc := g.ctx.pc, addr := addr, lanes := 0, write := false, fetch := addr.isSome, deferred := false,
    done := 0, replies := [], iword := iword, oword := 0, reqAddr := [], reqData := [] }

/-- `n` parcels from an address on: their values, or the first failure with its address. -/
def State.parcels (s : State) (g : Group) (va : DWord) : Nat → Except (Option (Cause × DWord)) (List Nat)
  | 0 => .ok []
  | n + 1 =>
    match s.parcel g va with
    | .ok v =>
      match s.parcels g (va + 2) n with
      | .ok l => .ok (v :: l)
      | .error e => .error e
    | .fail c => .error (some (c, va))
    | .wait => .error none

/-- The 32-bit words of a list of parcels. -/
def parcelWords : List Nat → List Word
  | a :: b :: l => BitVec.ofNat 32 (a + 65536 * b) :: parcelWords l
  | _ => []

/-- Fetches the instruction at the group's PC (R136, R137, R453). -/
def State.fetch (s : State) (g : Group) : Fetched :=
  let pc := g.ctx.pc
  if pc.getLsbD 0 then .trap (fetchTrap g .align (some pc) 0) (pc + 2)
  else
  match s.parcels g pc 1 with
  | .error none => .wait
  | .error (some (c, a)) => .trap (fetchTrap g c (some a) 0) (pc + 2)
  | .ok l =>
    let p0 := l.headD 0
    if p0 % 2 == 0 then
      match decodeShort (BitVec.ofNat 32 p0) with
      | some i => .instr i
      | none => .trap (fetchTrap g .illegalEnc none (BitVec.ofNat 32 p0)) (pc + 2)
    else
      match s.parcels g (pc + 2) 1 with
      | .error none => .wait
      | .error (some (c, a)) => .trap (fetchTrap g c (some a) 0) (pc + 4)
      | .ok l =>
        let w : Word := BitVec.ofNat 32 (p0 + 65536 * l.headD 0)
        let n := extCount w
        let next := pc + BitVec.ofNat 64 (4 + 4 * n)
        if !wordOk w then .trap (fetchTrap g .illegalEnc none w) next
        else
          match s.parcels g (pc + 4) (2 * n) with
          | .error none => .wait
          | .error (some (c, a)) => .trap (fetchTrap g c (some a) w) next
          | .ok l =>
            match decodeLong w (parcelWords l) with
            | some i => .instr i
            | none => .trap (fetchTrap g .illegalEnc none w) next

/-- The TLBs after the fetch of an instruction of `n` bytes (R264). -/
def State.fetchFill (s : State) (g : Group) (n : Nat) : State :=
  let s := s.tlbFill g.core g.job g.ctx.pc
  if pageOf (g.ctx.pc + BitVec.ofNat 64 (n - 1)) == pageOf g.ctx.pc then s
  else s.tlbFill g.core g.job (g.ctx.pc + BitVec.ofNat 64 (n - 1))

end Sys2Proof.Machine
end

