-- ==== Sys2Proof/Machine/Operands.lean ====
section
/-! DEFINITION. Operand delivery and results of thread instructions, each form said once: sources (R140, R141, R169), entry and
latch destinations (R144, R170), predicates (R171, R172) and last use (R143). -/

namespace Sys2Proof.Machine

/-- The values of constants 1 and −1 in an operation's type (R141). -/
structure Consts where
  one : DWord
  neg : DWord
  deriving DecidableEq, Repr

def Consts.int : Consts := ⟨1, -1⟩
def Consts.f32 : Consts := ⟨0x3F800000, 0xBF800000⟩
def Consts.f64 : Consts := ⟨0x3FF0000000000000, 0xBFF0000000000000⟩
def Consts.f16 : Consts := ⟨0x3C003C00, 0xBC00BC00⟩
def Consts.bf16 : Consts := ⟨0x3F803F80, 0xBF80BF80⟩
def Consts.i8 : Consts := ⟨0x01010101, 0xFFFFFFFF⟩
def Consts.i4 : Consts := ⟨0x11111111, 0xFFFFFFFF⟩
def Consts.e4m3 : Consts := ⟨0x38383838, 0xB8B8B8B8⟩
def Consts.e5m2 : Consts := ⟨0x3C3C3C3C, 0xBCBCBCBC⟩
def Consts.e2m1 : Consts := ⟨0x22222222, 0xAAAAAAAA⟩

/-- The value an entry holds in a thread: 0 where it is FREE (R142). -/
def Entry.at (e : Entry) (t : Nat) : Word := if e.st == .free then 0 else e.val.at t

/-- The value a source delivers to a thread: 64 bits under `wide`, else 32 bits zero-extended (R140, R141). A 32-bit operand that names a
latch with a 64-bit result takes its low 32 bits, as of a slot (DESIGN CHOICE, log 53). -/
def Ctx.read (x : Ctx) (c : Consts) (wide : Bool) (f : SrcField) (t : Nat) : DWord :=
  let k := selNat f
  let narrow (v : DWord) : DWord := if wide then v else (lo32 v).setWidth 64
  if k < 16 then
    if wide then (x.entry (k + 1)).at t ++ (x.entry k).at t else ((x.entry k).at t).setWidth 64
  else if k < 20 then narrow (x.latches[Fin.ofNat 4 (k - 16)].val[Fin.ofNat 256 t])
  else if k < 28 then narrow (x.slot (k - 20))
  else if k == 28 then 0
  else if k == 29 then narrow c.one
  else if k == 30 then narrow c.neg
  else BitVec.ofNat 64 (t % 256)

/-- One source of an instruction: its field and width. -/
structure Src where
  f : SrcField
  wide : Bool := false
  deriving DecidableEq, Repr

/-- Entries a source reads (R141). -/
def Src.ents (a : Src) : BitVec 16 :=
  if isEntry a.f then (if a.wide then (3#16 <<< selNat a.f) else (1#16 <<< selNat a.f)) else 0

/-- Entries a source frees (R143): the pair for a 64-bit source. -/
def Src.frees (a : Src) : BitVec 16 := if lastUse a.f then a.ents else 0

/-- The latch a source reads. -/
def Src.latch (a : Src) : Option Nat := if 16 ≤ selNat a.f && selNat a.f < 20 then some (selNat a.f - 16) else none

def srcEnts (l : List Src) : BitVec 16 := l.foldl (fun m a => m ||| a.ents) 0
def srcFrees (l : List Src) : BitVec 16 := l.foldl (fun m a => m ||| a.frees) 0
def srcLatches (l : List Src) : List Nat := l.filterMap Src.latch

/-- Every latch a source reads is valid (R145). -/
def Ctx.latchesOk (x : Ctx) (l : List Src) : Bool := (srcLatches l).all fun k => x.latches[Fin.ofNat 4 k].valid

/-- Entries `d` to `d + n - 1`. -/
def entRange (d n : Nat) : BitVec 16 := (List.range n).foldl (fun m i => m ||| (1#16 <<< (d + i))) 0

/-- Every entry of the set is mapped (R142). -/
def Ctx.mappedAll (x : Ctx) (m : BitVec 16) : Bool := (List.range 16).all fun e => !m.getLsbD e || (x.entry e).map.isSome

/-- The pipes whose results land in a latch (R144): V in lt0 after lt0 moves to lt3, X in lt1, T in lt2. -/
inductive Pipe where
  | v | x | t
  deriving DecidableEq, Repr

def Pipe.latch : Pipe → Nat
  | .v => 0
  | .x => 1
  | .t => 2

/-- Writes a result to its latch, with 0 for inactive threads; every latch it does not write becomes invalid (R144, R145). -/
def Ctx.writeLatch (x : Ctx) (p : Pipe) (f : Nat → DWord) : Ctx :=
  let val : DLanes := Vector.ofFn fun t : Fin 256 => if x.active.getLsbD t then f t else 0
  let old := x.latches.map fun l => { l with valid := false }
  let old := if p == .v then old.set 3 ⟨true, x.latches[0].val⟩ else old
  { x with latches := old.set (Fin.ofNat 4 p.latch) ⟨true, val⟩ }

/-- A thread instruction with an entry destination. -/
structure VecOp where
  srcs : List Src
  d : Nat
  w : Bool
  wide : Bool
  pipe : Pipe
  deriving DecidableEq, Repr

/-- Entries that hold a value of `n` bytes from entry `e`. -/
def valueEnts (e n : Nat) : BitVec 16 := entRange e (max 1 (n / 4))

/-- The entries that the data source of a store of `n` bytes reads (R232). -/
def dataEnts (b : SrcField) (n : Nat) : BitVec 16 := if isEntry b then valueEnts (selNat b) n else 0

/-- Bytes of an order word's or a scratchpad access's size. -/
def sizeBytes (size : BitVec 2) : Nat := match size.toNat with | 0 => 4 | 1 => 8 | 2 => 16 | _ => 1

/-- The form of a V2 instruction that mod makes 64 bits wide. -/
def wideMod (x : V2) : Bool := x.mod == 1

/-- The address source of a MEM instruction, and the sources of one that stores `n` bytes (R155). -/
def memSrc (x : Mem) : Src := ⟨x.a, x.m == 1⟩
def memData (a : Src) (x : Mem) (n : Nat) : List Src × BitVec 16 := ([a, ⟨x.b, n == 8⟩], dataEnts x.b n)
/-- The sources of a 16-bit form. -/
def shortSrcs (x : H16) : List Src := [⟨BitVec.ofNat 6 x.d.toNat, false⟩, ⟨BitVec.ofNat 6 (x.s.toNat + 32 * x.u.toNat), false⟩]

/-- The sources of an instruction that may read a latch, with the further entries it reads. -/
def sourcesOf : Instr → List Src × BitVec 16
  | .iadd x | .isub x | .imul x | .imulhi x | .imin x | .imax x | .and x | .or x | .xor x | .andn x | .bfx x | .icmp x
  | .fadd x | .fsub x | .fmul x | .fmin x | .fmax x | .fcmp x | .hadd2 x | .hmul2 x | .hmin2 x | .hmax2 x | .hcmp2 x | .badd2 x
  | .bmul2 x | .pack x | .xlane x | .stx x => ([⟨x.a, false⟩, ⟨x.b, false⟩], 0)
  | .shl x | .shr x | .sar x | .rot x => ([⟨x.a, wideMod x⟩, ⟨x.b, false⟩], 0)
  | .mov x => ([⟨x.a, false⟩, ⟨x.b, wideMod x⟩], 0)
  | .lea x => ([⟨x.a, true⟩, ⟨x.b, false⟩], 0)
  | .iadd64 x | .dadd x | .dmul x | .dmin x | .dmax x | .dcmp x => ([⟨x.a, true⟩, ⟨x.b, true⟩], 0)
  | .iabs x | .popc x | .clz x | .brev x | .fint x | .frcp x | .frsq x | .fsqrt x | .fexp2 x | .flog2 x | .fsin x | .fcos x
  | .unpack x | .scan x | .lred x | .movx x => ([⟨x.a, false⟩], 0)
  | .fclass x => ([⟨x.a, wideMod x⟩], 0)
  | .cvt x => ([⟨x.a, cvtWide x.mod.toNat⟩], 0)
  | .drcp x | .dsqrt x => ([⟨x.a, true⟩], 0)
  | .pmov x => (if x.mod == 0 then [] else [⟨x.a, false⟩], 0)
  | .fma32 x | .fmah2 x | .fmab2 x | .muladd x | .muladdh x | .bitins x | .shrcat x | .dp4s8 x | .dp4u8 x | .dp8s4 x | .dp4e4 x
  | .dp4e5 x | .dp8f4 x | .dp2h x => ([⟨x.a, false⟩, ⟨x.b, false⟩, ⟨x.c, false⟩], 0)
  | .fma64 x => ([⟨x.a, true⟩, ⟨x.b, true⟩, ⟨x.c, true⟩], 0)
  | .choose x => ([⟨x.a, false⟩, ⟨x.b, false⟩], 0)
  | .mov16 x | .iadd16 x | .isub16 x | .imul16 x | .and16 x | .or16 x | .xor16 x | .shl16 x | .shr16 x | .sar16 x | .fadd16 x
  | .fsub16 x | .fmul16 x | .fmin16 x | .fmax16 x | .imin16 x => (shortSrcs x, 0)
  | .iaddi x | .andi x | .ori x | .xori x | .shli x | .shri x | .sari x | .imuli x | .icmpi x | .faddw x _ | .fmulw x _ | .iaddw x _ =>
    ([⟨x.a, false⟩], 0)
  | .leai x => ([⟨x.a, true⟩], 0)
  | .ld8 x | .ld8s x | .ld16 x | .ld16s x | .ld32 x | .ld64 x | .ld128 x | .ldpk x | .pref x | .lda x _ => ([memSrc x], 0)
  | .lds x | .ldp x => ([⟨x.a, false⟩], 0)
  | .st8 x => memData (memSrc x) x 1
  | .st16 x => memData (memSrc x) x 2
  | .st32 x => memData (memSrc x) x 4
  | .st64 x => memData (memSrc x) x 8
  | .st128 x => memData (memSrc x) x 16
  | .stl x o | .atom x o | .red x o | .callm x o | .postm x o => memData (memSrc x) x (sizeBytes o.size)
  | .sts x | .stp x | .atoms x _ => memData ⟨x.a, false⟩ x x.scratchBytes
  | .rdlane x => ([⟨x.a, x.mod.getLsbD 0⟩], 0)
  | _ => ([], 0)

/-- Uniform registers and compare entries that it reads beside them. -/
def readsBeside : Instr → BitVec 16 × BitVec 64
  | .atom x o | .red x o =>
    let n := sizeBytes o.size
    (if o.aop == 10 then valueEnts (selNat x.a + (if n == 8 || x.m == 1 then 2 else 1)) n else 0, 0)
  | .atoms x o => (if o.aop == 10 then valueEnts (selNat x.a + (if x.scratchBytes == 8 then 2 else 1)) x.scratchBytes else 0, 0)
  | .rdlane x => (0, 1#64 <<< x.b.toNat)
  | _ => (0, 0)

def VecOp.dest (v : VecOp) : BitVec 16 := if v.w then entRange v.d (if v.wide then 2 else 1) else 0

def VecOp.uses (v : VecOp) : Uses :=
  { ents := srcEnts v.srcs ||| v.dest, latches := srcLatches v.srcs, vec := true }

/-- The instruction writes the latch: a V-pipe result moves lt0 into lt3 (R144, R145). -/
def Pipe.writes (p : Pipe) (k : Nat) : Bool := k == p.latch || (p == .v && k == 3)

/-- The entries and uniform registers that the group's next instruction reads, where it reads a latch that this one writes (R145). -/
def State.readAhead (s : State) (g : Group) (i : Instr) (p : Pipe) : BitVec 16 × BitVec 64 :=
  match s.fetch { g with ctx := { g.ctx with pc := g.after i } } with
  | .instr j =>
    if wf j && (srcLatches (sourcesOf j).1).any p.writes then
      (srcEnts (sourcesOf j).1 ||| (sourcesOf j).2 ||| (readsBeside j).1, (readsBeside j).2)
    else (0, 0)
  | _ => (0, 0)

/-- What a thread instruction waits for: the slots that guard what it uses, and those that the reader of its latch reads (R145). -/
def VecOp.usesAt (v : VecOp) (i : Instr) (s : State) : Uses :=
  match s.issuing with
  | some g => { v.uses with ents := v.uses.ents ||| (s.readAhead g i v.pipe).1, sregs := (s.readAhead g i v.pipe).2 }
  | none => v.uses

/-- The rebuild run with one more instruction (R462): what cannot stand in a run before it is dropped. -/
def pushRun (run : List RunItem) (it : RunItem) : List RunItem :=
  match run with
  | [] => [it]
  | p :: rest =>
    if it.reads.contains p.latch || (p.latch == 0 && it.latch == 0) then
      match rest with
      | [] => [it, p]
      | q :: _ =>
        if p.reads.contains q.latch || it.reads.contains 3 then it :: p :: rest else [it, p]
    else [it]

/-- The values of the entries a set names, kept for a rebuild run. -/
def Ctx.keep (x : Ctx) (m : BitVec 16) : List (Nat × Lanes) :=
  (List.range 16).filterMap fun e => if m.getLsbD e then some (e, (x.entry e).val) else none

/-- The end of a thread instruction with an entry destination (R143, R144, R170): entry, latch, freeing and flags. Its own
freeing waits until the reader of its latch completes, except for an entry it writes. -/
def Ctx.vecEnd (x : Ctx) (v : VecOp) (f : Nat → LaneRes) : Ctx :=
  let fl := x.lanes.foldl (fun acc t => acc ||| (f t).fl) (0 : FFlags)
  let own := srcFrees v.srcs
  let it : RunItem := ⟨x.pc, v.pipe.latch, srcLatches v.srcs, v.w, x.keep (own &&& ~~~v.dest)⟩
  let y := (x.free x.pendFree).free (own &&& v.dest)
  let y := if v.w then y.writePair v.wide v.d x.active fun t => (f t).val else y
  { (y.writeLatch v.pipe fun t => (f t).val).orFlags fl with
    pendFree := own &&& ~~~v.dest
    run := pushRun x.run it }

/-- A context in which the entries freed by a run's instruction hold what they held (R462). -/
def Ctx.restored (x : Ctx) (freed : List (Nat × Lanes)) : Ctx :=
  freed.foldl (fun y p => let en := y.entry p.1; if en.st == .free then y.setEntry p.1 { en with st := .clean, val := p.2 } else y) x

/-- Re-execution in a rebuild run (R462): with W = 0 the latch alone is computed again, with W = 1 it is loaded from the
destination entry. -/
def Ctx.vecRebuild (x : Ctx) (v : VecOp) (endPc next : DWord) (freed : List (Nat × Lanes)) (f : Ctx → Nat → LaneRes) : Ctx :=
  let y := if v.w then
      x.writeLatch v.pipe fun t =>
        if v.wide then (x.entry (v.d + 1)).at t ++ (x.entry v.d).at t else ((x.entry v.d).at t).setWidth 64
    else x.writeLatch v.pipe fun t => (f (x.restored freed) t).val
  { y with
    pendFree := if next == endPc then srcFrees v.srcs &&& ~~~v.dest else 0
    run := pushRun x.run ⟨x.pc, v.pipe.latch, srcLatches v.srcs, v.w, freed⟩ }

/-- A thread instruction with an entry destination (R170, R212): `f` is its function of the context and the thread. -/
def vecBody (i : Instr) (v : VecOp) (f : Ctx → Nat → LaneRes) (s : State) (gi : Nat) (g : Group) : Eff :=
  let x := g.ctx
  if !x.latchesOk v.srcs then .trap (trapOf i g .illegalOperand)
  else if !x.mappedAll v.dest then .trap (trapOf i g .illegalOperand)
  else
    match g.rebuild with
    | some (endPc, run) =>
      let freed := match run.find? fun it => it.pc == x.pc with | some it => it.freed | none => []
      .done (s.setCtx gi (x.vecRebuild v endPc (x.pc + BitVec.ofNat 64 (instrBytes i)) freed f))
    | none => .done (s.setCtx gi (x.vecEnd v (f x)))

/-- Runs a thread instruction with an entry destination. -/
def runVec (i : Instr) (v : VecOp) (f : Ctx → Nat → LaneRes) (s : State) : Host.Outcome State Fault Refusal :=
  runInstr i (v.usesAt i s) s (vecBody i v f)

/-- A predicate field's value in a thread (R172). -/
def Ctx.pred (x : Ctx) (p : PredField) (t : Nat) : Bool := (x.preds[p.p].getLsbD t) != p.inv

/-- The predicate field in the low bits of a source field (R172). -/
def predOf (f : SrcField) : PredField := ⟨Fin.ofNat 8 (f.toNat % 8), f.getLsbD 3⟩

/-- Writes predicate D[2:0] of the active threads under the combine pair {D[3], W} (R171). -/
def Ctx.writePred (x : Ctx) (d : BitVec 4) (w : Bool) (f : Nat → Bool) : Ctx :=
  let p : Fin 8 := Fin.ofNat 8 d.toNat
  let c := maskFn f
  let old := x.preds[p]
  let new := match d.getLsbD 3, w with
    | false, false => c
    | false, true => old &&& c
    | _, _ => old ||| c
  { x with preds := x.preds.set p ((old &&& ~~~x.active) ||| (new &&& x.active)) }

/-- The freeing of an instruction without a latch result, and of the one before it (R143). -/
def Ctx.consume (x : Ctx) (srcs : List Src) : Ctx := (x.applyFrees).free (srcFrees srcs)

/-- A thread instruction with predicate destinations (R171): `f` gives the new context. -/
def runPred (i : Instr) (srcs : List Src) (f : Ctx → Ctx) (s : State) : Host.Outcome State Fault Refusal :=
  runInstr i { ents := srcEnts srcs, latches := srcLatches srcs } s fun s gi g =>
    if !g.ctx.latchesOk srcs then .trap (trapOf i g .illegalOperand)
    else .done (s.setCtx gi ((f g.ctx).consume srcs))

/-- Flags of the active threads ORed together (R135). -/
def Ctx.laneFlags (x : Ctx) (f : Nat → FFlags) : FFlags := x.lanes.foldl (fun acc t => acc ||| f t) 0

end Sys2Proof.Machine
end

