-- ==== Sys2Proof/Machine/Registers.lean ====
section
/-! DEFINITION. The registers at physical addresses 0xF_0000_0000_0000 upward (R269, R435, R437, R439, R493), their reads and
what writing each does (R7). -/

namespace Sys2Proof.Machine

def Sys.thermstat (y : Sys) : Nat :=
  y.cnpmax % 256 * 2 ^ 40 + y.coremax % 256 * 2 ^ 32 + y.clock % 256 * 2 ^ 24 + y.pwrnow % 4096 * 2 ^ 12 + y.crit.toNat * 4 +
    y.throt.toNat * 2 + y.throtnow.toNat
def Sys.pwrctl (y : Sys) : Nat := y.limit % 4096 * 16 + y.profile % 4 * 4

/-- PKGSTRAP and PKGFUSE with their reserved fields 0 (R435). -/
def Sys.pkgstrap (y : Sys) : Nat := y.strap.toNat % 2 ^ 9
def Sys.pkgfuse (y : Sys) : Nat := (y.fuse &&& 0xFFFFFF01FE000000#64).toNat

def fieldAt (v hi lo : Nat) : Nat := v / 2 ^ lo % 2 ^ (hi - lo + 1)

/-- The power limit and the clock ceiling of a profile, in W and 100 MHz (R436). -/
def profileLimit : Nat → Nat
  | 0 => 1400 | 1 => 1000 | 2 => 600 | _ => 450
def profileClock : Nat → Nat
  | 0 => 36 | 1 => 33 | 2 => 29 | _ => 24

/-- The limit in force (R437). -/
def Sys.wattLimit (y : Sys) : Nat := if y.limit == 0 then profileLimit y.profile else y.limit

/-- Writing THERMSTAT clears the sticky bits that are 1 (R439). -/
def thermstatSet (s : State) (v : Nat) : State :=
  { s with sys := { s.sys with crit := s.sys.crit && !v.testBit 2, throt := s.sys.throt && !v.testBit 1 } }

/-- Writing PWRCTL; a LIMIT out of range leaves it unchanged (R437). -/
def pwrctlSet (s : State) (v : Nat) : State :=
  let l := fieldAt v 15 4
  if l == 0 || (450 ≤ l && l ≤ 1400) then { s with sys := { s.sys with limit := l, profile := fieldAt v 3 2 } } else s

/-- Writing PFCTL of a core (R269). -/
def pfctlSet (s : State) (core v : Nat) : State :=
  if v.testBit 0 then s.modCore core fun c => { c with pfIssued := 0, pfUsed := 0, pfLate := 0, pfUnused := 0 } else s

/-- The 64-bit register at a register address (a multiple of 8). An address that names none reads 0 (log 16). -/
def State.regRead (s : State) (pa : Nat) : Nat :=
  let o := pa - 0xF000000000000
  let page := o / 0x1000000
  let unit := o / 0x1000 % 0x1000
  let r := o % 0x1000
  if page == 0 && unit == 0 then
    (match r with
     | 0x200 => s.sys.pkgstrap
     | 0x208 => s.sys.pkgfuse
     | 0x210 => s.sys.thermstat
     | 0x218 => s.sys.pwrctl
     | _ => 0)
  else if page == 1 && unit < 64 then
    let c := s.core unit
    (match r with
     | 0 => c.pfIssued.toNat | 8 => c.pfUsed.toNat | 16 => c.pfLate.toNat | 24 => c.pfUnused.toNat | _ => 0)
  else if page == 2 && unit < 64 then
    let c := s.core unit
    (match r with
     | 0 => c.ceCore.toNat | 8 => c.ceAcc.toNat | 16 => c.ceWb.toNat | 24 => c.peOpb.toNat | 32 => c.ueCore.toNat | _ => 0)
  else if page == 3 && unit < 64 then
    let c := s.columns[Fin.ofNat 64 unit]
    (match r with | 0 => c.ce.toNat | 8 => c.ue.toNat | _ => 0)
  else if page == 4 && unit < 24 then
    (match r with
     | 0 => (s.sys.ceG7[Fin.ofNat 24 unit]).toNat | 8 => (s.sys.ueG7[Fin.ofNat 24 unit]).toNat | _ => 0)
  else 0

/-- A write of the bits in `m` to the 64-bit register at a register address: read-only and reserved fields ignore it (R7). -/
def State.regWrite (s : State) (pa v m : Nat) : State :=
  let o := pa - 0xF000000000000
  if o == 0x210 then thermstatSet s (v &&& m)
  else if o == 0x218 then pwrctlSet s (((s.sys.pwrctl) &&& (2 ^ 64 - 1 - m)) ||| (v &&& m))
  else if o / 0x1000000 == 1 && o / 0x1000 % 0x1000 < 64 && o % 0x1000 == 0x20 then pfctlSet s (o / 0x1000 % 0x1000) (v &&& m)
  else s

/-- The `n` bytes of registers from an address, within one register each 8 bytes. -/
def State.regBytes (s : State) (pa n : Nat) : List (BitVec 8) :=
  (List.range n).map fun i => BitVec.ofNat 8 (s.regRead ((pa + i) / 8 * 8) / 2 ^ (8 * ((pa + i) % 8)))

/-- A store to registers: each 8-byte register it touches is written once. -/
def State.regStore (s : State) (pa : Nat) (bs : List (BitVec 8)) : State :=
  let v := leNat bs
  let n := bs.length
  if n ≤ 8 then s.regWrite (pa / 8 * 8) (v * 2 ^ (8 * (pa % 8))) ((2 ^ (8 * n) - 1) * 2 ^ (8 * (pa % 8)))
  else (s.regWrite pa (v % 2 ^ 64) (2 ^ 64 - 1)).regWrite (pa + 8) (v / 2 ^ 64) (2 ^ 64 - 1)

end Sys2Proof.Machine
end

