-- ==== Sys2Proof/Machine/Access.lean ====
section
/-! DEFINITION. A group's accesses to memory, each step said once: the checks of every lane (R231, R263, R453), what an access
waits for (R272, R306), loading and storing a lane (R266, R405, R417, R510), atomics on their way to a unit (R282), and the store
hash (R318). -/

namespace Sys2Proof.Machine

/-! ## Checks -/

/-- A lane whose access has passed its checks. -/
structure LaneAcc where
  lane : Nat
  va : DWord
  pa : Nat
  cacheable : Bool
  deriving DecidableEq, Repr

/-- What the checks of an access give. -/
inductive Checked where
  | ok (l : List LaneAcc)
  | trap (c : Cause) (a : DWord) (m : LaneMask)
  /-- A page of a host-shared job awaits its PRI response (R409). -/
  | pri (va : DWord)
  /-- Lanes touch only a page that parks (R240, R377). -/
  | park (va : DWord)
  deriving DecidableEq, Repr

/-- The lanes that passed, when every lane did. -/
def passed : List (Nat × DWord × Xlat) → List LaneAcc
  | [] => []
  | (t, va, .ok pa c) :: l => ⟨t, va, pa, c⟩ :: passed l
  | _ :: l => passed l

/-- Checks an access of `n` bytes in each lane: alignment, then translation and permission. -/
def State.checkLanes (s : State) (g : Group) (a : Access) (park : Bool) (n : Nat) (lanes : List (Nat × DWord)) : Checked :=
  let r := lanes.map fun p => (p.1, p.2, if p.2.toNat % n != 0 then Xlat.fault .align else
    match s.xlate g.core g.job p.2 a park with
    | .miss => if g.absent == some (pageOf p.2) then .fault .xlate else .miss
    | x => x)
  match firstLaneCause (r.filterMap fun p => match p.2.2 with | .fault c => some (p.1, c, p.2.1) | _ => none) with
  | some (c, va, m) => .trap c va m
  | none =>
    match r.find? fun p => p.2.2 == .pri with
    | some p => .pri p.2.1
    | none =>
      match r.find? fun p => p.2.2 == .miss with
      | some p => .park p.2.1
      | none => .ok (passed r)

/-- The group's own atomics and method requests that have not been performed at the line (R272, R309); accesses to registers are
performed in program order with one another (R260). -/
def State.ownPending (s : State) (gi pa : Nat) : Bool :=
  s.atomics.any (fun a => a.grp == some gi &&
      (a.pa / 128 == pa / 128 || (target s.gddrTop a.pa == .reg && target s.gddrTop pa == .reg))) ||
    s.methods.any (fun r => r.isOf gi && r.pa ≤ pa && pa < r.pa + 4096) ||
    s.objects.any (fun o => o.covers pa && o.pending.any fun r => r.isOf gi)

/-- An access waits at its source edge: for a combiner run, a request held back, a peer port or a remap of its slice (R38, R301, R306,
R506). A combiner's are not new requests, since its run must end before the slice moves (log 53). -/
def State.atEdge (s : State) (gi : Nat) (g : Group) (pa : Nat) : Bool :=
  s.lockedFor gi pa || s.peerWaits g.job pa || s.edgeHeld g.core pa || (g.kind != .combiner && s.isStalled pa)

/-- An access waits: for an acquire of the group, its own earlier requests to the bytes, or at its source edge. -/
def State.holdsBack (s : State) (gi : Nat) (g : Group) (l : List LaneAcc) : Bool :=
  g.acquiring || l.any fun a => s.ownPending gi a.pa || s.atEdge gi g a.pa

/-! ## Loading a lane -/

/-- The bytes a lane's load reads: registers, zeros where R510 denies it, its core's L1 when it goes that way, else memory at the
point of coherence; the group's held stores over them. -/
def State.loadBytes (s : State) (gi : Nat) (g : Group) (past : Bool) (a : LaneAcc) (n : Nat) : List (BitVec 8) :=
  if deniedPa a.pa then List.replicate n 0
  else if (s.peerOf a.pa).isSome then s.peerBytes a.pa n
  else if target s.gddrTop a.pa == .reg then s.regBytes a.pa n
  else g.heldOver a.pa (s.readBytes g.core g.job (a.cacheable && !past && !s.ownObject gi a.pa) a.pa n)

/-- The virtual address of a lane's line. -/
def lineVa (va : DWord) : DWord := va &&& ~~~127

/-- A load's deferred cause in a lane, if any: a refusing peer, or a poisoned line (R417, R491). -/
def State.loadCause (s : State) (job : Nat) (a : LaneAcc) (n : Nat) : Option (Nat × Cause × DWord) :=
  if s.peerRefused job a.pa then some (a.lane, .perm, a.va)
  else if s.poisoned a.pa n && !deniedPa a.pa then some (a.lane, .eccUncorrected, lineVa a.va)
  else none

/-- The state after the lanes of a load have entered L1 and the TLBs (R264, R266), each that L1 does not answer after messages with its home
(R290); a combiner's own object passes L1 (R306). -/
def State.touch (s : State) (gi : Nat) (g : Group) (past : Bool) (l : List LaneAcc) : State :=
  l.foldl (fun s a =>
    let s := s.tlbFill g.core g.job a.va
    let inL1 := a.cacheable && !past && !s.ownObject gi a.pa && ((s.core g.core).lineFind (a.pa / 128)).isSome
    let s := if inL1 || deniedPa a.pa then s else s.exchange (.core g.core) a.pa
    if (s.peerOf a.pa).isSome then s.sendAt a.pa 0
    else if past || target s.gddrTop a.pa == .reg || deniedPa a.pa || s.ownObject gi a.pa then s else s.demand g.core g.job a.cacheable (a.pa / 128)) s

/-- An order word or 0: what stands at +236 of a frame (R456). -/
def orderWord : Instr → Word
  | .lda x o => (encode (.lda x o)).getD 1 0
  | .stl x o => (encode (.stl x o)).getD 1 0
  | .atom x o => (encode (.atom x o)).getD 1 0
  | .red x o => (encode (.red x o)).getD 1 0
  | .callm x o => (encode (.callm x o)).getD 1 0
  | .postm x o => (encode (.postm x o)).getD 1 0
  | .atoms x o => (encode (.atoms x o)).getD 1 0
  | .slda x o => (encode (.slda x o)).getD 1 0
  | .sstl x o => (encode (.sstl x o)).getD 1 0
  | .satom x o => (encode (.satom x o)).getD 1 0
  | _ => 0

/-- A request as it issues, with nothing returned. -/
def pendOf (i : Instr) (g : Group) (dest : Dest) (lanes : LaneMask) (write : Bool) : Pend :=
  { pc := g.ctx.pc, i := i, iword := (encode i).getD 0 0, oword := orderWord i, dest := dest, lanes := lanes, vals := [], causes := [],
    addrs := [], data := [], write := write, acq := none }

/-- A trap of an access with its order word. -/
def accessInfo (i : Instr) (g : Group) (c : Cause) (va : DWord) (m : LaneMask) (write : Bool) : TrapInfo :=
  { trapAt i g c va m write with oword := orderWord i }
def accessTrap (i : Instr) (g : Group) (c : Cause) (va : DWord) (m : LaneMask) (write : Bool) : Eff :=
  .trap (accessInfo i g c va m write)

/-- Where a request with a result goes: a scoreboard slot, or `block` for an instruction that blocks its group (R149, R215). -/
inductive Port0 where
  | slot (k : Nat)
  | block (sp : Option Word)
  deriving DecidableEq, Repr

/-- The slot for a split-phase request, or the block of a blocking one; none where every slot is held. -/
def Group.portFor (g : Group) (blocking : Bool) (i : Instr) : Option Port0 :=
  if blocking then some (.block (spOf i)) else g.freeSlot.map .slot

def Port0.number : Port0 → Nat
  | .slot k => k
  | .block _ => 32

/-- The group with a request placed. -/
def Group.place (g : Group) (at_ : Port0) (p : Pend) : Group :=
  match at_ with
  | .slot k => g.setSlot k (some p)
  | .block sp => { g with block := some p, status := .blocked sp }

/-- A wait for a PRI response: the group keeps its slot and stands at the instruction (R409). -/
def Eff.await (s : State) : Eff := .wait s

/-- Parks a group on a page (R377): in an ordered section it waits holding its slot; otherwise it gives its slot up with its
dirty entries written back (R148). -/
def parkGroup (s : State) (gi : Nat) (g : Group) (va : DWord) : State :=
  let s := if s.pages.contains (g.job, pageOf va) then s else { s with pages := s.pages ++ [(g.job, pageOf va)] }
  if g.inSection || g.kind == .combiner then s.setGroup gi { g with status := .parked va }
  else s.setGroup gi { g with ctx := g.ctx.surrender, status := .parked va, hasSlot := false }

/-- A load: its lanes, size, how its bytes become words and where they go. `past` reads past L1 (R234, R278). -/
def loadBody (i : Instr) (lanes : List (Nat × DWord)) (uniform : Bool) (n : Nat) (words : List (BitVec 8) → List Word) (dest : Dest)
    (park past : Bool) (acq : Option (BitVec 5)) (s : State) (gi : Nat) (g : Group) : Eff :=
  match s.checkLanes g .read park n lanes with
  | .trap c va m => accessTrap i g c va (if uniform then 0 else m) false
  | .pri _ => .await s
  | .park va => .ended (parkGroup s gi g va)
  | .ok l =>
    if s.holdsBack gi g l then .wait s
    else
      match g.portFor uniform i with
      | none => .wait s
      | some at_ =>
        let t := s.touch gi g past l
        let causes := l.filterMap fun a => t.loadCause g.job a n
        let ok := l.filter fun a => (t.loadCause g.job a n).isNone
        let p := pendOf i g dest (maskOf (lanes.map fun x => x.1)) false
        let p := { p with
          vals := ok.map fun a => (a.lane, words (t.loadBytes gi g past a n))
          causes := causes
          addrs := l.map fun a => (a.lane, a.va) }
        let t := l.foldl (fun t a => if deniedPa a.pa then t.countDenied a.pa g.identity else t) t
        let t := if past then t.modCore g.core fun c => c.drop fun e => !e.priv && l.any fun a => a.pa / 128 == e.line else t
        let t := match acq with | some m => t.acquire g.core m | none => t
        .done (t.setGroup gi (g.place at_ p))

/-- The words of a load of `n` bytes: a byte or half zero- or sign-extended (R232). -/
def loadWords (n : Nat) (sgn : Bool) (bs : List (BitVec 8)) : List Word :=
  let v := leNat bs
  if n < 4 then [if sgn && v.testBit (8 * n - 1) then BitVec.ofNat 32 (v + 2 ^ 32 - 2 ^ (8 * n)) else BitVec.ofNat 32 v]
  else wordsOf n v

/-! ## Storing -/

/-- One step of the store hash (R318). -/
def hashStep (h addr data : DWord) : DWord := h.rotateLeft 7 ^^^ addr ^^^ data.rotateLeft 29

/-- The store hash after a lane's store: two steps for 128 bits. -/
def hashStore (h addr : DWord) (bs : List (BitVec 8)) : DWord :=
  if bs.length ≤ 8 then hashStep h addr (BitVec.ofNat 64 (leNat bs))
  else hashStep (hashStep h addr (BitVec.ofNat 64 (leNat (bs.take 8)))) (addr + 8) (BitVec.ofNat 64 (leNat (bs.drop 8)))

/-- The store hash after the lanes of a store, in ascending order. -/
def hashLanes (h : DWord) (l : List (DWord × List (BitVec 8))) : DWord := l.foldl (fun h p => hashStore h p.1 p.2) h

/-- The group with the hash of a store. -/
def Group.hashed (g : Group) (l : List (DWord × List (BitVec 8))) : Group :=
  { g with ctx := { g.ctx with storehash := hashLanes g.ctx.storehash l } }

/-- Inserts a lane by the key that decides a conflict. -/
def insertBy {α : Type} (key : α → Nat) (x : α) : List α → List α
  | [] => [x]
  | y :: l => if key x ≤ key y then x :: y :: l else y :: insertBy key x l

def sortBy {α : Type} (key : α → Nat) (l : List α) : List α := l.foldr (insertBy key) []

/-- No two lanes name one address. -/
def distinctBy {α β : Type} [BEq β] (f : α → β) : List α → Bool
  | [] => true
  | x :: l => !(l.any fun y => f y == f x) && distinctBy f l

/-- The order in which a store's lanes are performed: any, where two meet at an address (R271). -/
def storeOrder {α : Type} (seed : Nat) (lane addr : α → Nat) (l : List α) : List α :=
  if distinctBy addr l then l else sortBy (fun a => Config.laneOrder seed (lane a)) l

/-- One lane's global store (R266): to registers, nowhere where R510 denies it, else at its point of coherence. A combiner's store
inside its object passes L1 (R306). -/
def State.storeLane (s : State) (gi : Nat) (g : Group) (a : LaneAcc) (bs : List (BitVec 8)) : State :=
  if deniedPa a.pa then s.countDenied a.pa g.identity
  else
  let s := s.exchange (.core g.core) a.pa
  if target s.gddrTop a.pa == .reg then s.regStore a.pa bs
  else if (s.peerOf a.pa).isSome then (s.sendAt a.pa 1).poke a.pa bs
  else if s.ownObject gi a.pa then s.pokeFor g.job a.pa bs
  else (s.claim g.job a.pa bs.length).store g.core a.pa bs

/-- A request without a result that keeps only refused lanes: its deferred trap, taken at the next waiting point (R417, R454). -/
def Group.refused (g : Group) (i : Instr) (lanes : List (Nat × DWord)) (data : Nat → List (BitVec 8)) (bad : List LaneAcc) : Group :=
  let p : Pend := { pendOf i g .none (maskOf (lanes.map fun a => a.1)) true with
    vals := (lanes.filter fun a => !bad.any fun b => b.lane == a.1).map fun a => (a.1, [])
    causes := bad.map fun a => (a.lane, .perm, a.va)
    addrs := lanes
    data := lanes.map fun a => (a.1, BitVec.ofNat 128 (leNat (data a.1))) }
  match deferredTrap p with
  | some t => { g with deferred := g.deferred ++ [(t, some p)] }
  | none => g

/-- Performs the lanes of a global store, in the order of R271, but for those that a peer refuses. -/
def State.storeLanes (s : State) (gi : Nat) (g : Group) (data : Nat → List (BitVec 8)) (l : List LaneAcc) : State :=
  let ord := (storeOrder s.free (fun a => a.lane) (fun a => a.pa) l).filter fun a => !s.peerRefused g.job a.pa
  ord.foldl (fun s a => s.storeLane gi g a (data a.lane)) { s with free := s.free + 1 }

/-- Lanes of a trapping access that are performed before its trap, where they have no cause: any may be (R452, R461, log 23). -/
def State.someFirst {α : Type} (s : State) (lanes : List (Nat × α)) : List (Nat × α) × State :=
  let (r, s) := s.take
  (lanes.filter fun p => r.testBit p.1, s)

/-- The lanes of a write that pass its checks, each taken alone. -/
def State.passing (s : State) (g : Group) (n : Nat) (lanes : List (Nat × DWord)) : List LaneAcc :=
  lanes.flatMap fun p => match s.checkLanes g .write false n [p] with | .ok l => l | _ => []

/-! ## Atomics (R234, R282) -/

/-- The signed value of `n` bytes. -/
def asInt (n v : Nat) : Int := if v.testBit (8 * n - 1) then (v : Int) - 2 ^ (8 * n) else v

/-- The new value of an atomic operation on `n` bytes, or none where nothing is written (R234). -/
def atomNew (op n old op1 cmp : Nat) : Option Nat :=
  let m := 2 ^ (8 * n)
  match op with
  | 0 => some ((old + op1) % m)
  | 1 => some ((old + m - op1 % m) % m)
  | 2 => some (if asInt n op1 < asInt n old then op1 else old)
  | 3 => some (if asInt n old < asInt n op1 then op1 else old)
  | 4 => some (if op1 < old then op1 else old)
  | 5 => some (if old < op1 then op1 else old)
  | 6 => some (old &&& op1)
  | 7 => some (old ||| op1)
  | 8 => some (old ^^^ op1)
  | 9 => some op1
  | 10 => if old == cmp then some op1 else none
  | 11 => some (fadd .b32 .plain old op1).bits
  | 12 => some (fminmax .b32 true false old op1).bits
  | _ => some (fminmax .b32 false false old op1).bits

/-- The unit at which an atomic executes: none is the home (R282). Log 55: where a mask bit and the address name different units, the mask
decides. -/
def State.atomSite (s : State) (mask : BitVec 5) (pa : Nat) (cacheable : Bool) : Option Edge :=
  if mask.getLsbD 3 then some .brual
  else if mask.getLsbD 4 then some .host
  else
    match target s.gddrTop pa with
    | .host => some .host
    | .peer _ => some .brual
    | .direct _ => none
    | _ => if cacheable then none else some .gddr

/-- An operation that host memory without CXL.cache lacks (R285, R405). -/
def State.hostLacks (s : State) (op n pa : Nat) (cacheable : Bool) : Bool :=
  target s.gddrTop pa == .host && !(cacheable && s.sys.cxlCache) && !((op == 0 || op == 9 || op == 10) && (n == 4 || n == 8))

/-- Memory requests of a core that no unit has answered (R1). -/
def State.requestsOf (s : State) (core : Nat) : Nat :=
  let mine (r : MethodReq) : Bool := r.core == core && match r.src with | .lane _ _ _ => true | .peer _ => false
  (s.atomics.filter fun a => a.grp.isSome && a.core == core).length + (s.methods.filter mine).length +
    (s.objects.map fun o => (o.pending.filter mine).length).sum

/-- The core has no room for `n` more (R1): 1024 are outstanding at most. -/
def State.coreFull (s : State) (core n : Nat) : Bool := s.requestsOf core + n > 1024

/-- An atomic waits as an access does, but follows the group's own atomics of the same unit, whose queue keeps their order. -/
def State.holdsAtom (s : State) (gi : Nat) (g : Group) (mask : BitVec 5) (l : List LaneAcc) : Bool :=
  g.acquiring || s.coreFull g.core l.length || l.any fun a =>
    s.atEdge gi g a.pa ||
      s.atomics.any (fun r => r.grp == some gi && r.pa / 128 == a.pa / 128 && r.edge != s.atomSite mask a.pa a.cacheable) ||
      s.methods.any (fun r => r.isOf gi && r.pa ≤ a.pa && a.pa < r.pa + 4096) ||
      s.objects.any (fun x => x.covers a.pa && x.pending.any fun r => r.isOf gi)

/-- One lane's atomic: address, operand and compare value. -/
structure LaneAtom where
  acc : LaneAcc
  op1 : Nat
  cmp : Nat
  deriving DecidableEq, Repr

/-- The request of a lane. -/
def atomReq (s : State) (gi : Nat) (g : Group) (o : Order) (n k : Nat) (a : LaneAtom) : AtomReq :=
  { grp := some gi, slot := k, lane := a.acc.lane, job := g.job, core := g.core, rslot := g.part * 32 + g.rslot, logged := g.kind != .combiner,
    va := a.acc.va, pa := a.acc.pa, edge := s.atomSite o.mask a.acc.pa a.acc.cacheable, op := o.aop.toNat, bytes := n, op1 := a.op1,
    cmp := a.cmp, reassoc := o.reassoc, stamp := (s.core g.core).stamp }

/-- The request of lanes that are performed before their instruction's trap: the group stands at it until they have returned, and then
executes it again with them done (R457, R461). -/
def Group.sendFirst (g : Group) (i : Instr) (l : List LaneAcc) : Group :=
  { g with block := some { pendOf i g .none (maskOf (l.map fun a => a.lane)) true with
             vals := (g.ctx.lanes.filter fun t => g.doneLanes.getLsbD t).map fun t => (t, wordsOf 16 (g.savedReply t)) }
           status := .blocked none }

/-- An atomic to be sent: `lanes` gives lane, address, operand and compare value; `ret` holds for a form with a result. Lanes done
before a retry are not sent (R461). -/
def atomBody (i : Instr) (o : Order) (n : Nat) (lanes : List (Nat × DWord × Nat × Nat)) (uniform ret : Bool) (dest : Dest)
    (s : State) (gi : Nat) (g : Group) : Eff :=
  let todo := (g.undone lanes).map fun p => (p.1, p.2.1)
  let arg (t : Nat) : Nat × Nat := match lanes.find? fun p => p.1 == t with | some p => (p.2.2.1, p.2.2.2) | none => (0, 0)
  let reqs (k : Nat) (l : List LaneAcc) := l.map fun a => atomReq s gi g o n k ⟨a, (arg a.lane).1, (arg a.lane).2⟩
  let lacks (a : LaneAcc) : Bool := s.hostLacks o.aop.toNat n a.pa a.cacheable
  let trap (c : Cause) (va : DWord) (m : LaneMask) : Eff :=
    let (first, s') := s.someFirst todo
    let l := (s.passing g n first).filter fun a => !lacks a
    if l.isEmpty || s.holdsAtom gi g o.mask l then .trapFrom s' (accessInfo i g c va (if uniform then 0 else m) true)
    else .wait { s'.setGroup gi (g.sendFirst i l) with atomics := s.atomics ++ reqs 32 l }
  match s.checkLanes g .write false n todo with
  | .trap c va m => trap c va m
  | .pri _ => .await s
  | .park va => accessTrap i g .xlate va 0 true
  | .ok l =>
    match firstLaneCause ((l.filter lacks).map fun a => (a.lane, .perm, a.va)) with
    | some (c, va, m) => trap c va m
    | none =>
      if s.holdsAtom gi g o.mask l then .wait s
      else
        let p := pendOf i g dest (maskOf (lanes.map fun x => x.1)) true
        let p := { p with
          vals := (lanes.filter fun a => g.doneLanes.getLsbD a.1).map fun a => (a.1, wordsOf n (g.savedReply a.1))
          addrs := lanes.map fun a => (a.1, a.2.1)
          data := lanes.map fun a => (a.1, BitVec.ofNat 128 (if o.aop == 10 then (arg a.1).1 + 2 ^ 64 * (arg a.1).2 else (arg a.1).1))
          acq := if acquires o.ord && (ret || o.ord == 4) then some o.mask else none }
        let s := l.foldl (fun s a => s.tlbFill g.core g.job a.va) s
        if ret then
          match g.portFor uniform i with
          | none => .wait s
          | some at_ => .done { s.setGroup gi (g.place at_ p) with atomics := s.atomics ++ reqs at_.number l }
        else
          .done { s.setGroup gi { g with posts := if l.isEmpty then g.posts else g.posts ++ [(g.postSeq, p)], postSeq := g.postSeq + 1 } with
            atomics := s.atomics ++ reqs (33 + g.postSeq) l }

end Sys2Proof.Machine
end

