-- ==== Sys2Proof/Machine/Real.lean ====
section
/-! DEFINITION. Exact values and rounded quotients and roots outside the thread pipes: what the dicer (R362, R363), the sampler
(R366 to R368), list merges (R393), drains (R339), textures (R374) and ray units (R400) compute. No flag is recorded (R135). -/

namespace Sys2Proof.Machine

/-- An exact product as a value; 0 × ∞ is a NaN. -/
def Prod.num : Prod → Num
  | .nan => .nan false
  | .invalid => .nan false
  | .inf s => .inf s
  | .fin s m e => .fin s m e

def Num.mul (a b : Num) : Num := (mulExact a b).num
def Num.flip : Num → Num
  | .nan x => .nan x
  | .inf s => .inf (!s)
  | .fin s m e => .fin (!s) m e
/-- A finite dyadic as a value. -/
def Dy.num (x : Dy) : Num := .fin (x.i < 0) x.i.natAbs x.e
/-- The exact sum of two values; an exact zero sum is +0, unless both are −0. -/
def Num.add (a b : Num) : Num :=
  match a, b with
  | .nan x, _ => .nan x
  | _, .nan y => .nan y
  | .inf s, .inf t => if s == t then .inf s else .nan false
  | .inf s, _ => .inf s
  | _, .inf t => .inf t
  | .fin s m e, .fin t n g =>
    let d := (Dy.mk (signed s m) e).add ⟨signed t n, g⟩
    if d.i == 0 then .fin (s && t && m == 0 && n == 0) 0 0 else d.num
def Num.sub (a b : Num) : Num := a.add b.flip

/-- A value rounded by RNE to a standard format. -/
def rne (f : Fmt) (x : Num) : Nat := (toFmt f .plain x).bits

/-- The quotient of two positive numbers m × 2^e ÷ (n × 2^g), with enough bits for one rounding. -/
def ratioRes (f : Fmt) (neg : Bool) (m : Nat) (e : Int) (n : Nat) (g : Int) : Nat :=
  let k := f.p + 4 + Nat.log2 (n + 1)
  let q := m * 2 ^ k / n
  (packRound f .rne false neg q (e - g - k) (m * 2 ^ k % n != 0)).bits

/-- A ÷ B rounded by RNE. -/
def divNum (f : Fmt) (a b : Num) : Nat :=
  match a, b with
  | .nan _, _ => f.nan
  | _, .nan _ => f.nan
  | .inf _, .inf _ => f.nan
  | .inf s, .fin t _ _ => f.signBit (s != t) + f.inf
  | .fin s _ _, .inf t => f.signBit (s != t)
  | .fin s m e, .fin t n g =>
    if n == 0 then (if m == 0 then f.nan else f.signBit (s != t) + f.inf)
    else if m == 0 then f.signBit (s != t)
    else ratioRes f (s != t) m e n g

/-- The square root rounded by RNE. -/
def sqrtNum (f : Fmt) : Num → Nat
  | .nan _ => f.nan
  | .inf s => if s then f.nan else f.inf
  | .fin s m e =>
    if m == 0 then f.signBit s
    else if s then f.nan
    else
      let (q, x, sticky) := sqrtExact f m e
      (packRound f .rne false false q x sticky).bits

/-- Rounded sums, differences and products of encodings. -/
def addF (f : Fmt) (a b : Nat) : Nat := (fadd f .plain a b).bits
def subF (f : Fmt) (a b : Nat) : Nat := (fsub f .plain a b).bits
def mulF (f : Fmt) (a b : Nat) : Nat := (fmul f .plain a b).bits
def divF (f : Fmt) (a b : Nat) : Nat := divNum f (f.num a) (f.num b)

/-- The order of two values: a is below b. A NaN is below nothing and nothing is below it. -/
def Num.lt (a b : Num) : Bool := relNum a b == .lt
def Num.le (a b : Num) : Bool := relNum a b == .lt || relNum a b == .eq
def Num.isFinite (a : Num) : Bool := !a.isNan && !a.isInf

/-- The integer nearest to a finite value, ties to even; 0 for others. -/
def Num.nearest (a : Num) : Int :=
  match a with
  | .fin _ _ _ =>
    let d := a.dy
    let fl := d.floor
    let twice := (d.sub (Dy.ofInt fl)).add (d.sub (Dy.ofInt fl))
    if twice.lt (Dy.ofInt 1) then fl
    else if (Dy.ofInt 1).lt twice then fl + 1
    else if fl % 2 == 0 then fl else fl + 1
  | _ => 0
def Num.floor (a : Num) : Int := match a with | .fin _ _ _ => a.dy.floor | _ => 0
def Num.ceil (a : Num) : Int := -(a.flip.floor)

end Sys2Proof.Machine
end

