-- ==== Sys2Proof/Machine/Lists.lean ====
section
/-! DEFINITION. Tile memory (R353 to R356) and the fragment-list engine (R388 to R394). -/

namespace Sys2Proof.Machine

def State.modPass (s : State) (p : Nat) (f : Pass → Pass) : State := { s with passes := s.passes.modify p f }

def PassBlock.S (b : PassBlock) : Nat := 2 ^ b.logS
/-- Bytes of one tile's memory (R353). -/
def PassBlock.tileBytes (b : PassBlock) : Nat := 81920 * b.S + 4096 * (if b.immediate then 0 else b.tilePages)
def PassBlock.tilesX (b : PassBlock) : Nat := (b.width + 63) / 64
def PassBlock.tilesY (b : PassBlock) : Nat := (b.height + 63) / 64
def PassBlock.tileOf (b : PassBlock) (k : Nat × Nat × Nat) : Nat := k.2.1 / 64 * b.tilesX + k.1 / 64
/-- Index of a key's sample within its tile (R353). -/
def PassBlock.sampleIx (b : PassBlock) (k : Nat × Nat × Nat) : Nat := (k.2.1 % 64 * 64 + k.1 % 64) * b.S + k.2.2
def PassBlock.keyOk (b : PassBlock) (k : Nat × Nat × Nat) : Bool := k.1 < b.width && k.2.1 < b.height && k.2.2 < b.S

/-- The key an entry pair holds (R380). -/
def keyOf (lo hi : Word) : Nat × Nat × Nat := (lo.toNat % 65536, lo.toNat / 65536, hi.toNat % 16)

/-- Where a tile's memory lies: an offset of a core's array, or a virtual address of the job. -/
inductive Place where
  | core (c off : Nat)
  | mem (va : DWord)
  deriving DecidableEq, Repr

/-- Tile memory as it stands (R354 to R356): with its tile team, in the spill area, or in the IMMEDIATE planes. -/
def State.tilePlace (s : State) (p : Pass) (tile off : Nat) : Place :=
  if p.block.immediate then .mem (p.block.plane + BitVec.ofNat 64 (tile * 81920 * p.block.S + off))
  else
    match (p.tiles.find? fun t => t.tile == tile).bind fun t => t.team.bind fun k => s.teams[k]? with
    | some t => .core t.core (t.scrBase * 65536 + off)
    | none => .mem (p.block.spill + BitVec.ofNat 64 (tile * p.block.tileBytes + off))

def State.placeRead (s : State) (job n : Nat) : Place → Dev Nat
  | .core c off => .ok (leNat ((s.core c).arrayBytes c off n))
  | .mem va => s.devRead job va n
def State.placeWrite (s : State) (job n v : Nat) : Place → Dev State
  | .core c off => .ok (s.modCore c fun x => x.arraySet off (leBytes n v))
  | .mem va => s.devWrite job va (leBytes n v)

def State.tileRead (s : State) (p : Pass) (tile off n : Nat) : Dev Nat := s.placeRead p.job n (s.tilePlace p tile off)
def State.tileWrite (s : State) (p : Pass) (tile off n v : Nat) : Dev State := s.placeWrite p.job n v (s.tilePlace p tile off)

/-- Offsets of the planes (R353). -/
def colourOff (i : Nat) : Nat := 8 * i
def depthOff (b : PassBlock) (i : Nat) : Nat := 32768 * b.S + 4 * i
def headOff (b : PassBlock) (i : Nat) : Nat := 49152 * b.S + 8 * i

/-- Where node `i` of a tile's pool lies (R388). -/
def State.nodePlace (s : State) (p : Pass) (tile i off : Nat) : Place :=
  if p.block.immediate then .mem (p.block.pool + BitVec.ofNat 64 (32 * i + off)) else s.tilePlace p tile (81920 * p.block.S + 32 * i + off)

/-- Usable nodes of a pool (R388). -/
def PassBlock.nodes (b : PassBlock) : Nat :=
  if b.nodeLimit == 0 then 128 * (if b.immediate then b.poolPages else b.tilePages) else b.nodeLimit

/-- A node's contents (R389); `at` is its index, or none for a fragment without storage. -/
structure Node4 where
  at_ : Option Nat
  depth : Nat
  colour : Nat
  seq : Nat
  merges : Nat
  deriving DecidableEq, Repr

def noNode : Nat := 0xFFFFFF

/-- The nodes of a list from an index on, nearest first; `n` bounds their number. -/
def State.listFrom (s : State) (p : Pass) (tile : Nat) : Nat → Nat → Dev (List Node4)
  | 0, _ => .ok []
  | n + 1, i =>
    if i == noNode then .ok []
    else
      let rd (off k : Nat) : Dev Nat := s.placeRead p.job k (s.nodePlace p tile i off)
      (rd 0 4).bind fun d => (rd 4 8).bind fun c => (rd 12 4).bind fun q => (rd 16 4).bind fun nx =>
        (s.listFrom p tile n (nx % 2 ^ 24)).bind fun l => .ok (⟨some i, d, c, q, nx / 2 ^ 24⟩ :: l)

/-- Writes nodes linked in order. -/
def State.relink (s : State) (p : Pass) (tile : Nat) : List Node4 → Dev State
  | [] => .ok s
  | x :: l =>
    match x.at_ with
    | none => s.relink p tile l
    | some i =>
      let nx := match l with | y :: _ => y.at_.getD noNode | [] => noNode
      let v := x.depth + 2 ^ 32 * x.colour + 2 ^ 96 * x.seq + 2 ^ 128 * (nx + 2 ^ 24 * x.merges)
      (s.placeWrite p.job 32 v (s.nodePlace p tile i 0)).bind fun s => s.relink p tile l

/-- Depth order (R391): −0 equals +0, and NaN comes after every number and equals NaN. -/
def depthBefore (a b : Nat) : Bool := !(Fmt.b32.num a).isNan && ((Fmt.b32.num b).isNan || (Fmt.b32.num a).lt (Fmt.b32.num b))
def depthSame (a b : Nat) : Bool :=
  ((Fmt.b32.num a).isNan && (Fmt.b32.num b).isNan) || relNum (Fmt.b32.num a) (Fmt.b32.num b) == .eq

/-- An entry after which a fragment is placed (R391). -/
def notAfter (f e : Node4) : Bool := depthBefore e.depth f.depth || (depthSame e.depth f.depth && e.seq ≤ f.seq)

/-- The list with a fragment in its place: behind the last entry that does not come after it (R391). -/
def insertNode (f : Node4) : List Node4 → List Node4
  | [] => [f]
  | e :: l => if (e :: l).any (notAfter f) then e :: insertNode f l else f :: e :: l

/-- A blend factor (R392), from the near and far alphas. -/
def mergeFactor (code : Nat) (near far : Num) : Num :=
  let one : Num := .fin false 1 0
  match code with
  | 0 => .fin false 0 0
  | 1 => one
  | 2 => near
  | 3 => one.sub near
  | 4 => far
  | _ => one.sub far

/-- Channel `k` of a binary16 colour. -/
def chan (c k : Nat) : Nat := c / 2 ^ (16 * k) % 65536

/-- The merge of a and b (R393). -/
def mergeNodes (rule : Nat) (a b : Node4) : Node4 :=
  let rule := if rule == 0 then 0x03010301 else rule
  let byte (i : Nat) : Nat := rule / 2 ^ (8 * i) % 256
  let na := Fmt.b16.num (chan a.colour 3)
  let nb := Fmt.b16.num (chan b.colour 3)
  let channel (k : Nat) : Nat :=
    let fa := mergeFactor (byte (if k == 3 then 2 else 0)) na nb
    let fb := mergeFactor (byte (if k == 3 then 3 else 1)) na nb
    let p := fa.mul (Fmt.b16.num (chan a.colour k))
    let q := fb.mul (Fmt.b16.num (chan b.colour k))
    let r := if byte 4 == 0 then rne .b32 (p.add q) else (fminmax .b32 false false (rne .b32 p) (rne .b32 q)).bits
    rne .b16 (Fmt.b32.num r)
  let depth := match byte 5 with
    | 0 => a.depth
    | 1 => b.depth
    | _ =>
      let sum := rne .b32 (na.add nb)
      let top := rne .b32 ((na.mul (Fmt.b32.num a.depth)).add (nb.mul (Fmt.b32.num b.depth)))
      if (Fmt.b32.num sum).isZero || (Fmt.b32.num (divF .b32 top sum)).isNan then a.depth else divF .b32 top sum
  { at_ := a.at_, depth := depth, colour := channel 0 + 2 ^ 16 * channel 1 + 2 ^ 32 * channel 2 + 2 ^ 48 * channel 3, seq := a.seq,
    merges := min 255 (a.merges + b.merges + 1) }

/-- The list of a key, nearest first (R389). -/
def State.listOf (s : State) (p : Pass) (k : Nat × Nat × Nat) : Dev (List Node4) :=
  let tile := p.block.tileOf k
  (s.tileRead p tile (headOff p.block (p.block.sampleIx k)) 8).bind fun head =>
    (s.listFrom p tile 16 (head % 2 ^ 24)).bind fun l => .ok (l.take (head / 2 ^ 24 % 256))

/-! ## Free nodes (R390) -/

/-- The nodes that next indices reach from `i` on, with those of `seen`, and whether each could be read; `n` bounds their number. -/
def State.reachFrom (s : State) (p : Pass) (tile : Nat) : Nat → Nat → List Nat × Bool → List Nat × Bool
  | 0, _, seen => seen
  | n + 1, i, seen =>
    if i == noNode || seen.1.contains i then seen
    else
      match s.placeRead p.job 3 (s.nodePlace p tile i 16) with
      | .ok nx => s.reachFrom p tile n nx (i :: seen.1, seen.2)
      | _ => (i :: seen.1, false)

/-- The tiles whose heads share a tile's pool (R388). -/
def PassBlock.poolTiles (b : PassBlock) (tile : Nat) : List Nat := if b.immediate then List.range (b.tilesX * b.tilesY) else [tile]

/-- The nodes of a pool that its heads reach (R390). Log 55: behind a head or a node that cannot be read they are those that the engine
itself has linked. -/
def State.poolTaken (s : State) (p : Pass) (tile : Nat) : List Nat :=
  let b := p.block
  let r := (b.poolTiles tile).foldl (fun r k => (List.range (4096 * b.S)).foldl (fun r i =>
    match s.tileRead p k (headOff b i) 8 with
    | .ok head => s.reachFrom p k noNode (head % 2 ^ 24) r
    | _ => (r.1, false)) r) (([], true) : List Nat × Bool)
  if r.2 then r.1 else r.1 ++ (p.used.filter fun u => u.1 == (if b.immediate then 0 else tile)).map fun u => u.2

/-- The lowest free usable node of a pool (R390). -/
def State.allocate (s : State) (p : Pass) (tile : Nat) : Option Nat :=
  let l := s.poolTaken p tile
  (List.range p.block.nodes).find? fun i => !l.contains i

/-- A fragment in its new node, with merge count 0 (R391). -/
def State.writeNew (s : State) (p : Pass) (tile : Nat) (f : ListFrag) : Option Nat → Dev State
  | none => .ok s
  | some i =>
    (s.placeWrite p.job 16 (f.depth.toNat + 2 ^ 32 * f.colour.toNat + 2 ^ 96 * f.seq) (s.nodePlace p tile i 0)).bind fun s =>
      s.placeWrite p.job 13 0 (s.nodePlace p tile i 19)

/-! ## Insertion (R391) -/

/-- What an insertion did (R391). -/
structure Inserted where
  s : State
  ok : Bool
  /-- No node was free. -/
  empty : Bool
  /-- The fragment is in the list, or took part in a merge. -/
  taken : Bool
  /-- The heads and nodes it read or wrote. -/
  touched : List Place

/-- Inserts a fragment at its key (R391). -/
def insertFrag (s : State) (ps : Nat) (f : ListFrag) : Dev Inserted :=
  match s.passes[ps]? with
  | none => .ok ⟨s, false, false, false, []⟩
  | some p =>
    let b := p.block
    let tile := b.tileOf f.key
    let pool := if b.immediate then 0 else tile
    let ho := headOff b (b.sampleIx f.key)
    (s.tileRead p tile ho 8).bind fun head =>
      let n := head / 2 ^ 24 % 256
      (s.listFrom p tile 16 (head % 2 ^ 24)).bind fun old =>
        let got := s.allocate p tile
        let node : Node4 := ⟨got, f.depth.toNat, f.colour.toNat, f.seq, 0⟩
        let l := insertNode node (old.take n)
        let touched := s.tilePlace p tile ho :: (l.filterMap (·.at_)).map fun i => s.nodePlace p tile i 0
        let done (l : List Node4) (used : List (Nat × Nat)) (ok taken : Bool) : Dev Inserted :=
          (s.writeNew p tile f got).bind fun s => (s.relink p tile l).bind fun s =>
            (s.tileWrite p tile ho 8 ((match l with | x :: _ => x.at_.getD noNode | [] => noNode) + 2 ^ 24 * l.length)).bind fun s =>
              .ok ⟨s.modPass ps fun p => { p with used := used, poolEmpty := p.poolEmpty || got.isNone }, ok, got.isNone, taken, touched⟩
        let used := match got with | some i => (pool, i) :: p.used | none => p.used
        if got.isNone && n == 0 then .ok ⟨s.modPass ps fun p => { p with poolEmpty := true }, false, true, false, touched⟩
        else if got.isNone || n + 1 > b.budget then
          match l.reverse with
          | y :: x :: rest =>
            let m := mergeNodes b.merge x y
            let at_ := if x.at_.isSome then x.at_ else y.at_
            let spare := if x.at_.isSome then y.at_ else none
            let m := { m with at_ := at_ }
            let others := rest.reverse
            if got.isSome then
              done (others ++ [m]) (match spare with | some i => used.filter fun u => u != (pool, i) | none => used) true true
            else
              let own (z : Node4) : Bool := z.at_.isNone
              if own x || own y then
                done (others ++ [m]) (match spare with
                  | some i => if own y then used else used.filter fun u => u != (pool, i)
                  | none => used) false true
              else done ((others.map fun z => if own z then { z with at_ := spare, merges := 0 } else z) ++ [m]) used false true
          | _ => done l used got.isSome true
        else done l used true true

/-! ## The group's own accesses to heads and nodes (R270, R272, R394) -/

/-- The physical address of a place in memory, where it can be reached. -/
def State.placePa (s : State) (job : Nat) : Place → Option Nat
  | .core _ _ => none
  | .mem va => match s.devXlate job va .read with | .ok pa => some pa | _ => none

/-- An earlier request of the group to a head or node has not been performed (R272). -/
def State.placeBusy (s : State) (gi job : Nat) (q : Place) : Bool := match s.placePa job q with | some pa => s.ownPending gi pa | none => false

/-- The core's L1 keeps no copy of the heads and nodes that a group's request has reached, so that its later loads read no older bytes. -/
def State.forget (s : State) (core job : Nat) (l : List Place) : State :=
  let lines := (l.filterMap (s.placePa job)).map (· / 128)
  if lines.isEmpty then s else s.modCore core fun c => c.drop fun e => !e.priv && lines.contains e.line

/-- The head and the nodes of a key's list. -/
def State.listPlaces (s : State) (p : Pass) (k : Nat × Nat × Nat) : List Place :=
  let tile := p.block.tileOf k
  s.tilePlace p tile (headOff p.block (p.block.sampleIx k)) ::
    (match s.listOf p k with | .ok l => (l.filterMap (·.at_)).map fun i => s.nodePlace p tile i 0 | _ => [])

/-- An insertion for a group of a core. -/
def insertAt (s : State) (core ps : Nat) (f : ListFrag) : Dev Inserted :=
  (insertFrag s ps f).bind fun r => .ok { r with s := r.s.forget core (match s.passes[ps]? with | some p => p.job | none => 0) r.touched }

/-- One of the insertions, made in turn, would wait: for a PRI response or a line (R306, R409), or for an earlier request of the group to
the same bytes (R272). -/
def insertsWait (s : State) (gi ps : Nat) : List ListFrag → Bool
  | [] => false
  | f :: l =>
    match insertFrag s ps f with
    | .wait => true
    | .ok r => (match s.passes[ps]? with | some p => r.touched.any (s.placeBusy gi p.job) | none => false) || insertsWait r.s gi ps l
    | .fail _ _ => insertsWait s gi ps l

/-- The state as a group's reads see it: its held stores performed (R478). -/
def State.ownView (s : State) (g : Group) : State :=
  match g.gfx with
  | some x => x.held.foldl (fun s h => match h with
      | .store pa bs _ _ => s.poke pa bs
      | .scratch off bs => s.modCore g.core fun c => c.arraySet off bs
      | _ => s) s
  | none => s

end Sys2Proof.Machine
end

