-- ==== Sys2Proof/Machine/Hold.lean ====
section
/-! DEFINITION. Replay regions of graphics groups: the effects held until commit, their performance, the release buffer's room and
killing a group for replay (R387, R477 to R479, R538). -/

namespace Sys2Proof.Machine

/-- The group is inside a replay region (R477). -/
def Group.inRegion (g : Group) : Bool := match g.gfx with | some x => x.inRegion | none => false

def State.modGfx (s : State) (gi : Nat) (f : Gfx → Gfx) : State := s.modGroup gi fun g => { g with gfx := g.gfx.map f }

/-- A failed insertion: the instruction's address, lane, cause and address (R538). -/
structure HeldFail where
  pc : DWord
  lane : Nat
  cause : Cause
  va : DWord
  deriving DecidableEq, Repr

/-- The reservation of lanes is released (R384, R390). -/
def State.releaseLanes (s : State) (gi : Nat) (m : LaneMask) : State :=
  match (s.groups[gi]?).bind (·.gfx) with
  | none => s
  | some x =>
    let gone := x.keys.filter fun k => m.getLsbD k.1 && !x.released.getLsbD k.1
    let s := s.modPass x.pass fun p => { p with reserved := p.reserved.filter fun r => !(gone.any fun k => r.2 == k.2) }
    s.modGfx gi fun x => { x with released := x.released ||| m, leaving := x.leaving &&& ~~~m }

/-- Inserts one lane's fragment for a FLINS (R391, R538): the new state, whether the insertion was made, and its failure. What would wait
has been met before (`insertsWait`), and nothing is inserted for it. -/
def insertOne (s : State) (core ps : Nat) (pc : DWord) (lane : Nat) (f : ListFrag) : State × Bool × Option HeldFail :=
  match insertAt s core ps f with
  | .ok r => (r.s, r.ok, none)
  | .fail c va => (s, false, some ⟨pc, lane, c, va⟩)
  | .wait => (s, false, none)

/-- Inserts the fragments of a FLINS in lane order: the lanes whose insertion was made, and the failures. -/
def insertLanes (s : State) (core ps : Nat) (pc : DWord) : List (Nat × ListFrag) → State × List Nat × List HeldFail
  | [] => (s, [], [])
  | (t, f) :: l =>
    let (s, ok, e) := insertOne s core ps pc t f
    let (s, oks, es) := insertLanes s core ps pc l
    (s, (if ok then t :: oks else oks), e.toList ++ es)

/-- The hits of one lane of TRACE APPEND: those taken, whether one failed to allocate, and the failures (R401). -/
def insertHits (s : State) (core ps : Nat) (pc : DWord) (t : Nat) : List ListFrag → State × Nat × Bool × List HeldFail
  | [] => (s, 0, false, [])
  | f :: l =>
    match insertAt s core ps f with
    | .ok r =>
      let (s, n, e, es) := insertHits r.s core ps pc t l
      (s, (if r.taken then n + 1 else n), e || r.empty, es)
    | .fail c va => let (s, n, e, es) := insertHits s core ps pc t l; (s, n, e, ⟨pc, t, c, va⟩ :: es)
    | .wait => insertHits s core ps pc t l

/-- The result word of TRACE APPEND (R401). -/
def hitWord (n : Nat) (more failed : Bool) : Word := BitVec.ofNat 32 (n % 256 + (if more then 256 else 0) + (if failed then 512 else 0))

/-- The hits of every lane of a TRACE APPEND, each lane answered. -/
def appendHits (s : State) (core gi ps : Nat) (pc : DWord) (slot : Nat) : List (Nat × List ListFrag × Bool) → State × List HeldFail
  | [] => (s, [])
  | (t, fs, more) :: l =>
    let (s, n, e, es) := insertHits s core ps pc t fs
    let s := s.answer gi slot t (.ok [hitWord n more e])
    let (s, fs) := appendHits s core gi ps pc slot l
    (s, es ++ fs)

/-- Vertex records reach the sampler (R365). -/
def State.handVertices (s : State) (gi ps c : Nat) (recs : List (Nat × List Word)) : State :=
  s.modPass ps fun p => { p with grids := p.grids.map fun q => if q.grp == some gi then { q with verts := some (c, recs) } else q }

/-- Performs one held effect. -/
def performHeld (s : State) (gi : Nat) (h : Held) : State × List HeldFail :=
  match s.groups[gi]? with
  | none => (s, [])
  | some g =>
    let ps := match g.gfx with | some x => x.pass | none => 0
    match h with
    | .store pa bs priv va =>
      (if priv then s.privateStore true g.core gi pa bs else s.storeLane gi g ⟨0, va, pa, true⟩ bs, [])
    | .scratch off bs => (s.modCore g.core fun c => c.arraySet off bs, [])
    | .flins pc d frags =>
      let (s, oks, es) := insertLanes s g.core ps pc frags
      let m := maskOf (frags.map fun f => f.1)
      (s.modGroup gi fun g =>
        let x := { g.ctx with active := m }
        { g with ctx := { x.writePred d false (fun t => oks.contains t) with active := g.ctx.active } }, es)
    | .hits pc slot frags => appendHits s g.core gi ps pc slot frags
    | .vertices c recs => (s.handVertices gi ps c recs, [])
    | .ordlv m => (s.releaseLanes gi m, [])
    | .discard m => (s.releaseLanes gi m, [])

/-- Performs held effects in order: what failed of the first that failed (R538). -/
def performAll (s : State) (gi : Nat) : List Held → State × List HeldFail
  | [] => (s, [])
  | h :: l =>
    let (s, es) := performHeld s gi h
    let (s, fs) := performAll s gi l
    (s, if es.isEmpty then fs else es)

/-- One of the held effects, performed in turn, would wait (R306, R409). -/
def heldWaits (s : State) (gi : Nat) (g : Group) (x : Gfx) : List Held → Bool
  | [] => false
  | h :: l =>
    (match h with
      | .store pa _ priv _ => !priv && s.atEdge gi g pa
      | .flins _ _ frags => insertsWait s gi x.pass (frags.map fun f => f.2)
      | .hits _ _ frags => insertsWait s gi x.pass (frags.flatMap fun f => f.2.1)
      | _ => false) || heldWaits (performHeld s gi h).1 gi g x l

/-- The group's commit waits. -/
def State.commitWaits (s : State) (gi : Nat) : Bool :=
  match s.groups[gi]? with
  | some g => (match g.gfx with | some x => heldWaits s gi g x x.held | none => false)
  | none => false

/-- The trap of a commit (R538), from what failed of one instruction: one cause and its lanes. -/
def commitTrap (es : List HeldFail) : Option TrapInfo :=
  match es with
  | [] => none
  | e :: _ =>
    match (List.range 9).filterMap (fun r => match es.filter (fun x => deferredRank x.cause == r) with | [] => none | x => some x) with
    | (x :: xs) :: _ =>
      some { cause := x.cause, code := 0, pc := e.pc, addr := some x.va, lanes := maskOf ((x :: xs).map fun y => y.lane), write := true,
             fetch := false, deferred := true, done := 0, replies := [], iword := 0, oword := 0, reqAddr := [], reqData := [] }
    | _ => none

/-- Performs every held effect of the group (R477); a trap for what failed. -/
def commitHeld (s : State) (gi : Nat) : State × Option TrapInfo :=
  match (s.groups[gi]?).bind (·.gfx) with
  | none => (s, none)
  | some x =>
    let s := s.modGfx gi fun x => { x with held := [], heldBytes := 0 }
    let (s, es) := performAll s gi x.held
    (s, commitTrap es)

/-- Takes a replay snapshot (R477): the dirty entries written back, and the address where the region goes on. -/
def State.snapshot (s : State) (gi : Nat) (pc : DWord) : State :=
  s.modGroup gi fun g =>
    { g with gfx := g.gfx.map fun x =>
        { x with inRegion := true, snap := { (g.ctx.applyFrees.writeBack).clearLatches with pc := pc },
                 snapKeys := (x.entered, x.released), snapGvtx := x.gvtxDone } }

/-- Requests of the group on their way answer nobody (R479, R481). -/
def State.orphan (s : State) (gi : Nat) : State :=
  let row (b : WBin) : WBin := { b with rows := b.rows.map fun r => if r.grp == gi then { r with slot := nobody } else r }
  let req (r : MethodReq) : MethodReq := match r.src with
    | .lane g _ t => if g == gi then { r with src := .lane g nobody t } else r
    | .peer _ => r
  { s with
    atomics := s.atomics.map fun a => if a.grp == some gi then { a with slot := nobody } else a
    methods := s.methods.map req
    objects := s.objects.map fun o => { o with
      pending := o.pending.map req
      running := o.running.map fun r => (r.1, r.2.map req) }
    whorls := s.whorls.map fun w => { w with queue := w.queue.map row, bins := w.bins.map row, tiles := w.tiles.map row } }

/-- Kills a graphics group for replay (R479): held effects and replies discarded, each lane back to "reservation held, not
entered", the context at its region's snapshot. -/
def killForReplay (s : State) (gi : Nat) : State :=
  match s.groups[gi]? with
  | some g =>
    match g.gfx with
    | some x =>
      if x.replay || g.status == .exited || g.status == .gone then s
      else
        let s := (s.orphan gi).flushPrivate g.core gi
        s.setGroup gi { g with
          ctx := x.snap
          status := .stopped 0
          hasSlot := false
          board := Vector.replicate 32 none
          block := none
          posts := []
          deferred := []
          handler := false
          retry := none
          trapSave := none
          rebuild := none
          gfx := some { x with held := [], heldBytes := 0, entered := 0, released := x.snapKeys.2, leaving := 0,
                               gvtxDone := x.snapGvtx, replay := true } }
    | none => s
  | none => s

/-- Bytes of the release buffer (R478). -/
def releaseBuffer : Nat := 32768

/-- Graphics groups of a core that hold effects: index, age and bytes. -/
def State.holders (s : State) (core : Nat) : List (Nat × Nat × Nat) :=
  s.groups.zipIdx.filterMap fun p => match p.1.gfx with
    | some x => if p.1.core == core && x.heldBytes != 0 then some (p.2, x.age, x.heldBytes) else none
    | none => none

def youngest : List (Nat × Nat × Nat) → Option (Nat × Nat × Nat)
  | [] => none
  | x :: l => match youngest l with
    | some y => if x.2.1 ≤ y.2.1 then some y else some x
    | none => some x

/-- Kills younger groups until `need` bytes fit (R478 steps 2 and 3); `n` bounds their number. None where the instruction waits. -/
def killUntil (gi core age need : Nat) : Nat → State → Option State
  | 0, _ => none
  | n + 1, s =>
    let hs := s.holders core
    if hs.foldl (fun a h => a + h.2.2) 0 + need ≤ releaseBuffer then some s
    else
      match youngest (hs.filter fun h => h.1 != gi && age < h.2.1) with
      | some y => killUntil gi core age need n (killForReplay s y.1)
      | none => none

/-- What making room in the release buffer gives. -/
inductive Room where
  | ok (s : State)
  | wait
  | trap (s : State) (t : TrapInfo)

/-- Makes room for `bytes` of effects held by the instruction of the group (R478). Effects of one instruction that exceed the whole
buffer take all of it (log 30). -/
def makeRoom (s : State) (gi : Nat) (g : Group) (bytes : Nat) : Room :=
  match g.gfx with
  | none => .ok s
  | some x =>
    let need := min bytes releaseBuffer
    if x.heldBytes + need > releaseBuffer && s.commitWaits gi then .wait
    else
    let (s, t) := if x.heldBytes + need > releaseBuffer then
        let (s, t) := commitHeld s gi
        (s.snapshot gi g.ctx.pc, t)
      else (s, none)
    match t with
    | some t => .trap s t
    | none =>
      match killUntil gi g.core x.age need (s.groups.length + 1) s with
      | some s => .ok s
      | none => .wait

/-- Adds an effect to the group's held effects. -/
def State.addHeld (s : State) (gi bytes : Nat) (hs : List Held) : State :=
  s.modGfx gi fun x => { x with held := x.held ++ hs, heldBytes := x.heldBytes + min bytes releaseBuffer }

/-- The end of an instruction whose effects are held in a region, or performed at once outside one. `now` performs them. -/
def holdOr (s : State) (gi : Nat) (g : Group) (bytes : Nat) (hs : List Held) (now : State → Eff) : Eff :=
  if g.inRegion then
    match makeRoom s gi g bytes with
    | .wait => .wait s
    | .trap s t => .trapFrom s t
    | .ok s => .done (s.addHeld gi bytes hs)
  else now s

end Sys2Proof.Machine
end

