-- ==== Sys2Proof/Machine/Place.lean ====
section
/-! DEFINITION. Groups as they start (R40), where they are placed (R18, R24, R63, R239) and the placement log (R316). -/

namespace Sys2Proof.Machine

/-- An index that no team or launch has. -/
def noTeam : Nat := 2 ^ 64

/-- The context of a group that starts (R40). -/
def Ctx.start (regs : Nat) (pc : DWord) : Ctx :=
  { pc := pc, active := BitVec.allOnes 256, killed := 0, preds := Vector.replicate 8 0, s := Vector.replicate 64 0,
    c := Vector.replicate 4 false, ix := Vector.replicate 4 ⟨0, 0⟩, dstack := [], cstack := [], fpmode := 0, fpflags := 0,
    storehash := 0, main := List.replicate regs Lanes.zero, entries := Vector.replicate 16 ⟨none, .free, Lanes.zero⟩,
    slots := Vector.replicate 8 ⟨false, 0⟩, latches := Vector.replicate 4 ⟨false, Vector.replicate 256 0⟩, pendFree := 0, run := [] }

/-- Where a group is placed: its resident slot, and the first KiB of its footprint. -/
structure Seat where
  core : Nat
  part : Nat
  rslot : Nat
  place : Nat
  deriving DecidableEq, Repr

/-- A group that starts, waiting for an operand-buffer slot (R43). -/
def Group.start (kind : GKind) (job launch team number : Nat) (seat : Seat) (regs prio since : Nat) (pc : DWord) : Group :=
  { ctx := Ctx.start regs pc, kind := kind, status := .slotWait, job := job, launch := launch, team := team, number := number,
    spawnSeq := 0, spawnArea := 0, core := seat.core, part := seat.part, rslot := seat.rslot, regs := regs, mainAt := seat.place, prio := prio,
    hasSlot := false, since := since, board := Vector.replicate 32 none, block := none, posts := [], postSeq := 0, deferred := [],
    handler := false, retry := none, trapSave := none, rebuild := none, again := none, resumeAs := .slotWait, saved := 0, seen := Vector.replicate 16 0,
    ownBars := Vector.replicate 16 ⟨1, 0, 0, 0⟩, batch := ⟨0, 0, 0, false⟩, batches := [], taskrec := 0, markNum := 0, xchg := none,
    area := none, privLimit := 0, absent := none, gfx := none, icount := 0 }

/-- The group still holds its resident slot and main-file footprint (R481). -/
def Group.resident (g : Group) : Bool := g.status != .gone && g.status != .saved

/-- A group that has not ended. -/
def Group.living (g : Group) : Bool := g.status != .gone && g.status != .exited

/-- Pool slots of a partition (R63). -/
def poolSlots (size part : Nat) : Nat := size / 4 + (if part < size % 4 then 1 else 0)

/-- Resident slots of a partition taken: groups, and the spawn pool's slots (R18, R63). -/
def State.slotsTaken (s : State) (core part : Nat) : Nat :=
  (s.groups.filter fun g => g.core == core && g.part == part && g.resident && g.kind != .combiner && g.kind != .spawned).length +
    (match (s.core core).pool with | some (_, n) => poolSlots n part | none => 0)

/-- The lowest resident slot of a partition that no group holds. -/
def State.freeSeat (s : State) (core part : Nat) : Option Nat :=
  (List.range 32).find? fun k =>
    !s.groups.any fun g => g.core == core && g.part == part && g.rslot == k && g.resident && g.kind != .combiner

/-- Runs of KiB of the main-file carve that are taken: the home reserve of 128 KiB, the groups' footprints and the spawn pool's (R23, R24,
R63). -/
def State.mainRuns (s : State) (core : Nat) : List (Nat × Nat) :=
  (0, 128) :: ((s.groups.filter fun g => g.core == core && g.resident && g.kind != .combiner && g.kind != .spawned).map fun g => (g.mainAt, g.regs)) ++
    (s.core core).poolAt

/-- The lowest place at an 8 KiB boundary where `n` KiB are free. Log 54: R24 does not say which free place a footprint takes. -/
def freeRun (runs : List (Nat × Nat)) (limit n : Nat) : Option Nat :=
  ((List.range (limit / 8 + 1)).map (8 * ·)).find? fun a => a + n ≤ limit && runs.all fun r => r.1 + r.2 ≤ a || a + n ≤ r.1

/-- Places for footprints, one after the other. -/
def placesFor (limit : Nat) : List (Nat × Nat) → List Nat → Option (List Nat)
  | _, [] => some []
  | runs, n :: l => (freeRun runs limit n).bind fun a => (placesFor limit ((a, n) :: runs) l).map (a :: ·)

/-- Places in the core's carve for footprints of so many KiB; none where they do not fit (R22, R24). -/
def State.places (s : State) (core : Nat) (l : List Nat) : Option (List Nat) := placesFor (64 * (s.core core).mainLen) (s.mainRuns core) l

/-- The place of one more footprint. -/
def State.mainPlace (s : State) (core regs : Nat) : Option Nat := (s.places core [regs]).bind (·.head?)

/-- The first footprint of the spawn pool that no spawned group holds. -/
def State.poolPlace (s : State) (core : Nat) : Option Nat :=
  ((s.core core).poolAt.find? fun a => !s.groups.any fun g => g.core == core && g.kind == .spawned && g.resident && g.mainAt == a.1).map (·.1)

/-- Both halves of a team. -/
def State.halves (s : State) (ti : Nat) : List Nat := ti :: (match s.teams[ti]? with | some t => t.twin.toList | none => [])

/-- The group area of a group with area number `n` (R239). -/
def areaAt (base : DWord) (z n : Nat) : Option DWord := if base == 0 then none else some (base + BitVec.ofNat 64 (n * 2 ^ z))

/-- GROUP numbers of a team of the launch (R239). -/
def Launch.numbers (l : Launch) : Nat := if l.kernel.twin then 2 * l.kernel.groups else l.kernel.groups

def Launch.privLimit (l : Launch) : Nat := if l.privBase == 0 then 0 else l.kernel.priv

/-! ## The placement log (R316) -/

/-- A placement entry: core, resident slot, GROUP, spawn sequence, LAUNCHID and linear team index. -/
structure Placement where
  core : Nat
  rslot : Nat
  number : Nat
  spawnSeq : Nat
  launch : Nat
  index : Nat
  deriving DecidableEq, Repr

/-- The 16 bytes of a placement entry. -/
def Placement.bits (p : Placement) : Nat :=
  p.core % 64 + 2 ^ 6 * (p.rslot % 128) + 2 ^ 13 * (p.number % 256) + 2 ^ 21 * (p.spawnSeq % 2 ^ 24) + 2 ^ 64 * (p.launch % 2 ^ 32) +
    2 ^ 96 * (p.index % 2 ^ 32)

def Placement.ofBits (v : Nat) : Placement :=
  ⟨v % 64, v / 2 ^ 6 % 128, v / 2 ^ 13 % 256, v / 2 ^ 21 % 2 ^ 24, v / 2 ^ 64 % 2 ^ 32, v / 2 ^ 96 % 2 ^ 32⟩

/-- Every home stops recording the job (R316). -/
def State.stopHomes (s : State) (job : Nat) (log : DWord) : State :=
  let s := (List.range 64).foldl (fun s c => s.overflow job (log + BitVec.ofNat 64 (colOffset c))) s
  s.modJob job fun j => { j with placeStop := true, colStop := BitVec.allOnes 64 }

/-- Appends a placement entry while the job records. -/
def State.logPlacement (s : State) (job : Nat) (p : Placement) : State :=
  match s.recordLog job, s.jobs[job]? with
  | some log, some j =>
    if j.placeStop then s
    else
      match s.append job (s.homeRead job (log + 16) 8) (s.homeRead job (log + 24) 8) (log + 32) (leBytes 16 p.bits) with
      | .ok s => s
      | .full s => s.stopHomes job log
      | .failed s va => (s.stopHomes job log).postError job 12 va
      | .wait => s
  | _, _ => s

/-- What a replaying job's next placement is: none where it does not replay, every recorded group has been placed, or the log cannot be
read; a wait for the log's page (R409). -/
def State.nextPlacement (s : State) (job : Nat) : Dev (Option Placement) :=
  match s.replayLog job, s.jobs[job]? with
  | some log, some j =>
    match (s.homeRead job (log + 16) 8).bind fun b => (s.homeRead job (log + 32) 8).bind fun o =>
        if 16 * (j.placed + 1) ≤ o % 2 ^ 63 then
          (s.homeRead job (BitVec.ofNat 64 (b + 16 * j.placed)) 16).bind fun v => .ok (some (Placement.ofBits v))
        else .ok none with
    | .fail _ _ => .ok none
    | r => r
  | _, _ => .ok none

/-- A placement entry of a job that records would wait (R409). -/
def State.placeWaits (s : State) (job : Nat) : Bool :=
  match s.recordLog job, s.jobs[job]? with
  | some log, some j => !j.placeStop &&
    (match s.append job (s.homeRead job (log + 16) 8) (s.homeRead job (log + 24) 8) (log + 32) (leBytes 16 0) with | .wait => true | _ => false)
  | _, _ => false

/-- A group of launch `li` has been placed: recorded, or identified with the entry of the replayed log whose slot it fills, whose
LAUNCHID then stands for the launch's (R316, R531). -/
def State.placedGroup (s : State) (job li : Nat) (p : Placement) : State :=
  match s.nextPlacement job with
  | .ok (some q) =>
    if { q with launch := p.launch } == p then
      (s.modJob job fun j => { j with placed := j.placed + 1 }).modLaunch li fun l => { l with recorded := some q.launch }
    else s
  | _ => s.logPlacement job p

/-- The seat the replayed log demands: `free` where it demands none; none where the group must wait. -/
inductive Demand where
  | free
  | at_ (core rslot : Nat)
  | wait
  deriving DecidableEq, Repr

/-- The seat of the next entry, for the group with its GROUP number, spawn sequence and team index. The entry's LAUNCHID is that of
the recorded run: entries of one recorded launch go to one launch (R316, R531). -/
def State.seatDemand (s : State) (job number spawnSeq li index : Nat) : Demand :=
  match s.nextPlacement job with
  | .wait => .wait
  | .fail _ _ => .free
  | .ok none => if s.placeWaits job then .wait else .free
  | .ok (some p) =>
    let same := match (s.launches[li]?).bind (·.recorded) with | some r => r == p.launch | none => true
    if p.number == number && p.spawnSeq == spawnSeq && p.index == index && same then .at_ p.core p.rslot else .wait

/-! ## SPAWN (R64) -/

/-- Free pool slots of a partition for groups of the launch. -/
def State.poolFree (s : State) (core launch part : Nat) : Nat :=
  match (s.core core).pool with
  | some (l, n) =>
    if l == launch then
      poolSlots n part - (s.groups.filter fun g => g.core == core && g.part == part && g.kind == .spawned && g.resident).length
    else 0
  | none => 0

/-- Creates the spawned groups `j` to `count - 1` of a SPAWN of group `gi` at an entry address; none where a replayed log makes it
wait. A twin team counts the groups of both halves together; log 54: an area index above the pool size stands where both cores' pools hold
more. -/
def spawnGroups (gi : Nat) (g : Group) (pc : DWord) (l : Launch) : Nat → Nat → State → Option State
  | 0, _, s => some s
  | n + 1, j, s =>
    match s.teams[g.team]? with
    | none => none
    | some t =>
      let part := (List.range 4).map (fun q => (g.part + q) % 4) |>.find? fun q => s.poolFree g.core g.launch q > 0
      let seat : Option (Nat × Nat) :=
        match s.seatDemand g.job 255 t.nextSpawn g.launch t.index with
        | .free => part.bind fun q => (s.freeSeat g.core q).map fun k => (q, k)
        | .at_ c r => if c == g.core && s.poolFree g.core g.launch (r / 32) > 0 &&
            !(s.groups.any fun h => h.core == g.core && h.part == r / 32 && h.rslot == r % 32 && h.resident && h.kind != .combiner)
          then some (r / 32, r % 32) else none
        | .wait => none
      match seat with
      | none => none
      | some (q, k) =>
        let team := s.halves g.team
        let area := ((List.range 64).find? fun a =>
          !s.groups.any fun h => team.contains h.team && h.kind == .spawned && h.living && h.spawnArea == a).getD 0
        let h := Group.start .spawned g.job g.launch g.team 255 ⟨g.core, q, k, (s.poolPlace g.core).getD 0⟩ g.regs g.prio s.free pc
        let x := h.ctx
        let h := { h with
          ctx := { x with s := Vector.ofFn fun i : Fin 64 => if i.val < 8 then g.ctx.s[i] else if i.val == 8 then BitVec.ofNat 64 j else 0 }
          spawnSeq := t.nextSpawn
          spawnArea := area
          seen := g.seen
          area := areaAt l.privBase l.privZ (t.index * (l.numbers + l.pool) + l.numbers + area)
          privLimit := l.privLimit }
        let s := { s with groups := s.groups ++ [h], free := s.free + 1 }
        let s := team.foldl (fun s ti => s.modTeam ti fun t => { t with nextSpawn := (t.nextSpawn + 1) % 2 ^ 24 }) s
        let s := s.placedGroup g.job g.launch ⟨g.core, q * 32 + k, 255, t.nextSpawn, l.id, t.index⟩
        spawnGroups gi g pc l n (j + 1) s

/-- Free pool slots of a core for the launch. -/
def State.poolTotal (s : State) (core launch : Nat) : Nat := (List.range 4).foldl (fun n q => n + s.poolFree core launch q) 0

end Sys2Proof.Machine
end

