-- ==== Sys2Proof/Machine/Barriers.lean ====
section
/-! DEFINITION. Named barriers (R222 to R226, R537), each step of them said once. -/

namespace Sys2Proof.Machine

/-- Barriers of a group that starts them anew: the expected count, and 0 elsewhere (R222). -/
def Barrier.start (n : Nat) : Barrier := ⟨n, 0, 0, 0⟩

/-- The phase flips (R222). -/
def Barrier.flip (b : Barrier) : Barrier := { b with arrival := 0, phase := b.phase + 1, flips := b.flips + 1 }

/-- One arrival (R222). -/
def Barrier.arrive (b : Barrier) : Barrier :=
  if b.arrival + 1 == b.expected then b.flip else { b with arrival := b.arrival + 1 }

/-- BARINIT's new expected count, which flips a phase already full (R224). -/
def Barrier.expect (b : Barrier) (n : Nat) : Barrier := if n ≤ b.arrival then { b.flip with expected := n } else { b with expected := n }

/-- The group has barriers of its own (R537). -/
def Group.ownBarriers (g : Group) : Bool := g.kind == .grid || g.kind == .sample

/-- The barrier a group names (R222, R537). -/
def State.barrier (s : State) (g : Group) (nb : Nat) : Barrier :=
  if g.ownBarriers then g.ownBars[Fin.ofNat 16 nb]
  else match s.teams[g.team]? with
    | some t => t.bars[Fin.ofNat 16 nb]
    | none => Barrier.start 1

/-- The state with the barrier a group names changed. -/
def State.modBarrier (s : State) (gi : Nat) (nb : Nat) (f : Barrier → Barrier) : State :=
  match s.groups[gi]? with
  | none => s
  | some g =>
    let k := Fin.ofNat 16 nb
    if g.ownBarriers then s.setGroup gi { g with ownBars := g.ownBars.set k (f g.ownBars[k]) }
    else s.modTeam g.team fun t => { t with bars := t.bars.set k (f t.bars[k]) }

/-- An arrival on a team's barrier by an engine (R222). -/
def State.teamArrive (s : State) (team nb : Nat) : State :=
  s.modTeam team fun t => { t with bars := t.bars.set (Fin.ofNat 16 nb) (t.bars[Fin.ofNat 16 nb]).arrive }

def Group.seenOf (g : Group) (nb : Nat) : BitVec 16 := g.seen[Fin.ofNat 16 nb]

/-- The wait condition of a group (R223): the phase differs from its seen number. -/
def State.phaseReady (s : State) (g : Group) (nb : Nat) : Bool := (s.barrier g nb).phase != g.seenOf nb

/-- The observers of a wait's acquire: STRM (R226), bit 1 of an observer mask. -/
def waitMask : BitVec 5 := 2

/-- The group consumes one phase change, and its wait acquires (R223, R226). -/
def State.consumePhase (s : State) (gi : Nat) (nb : Nat) : State :=
  match s.groups[gi]? with
  | none => s
  | some g =>
    (s.setGroup gi { g with seen := g.seen.set (Fin.ofNat 16 nb) (g.seenOf nb + 1) }).acquire g.core waitMask

end Sys2Proof.Machine
end

