-- ==== Sys2Proof/Machine/VecTwo.lean ====
section
/-! DEFINITION. The two-source instructions (R184 to R209). -/

namespace Sys2Proof.Machine

/-- A V2 instruction of two sources with an entry destination. -/
def runV2 (i : Instr) (x : V2) (c : Consts) (wa wb wd : Bool) (p : Pipe) (f : Ctx → DWord → DWord → LaneRes) (s : State) :
    Host.Outcome State Fault Refusal :=
  runVec i ⟨[⟨x.a, wa⟩, ⟨x.b, wb⟩], x.d.toNat, x.w, wd, p⟩
    (fun g t => f g (g.read c wa x.a t) (g.read c wb x.b t)) s

/-- Two 32-bit integer sources and a 32-bit result on the X pipe. -/
def runInt2 (i : Instr) (x : V2) (f : Word → Word → Word) (s : State) :=
  runV2 i x .int false false false .x (fun _ a b => res32 (f (lo32 a) (lo32 b))) s

/-- A V2 instruction of one source. -/
def runV1 (i : Instr) (x : V2) (c : Consts) (wa wd : Bool) (p : Pipe) (f : Ctx → DWord → LaneRes) (s : State) :=
  runVec i ⟨[⟨x.a, wa⟩], x.d.toNat, x.w, wd, p⟩ (fun g t => f g (g.read c wa x.a t)) s

def runInt1 (i : Instr) (x : V2) (f : Word → Word) (s : State) := runV1 i x .int false false .x (fun _ a => res32 (f (lo32 a))) s

/-! ## Moves and integers (R185 to R193) -/

/-- MOV: A names an entry whose value does not enter the result; its last-use acts (R185). -/
def execMov (x : V2) (s : State) :=
  runVec (.mov x) ⟨[⟨x.a, false⟩, ⟨x.b, wideMod x⟩], x.d.toNat, x.w, wideMod x, .x⟩
    (fun g t => ⟨g.read .int (wideMod x) x.b t, 0⟩) s
def execIadd (x : V2) (s : State) := runInt2 (.iadd x) x (fIadd (x.mod == 1) x.s) s
def execIsub (x : V2) (s : State) := runInt2 (.isub x) x (fIsub (x.mod == 1) x.s) s
def execImul (x : V2) (s : State) := runInt2 (.imul x) x (· * ·) s
def execImulhi (x : V2) (s : State) := runInt2 (.imulhi x) x (mulHigh x.s) s
def execImin (x : V2) (s : State) := runInt2 (.imin x) x (fImin x.s) s
def execImax (x : V2) (s : State) := runInt2 (.imax x) x (fImax x.s) s
def execIabs (x : V2) (s : State) := runInt1 (.iabs x) x fIabs s
def execAnd (x : V2) (s : State) := runInt2 (.and x) x (· &&& ·) s
def execOr (x : V2) (s : State) := runInt2 (.or x) x (· ||| ·) s
def execXor (x : V2) (s : State) := runInt2 (.xor x) x (· ^^^ ·) s
def execAndn (x : V2) (s : State) := runInt2 (.andn x) x (fun a b => a &&& ~~~b) s

/-- A shift: A and the result as wide as mod says, the count 32 bits (R189). -/
def runShift (i : Instr) (x : V2) (f : Bool → DWord → Word → DWord) (s : State) :=
  runV2 i x .int (wideMod x) false (wideMod x) .x (fun _ a b => res64 (f (wideMod x) a (lo32 b))) s
def execShl (x : V2) (s : State) := runShift (.shl x) x fShl s
def execShr (x : V2) (s : State) := runShift (.shr x) x fShr s
def execSar (x : V2) (s : State) := runShift (.sar x) x fSar s
def execRot (x : V2) (s : State) := runShift (.rot x) x fRot s
def execPopc (x : V2) (s : State) := runInt1 (.popc x) x fPopc s
def execClz (x : V2) (s : State) := runInt1 (.clz x) x fClz s
def execBrev (x : V2) (s : State) := runInt1 (.brev x) x fBrev s
def execBfx (x : V2) (s : State) := runInt2 (.bfx x) x (fBfx x.s) s
def execLea (x : V2) (s : State) :=
  runV2 (.lea x) x .int true false true .x (fun _ a b => res64 (fLea x.mod.toNat x.s a (lo32 b))) s
def execIadd64 (x : V2) (s : State) := runV2 (.iadd64 x) x .int true true true .x (fun _ a b => res64 (a + b)) s

/-- ICMP (R193). -/
def execIcmp (x : V2) (s : State) :=
  let l : List Src := [⟨x.a, false⟩, ⟨x.b, false⟩]
  runPred (.icmp x) l (fun g => g.writePred x.d x.w fun t =>
    icond x.mod.toNat (intOf x.s (lo32 (g.read .int false x.a t))) (intOf x.s (lo32 (g.read .int false x.b t)))) s

/-- PMOV: mod 0 gets the eight predicates of each thread, mod 1 sets them (R209). -/
def execPmov (x : V2) (s : State) :=
  if x.mod == 0 then
    runVec (.pmov x) ⟨[], x.d.toNat, x.w, false, .x⟩ (fun g t => res32 (BitVec.ofNat 32 (predByte g t))) s
  else
    runPred (.pmov x) [⟨x.a, false⟩] (fun g =>
      { g with preds := g.preds.mapFinIdx fun k old _ =>
          (old &&& ~~~g.active) ||| (maskFn (fun t => (g.read .int false x.a t).getLsbD k) &&& g.active) }) s

/-! ## Floating point (R194 to R199) -/

def runF32 (i : Instr) (x : V2) (op : FOp) (s : State) :=
  runV2 i x .f32 false false false .v (fun g a b => fOp32 op g.fpmode x.mod x.s (lo32 a) (lo32 b)) s
def runF64 (i : Instr) (x : V2) (op : FOp) (s : State) :=
  runV2 i x .f64 true true true .v (fun g a b => fOp64 op g.fpmode x.mod x.s a b) s
def runF16 (i : Instr) (x : V2) (c : Consts) (f : Fmt) (op : FOp) (s : State) :=
  runV2 i x c false false false .v (fun g a b => fOp16 f op g.fpmode x.mod x.s (lo32 a) (lo32 b)) s

def execFadd (x : V2) (s : State) := runF32 (.fadd x) x .add s
def execFsub (x : V2) (s : State) := runF32 (.fsub x) x .sub s
def execFmul (x : V2) (s : State) := runF32 (.fmul x) x .mul s
def execFmin (x : V2) (s : State) := runF32 (.fmin x) x .min s
def execFmax (x : V2) (s : State) := runF32 (.fmax x) x .max s

/-- The flags a compare raises in the active threads. -/
def Ctx.cmpFlags (g : Ctx) (f : Nat → Bool × FFlags) : Ctx := g.orFlags (g.laneFlags fun t => (f t).2)

/-- FCMP and DCMP (R196). -/
def runFcmp (i : Instr) (x : V2) (c : Consts) (f : Fmt) (wide : Bool) (s : State) :=
  runPred i [⟨x.a, wide⟩, ⟨x.b, wide⟩] (fun g =>
    let r (t : Nat) := fcompare f (f == .b32 && g.fpmode.getLsbD 2) x.mod.toNat (g.read c wide x.a t).toNat (g.read c wide x.b t).toNat
    (g.writePred x.d x.w fun t => (r t).1).cmpFlags r) s
def execFcmp (x : V2) (s : State) := runFcmp (.fcmp x) x .f32 .b32 false s
def execFclass (x : V2) (s : State) :=
  let c : Consts := match x.mod.toNat with | 0 => .f32 | 1 => .f64 | 2 => .f16 | _ => .bf16
  runV1 (.fclass x) x c (x.mod == 1) false .x (fun _ a => res32 (fFclass x.mod.toNat a)) s
def execFint (x : V2) (s : State) :=
  runV1 (.fint x) x .f32 false false .v (fun g a => fFint g.fpmode x.mod.toNat x.s (lo32 a)) s

/-- A T-pipe instruction of binary32 (R199). -/
def runT32 (i : Instr) (x : V2) (op : Nat) (s : State) := runV1 i x .f32 false false .t (fun g a => fT32 op g.fpmode x.s (lo32 a)) s
def runT64 (i : Instr) (x : V2) (op : Nat) (s : State) := runV1 i x .f64 true true .t (fun _ a => fT64 op x.s a) s
def execFrcp (x : V2) (s : State) := runT32 (.frcp x) x 32 s
def execFrsq (x : V2) (s : State) := runT32 (.frsq x) x 33 s
def execFsqrt (x : V2) (s : State) := runT32 (.fsqrt x) x 34 s
def execFexp2 (x : V2) (s : State) := runT32 (.fexp2 x) x 35 s
def execFlog2 (x : V2) (s : State) := runT32 (.flog2 x) x 36 s
def execFsin (x : V2) (s : State) := runT32 (.fsin x) x 37 s
def execFcos (x : V2) (s : State) := runT32 (.fcos x) x 38 s
def execDadd (x : V2) (s : State) := runF64 (.dadd x) x .add s
def execDmul (x : V2) (s : State) := runF64 (.dmul x) x .mul s
def execDmin (x : V2) (s : State) := runF64 (.dmin x) x .min s
def execDmax (x : V2) (s : State) := runF64 (.dmax x) x .max s
def execDcmp (x : V2) (s : State) := runFcmp (.dcmp x) x .f64 .b64 true s
def execDrcp (x : V2) (s : State) := runT64 (.drcp x) x 44 s
def execDsqrt (x : V2) (s : State) := runT64 (.dsqrt x) x 45 s
def execHadd2 (x : V2) (s : State) := runF16 (.hadd2 x) x .f16 .b16 .add s
def execHmul2 (x : V2) (s : State) := runF16 (.hmul2 x) x .f16 .b16 .mul s
def execBadd2 (x : V2) (s : State) := runF16 (.badd2 x) x .bf16 .bf16 .add s
def execBmul2 (x : V2) (s : State) := runF16 (.bmul2 x) x .bf16 .bf16 .mul s
def execHmin2 (x : V2) (s : State) := runF16 (.hmin2 x) x .f16 .b16 .min s
def execHmax2 (x : V2) (s : State) := runF16 (.hmax2 x) x .f16 .b16 .max s

/-- HCMP2 writes predicate D[2:0] from element 0 and the next from element 1 (R196). -/
def execHcmp2 (x : V2) (s : State) :=
  runPred (.hcmp2 x) [⟨x.a, false⟩, ⟨x.b, false⟩] (fun g =>
    let r (e t : Nat) := fcompare .b16 (g.fpmode.getLsbD 3) x.mod.toNat (elem (lo32 (g.read .f16 false x.a t)) 16 e)
      (elem (lo32 (g.read .f16 false x.b t)) 16 e)
    let y := (g.writePred x.d x.w fun t => (r 0 t).1).writePred (x.d + 1) x.w fun t => (r 1 t).1
    (y.cmpFlags (r 0)).cmpFlags (r 1)) s

/-! ## Conversion and packing (R200 to R203) -/

/-- The constants of a CVT source format. -/
def cvtConsts (code : Nat) : Consts := match code with | 4 => .f32 | 5 => .f64 | 6 => .f16 | 7 => .bf16 | _ => .int

def execCvt (x : V2) (s : State) :=
  let src := x.mod.toNat
  runV1 (.cvt x) x (cvtConsts src) (cvtWide src) (cvtWide (x.b.toNat % 16)) .x (fun g a => fCvt g.fpmode src x.b a) s
def execPack (x : V2) (s : State) :=
  runV2 (.pack x) x (if x.mod.toNat ≤ 1 then .f32 else .int) false false false .x
    (fun g a b => fPack g.fpmode x.mod.toNat (lo32 a) (lo32 b)) s
/-- The constants of an UNPACK kind. -/
def unpackConsts (kind : Nat) : Consts :=
  match kind with | 0 => .f16 | 1 => .bf16 | 2 => .e4m3 | 3 => .e5m2 | 4 => .e2m1 | 5 => .i8 | 6 => .i4 | _ => ⟨0x00010001, 0xFFFFFFFF⟩
def execUnpack (x : V2) (s : State) :=
  runV1 (.unpack x) x (unpackConsts x.mod.toNat) false false .x (fun g a => fUnpack g.fpmode x.mod.toNat x.b (lo32 a)) s

/-! ## Lane operations (R204 to R209) -/

/-- The source thread of XLANE (R204). -/
def xlaneSource (mode t b : Nat) : Nat :=
  match mode with
  | 0 => b % 256
  | 1 => if b ≤ t then t - b else t
  | 2 => if t + b ≤ 255 then t + b else t
  | _ => t ^^^ (b % 256)

def execXlane (x : V2) (s : State) :=
  runVec (.xlane x) ⟨[⟨x.a, false⟩, ⟨x.b, false⟩], x.d.toNat, x.w, false, .x⟩
    (fun g t => ⟨g.read .int false x.a (xlaneSource x.mod.toNat t (g.read .int false x.b t).toNat), 0⟩) s

/-- Active threads whose predicate holds (R205). -/
def Ctx.ballot (g : Ctx) (p : PredField) : LaneMask := g.active &&& (if p.inv then ~~~g.preds[p.p] else g.preds[p.p])

/-- POLL: modes 0 to 2 write a predicate, 3 and 4 an entry (R205). -/
def execPoll (x : V2) (s : State) :=
  let p := predOf x.a
  if x.mod.toNat ≤ 2 then
    runPred (.poll x) [] (fun g =>
      let m := g.ballot p
      let c := match x.mod.toNat with
        | 0 => m == g.active
        | 1 => m != 0
        | _ => m == g.active || m == 0
      g.writePred x.d x.w fun _ => c) s
  else
    runVec (.poll x) ⟨[], x.d.toNat, x.w, false, .x⟩ (fun g t =>
      let m := g.ballot p
      if x.mod == 3 then res32 (m.extractLsb' (32 * (t % 8)) 32) else res32 (BitVec.ofNat 32 (popCount 256 m.toNat))) s

/-- The running combination of A over the active threads in lane order (R206): each thread's value before and after its own
step, the final value and the flags. -/
def scanRun (op : Nat) (sgn : Bool) (fpm : DWord) (a : Nat → Word) : List Nat → Word → FFlags → List (Nat × Word × Word) × Word × FFlags
  | [], acc, fl => ([], acc, fl)
  | t :: l, acc, fl =>
    let (n, f) := scanStep op sgn fpm acc (a t)
    let (r, z, g) := scanRun op sgn fpm a l n (fl ||| f)
    ((t, acc, n) :: r, z, g)

def scanOf (g : Ctx) (x : V2) : List (Nat × Word × Word) × Word × FFlags :=
  let op := x.mod.toNat
  scanRun op x.s g.fpmode (fun t => lo32 (g.read (if op == 6 then .f32 else .int) false x.a t)) g.lanes (scanIdentity op x.s) 0

def execScan (x : V2) (s : State) :=
  runVec (.scan x) ⟨[⟨x.a, false⟩], x.d.toNat, x.w, false, .x⟩ (fun g =>
    let r := scanOf g x
    fun t => match r.1.lookup t with
      | some (before, after) => ⟨(if x.b.getLsbD 0 then before else after).setWidth 64, r.2.2⟩
      | none => ⟨0, 0⟩) s

def execLred (x : V2) (s : State) :=
  runVec (.lred x) ⟨[⟨x.a, false⟩], x.d.toNat, x.w, false, .x⟩ (fun g =>
    let r := scanOf g x
    fun _ => ⟨r.2.1.setWidth 64, r.2.2⟩) s

/-- The index register a MOVX or STX names. -/
def Ctx.ixOf (g : Ctx) (x : V2) : IxReg := g.ix[Fin.ofNat 4 x.mod.toNat]

/-- Threads whose index is at or beyond the window (R207), lowest first, with their indices. -/
def ixFaults (g : Ctx) (x : V2) : List (Nat × Cause × DWord) :=
  g.lanes.filterMap fun t =>
    let v := g.read .int false x.a t
    if (g.ixOf x).len.toNat ≤ v.toNat then some (t, .ixBounds, v) else none

/-- The guards and traps that MOVX and STX share (R174, R207). -/
def indexed (i : Instr) (x : V2) (body : State → Nat → Group → Eff) (s : State) (gi : Nat) (g : Group) : Eff :=
  if !g.ctx.latchesOk [⟨x.a, false⟩, ⟨x.b, false⟩] then .trap (trapOf i g .illegalOperand)
  else match firstLaneCause (ixFaults g.ctx x) with
    | some (c, a, m) => .trap (trapAt i g c a m false)
    | none => body s gi g

/-- The main registers that the active threads of a MOVX or STX name (R174), once its index operand can be read. -/
def State.namedMain (s : State) (x : V2) : BitVec 256 :=
  match s.issuing with
  | some g =>
    let a : Src := ⟨x.a, false⟩
    let c := g.ctx.begin { latches := srcLatches [a] }
    if (g.guards { ents := a.ents }).isEmpty then
      BitVec.ofNat 256 (c.lanes.foldl (fun m t =>
        let k := (c.read .int false x.a t).toNat
        if k < (c.ixOf x).len.toNat then m ||| 2 ^ ((c.ixOf x).base.toNat + k) else m) 0)
    else 0
  | none => 0

/-- MOVX reads v[b + idx], or the entry that maps it (R150, R207). -/
def execMovx (x : V2) (s : State) :=
  let v : VecOp := ⟨[⟨x.a, false⟩], x.d.toNat, x.w, false, .x⟩
  runInstr (.movx x) { v.usesAt (.movx x) s with main := s.namedMain x } s fun s gi g =>
    if !g.ctx.mappedAll v.dest then .trap (trapOf (.movx x) g .illegalOperand)
    else indexed (.movx x) x (vecBody (.movx x) v fun c t =>
      res32 ((c.readMain ((c.ixOf x).base.toNat + (c.read .int false x.a t).toNat)).at t)) s gi g

/-- STX writes Main[t][b + idx], or the entry that maps it, for each active thread, with the sources read in `r` (R150,
R207). -/
def Ctx.storeFrom (c r : Ctx) (x : V2) : Ctx :=
  let ix := r.ixOf x
  (List.range ix.len.toNat).foldl (fun y k =>
    let m := maskFn fun t => r.active.getLsbD t && (r.read .int false x.a t).toNat == k
    if m == 0 then y else y.writeMain (ix.base.toNat + k) m fun t => lo32 (r.read .int false x.b t)) c

def execStx (x : V2) (s : State) :=
  let l : List Src := [⟨x.a, false⟩, ⟨x.b, false⟩]
  runInstr (.stx x) { ents := srcEnts l, latches := srcLatches l, main := s.namedMain x } s
    (indexed (.stx x) x fun s gi g => .done (s.setCtx gi ((g.ctx.applyFrees.free (srcFrees l)).storeFrom g.ctx x)))

/-- PCOMB (R208). -/
def execPcomb (x : V2) (s : State) :=
  runPred (.pcomb x) [] (fun g =>
    let a (t : Nat) := g.pred (predOf x.a) t
    let b (t : Nat) := g.pred (predOf x.b) t
    g.writePred x.d x.w fun t => match x.mod.toNat with
      | 0 => a t && b t
      | 1 => a t || b t
      | 2 => a t != b t
      | _ => a t) s

end Sys2Proof.Machine
end

