-- ==== Sys2Proof/Machine/Control.lean ====
section
/-! DEFINITION. The CTL instructions but TRET: branches, the two stacks, regions, barriers, the ends of groups and threads, and
the replay regions of graphics groups (R44, R45, R64, R146, R147, R219 to R230, R477). -/

namespace Sys2Proof.Machine

/-! ## Branches and stacks -/

/-- A branch target: parcels from the instruction's own address (R137). -/
def branchTarget {n : Nat} (pc : DWord) (off : BitVec n) : DWord := pc + (off.signExtend 64) * 2

def execBra (sp : Sp) (off : BitVec 22) (s : State) :=
  runInstr (.bra sp off) {} s fun s _ g => .jump s (branchTarget g.ctx.pc off)

def execBrc (sp : Sp) (c : Fin 4) (sense : Bool) (off : BitVec 18) (s : State) :=
  runInstr (.brc sp c sense off) {} s fun s _ g =>
    if g.ctx.c[c] == sense then .jump s (branchTarget g.ctx.pc off) else .done s

/-- BRD (R44). -/
def execBrd (sp : Sp) (p : PredField) (off : BitVec 18) (joinOff : Word) (s : State) :=
  let i := Instr.brd sp p off joinOff
  runInstr i {} s fun s gi g =>
    let x := g.ctx
    if x.dstack.length ≥ 32 then .trap (trapOf i g .divStack)
    else
      let t := x.ballot p
      let next := x.pc + BitVec.ofNat 64 (instrBytes i)
      let e : DivEntry := { joinpc := branchTarget x.pc joinOff, outer := x.active, elsemask := x.active &&& ~~~t, elsepc := next, second := t == 0 }
      if t != 0 then .jump (s.setCtx gi { x with dstack := e :: x.dstack, active := t }) (branchTarget x.pc off)
      else .jump (s.setCtx gi { x with dstack := e :: x.dstack }) next

/-- JOIN (R44): what the paths' accesses have sent is performed before it is passed (R274). -/
def execJoin (sp : Sp) (s : State) :=
  runInstr (.join sp) {} s fun s gi g =>
    let x := g.ctx
    match x.dstack with
    | [] => .trap (trapOf (.join sp) g .divStack)
    | e :: l =>
      if x.pc != e.joinpc then .trap (trapOf (.join sp) g .divStack)
      else if !e.second && e.elsemask != 0 then
        .jump (s.setCtx gi { x with dstack := { e with second := true } :: l, active := e.elsemask }) e.elsepc
      else if s.outstanding gi then .wait s
      else .done (s.setCtx gi { x with dstack := l, active := e.outer })

/-- Pushes the return address and the divergence depth, then branches (R220). -/
def callBody (i : Instr) (target : DWord) (s : State) (gi : Nat) (g : Group) : Eff :=
  let x := g.ctx
  if x.cstack.length ≥ 64 then .trap (trapOf i g .divStack)
  else .jump (s.setCtx gi { x with cstack := ⟨x.pc + BitVec.ofNat 64 (instrBytes i), x.dstack.length⟩ :: x.cstack }) target

def execCall (sp : Sp) (off : BitVec 22) (s : State) :=
  runInstr (.call sp off) {} s fun s gi g => callBody (.call sp off) (branchTarget g.ctx.pc off) s gi g

def execCalli (sp : Sp) (k : BitVec 6) (s : State) :=
  runInstr (.calli sp k) { sregs := 1#64 <<< k.toNat } s fun s gi g =>
    let t := g.ctx.getS k.toNat
    if t.getLsbD 0 then .trap (trapAt (.calli sp k) g .align t 0 false) else callBody (.calli sp k) t s gi g

/-- RET at the depth its CALL recorded (R45, R220). -/
def execRet (sp : Sp) (s : State) :=
  runInstr (.ret sp) {} s fun s gi g =>
    let x := g.ctx
    match x.cstack with
    | [] => .trap (trapOf (.ret sp) g .divStack)
    | e :: l => if e.depth != x.dstack.length then .trap (trapOf (.ret sp) g .divStack) else .jump (s.setCtx gi { x with cstack := l }) e.ret

def execNop32 (sp : Sp) (s : State) := runInstr (.nop32 sp) {} s fun s _ _ => .done s

def execSetfpm (sp : Sp) (mode : BitVec 5) (s : State) :=
  runInstr (.setfpm sp mode) {} s fun s gi g => .done (s.setCtx gi { g.ctx with fpmode := mode.setWidth 64 })

/-! ## Regions (R146, R147) -/

/-- The item of a REGION that names an entry. -/
def regionItem (items : List RegionItem) (e : Nat) : Option RegionItem := items.find? fun it => it.entry.val == e

/-- The item keeps the entry's contents. -/
def regionKeeps (x : Ctx) (items : List RegionItem) (e : Nat) : Bool :=
  match regionItem items e with
  | some it => it.keep && (x.entry e).map == some it.v && (x.entry e).st != .free
  | none => false

/-- REGION's phase 1: DIRTY entries that are not kept go to their main registers. -/
def Ctx.regionBack (x : Ctx) (items : List RegionItem) : Ctx :=
  { x with main := (List.range 16).foldl (fun m e =>
      match x.entry e with
      | ⟨some v, .dirty, val⟩ => if regionKeeps x items e then m else m.set v.toNat val
      | _ => m) x.main }

/-- REGION's phase 2: the new map. -/
def Ctx.regionMap (x : Ctx) (items : List RegionItem) : Ctx :=
  { x with entries := Vector.ofFn fun e : Fin 16 =>
      match regionItem items e.val with
      | none => ⟨none, .free, Lanes.zero⟩
      | some it =>
        if regionKeeps x items e.val then x.entries[e]
        else if it.load then ⟨some it.v, .clean, x.mainReg it.v.toNat⟩
        else ⟨some it.v, .free, Lanes.zero⟩ }

def execRegion (sp : Sp) (items : List RegionItem) (s : State) :=
  let i := Instr.region sp items
  runInstr i { all := true, post := true } s fun s gi g =>
    if items.any fun it => g.regs ≤ it.v.toNat then .trap (trapOf i g .illegalOperand)
    else
      let x := g.ctx.applyFrees
      .done (s.setCtx gi ((x.regionBack items).regionMap items))

def execRegionu (sp : Sp) (items : List SlotItem) (s : State) :=
  runInstr (.regionu sp items) { sregs := items.foldl (fun m it => m ||| (1#64 <<< it.s.toNat)) 0 } s fun s gi g =>
    .done (s.setCtx gi { g.ctx with slots := items.foldl (fun v it => v.set it.w ⟨true, g.ctx.getS it.s.toNat⟩) g.ctx.slots })

/-- IXSET (R228). -/
def execIxset (sp : Sp) (ix : Fin 4) (base len : BitVec 8) (s : State) :=
  let i := Instr.ixset sp ix base len
  runInstr i {} s fun s gi g =>
    if base.toNat + len.toNat > g.regs then .trap (trapOf i g .illegalOperand)
    else .done (s.setCtx gi { g.ctx with ix := g.ctx.ix.set ix ⟨base, len⟩ })

/-! ## Barriers (R223 to R225) -/

/-- The wait of BAR: it consumes a phase change, or the group waits. -/
def barWaitBody (i : Instr) (nb : Nat) (s : State) (gi : Nat) (g : Group) : Eff :=
  if s.phaseReady g nb then .done (s.consumePhase gi nb)
  else
    .ended { s.modGroup gi fun g => { g with
        status := .barWait nb (g.ctx.pc + BitVec.ofNat 64 (instrBytes i))
        ctx := g.ctx.applyFrees.clearLatches
        since := s.free } with free := s.free + 1 }

def execBarArrive (sp : Sp) (nb : BitVec 4) (s : State) :=
  runInstr (.barArrive sp nb) { rel := true, post := true } s fun s gi _ => .done (s.modBarrier gi nb.toNat Barrier.arrive)

def execBarWait (sp : Sp) (nb : BitVec 4) (s : State) :=
  runInstr (.barWait sp nb) { post := true } s (barWaitBody (.barWait sp nb) nb.toNat)

def execBarArrivewait (sp : Sp) (nb : BitVec 4) (s : State) :=
  runInstr (.barArrivewait sp nb) { rel := true, post := true } s fun s gi _ =>
    let s := s.modBarrier gi nb.toNat Barrier.arrive
    match s.groups[gi]? with
    | some g => barWaitBody (.barArrivewait sp nb) nb.toNat s gi g
    | none => .ended s

def execBarinit (sp : Sp) (nb : BitVec 4) (count : BitVec 8) (s : State) :=
  runInstr (.barinit sp nb count) {} s fun s gi _ => .done (s.modBarrier gi nb.toNat fun b => b.expect count.toNat)

/-- YIELD parks the group without its slot (R148, R225). -/
def execYield (sp : Sp) (nb : BitVec 4) (off : BitVec 18) (s : State) :=
  runInstr (.yield sp nb off) { post := true } s fun s gi g =>
    .ended (s.setGroup gi { g with
      ctx := g.ctx.applyFrees.surrender, hasSlot := false, status := .yielded nb.toNat (branchTarget g.ctx.pc off) })

/-! ## CARVE (R227) -/

/-- Where a team's run would start with `n` granules, if it can be met. -/
def State.carveRun (s : State) (t : Team) (n : Nat) : Option Nat :=
  if s.l1Len t.core < n - t.scrLen + 8 then none
  else if t.scrLen == 0 then s.l1Run t.core n
  else if s.inL1 t.core (t.scrBase + t.scrLen) (n - t.scrLen) then some t.scrBase else none

def execCarve (sp : Sp) (nb : BitVec 4) (k : BitVec 6) (s : State) :=
  let i := Instr.carve sp nb k
  runInstr i { sregs := 1#64 <<< k.toNat } s fun s gi g =>
    let n := (g.ctx.getS k.toNat).toNat
    if n > 32 then .trap (trapOf i g .illegalOperand)
    else
      match s.teams[g.team]? with
      | none => .trap (trapOf i g .carveDenied)
      | some t =>
        if t.twin.isSome || t.taskQ != 0 || t.carve.isSome then .trap (trapOf i g .carveDenied)
        else if n == t.scrLen then .done (s.modBarrier gi nb.toNat Barrier.arrive)
        else if n < t.scrLen then .done ({ s with free := s.free + 1 }.modTeam g.team fun t => { t with carve := some (nb.toNat, n, t.scrBase), carveAt := s.free })
        else match s.carveRun t n with
          | none => .trap (trapOf i g .carveDenied)
          | some b => .done ((s.modTeam g.team fun t => { t with carve := some (nb.toNat, n, b) }).shrinkL1 t.core)

/-! ## SPAWN (R64) -/

def execSpawn (sp : Sp) (k : BitVec 6) (entry : BitVec 16) (s : State) :=
  let i := Instr.spawn sp k entry
  runInstr i { sregs := 1#64 <<< k.toNat } s fun s gi g =>
    let n := (g.ctx.getS k.toNat).toNat
    match s.launches[g.launch]? with
    | none => .trap (trapOf i g .spawnEmpty)
    | some l =>
      if n == 0 || n > 32 || l.kernel.entries ≤ entry.toNat then .trap (trapOf i g .illegalOperand)
      else if s.poolTotal g.core g.launch < n then .trap (trapOf i g .spawnEmpty)
      else
        match s.devRead g.job (l.kernel.entryTable + BitVec.ofNat 64 (8 * entry.toNat)) 8 with
        | .fail c va => .trap (trapAt i g c va 0 false)
        | .wait => .wait s
        | .ok pc =>
          match spawnGroups gi g (BitVec.ofNat 64 pc) l n 0 s with
          | some s => .done (s.acquire g.core 31)
          | none => .wait s

/-! ## Ends (R221, R230, R477) -/

/-- o0 and o1 of a lane, which a combiner's reply holds (R307). -/
def Ctx.replyWords (x : Ctx) (t : Nat) : List Word := [(x.entry 0).at t, (x.entry 1).at t]

/-- A grid whose group has ended without handing its records over produces no micropolygon (R365). -/
def State.gridEnds (s : State) (gi : Nat) : State :=
  match (s.groups[gi]?).bind (·.gfx) with
  | some x => s.modPass x.pass fun p => { p with grids := p.grids.map fun q =>
      if (q.grp == some gi) && q.verts.isNone then { q with verts := some (0, []) } else q }
  | none => s

/-- EXIT waits: a combiner's for its requests (R305), a graphics group's for the writes that come before its releases, and for its commit
(R384, R409). -/
def State.exitWaits (s : State) (gi : Nat) (g : Group) : Bool :=
  if g.kind == .combiner then s.outstanding gi else g.gfx.isSome && (s.outstanding gi || s.commitWaits gi)

/-- EXIT's work: a combiner scatters its replies, a graphics group commits and releases its reservations, and the group ends (R221,
R307, R384, R477). -/
def exitBody (s : State) (gi : Nat) (g : Group) : Eff :=
  if s.exitWaits gi g then .wait s
  else if g.kind == .combiner then .ended (combinerExit s gi g.ctx.replyWords)
  else
    match commitHeld s gi with
    | (s, some t) => .trapFrom s t
    | (s, none) =>
      let s := (s.releaseLanes gi (BitVec.allOnes 256)).setCtx gi (match s.groups[gi]? with | some g => g.ctx.writeBack | none => g.ctx)
      .ended (endGroup (s.gridEnds gi) gi)

/-- A combiner's EXIT reads o0 and o1 (R307). -/
def exitUses (s : State) : Uses :=
  match s.issuing with
  | some g => if g.kind == .combiner then { ents := 3, post := true } else { post := true, eng := true }
  | none => {}

def execExit (sp : Sp) (s : State) := runInstr (.exit sp) (exitUses s) s exitBody

/-- The divergence stack and address at which a group without active threads goes on (R230): the innermost JOIN whose pending path
has threads. -/
def pendingJoin : List DivEntry → Option (List DivEntry)
  | [] => none
  | e :: l => if (!e.second && e.elsemask != 0) || e.outer != 0 then some (e :: l) else pendingJoin l

/-- KILL (R230): the group's threads, and in a graphics group their fragments (R387). -/
def execKill (sp : Sp) (p : PredField) (s : State) :=
  let i := Instr.kill sp p
  runInstr i {} s fun s gi g =>
    let k := g.ctx.ballot p
    let clear (x : Ctx) : Ctx :=
      { x with active := x.active &&& ~~~k, killed := x.killed ||| k,
               dstack := x.dstack.map fun e => { e with outer := e.outer &&& ~~~k, elsemask := e.elsemask &&& ~~~k } }
    let n := (g.ctx.lanes.filter fun t => k.getLsbD t).length
    let held : Eff := if g.gfx.isNone || n == 0 then .done s
      else match holdOr s gi g (4 * n) [.discard k] (fun s => .done (s.releaseLanes gi k)) with
        | .done s => .done (s.modGfx gi fun x => { x with leaving := if x.inRegion then x.leaving ||| k else x.leaving })
        | e => e
    match held with
    | .done s =>
      let s := s.modGroup gi fun g => { g with ctx := clear g.ctx }
      (match s.groups[gi]? with
       | none => .ended s
       | some g =>
         if g.ctx.active != 0 then .done s
         else match pendingJoin g.ctx.dstack with
           | some (e :: l) => .jump (s.setCtx gi { g.ctx with dstack := e :: l }) e.joinpc
           | _ => exitBody s gi g)
    | e => e

/-- TRAP (R229): its own effect is to enter the handler. -/
def execTrap (sp : Sp) (code : BitVec 16) (s : State) :=
  runInstr (.trap sp code) {} s fun _ _ g => .trap { trapOf (.trap sp code) g .softTrap with code := code }

/-- BKPT halts the group where a debugger has armed its core, and enters the handler otherwise (R229, R425). -/
def execBkpt (sp : Sp) (s : State) :=
  runInstr (.bkpt sp) {} s fun s gi g =>
    if (s.core g.core).debugArmed then .done (s.modGroup gi fun g => { g with status := .halted })
    else .trap (trapOf (.bkpt sp) g .breakpoint)

/-- The group's team is being pre-empted. -/
def State.preempting (s : State) (g : Group) : Bool := match s.teams[g.team]? with | some t => t.preempt | none => false

/-- IDEM start (R477): it commits, takes the snapshot, and a kill that waited takes effect (R479). -/
def execIdemStart (sp : Sp) (s : State) :=
  runInstr (.idemStart sp) {} s fun s gi g =>
    if g.gfx.isNone then .done s
    else if s.commitWaits gi then .wait s
    else
      match commitHeld s gi with
      | (s, some t) => .trapFrom s t
      | (s, none) =>
        let s := s.snapshot gi (g.ctx.pc + BitVec.ofNat 64 (instrBytes (.idemStart sp)))
        if s.preempting g then .ended (killForReplay s gi) else .done s

/-- IDEM commit (R477). -/
def execIdemCommit (sp : Sp) (s : State) :=
  runInstr (.idemCommit sp) {} s fun s gi g =>
    if g.gfx.isNone then .done s
    else if s.commitWaits gi then .wait s
    else
      match commitHeld s gi with
      | (s, some t) => .trapFrom s t
      | (s, none) => .done (s.modGfx gi fun x => { x with inRegion := false })

end Sys2Proof.Machine
end

