-- ==== Sys2Proof/Machine/MemVec.lean ====
section
/-! DEFINITION. The MEM instructions: global, strong, scratchpad and private accesses of every lane, prefetch and FENCE (R231 to
R242), and method requests (R297 to R309). -/

namespace Sys2Proof.Machine

/-! ## Operands -/

/-- The address of a lane (R231) for an access of `n` bytes. -/
def memAddr (x : Mem) (n : Nat) (c : Ctx) (t : Nat) : DWord :=
  let a := c.read .int (x.m == 1) x.a t
  let base := c.slot x.g.toNat
  match x.m.toNat with
  | 0 => base + a
  | 1 => a
  | 2 => base + a * BitVec.ofNat 64 n
  | _ => base + a + (x.disp.getD 0).signExtend 64

/-- The offset of a scratchpad or private access (R237, R238). -/
def scratchAddr (x : Mem) (c : Ctx) (t : Nat) : DWord := c.read .int false x.a t + (x.disp.getD 0).signExtend 64

def memLanes (x : Mem) (n : Nat) (g : Group) : List (Nat × DWord) := g.ctx.lanes.map fun t => (t, memAddr x n g.ctx t)
def scratchLanes (x : Mem) (g : Group) : List (Nat × DWord) := g.ctx.lanes.map fun t => (t, scratchAddr x g.ctx t)

/-- The entries that the data source of a store of `n` bytes frees (R143, R232). -/
def dataFrees (b : SrcField) (n : Nat) : BitVec 16 := if lastUse b then dataEnts b n else 0

/-- The bytes a lane sends, constants in the operation's type (R141, R232). -/
def dataBytesIn (k : Consts) (c : Ctx) (b : SrcField) (n t : Nat) : List (BitVec 8) :=
  if n == 16 then ((List.range 4).map fun i => leBytes 4 ((c.entry (selNat b + i)).at t).toNat).flatten
  else leBytes n (c.read k (n == 8) b t).toNat
/-- The bytes a lane stores (R232). -/
def dataBytes : Ctx → SrcField → Nat → Nat → List (BitVec 8) := dataBytesIn .int

/-- The constants of an atomic's operand: its binary32 operations have ±1.0 (R141, R234). -/
def atomConsts (op : Nat) : Consts := if op ≥ 11 then .f32 else .int

/-- The compare value of a cas (R235, R237). -/
def casEntry (x : Mem) (n : Nat) : Nat := selNat x.a + (if n == 8 || x.m == 1 then 2 else 1)
def casValue (x : Mem) (n : Nat) (c : Ctx) (t : Nat) : Nat :=
  let e := casEntry x n
  ((c.entry e).at t).toNat + (if n == 8 then 2 ^ 32 * ((c.entry (e + 1)).at t).toNat else 0)

/-- What a MEM instruction reads, writes and frees: its address source, data of `n` bytes, destination and compare entries. -/
structure MemOp where
  addr : Src
  data : Option (SrcField × Nat)
  dest : BitVec 16
  other : BitVec 16 := 0
  rel : Bool := false
  deriving DecidableEq, Repr

def MemOp.srcs (m : MemOp) : List Src := m.addr :: match m.data with | some (b, n) => [⟨b, n == 8⟩] | none => []
def MemOp.uses (m : MemOp) : Uses :=
  { ents := m.addr.ents ||| (match m.data with | some (b, n) => dataEnts b n | none => 0) ||| m.dest ||| m.other
    latches := srcLatches m.srcs, rel := m.rel }
def MemOp.frees (m : MemOp) : BitVec 16 := m.addr.frees ||| (match m.data with | some (b, n) => dataFrees b n | none => 0)

/-- Runs a MEM instruction: latches valid and destinations mapped (R142, R145), then its own work; its sources are freed when it
has issued (R143). -/
def runMem (i : Instr) (m : MemOp) (body : State → Nat → Group → Eff) (s : State) : Host.Outcome State Fault Refusal :=
  runInstr i m.uses s fun s gi g =>
    if !g.ctx.latchesOk m.srcs then .trap (trapOf i g .illegalOperand)
    else if !g.ctx.mappedAll m.dest then .trap (trapOf i g .illegalOperand)
    else
      match body s gi g with
      | .done s => .done (s.modGroup gi fun g => { g with ctx := g.ctx.free m.frees })
      | e => e

/-! ## Loads and stores -/

/-- A load of `n` bytes into entries from D. -/
def runLoad (i : Instr) (x : Mem) (n : Nat) (sgn park past rel : Bool) (acq : Option (BitVec 5)) (s : State) :=
  runMem i { addr := memSrc x, data := none, dest := valueEnts x.d.toNat n, rel := rel } (fun s gi g =>
    loadBody i (memLanes x n g) false n (loadWords n sgn) (.entries x.d.toNat (max 1 (n / 4))) park past acq s gi g) s

/-- The bytes of the release buffer a lane's store takes (R478). -/
def heldSize (n : Nat) : Nat := if n == 16 then 32 else 16

/-- A global store: held in a replay region when `held`, else performed (R266, R478); the store hash steps for every lane (R318). Lanes
done before a retry are not performed again (R461). -/
def storeBody (i : Instr) (held : Bool) (lanes : List (Nat × DWord)) (uniform : Bool) (n : Nat) (data : Nat → List (BitVec 8))
    (s : State) (gi : Nat) (g : Group) : Eff :=
  match s.checkLanes g .write false n (g.undone lanes) with
  | .trap c va m =>
    let (first, s') := s.someFirst (g.undone lanes)
    let l := s.passing g n first
    let l := if (held && g.inRegion) || s.holdsBack gi g l then [] else l.filter fun a => !s.peerRefused g.job a.pa
    .trapFrom (s'.storeLanes gi g data l)
      { accessInfo i g c va (if uniform then 0 else m) true with done := maskOf (l.map fun a => a.lane) }
  | .pri _ => .await s
  | .park va => accessTrap i g .xlate va 0 true
  | .ok l =>
    if s.holdsBack gi g l then .wait s
    else
      let hash (s : State) : State := s.modGroup gi fun g => g.hashed (lanes.map fun p => (p.2, data p.1))
      let bad := l.filter fun a => s.peerRefused g.job a.pa
      let refuse (s : State) : State := if bad.isEmpty then s else s.modGroup gi fun g => g.refused i lanes data bad
      let s := l.foldl (fun s a => s.tlbFill g.core g.job a.va) s
      if held && g.inRegion then
        let good := l.filter fun a => !bad.contains a
        let ord := storeOrder s.free (fun a => a.lane) (fun a => a.pa) good
        let s := { s with free := s.free + 1 }
        match makeRoom s gi g (heldSize n * l.length) with
        | .wait => .wait s
        | .trap s t => .trapFrom s t
        | .ok s => .done (hash (refuse (s.addHeld gi (heldSize n * l.length) (ord.map fun a => .store a.pa (data a.lane) false a.va))))
      else .done (hash (refuse (s.storeLanes gi g data l)))

def runStore (i : Instr) (x : Mem) (n : Nat) (held rel : Bool) (s : State) :=
  runMem i { addr := memSrc x, data := some (x.b, n), dest := 0, rel := rel } (fun s gi g =>
    storeBody i held (memLanes x n g) false n (fun t => dataBytes g.ctx x.b n t) s gi g) s

def execLd8 (x : Mem) (s : State) := runLoad (.ld8 x) x 1 false false false false none s
def execLd8s (x : Mem) (s : State) := runLoad (.ld8s x) x 1 true false false false none s
def execLd16 (x : Mem) (s : State) := runLoad (.ld16 x) x 2 false false false false none s
def execLd16s (x : Mem) (s : State) := runLoad (.ld16s x) x 2 true false false false none s
def execLd32 (x : Mem) (s : State) := runLoad (.ld32 x) x 4 false false false false none s
def execLd64 (x : Mem) (s : State) := runLoad (.ld64 x) x 8 false false false false none s
def execLd128 (x : Mem) (s : State) := runLoad (.ld128 x) x 16 false false false false none s

def execSt8 (x : Mem) (s : State) := runStore (.st8 x) x 1 true false s
def execSt16 (x : Mem) (s : State) := runStore (.st16 x) x 2 true false s
def execSt32 (x : Mem) (s : State) := runStore (.st32 x) x 4 true false s
def execSt64 (x : Mem) (s : State) := runStore (.st64 x) x 8 true false s
def execSt128 (x : Mem) (s : State) := runStore (.st128 x) x 16 true false s

/-- LDA reads past L1 when its mask is not 0 (R278). -/
def execLda (x : Mem) (o : Order) (s : State) :=
  runLoad (.lda x o) x (sizeBytes o.size) false false (o.mask != 0) (releases o.ord && o.ord == 4)
    (if acquires o.ord then some o.mask else none) s

def execStl (x : Mem) (o : Order) (s : State) := runStore (.stl x o) x (sizeBytes o.size) false (releases o.ord) s

/-- LDPK: the size stands in B; a non-resident page parks the group (R240). -/
def execLdpk (x : Mem) (s : State) :=
  runLoad (.ldpk x) x (sizeBytes (BitVec.ofNat 2 x.b.toNat)) false true false false none s

/-! ## Atomics (R234, R235) -/

/-- The lanes of a vector atomic: address, operand and compare value. -/
def atomLanes (x : Mem) (o : Order) (n : Nat) (g : Group) (addr : Nat → DWord) : List (Nat × DWord × Nat × Nat) :=
  g.ctx.lanes.map fun t =>
    (t, addr t, leNat (dataBytesIn (atomConsts o.aop.toNat) g.ctx x.b n t), if o.aop == 10 then casValue x n g.ctx t else 0)

def atomOp (x : Mem) (o : Order) (ret : Bool) : MemOp :=
  let n := sizeBytes o.size
  { addr := memSrc x, data := some (x.b, n), dest := if ret then valueEnts x.d.toNat n else 0
    other := if o.aop == 10 then valueEnts (casEntry x n) n else 0, rel := releases o.ord }

def execAtom (x : Mem) (o : Order) (s : State) :=
  let n := sizeBytes o.size
  runMem (.atom x o) (atomOp x o true) (fun s gi g =>
    atomBody (.atom x o) o n (atomLanes x o n g (memAddr x n g.ctx)) false true (.entries x.d.toNat (n / 4)) s gi g) s

def execRed (x : Mem) (o : Order) (s : State) :=
  let n := sizeBytes o.size
  runMem (.red x o) (atomOp x o false) (fun s gi g =>
    atomBody (.red x o) o n (atomLanes x o n g (memAddr x n g.ctx)) false false .none s gi g) s

/-! ## Method requests (R236, R297 to R300) -/

/-- The requester identity (R298). -/
def requesterId (post : Bool) (g : Group) (lane : Nat) : Word :=
  BitVec.ofNat 32 ((if post then 2 ^ 21 else 0) + 2 ^ 15 * (g.core % 64) + 2 ^ 8 * ((g.part * 32 + g.rslot) % 128) + lane % 256)

/-- What another device answers a forwarded request (R419): its object and its code are there, so the answer is free (log 18). -/
def peerAnswer (post pair : Bool) (base : DWord) (r : Nat) : Except (Cause × DWord) (List Word) :=
  match r % 5 with
  | 0 => .ok (if post then [] else [BitVec.ofNat 32 (r / 8)])
  | 1 => .ok (if post then [] else if pair then [BitVec.ofNat 32 (r / 8), BitVec.ofNat 32 (r / 2 ^ 40)] else [BitVec.ofNat 32 (r / 8)])
  | 2 => .error (.illegalOperand, base)
  | 3 => .error (.objPoisoned, base)
  | _ => .error (.combiner, base)

/-- The address may name an object: cacheable device memory here or at a peer (R292, R419). -/
def State.objectMem (s : State) (a : LaneAcc) : Bool :=
  a.cacheable && match target s.gddrTop (a.pa % 2 ^ 52) with | .gddr => true | .direct _ => true | .peer _ => true | _ => false

/-- A request waits for an acquire, the room of its core, the group's own atomics in the object's bytes, or a peer port (R1, R309). -/
def State.holdsMethod (s : State) (gi : Nat) (g : Group) (l : List LaneAcc) : Bool :=
  g.acquiring || s.coreFull g.core l.length || l.any fun a =>
    s.peerWaits g.job a.pa || s.atomics.any fun r => r.grp == some gi && a.pa ≤ r.pa && r.pa < a.pa + 4096

/-- The request of a lane. -/
def methodReq (s : State) (gi : Nat) (g : Group) (o : Order) (n k : Nat) (post pair : Bool) (a : LaneAcc) (arg : DWord) : MethodReq :=
  { job := g.job, base := a.va, method := o.method.toNat, bytes := n, arg := arg, ident := requesterId post g a.lane, post := post,
    pair := pair, src := .lane gi k a.lane, pa := a.pa, order := 0, stamp := (s.core g.core).stamp, core := g.core,
    rslot := g.part * 32 + g.rslot, logged := g.kind != .combiner }

/-- Answers the lanes whose request went to another device: refused (R417), or as that device answers. -/
def peerReplies (s : State) (gi : Nat) (g : Group) (k : Nat) (post pair : Bool) : List LaneAcc → State
  | [] => s
  | a :: l =>
    let (r, s) := s.take
    let x := if s.peerRefused g.job a.pa then .error (.perm, a.va) else peerAnswer post pair a.va r
    peerReplies ((s.sendAt a.pa 3).answer gi k a.lane x) gi g k post pair l

/-- CALLM and POSTM (R236, R297). Lanes done before a retry are not sent (R461). Their address needs no alignment of its own: one that is no base is refused at the home (R257, R300). -/
def methodBody (i : Instr) (x : Mem) (o : Order) (post : Bool) (s : State) (gi : Nat) (g : Group) : Eff :=
  let n := sizeBytes o.size
  let lanes := memLanes x n g
  let todo := g.undone lanes
  let pair := !post && x.d.toNat % 2 == 0 && (g.ctx.entry (x.d.toNat + 1)).map.isSome
  let arg (t : Nat) : DWord := BitVec.ofNat 64 (leNat (dataBytes g.ctx x.b n t))
  let isPeer (a : LaneAcc) : Bool := match target s.gddrTop a.pa with | .peer _ => true | _ => false
  let send (s : State) (k : Nat) (l : List LaneAcc) : State :=
    peerReplies { s with methods := s.methods ++
      (l.filter fun a => !isPeer a).map fun a => methodReq s gi g o n k post pair a (arg a.lane) } gi g k post pair (l.filter isPeer)
  let trap (c : Cause) (va : DWord) (m : LaneMask) : Eff :=
    let (first, s') := s.someFirst todo
    let l := (s.passing g 1 first).filter s.objectMem
    if l.isEmpty || s.holdsMethod gi g l then .trapFrom s' (accessInfo i g c va m true)
    else .wait (send (s'.setGroup gi (g.sendFirst i l)) 32 l)
  match s.checkLanes g .write false 1 todo with
  | .trap c va m => trap c va m
  | .pri _ => .await s
  | .park va => accessTrap i g .xlate va 0 true
  | .ok l =>
    match firstLaneCause ((l.filter fun a => !s.objectMem a).map fun a => (a.lane, .perm, a.va)) with
    | some (c, va, m) => trap c va m
    | none =>
      if s.holdsMethod gi g l then .wait s
      else
        let p := pendOf i g (if post then .none else .entries x.d.toNat (if pair then 2 else 1)) (maskOf (lanes.map fun a => a.1)) true
        let p := { p with
          vals := (lanes.filter fun a => g.doneLanes.getLsbD a.1).map fun a => (a.1, if post then [] else wordsOf 8 (g.savedReply a.1))
          addrs := lanes
          data := lanes.map fun a => (a.1, (arg a.1).setWidth 128)
          acq := if !post && acquires o.ord then some o.mask else none }
        let s := l.foldl (fun s a => s.tlbFill g.core g.job a.va) s
        if post then
          .done (send (s.setGroup gi { g with
            posts := if l.isEmpty then g.posts else g.posts ++ [(g.postSeq, p)], postSeq := g.postSeq + 1 }) (33 + g.postSeq) l)
        else
          match g.freeSlot with
          | none => .wait s
          | some k => .done (send (s.setGroup gi (g.setSlot k (some p))) k l)

def execCallm (x : Mem) (o : Order) (s : State) :=
  runMem (.callm x o) { addr := memSrc x, data := some (x.b, sizeBytes o.size), dest := entRange x.d.toNat 1
                        other := if x.d.toNat % 2 == 0 then entRange x.d.toNat 2 else 0, rel := releases o.ord }
    (methodBody (.callm x o) x o false) s

def execPostm (x : Mem) (o : Order) (s : State) :=
  runMem (.postm x o) { addr := memSrc x, data := some (x.b, sizeBytes o.size), dest := 0, rel := releases o.ord }
    (methodBody (.postm x o) x o true) s

/-! ## Scratchpad (R237) -/

/-- First byte of the group's scratchpad in the core array and its size (R25). -/
def State.scratchOf (s : State) (g : Group) : Nat × Nat :=
  match s.teams[g.team]? with
  | some t => (t.scrBase * 65536, t.scrLen * 65536)
  | none => (0, 0)

/-- The lanes' cause, if any: alignment, then the size (R237). -/
def scratchCause (n size : Nat) (lanes : List (Nat × DWord)) : Option (Cause × DWord × LaneMask) :=
  firstLaneCause (lanes.filterMap fun p =>
    if p.2.toNat % n != 0 then some (p.1, .align, p.2) else if p.2.toNat + n > size then some (p.1, .perm, p.2) else none)

/-- The bytes of the group's held scratchpad stores lie over the array (R478). -/
def heldScratch (held : List Held) (a : Nat) (b : BitVec 8) : BitVec 8 :=
  held.foldl (fun b h => match h with
    | .scratch p bs => if p ≤ a && a < p + bs.length then bs.getD (a - p) 0 else b
    | _ => b) b

/-- The `n` bytes at an offset of the core array as the group reads them. -/
def State.scratchBytes (s : State) (g : Group) (a n : Nat) : List (BitVec 8) :=
  let bs := (s.core g.core).arrayBytes g.core a n
  match g.gfx with
  | some x => bs.mapIdx fun i b => heldScratch x.held (a + i) b
  | none => bs



/-- A load whose lanes have all returned: a scoreboard slot guards its destination (R149). -/
def placeLoad (i : Instr) (g : Group) (dest : Dest) (vals : List (Nat × List Word)) (s : State) (gi : Nat) : Eff :=
  match g.freeSlot with
  | none => .wait s
  | some k =>
    .done (s.setGroup gi (g.setSlot k (some { pendOf i g dest (maskOf (vals.map fun v => v.1)) false with vals := vals })))

def execLds (x : Mem) (s : State) :=
  let n := x.scratchBytes
  runMem (.lds x) { addr := ⟨x.a, false⟩, data := none, dest := valueEnts x.d.toNat n } (fun s gi g =>
    let (base, size) := s.scratchOf g
    match scratchCause n size (scratchLanes x g) with
    | some (c, a, m) => .trap (trapAt (.lds x) g c a m false)
    | none =>
      if g.acquiring then .wait s
      else placeLoad (.lds x) g (.entries x.d.toNat (max 1 (n / 4)))
        ((scratchLanes x g).map fun p => (p.1, loadWords n false (s.scratchBytes g (base + p.2.toNat) n))) s gi) s

/-- STS (R237, R318). Lanes done before a retry are not stored again, and lanes without a cause may be before a trap (R461). -/
def execSts (x : Mem) (s : State) :=
  let n := x.scratchBytes
  runMem (.sts x) { addr := ⟨x.a, false⟩, data := some (x.b, n), dest := 0 } (fun s gi g =>
    let (base, size) := s.scratchOf g
    let lanes := scratchLanes x g
    let todo := g.undone lanes
    let put (l : List (Nat × DWord)) (s : State) : State :=
      l.foldl (fun s p => s.modCore g.core fun c => c.arraySet (base + p.2.toNat) (dataBytes g.ctx x.b n p.1)) s
    match scratchCause n size todo with
    | some (c, a, m) =>
      let (first, s') := s.someFirst todo
      let l := if g.inRegion || g.acquiring then [] else first.filter fun p => (scratchCause n size [p]).isNone
      .trapFrom (put l s') { trapAt (.sts x) g c a m true with done := maskOf (l.map fun p => p.1) }
    | none =>
      if g.acquiring then .wait s
      else
        let ord := storeOrder s.free (fun (p : Nat × DWord) => p.1) (fun p => p.2.toNat) todo
        let s := { s with free := s.free + 1 }
        let hash (s : State) : State := s.modGroup gi fun h => h.hashed (lanes.map fun p => (p.2, dataBytes g.ctx x.b n p.1))
        match holdOr s gi g (heldSize n * todo.length)
            (ord.map fun p => .scratch (base + p.2.toNat) (dataBytes g.ctx x.b n p.1)) (fun s => .done (put ord s)) with
        | .done s => .done (hash s)
        | e => e) s

/-- Applies the lanes of ATOMS in ascending order (R237): the core and each lane's old value. -/
def scratchAtoms (core base op n : Nat) : List (Nat × DWord × Nat × Nat) → Core → Core × List (Nat × List Word)
  | [], c => (c, [])
  | (t, a, v, cmp) :: l, c =>
    let old := leNat (c.arrayBytes core (base + a.toNat) n)
    let c' := match atomNew op n old v cmp with
      | some new => c.arraySet (base + a.toNat) (leBytes n new)
      | none => c
    let (c'', r) := scratchAtoms core base op n l c'
    (c'', (t, wordsOf n old) :: r)

/-- ATOMS (R237). Lanes done before a retry are not performed again, and lanes without a cause may be before a trap (R461). -/
def execAtoms (x : Mem) (o : Order) (s : State) :=
  let n := x.scratchBytes
  runMem (.atoms x o) { addr := ⟨x.a, false⟩, data := some (x.b, n), dest := valueEnts x.d.toNat n
                        other := if o.aop == 10 then valueEnts (casEntry x n) n else 0, rel := releases o.ord } (fun s gi g =>
    let (base, size) := s.scratchOf g
    let lanes := atomLanes x o n g (scratchAddr x g.ctx)
    let todo := g.undone lanes
    let cause (l : List (Nat × DWord × Nat × Nat)) := scratchCause n size (l.map fun p => (p.1, p.2.1))
    match cause todo with
    | some (c, a, m) =>
      let (first, s') := s.someFirst todo
      let (k, vals) := scratchAtoms g.core base o.aop.toNat n (if g.acquiring then [] else first.filter fun p => (cause [p]).isNone) (s.core g.core)
      .trapFrom (s'.setCore g.core k) { accessInfo (.atoms x o) g c a m true with
        done := maskOf (vals.map fun v => v.1), replies := vals.map fun v => (v.1, BitVec.ofNat 128 (numOf v.2)) }
    | none =>
      if g.acquiring then .wait s
      else
        let (c, vals) := scratchAtoms g.core base o.aop.toNat n todo (s.core g.core)
        let old := (lanes.filter fun p => g.doneLanes.getLsbD p.1).map fun p => (p.1, wordsOf n (g.savedReply p.1))
        match placeLoad (.atoms x o) g (.entries x.d.toNat (n / 4)) (old ++ vals) s gi with
        | .done s => .done (s.setCore g.core c)
        | e => e) s

/-! ## Private memory (R238) -/

/-- The virtual address of byte `a` of thread `t`. -/
def Group.privateVa (g : Group) (t a : Nat) : DWord := g.area.getD 0 + BitVec.ofNat 64 (a / 4 * 1024 + t * 4 + a % 4)

/-- The pieces of a private access of a lane: virtual address, bytes, and place among the lane's bytes. -/
def privatePieces (g : Group) (n : Nat) (p : Nat × DWord) : List (DWord × Nat × Nat) :=
  if n < 4 then [(g.privateVa p.1 p.2.toNat, n, 0)] else (List.range (n / 4)).map fun i => (g.privateVa p.1 (p.2.toNat + 4 * i), 4, 4 * i)

/-- What the checks of a private access give. -/
inductive PrivChecked where
  | ok (l : List (Nat × List (LaneAcc × Nat × Nat)))
  | trap (c : Cause) (a : DWord) (m : LaneMask)
  | pri

/-- Checks every piece of every lane: alignment, PRIVLIMIT, then translation (R238, R453). Without a group area every access meets
STACK_LIMIT (R239). -/
def State.checkPrivate (s : State) (g : Group) (a : Access) (n : Nat) (lanes : List (Nat × DWord)) : PrivChecked :=
  let piece (t : Nat) (q : DWord × Nat × Nat) : Option (Nat × Cause × DWord) :=
    match s.xlate g.core g.job q.1 a false with | .fault c => some (t, c, q.1) | .miss => some (t, .xlate, q.1) | _ => none
  let cause (p : Nat × DWord) : Option (Nat × Cause × DWord) :=
    if g.area.isNone then some (p.1, .stackLimit, p.2)
    else if p.2.toNat % n != 0 then some (p.1, .align, g.privateVa p.1 p.2.toNat)
    else if p.2.toNat + n > g.privLimit then some (p.1, .stackLimit, p.2)
    else (privatePieces g n p).findSome? (piece p.1)
  match firstLaneCause (lanes.filterMap cause) with
  | some (c, va, m) => .trap c va m
  | none =>
    let got (p : Nat × DWord) : List (LaneAcc × Nat × Nat) := (privatePieces g n p).filterMap fun q =>
      match s.xlate g.core g.job q.1 a false with | .ok pa c => some (⟨p.1, q.1, pa, c⟩, q.2.1, q.2.2) | _ => none
    if lanes.all fun p => (got p).length == (privatePieces g n p).length then .ok (lanes.map fun p => (p.1, got p)) else .pri

def execLdp (x : Mem) (s : State) :=
  let n := x.scratchBytes
  runMem (.ldp x) { addr := ⟨x.a, false⟩, data := none, dest := valueEnts x.d.toNat n } (fun s gi g =>
    match s.checkPrivate g .read n (scratchLanes x g) with
    | .trap c a m => .trap (trapAt (.ldp x) g c a m false)
    | .pri => .await s
    | .ok l =>
      let accs := (l.map fun p => p.2).flatten
      if s.holdsBack gi g (accs.map fun a => a.1) then .wait s
      else
        let t := accs.foldl (fun t a => (t.tlbFill g.core g.job a.1.va).demandPrivate g.core gi (a.1.pa / 128) a.1.cacheable) s
        let bytes (q : List (LaneAcc × Nat × Nat)) : List (BitVec 8) := (q.map fun a => t.loadBytes gi g false a.1 a.2.1).flatten
        let bad := accs.filterMap fun a => t.loadCause g.job a.1 a.2.1
        match g.freeSlot with
        | none => .wait s
        | some k =>
          let p := pendOf (.ldp x) g (.entries x.d.toNat (max 1 (n / 4))) (maskOf (l.map fun p => p.1)) false
          .done (t.setGroup gi (g.setSlot k (some { p with
            vals := (l.filter fun q => !bad.any fun b => b.1 == q.1).map fun q => (q.1, loadWords n false (bytes q.2))
            causes := bad
            addrs := scratchLanes x g })))) s

/-- STP (R238, R318). Lanes done before a retry are not stored again, and lanes without a cause may be before a trap (R461). -/
def execStp (x : Mem) (s : State) :=
  let n := x.scratchBytes
  runMem (.stp x) { addr := ⟨x.a, false⟩, data := some (x.b, n), dest := 0 } (fun s gi g =>
    let lanes := scratchLanes x g
    let todo := g.undone lanes
    let piece (a : LaneAcc × Nat × Nat) : List (BitVec 8) := ((dataBytes g.ctx x.b n a.1.lane).drop a.2.2).take a.2.1
    let put (accs : List (LaneAcc × Nat × Nat)) (s : State) : State :=
      accs.foldl (fun s a =>
        if deniedPa a.1.pa then s.countDenied a.1.pa g.identity
        else s.privateStore a.1.cacheable g.core gi a.1.pa (piece a)) s
    match s.checkPrivate g .write n todo with
    | .trap c a m =>
      let (first, s') := s.someFirst todo
      let l := first.flatMap fun p => match s.checkPrivate g .write n [p] with | .ok l => l | _ => []
      let l := if g.inRegion || s.holdsBack gi g (l.flatMap fun p => p.2.map fun a => a.1) then [] else l
      .trapFrom (put (l.flatMap fun p => p.2) s') { trapAt (.stp x) g c a m true with done := maskOf (l.map fun p => p.1) }
    | .pri => .await s
    | .ok l =>
      let accs := (l.map fun p => p.2).flatten
      if s.holdsBack gi g (accs.map fun a => a.1) then .wait s
      else
        let s := accs.foldl (fun s a => s.tlbFill g.core g.job a.1.va) s
        match holdOr s gi g (heldSize n * todo.length) (accs.map fun a => .store a.1.pa (piece a) true a.1.va) (fun s => .done (put accs s)) with
        | .done s => .done (s.modGroup gi fun h => h.hashed (lanes.map fun p => (p.2, dataBytes g.ctx x.b n p.1)))
        | e => e) s

/-! ## Prefetch and fence (R241, R242) -/

/-- A line asked into the home vault: whether the vault has it already is free where this core has not asked for it, and whether it has
lost it since where it has (R241, R269, log 17). -/
def vaultLine (core line : Nat) (s : State) : State :=
  let (r, s) := s.take
  let asked := (s.core core).pfVault.contains line
  if r % 2 == 0 then s
  else s.modCore core fun k =>
    { k with
      pfIssued := k.pfIssued + 1
      pfUnused := if asked then k.pfUnused + 1 else k.pfUnused
      pfVault := if asked then k.pfVault else line :: k.pfVault }

/-- A line asked into L1: nothing where it is there. -/
def nearLine (core job line : Nat) (s : State) : State :=
  if ((s.core core).lineFind line).isSome then s
  else
    (s.allocLine core ⟨line, s.lineFor job line, false, false, 0⟩).modCore core fun k => { k with pfIssued := k.pfIssued + 1, pfLines := line :: k.pfLines }

/-- The line a lane's prefetch asks for: none where its address fails, its page has no home, or a combiner holds the line (R241,
R306). -/
def State.prefLine (s : State) (gi : Nat) (g : Group) (va : DWord) : Option Nat :=
  match s.xlate g.core g.job va .read false with
  | .ok pa c => if deniedPa pa || target s.gddrTop pa == .reg || !c || s.lockedFor gi pa || s.ownObject gi pa then none else some (pa / 128)
  | _ => none

/-- The lines of a PREF, each once. -/
def State.prefLines (s : State) (gi : Nat) (g : Group) (vas : List DWord) : List Nat :=
  vas.foldl (fun l va => match s.prefLine gi g va with | some k => if l.contains k then l else l ++ [k] | none => l) []

/-- PREF never faults past its encoding and its operands (R241, R464); its access size is 1 byte where it scales an index (DESIGN CHOICE,
log 53). -/
def execPref (x : Mem) (s : State) :=
  runMem (.pref x) { addr := memSrc x, data := none, dest := 0 } (fun s gi g =>
    let vas := (memLanes x 1 g).map (·.2)
    let lines := s.prefLines gi g vas
    let s := vas.foldl (fun s va => s.tlbFill g.core g.job va) s
    .done (lines.foldl (fun s k => if x.b.getLsbD 0 then vaultLine g.core k s else nearLine g.core g.job k s) s)) s

def execFence (x : Mem) (o : Order) (s : State) :=
  runInstr (.fence x o) { rel := true } s fun s _ g =>
    if g.acquiring then .wait s
    else .done (if acquires o.ord then s.acquire g.core o.mask else s)

end Sys2Proof.Machine
end

