-- ==== Sys2Proof/Machine/Uniform.lean ====
section
/-! DEFINITION. The UNI instructions (R213 to R218): uniform arithmetic, uniform memory accesses, special registers and the
lane-facing ops. -/

namespace Sys2Proof.Machine

/-! ## Shape -/

/-- The bits of uniform registers in a list. -/
def sregBits (l : List Nat) : BitVec 64 := l.foldl (fun m k => m ||| (1#64 <<< k)) 0

/-- Runs a UNI instruction that reads some registers and writes others. -/
def runUni (i : Instr) (reads writes : List Nat) (f : Ctx → Ctx) (s : State) : Host.Outcome State Fault Refusal :=
  runInstr i { sregs := sregBits (reads ++ writes) } s fun s gi g => .done (s.setCtx gi (f g.ctx))

/-- d := f a b. -/
def runUni2 (i : Instr) (x : Uni) (f : DWord → DWord → DWord) (s : State) :=
  runUni i [x.a.toNat, x.b.toNat] [x.d.toNat] (fun c => c.setS x.d.toNat (f (c.getS x.a.toNat) (c.getS x.b.toNat))) s

/-- d := f a. -/
def runUni1 (i : Instr) (x : Uni) (f : DWord → DWord) (s : State) :=
  runUni i [x.a.toNat] [x.d.toNat] (fun c => c.setS x.d.toNat (f (c.getS x.a.toNat))) s

/-- d := a constant. -/
def runUni0 (i : Instr) (x : Uni) (v : DWord) (s : State) := runUni i [] [x.d.toNat] (fun c => c.setS x.d.toNat v) s

/-- A floating-point result with its flags (R135). -/
def runUniF (i : Instr) (x : Uni) (f : Ctx → DWord → DWord → LaneRes) (s : State) :=
  runUni i [x.a.toNat, x.b.toNat] [x.d.toNat] (fun c =>
    let r := f c (c.getS x.a.toNat) (c.getS x.b.toNat)
    (c.setS x.d.toNat r.val).orFlags r.fl) s

/-! ## Arithmetic (R214) -/

def execSmov (x : Uni) (s : State) := runUni1 (.smov x) x id s
def execSadd (x : Uni) (s : State) := runUni2 (.sadd x) x (· + ·) s
def execSsub (x : Uni) (s : State) := runUni2 (.ssub x) x (· - ·) s
def execSmul (x : Uni) (s : State) := runUni2 (.smul x) x (· * ·) s
def execSmulhi (x : Uni) (s : State) := runUni2 (.smulhi x) x (mulHigh64 (!x.mod.getLsbD 0)) s
def execSand (x : Uni) (s : State) := runUni2 (.sand x) x (· &&& ·) s
def execSor (x : Uni) (s : State) := runUni2 (.sor x) x (· ||| ·) s
def execSxor (x : Uni) (s : State) := runUni2 (.sxor x) x (· ^^^ ·) s
def execSshl (x : Uni) (s : State) := runUni2 (.sshl x) x (fun a b => fShl true a (lo32 b)) s
def execSshr (x : Uni) (s : State) := runUni2 (.sshr x) x (fun a b => fShr true a (lo32 b)) s
def execSsar (x : Uni) (s : State) := runUni2 (.ssar x) x (fun a b => fSar true a (lo32 b)) s

/-- The smaller and the greater of two 64-bit values. -/
def smin64 (sgn : Bool) (a b : DWord) : DWord := if intOf64 sgn a ≤ intOf64 sgn b then a else b
def smax64 (sgn : Bool) (a b : DWord) : DWord := if intOf64 sgn a ≤ intOf64 sgn b then b else a

def execSmin (x : Uni) (s : State) := runUni2 (.smin x) x (smin64 (!x.mod.getLsbD 0)) s
def execSmax (x : Uni) (s : State) := runUni2 (.smax x) x (smax64 (!x.mod.getLsbD 0)) s

/-- The conditions of SCMP: 0 to 5 on signed values, 6 LT and 7 GE on unsigned values. -/
def scond (m : Nat) (a b : DWord) : Bool :=
  match m with
  | 6 => a.toNat < b.toNat
  | 7 => b.toNat ≤ a.toNat
  | m => icond m a.toInt b.toInt

def execScmp (x : Uni) (s : State) :=
  runUni (.scmp x) [x.a.toNat, x.b.toNat] [] (fun c =>
    c.setC x.d.toNat (scond x.mod.toNat (c.getS x.a.toNat) (c.getS x.b.toNat))) s

def execSsel (x : Uni) (s : State) :=
  runUni (.ssel x) [x.a.toNat, x.b.toNat] [x.d.toNat] (fun c =>
    c.setS x.d.toNat (if c.getC (x.mod.toNat % 4) != x.mod.getLsbD 2 then c.getS x.a.toNat else c.getS x.b.toNat)) s

def execSmovw (x : Uni) (k : Word) (s : State) :=
  runUni0 (.smovw x k) x (if x.mod.getLsbD 0 then k.setWidth 64 else k.signExtend 64) s
def execSmovd (x : Uni) (k : DWord) (s : State) := runUni0 (.smovd x k) x k s
def execSaddw (x : Uni) (k : Word) (s : State) := runUni1 (.saddw x k) x (· + k.signExtend 64) s

def execSfadd (x : Uni) (s : State) := runUniF (.sfadd x) x (fun c a b => fOp32 .add c.fpmode 0 false (lo32 a) (lo32 b)) s
def execSfmul (x : Uni) (s : State) := runUniF (.sfmul x) x (fun c a b => fOp32 .mul c.fpmode 0 false (lo32 a) (lo32 b)) s
def execSdadd (x : Uni) (s : State) := runUniF (.sdadd x) x (fun c a b => fOp64 .add c.fpmode 0 false a b) s
def execSdmul (x : Uni) (s : State) := runUniF (.sdmul x) x (fun c a b => fOp64 .mul c.fpmode 0 false a b) s

/-- SCVT: the B field is its control value, no register. -/
def execScvt (x : Uni) (s : State) :=
  runUni (.scvt x) [x.a.toNat] [x.d.toNat] (fun c =>
    let r := fCvt c.fpmode x.mod.toNat x.b (c.getS x.a.toNat)
    (c.setS x.d.toNat r.val).orFlags r.fl) s

def execSpopc (x : Uni) (s : State) := runUni1 (.spopc x) x (fun a => BitVec.ofNat 64 (popCount 64 a.toNat)) s
def execSclz (x : Uni) (s : State) := runUni1 (.sclz x) x (fun a => BitVec.ofNat 64 (leadingZeros 64 a.toNat)) s

/-! ## Uniform memory (R215) -/

/-- The two words of a uniform load of `n` bytes. -/
def uniWords (n : Nat) (sgn : Bool) (bs : List (BitVec 8)) : List Word :=
  let v := leNat bs
  wordsOf 8 (if sgn && v.testBit (8 * n - 1) then v + 2 ^ 64 - 2 ^ (8 * n) else v)

/-- SLD blocks the group until d is written. -/
def execSld (x : Uni) (s : State) :=
  let n := 2 ^ (x.mod.toNat % 4)
  runInstr (.sld x) { sregs := sregBits [x.a.toNat, x.b.toNat, x.d.toNat] } s fun s gi g =>
    loadBody (.sld x) [(0, g.ctx.getS x.a.toNat + g.ctx.getS x.b.toNat)] true n (uniWords n (x.mod.getLsbD 2)) (.sreg x.d.toNat) false
      false none s gi g

def execSlda (x : Uni) (o : Order) (s : State) :=
  let n := sizeBytes o.size
  runInstr (.slda x o) { sregs := sregBits [x.a.toNat, x.d.toNat], rel := releases o.ord && o.ord == 4 } s fun s gi g =>
    loadBody (.slda x o) [(0, g.ctx.getS x.a.toNat)] true n (uniWords n false) (.sreg x.d.toNat) false (o.mask != 0)
      (if acquires o.ord then some o.mask else none) s gi g

def execSst (x : Uni) (s : State) :=
  let n := 2 ^ (x.mod.toNat % 4)
  runInstr (.sst x) { sregs := sregBits [x.a.toNat, x.b.toNat, x.d.toNat] } s fun s gi g =>
    storeBody (.sst x) true [(0, g.ctx.getS x.a.toNat + g.ctx.getS x.b.toNat)] true n (fun _ => leBytes n (g.ctx.getS x.d.toNat).toNat)
      s gi g

def execSstl (x : Uni) (o : Order) (s : State) :=
  let n := sizeBytes o.size
  runInstr (.sstl x o) { sregs := sregBits [x.a.toNat, x.d.toNat], rel := releases o.ord } s fun s gi g =>
    storeBody (.sstl x o) false [(0, g.ctx.getS x.a.toNat)] true n (fun _ => leBytes n (g.ctx.getS x.d.toNat).toNat) s gi g

/-- SATOM: for cas the compare value is d as it stands before. -/
def execSatom (x : Uni) (o : Order) (s : State) :=
  let n := sizeBytes o.size
  runInstr (.satom x o) { sregs := sregBits [x.a.toNat, x.b.toNat, x.d.toNat], rel := releases o.ord } s fun s gi g =>
    let m := 2 ^ (8 * n)
    atomBody (.satom x o) o n [(0, g.ctx.getS x.a.toNat, (g.ctx.getS x.b.toNat).toNat % m, (g.ctx.getS x.d.toNat).toNat % m)] true true
      (.sreg x.d.toNat) s gi g

/-! ## Special registers (R218) -/

/-- WHORLRES of a core: a resident team of a NEVAL kernel on its pair (R28). -/
def State.whorlRes (s : State) (core : Nat) : Bool :=
  s.teams.any fun t => t.live && !t.saved && t.core / 2 == core / 2 && t.neval

/-- CARVEINFO as the group reads it (R26). -/
def State.carveInfo (s : State) (g : Group) : Nat :=
  match s.teams[g.team]? with
  | some t =>
    t.accBase % 16 + 2 ^ 8 * (t.accLen % 32) + 2 ^ 16 * (t.mainLen % 256) + 2 ^ 24 * (s.l1Len g.core % 256) + 2 ^ 32 * (t.scrLen % 256) +
      2 ^ 40 * (if t.scrLen == 0 then 0 else t.scrBase % 256) + 2 ^ 48 * (s.whorlRes g.core).toNat
  | none => 2 ^ 16 * ((s.core g.core).mainLen % 256) + 2 ^ 24 * (s.l1Len g.core % 256) + 2 ^ 48 * (s.whorlRes g.core).toNat

/-- PASSSTATUS of a pass (R358). -/
def Pass.status (p : Pass) : Nat :=
  p.live.toNat + 2 * p.block.immediate.toNat + 4 * p.poolEmpty.toNat + 16 * p.binflush.toNat + 32 * p.seqwrap.toNat + 64 * p.guard.toNat +
    128 * p.resolveFail.toNat + 256 * (p.sub % 256)

/-- The pass a group belongs to (R358). -/
def State.passOf (s : State) (g : Group) : Option Pass :=
  match g.gfx with
  | some x => s.passes[x.pass]?
  | none =>
    match s.launches[g.launch]? with
    | some l => (match l.pass with
      | some p => s.passes[p]?
      | none => ((l.queue.bind fun q => s.queues[q]?).bind fun q => q.pass).bind fun p => s.passes[p]?)
    | none => none

/-- A special register as the group reads it. -/
def State.special (s : State) (g : Group) (n : Nat) : Nat :=
  let team (f : Team → Nat) : Nat := match s.teams[g.team]? with | some t => f t | none => 0
  let launch (f : Launch → Nat) : Nat := match s.launches[g.launch]? with | some l => f l | none => 0
  match n with
  | 0 => g.number
  | 1 => team (·.x)
  | 2 => team (·.y)
  | 3 => team (·.z)
  | 4 => launch (·.dx)
  | 5 => launch (·.dy)
  | 6 => launch (·.dz)
  | 7 => launch (·.id)
  | 8 => g.core
  | 9 => g.core / 2
  | 10 => if g.core % 2 == 0 then 1 else 0
  | 11 => g.part
  | 12 => (s.core g.core).cycle.toNat
  | 13 => g.ctx.fpmode.toNat
  | 14 => g.ctx.fpflags.toNat
  | 15 => g.privLimit
  | 16 => s.carveInfo g
  | 17 => (s.jobSecure g.job).toNat
  | 18 => match s.passOf g with | some p => if p.live then p.status else 0 | none => 0
  | 19 => g.ctx.storehash.toNat
  | 20 => (s.core g.core).stamp.toNat
  | 21 => match g.gfx with | some x => x.patchId.toNat | none => 0
  | 22 => match g.gfx with | some x => x.gridU.toNat | none => 0
  | 23 => match g.gfx with | some x => x.gridV.toNat | none => 0
  | 24 => g.taskrec.toNat
  | _ => 0

/-- SREAD. The clock count of CYCLE has gone on since it was last read by an amount that is timing (log 10). -/
def execSread (x : Uni) (s : State) :=
  runInstr (.sread x) { sregs := sregBits [x.d.toNat] } s fun s gi g =>
    let s := if x.a == 12 then
        let (r, s) := s.take
        s.modCore g.core fun c => { c with cycle := c.cycle + 1 + BitVec.ofNat 64 (r % (2 ^ 64 - 1 - c.cycle.toNat)) }
      else s
    .done (s.setCtx gi (g.ctx.setS x.d.toNat (BitVec.ofNat 64 (s.special g x.a.toNat))))

/-- SWRITE: reserved bits of FPMODE and FPFLAGS ignore it (R7, R111, R134). -/
def execSwrite (x : Uni) (s : State) :=
  runUni (.swrite x) [x.b.toNat] [] (fun c =>
    let v := c.getS x.b.toNat
    match x.a.toNat with
    | 13 => { c with fpmode := v &&& 0xF }
    | 14 => { c with fpflags := v &&& 0x1F }
    | _ => { c with storehash := v }) s

/-! ## Lanes (R217) -/

def execRdlane (x : Uni) (s : State) :=
  let src : Src := ⟨x.a, x.mod.getLsbD 0⟩
  runInstr (.rdlane x) { ents := src.ents, sregs := sregBits [x.b.toNat, x.d.toNat], latches := srcLatches [src] } s fun s gi g =>
    if !g.ctx.latchesOk [src] then .trap (trapOf (.rdlane x) g .illegalOperand)
    else
      let t := (g.ctx.getS x.b.toNat).toNat % 256
      match placeLoad (.rdlane x) g (.sreg x.d.toNat) [(0, wordsOf 8 (g.ctx.read .int src.wide x.a t).toNat)] s gi with
      | .done s => .done (s.modGroup gi fun g => { g with ctx := g.ctx.free src.frees })
      | e => e

def execBcast (x : Uni) (s : State) :=
  let wide := x.mod.getLsbD 0
  let dest := entRange x.d.toNat (if wide then 2 else 1)
  runInstr (.bcast x) { ents := dest, sregs := sregBits [x.a.toNat] } s fun s gi g =>
    if !g.ctx.mappedAll dest then .trap (trapOf (.bcast x) g .illegalOperand)
    else .done (s.setCtx gi (g.ctx.writePair wide x.d.toNat g.ctx.active fun _ => g.ctx.getS x.a.toNat))

def execActmask (x : Uni) (s : State) :=
  runUni (.actmask x) [] ((List.range 4).map (x.d.toNat + ·)) (fun c =>
    (List.range 4).foldl (fun y i => y.setS (x.d.toNat + i) (c.active.extractLsb' (64 * i) 64)) c) s

/-- The lowest active lane. -/
def Ctx.elected (c : Ctx) : Nat := (c.lanes.head?).getD 0

def execElect (x : Uni) (s : State) :=
  runUni (.elect x) [] [x.d.toNat] (fun c => c.setS x.d.toNat (BitVec.ofNat 64 c.elected)) s

end Sys2Proof.Machine
end

