-- ==== Sys2Proof/Machine/Return.lean ====
section
/-! DEFINITION. Returning from a trap: TRET, its actions and the requests it sends again (R459 to R462, R473, R475). -/

namespace Sys2Proof.Machine

/-! ## Sending a request again (R461) -/

/-- What a request does when it is sent again from the frame's areas. -/
inductive Sent where
  | load (n : Nat) (sgn uniform past : Bool)
  | store (n : Nat)
  | atom (o : Order) (uniform : Bool)
  | method (x : Mem) (o : Order) (post : Bool)
  deriving DecidableEq, Repr

/-- The kind of request an instruction sends, if its frame holds it (R461). -/
def sentOf : Instr → Option Sent
  | .ld8 _ => some (.load 1 false false false)
  | .ld8s _ => some (.load 1 true false false)
  | .ld16 _ => some (.load 2 false false false)
  | .ld16s _ => some (.load 2 true false false)
  | .ld32 _ => some (.load 4 false false false)
  | .ld64 _ => some (.load 8 false false false)
  | .ld128 _ => some (.load 16 false false false)
  | .ldpk x => some (.load (sizeBytes (BitVec.ofNat 2 x.b.toNat)) false false false)
  | .lda _ o => some (.load (sizeBytes o.size) false false (o.mask != 0))
  | .sld x => some (.load (2 ^ (x.mod.toNat % 4)) (x.mod.getLsbD 2) true false)
  | .slda _ o => some (.load (sizeBytes o.size) false true (o.mask != 0))
  | .st8 _ => some (.store 1)
  | .st16 _ => some (.store 2)
  | .st32 _ => some (.store 4)
  | .st64 _ => some (.store 8)
  | .st128 _ => some (.store 16)
  | .stl _ o => some (.store (sizeBytes o.size))
  | .sst x => some (.store (2 ^ (x.mod.toNat % 4)))
  | .sstl _ o => some (.store (sizeBytes o.size))
  | .atom _ o => some (.atom o false)
  | .red _ o => some (.atom o false)
  | .satom _ o => some (.atom o true)
  | .callm x o => some (.method x o false)
  | .postm x o => some (.method x o true)
  | _ => none

def Sent.bytes : Sent → Nat
  | .load n _ _ _ => n
  | .store n => n
  | .atom o _ => sizeBytes o.size
  | .method _ o _ => sizeBytes o.size

/-- A method request's address needs no alignment of its own (R257). -/
def Sent.align : Sent → Nat
  | .method .. => 1
  | x => x.bytes

def Sent.uniform : Sent → Bool
  | .load _ _ u _ => u
  | .atom _ u => u
  | _ => false

def Sent.access : Sent → Access
  | .load .. => .read
  | _ => .write

/-- The acquire of an instruction's request (R277). -/
def acquireOf : Instr → Option (BitVec 5)
  | .lda _ o | .slda _ o | .atom _ o | .satom _ o | .callm _ o => if acquires o.ord then some o.mask else none
  | .red _ o => if o.ord == 4 then some o.mask else none
  | _ => none

/-- The lanes of a request that is to be sent again must wait as those of a new one do (R272, R306, R309, R409). -/
def State.resendWaits (s : State) (x : Sent) (gi : Nat) (g : Group) (lanes : List (Nat × DWord)) : Bool :=
  let xs := lanes.map fun p => (p.1, p.2, s.xlate g.core g.job p.2 x.access false)
  let accs : List LaneAcc := passed (xs.filter fun p => match p.2.2 with | .ok _ _ => true | _ => false)
  xs.any (fun p => p.2.2 == .pri) ||
    match x with
    | .atom o _ => s.holdsAtom gi g o.mask accs
    | .method _ _ _ => s.holdsMethod gi g accs
    | _ => s.holdsBack gi g accs

/-- Sends one lane of a request of the group again, as request number `k`. -/
def resendLane (x : Sent) (p : Pend) (gi k : Nat) (g : Group) (s : State) (t : Nat) (va : DWord) (data : BitVec 128) : State :=
  let n := x.bytes
  if va.toNat % x.align != 0 then s.answer gi k t (.error (.align, va))
  else
    match s.xlate g.core g.job va x.access false with
    | .fault c => s.answer gi k t (.error (c, va))
    | .miss => s.answer gi k t (.error (.xlate, va))
    | .pri => s.answer gi k t (.error (.xlate, va))
    | .ok pa c =>
      let a : LaneAcc := ⟨t, va, pa, c⟩
      match x with
      | .load n sgn uni past =>
        match s.loadCause g.job a n with
        | some e => s.answer gi k t (.error (e.2.1, e.2.2))
        | none =>
          let s := s.touch gi g past [a]
          let bs := s.loadBytes gi g past a n
          s.answer gi k t (.ok (if uni then uniWords n sgn bs else loadWords n sgn bs))
      | .store n =>
        if s.peerRefused g.job pa then s.answer gi k t (.error (.perm, va))
        else (s.storeLane gi g a (leBytes n data.toNat)).answer gi k t (.ok [])
      | .atom o _ =>
        if s.hostLacks o.aop.toNat n pa c then s.answer gi k t (.error (.perm, va))
        else
          let op1 := if n == 16 then data.toNat else data.toNat % 2 ^ 64 % 2 ^ (8 * n)
          { s with atomics := s.atomics ++ [atomReq s gi g o n k ⟨a, op1, data.toNat / 2 ^ 64 % 2 ^ (8 * n)⟩] }
      | .method _ o post =>
        let pair := match p.dest with | .entries _ 2 => true | _ => false
        if !s.objectMem a then s.answer gi k t (.error (.perm, va))
        else match target s.gddrTop pa with
          | .peer _ => peerReplies s gi g k post pair [a]
          | _ => { s with methods := s.methods ++ [methodReq s gi g o n k post pair a (data.setWidth 64)] }

/-- Sends a request again: the lanes outside the frame's done mask, the others taking their replies from the frame; it acquires as
before. None where it waits, for a slot or as a new access does. -/
def resend (x : Sent) (p : Pend) (tr : Tret) (s : State) (gi : Nat) : Option State :=
  match s.groups[gi]? with
  | none => some s
  | some g =>
    let lanes := (List.range 256).filter fun t => p.lanes.getLsbD t
    let go := lanes.filter fun t => !tr.done.getLsbD t
    let q : Pend := { p with
      vals := (lanes.filter fun t => tr.done.getLsbD t).map fun t => (t,
        if p.dest == .none then [] else wordsOf (max x.bytes 8) ((tr.replies.lookup t).getD 0).toNat)
      causes := []
      addrs := lanes.map fun t => (t, (tr.addrs.lookup t).getD 0)
      data := lanes.map fun t => (t, (tr.data.lookup t).getD 0)
      acq := acquireOf p.i }
    let q := if x.bytes == 16 then { q with vals := q.vals.map fun v => (v.1, wordsOf 16 ((tr.replies.lookup v.1).getD 0).toNat) } else q
    let send (s : State) (k : Nat) : State :=
      go.foldl (fun s t => resendLane x p gi k g s t ((tr.addrs.lookup t).getD 0) ((tr.data.lookup t).getD 0)) s
    if s.resendWaits x gi g (go.map fun t => (t, (tr.addrs.lookup t).getD 0)) then none
    else if p.dest == .none then
      if go.isEmpty then some s
      else some (send (s.setGroup gi { g with posts := g.posts ++ [(g.postSeq, q)], postSeq := g.postSeq + 1 }) (33 + g.postSeq))
    else if x.uniform then some (send (s.setGroup gi { g with block := some q, status := .blocked none }) 32)
    else match g.freeSlot with
      | none => none
      | some k => some (send (s.setGroup gi (g.setSlot k (some q))) k)

/-! ## Ending a team -/

/-- Kills every group of a team; its queue entries leave, the one being performed making no arrival (R61, R483). -/
def State.killTeam (s : State) (ti : Nat) : State :=
  let s := (List.range s.groups.length).foldl (fun s k =>
    match s.groups[k]? with
    | some g => if g.team == ti && g.living then endGroup s k else s
    | none => s) s
  match s.teams[ti]? with
  | some t => s.modCore t.core fun c => { c with sq := c.sq.map fun q => q.filter fun e => e.team != ti }
  | none => s

/-! ## TRET (R459, R460) -/

/-- Every other group of a resumed half goes on as it stopped (R475). -/
def State.resumeHalf (s : State) (ti : Nat) : State :=
  { s with groups := s.groups.map fun h =>
      match h.status with
      | .stopped _ => if h.team == ti && h.gfx.isNone then { h with status := h.resumeAs } else h
      | _ => h }

/-- Where an ordinary handler's group goes on: the restart, and what a retry of the instruction keeps. -/
def retryGroup (g : Group) (v : TrapSave) (tr : Tret) : Group :=
  { g with
    ctx := { g.ctx with pc := v.restart }
    retry := if v.deferred then none else some ⟨v.xpc, tr.done, tr.replies⟩
    rebuild := if v.run.isEmpty then none else some (v.xpc, v.run) }

/-- The effect of a frame's action (R460). -/
def tretAct (s : State) (gi : Nat) (g : Group) (v : TrapSave) (tr : Tret) : Eff :=
  match tr.action with
  | 0 =>
    let h := retryGroup g v tr
    match v.deferred, v.req with
    | true, some p =>
      match sentOf p.i with
      | some x =>
        match resend x p tr (s.setGroup gi h) gi with
        | some s => .ended s
        | none => .wait s
      | none =>
        .ended (s.setGroup gi { h with
          ctx := { h.ctx with pc := p.pc }
          again := some (p.pc, v.restart)
          retry := some ⟨p.pc, tr.done, tr.replies⟩ })
    | true, none => .ended (s.setGroup gi { h with retry := some ⟨v.xpc, tr.done, tr.replies⟩ })
    | false, _ => .ended (s.setGroup gi h)
  | 1 => .ended (s.setGroup gi { g with ctx := { g.ctx with pc := v.skip }, again := none })
  | 2 => .ended (s.setGroup gi { g with ctx := { g.ctx with pc := tr.target }, again := none })
  | 3 =>
    let s := (s.setGroup gi g).failTeam g false
    exitBody s gi g
  | _ => .ended (endGroup ((s.setGroup gi g).failTeam g true) gi)

/-- TRET in the PREEMPT handler (R473, R475). -/
def tretPreempt (s : State) (gi : Nat) (g : Group) (t : Team) (v : TrapSave) (tr : Tret) : Eff :=
  if tr.action ≥ 3 then
    let s := (s.setGroup gi g).failTeam g (tr.action == 4)
    .ended ((s.halves g.team).foldl State.killTeam s)
  else if t.preempt then
    .ended ((s.setGroup gi { g with ctx := { g.ctx with pc := v.restart }, status := .stopped 0x07FFFFFF }).modTeam g.team fun t =>
      { t with handled := true })
  else
    let pc := if tr.action == 2 then tr.target else if tr.action == 1 then v.skip else v.restart
    let st : Status := if g.resumeAs == .slotWait then .running else g.resumeAs
    .ended ((s.setGroup gi { g with ctx := { g.ctx with pc := pc }, status := st }).modTeam g.team (fun t => { t with resuming := false })
      |>.resumeHalf g.team)

/-- TRET waits for the scoreboard, whose replies would otherwise land in the restored map (log 31). -/
def execTret (sp : Sp) (s : State) :=
  runInstr (.tret sp) { all := g_handler s, post := g_handler s } s fun s gi g =>
    if !g.handler then .trap (trapOf (.tret sp) g .privilege)
    else
      match g.trapSave, readFrame s g (g.frame.getD 0) with
      | some v, some tr =>
        let h : Group := { g with ctx := tr.ctx, handler := false, trapSave := none, retry := none, rebuild := none }
        match v.cause, s.teams[g.team]? with
        | .preempt, some t => tretPreempt s gi h t v tr
        | _, _ => tretAct s gi h v tr
      | _, _ => .trap (trapOf (.tret sp) g .illegalOperand)
where
  /-- The current group is in handler state. -/
  g_handler (s : State) : Bool := match s.issuing with | some g => g.handler | none => false

end Sys2Proof.Machine
end

