-- ==== Sys2Proof/Machine/Async.lean ====
section
/-! DEFINITION. The ASY instructions of the stream queues, tasks, exchange, collectives and the order log (R243 to R255, R312 to
R319). -/

namespace Sys2Proof.Machine

/-- The slot a field selects (R159). -/
def Ctx.slotOf (x : Ctx) (f : SrcField) : DWord := x.slot (selNat f - 20)

/-- The `n` s registers from `k`. -/
def sregRun (k n : Nat) : BitVec 64 := sregBits ((List.range n).map (k + ·))
def Ctx.sregs (x : Ctx) (k n : Nat) : List DWord := (List.range n).map fun i => x.getS (k + i)

/-- The kernel a group runs (R87, R364, R369, R378). -/
def State.kernelOf (s : State) (g : Group) : Option Kernel :=
  match g.gfx with
  | some x => (s.passes[x.pass]?).bind fun p =>
      match g.kind with
      | .grid => some p.gridKernel
      | .sample => p.sampleKernel
      | _ => p.resolveKernel
  | none => (s.launches[g.launch]?).map (·.kernel)

/-- The producer group of a team, or of its half (R48, R49). -/
def State.isProducer (s : State) (g : Group) : Bool :=
  match s.kernelOf g with
  | some k => (g.kind == .team || g.kind == .resolve) && g.number % max 1 k.groups == k.producer
  | none => false

/-! ## Stream queues (R243 to R249) -/

/-- The request of an instruction is a release that covers STRM (R276, R286). -/
def strmRelease : Instr → Bool
  | .atom _ o | .red _ o | .callm _ o | .postm _ o | .satom _ o => releases o.ord && o.mask.getLsbD 1
  | _ => false

/-- The group's request is such a release, and has not been performed. -/
def Group.strmPending (g : Group) (k : Nat) : Bool := match g.pend k with | some p => !p.settled && strmRelease p.i | none => false

/-- The numbers of those requests. -/
def Group.strmReleases (g : Group) : List Nat :=
  (List.range 32 ++ g.posts.map (fun (q : Nat × Pend) => q.1 + 33)).filter g.strmPending

/-- An entry as it enters a queue. -/
def sqEntry (i : Instr) (gi : Nat) (g : Group) (kind : SqKind) (record : DWord) (nb : Nat) (args : List DWord) : SqEntry :=
  { kind := kind, team := g.team, grp := gi, job := g.job, record := record, nb := nb, args := args, pc := g.ctx.pc,
    iword := (encode i).getD 0 0, oword := 0, box := 0, began := none, err := false, issued := 0, after := g.strmReleases }

/-- The entry at the head of a queue begins: a ring notes the flips so far of the barrier it waits on (R248). -/
def State.beginHead (s : State) (core q : Nat) : State :=
  match (s.core core).sq[Fin.ofNat 2 q] with
  | [] => s
  | e :: l =>
    match e.kind, e.began, s.teams[e.team]? with
    | .ring drain _ full empty, none, some t =>
      let b := t.bars[Fin.ofNat 16 (if drain then full else empty)]
      s.modCore core fun c => { c with sq := c.sq.set (Fin.ofNat 2 q) ({ e with began := some b.flips } :: l) }
    | _, _, _ => s

/-- Puts an entry in queues of the core; it waits while one is full (R243). -/
def enqueue (s : State) (core : Nat) (qs : List Nat) (e : SqEntry) : Eff :=
  if qs.any fun q => ((s.core core).sq[Fin.ofNat 2 q]).length ≥ 32 then .wait s
  else
    let e := { e with issued := s.free }
    let s := { s with free := s.free + 1 }.modCore core fun c =>
      { c with sq := qs.foldl (fun v q => v.set (Fin.ofNat 2 q) (v[Fin.ofNat 2 q] ++ [e])) c.sq }
    .done (qs.foldl (fun s q => if ((s.core core).sq[Fin.ofNat 2 q]).length == 1 then s.beginHead core q else s) s)

/-- An instruction of the stream queues: only from the producer (R48). -/
def runStream (i : Instr) (k n : Nat) (body : State → Nat → Group → Eff) (s : State) : Host.Outcome State Fault Refusal :=
  runInstr i { sregs := sregRun k n, eng := true } s fun s gi g =>
    if !s.isProducer g then .trap (trapOf i g .copyRights) else body s gi g

def execCopy (x : Asy) (k : Word) (s : State) :=
  runStream (.copy x k) (fld k 8 3) 6 (fun s gi g =>
    enqueue s g.core [fld k 0 0]
      (sqEntry (.copy x k) gi g (.copy (fld k 2 1)) (g.ctx.slotOf x.a) x.sub.toNat (g.ctx.sregs (fld k 8 3) 6))) s

def execCopyg (x : Asy) (k : Word) (s : State) :=
  runStream (.copyg x k) (fld k 8 3) 3 (fun s gi g =>
    let n := (g.ctx.getS (fld k 8 3 + 2)).toNat
    if n == 0 || n > 65536 then .trap (trapOf (.copyg x k) g .illegalOperand)
    else enqueue s g.core [fld k 0 0]
      (sqEntry (.copyg x k) gi g .gather (g.ctx.slotOf x.a) x.sub.toNat (g.ctx.sregs (fld k 8 3) 3))) s

def execStream (x : Asy) (k : Word) (s : State) :=
  runStream (.stream x k) (fld k 19 14) 8 (fun s gi g =>
    let n := (g.ctx.getS (fld k 19 14 + 2)).toNat
    if n == 0 || n ≥ 2 ^ 32 then .trap (trapOf (.stream x k) g .illegalOperand)
    else
      let drain := fld k 1 1 == 1
      let (full, empty) := (fld k 9 6, fld k 13 10)
      enqueue s g.core [fld k 0 0]
        (sqEntry (.stream x k) gi g (.ring drain (fld k 5 2 + 1) full empty) (g.ctx.slotOf x.a) (if drain then empty else full)
          (g.ctx.sregs (fld k 19 14) 8))) s

def execSqfence (x : Asy) (s : State) :=
  runStream (.sqfence x) 0 0 (fun s gi g =>
    let q := x.sub.toNat
    let qs := (if q % 2 == 1 then [0] else []) ++ (if q / 2 % 2 == 1 then [1] else [])
    match enqueue s g.core qs (sqEntry (.sqfence x) gi g (.fence s.fences q) 0 0 []) with
    | .done s => .done { s with fences := s.fences + 1 }
    | e => e) s

/-! ## Task queues (R65 to R69, R250 to R252) -/

/-- Where record `i` of a team's queue lies in its core's array (R65). -/
def Team.taskAt (t : Team) (i : Nat) : Nat := (t.scrBase + t.scrLen) * 65536 - t.taskQ + 64 * (i % (t.taskQ / 64))

/-- The team that holds a core's task queue. -/
def State.taskTeam (s : State) (core : Nat) : Option Nat := s.teams.findIdx? fun t => t.live && !t.saved && t.core == core && t.taskQ ≥ 64

/-- The bytes of s registers. -/
def sregBytes (l : List DWord) : List (BitVec 8) := (l.map fun v => leBytes 8 v.toNat).flatten

/-- Pushes a record at the owner end; none where the deque is full (R67). -/
def State.taskPush (s : State) (ti : Nat) (bs : List (BitVec 8)) : Option State :=
  match s.teams[ti]? with
  | none => none
  | some t =>
    if t.taskTail - t.taskHead ≥ t.taskQ / 64 then none
    else some ((s.modCore t.core fun c => c.arraySet (t.taskAt t.taskTail) bs).modTeam ti fun t => { t with taskTail := t.taskTail + 1 })

/-- The eight words of a record. -/
def State.taskRecord (s : State) (t : Team) (i : Nat) : List DWord :=
  (List.range 8).map fun j => BitVec.ofNat 64 (leNat ((s.core t.core).arrayBytes t.core (t.taskAt i + 8 * j) 8))

/-- Takes a record, the newest at the owner end or the oldest at the thief end (R67). -/
def State.taskTake (s : State) (ti : Nat) (oldest : Bool) : Option (State × List DWord) :=
  match s.teams[ti]? with
  | none => none
  | some t =>
    if t.taskTail ≤ t.taskHead then none
    else if oldest then some (s.modTeam ti fun t => { t with taskHead := t.taskHead + 1 }, s.taskRecord t t.taskHead)
    else some (s.modTeam ti fun t => { t with taskTail := t.taskTail - 1 }, s.taskRecord t (t.taskTail - 1))

/-- The registers of a taken record, and TASKREC (R252). -/
def Group.tookTask (g : Group) (k c core : Nat) (steal : Bool) (l : List DWord) : Group :=
  let x := l.zipIdx.foldl (fun y p => y.setS (k + p.2) p.1) g.ctx
  { g with ctx := x.setC c true, taskrec := BitVec.ofNat 64 (core % 64 + (if steal then 64 else 0) + 128) }

/-- The c flag and the first s register a task instruction names. -/
def taskArgs (k : Word) : Nat × Nat := (fld k 1 0, fld k 7 2)

def execTkpush (x : Asy) (k : Word) (s : State) :=
  let (c, r) := taskArgs k
  runInstr (.tkpush x k) { sregs := sregRun r 8 } s fun s gi g =>
    if s.taskTeam g.core != some g.team then .trap (trapOf (.tkpush x k) g .illegalOperand)
    else match s.taskPush g.team (sregBytes (g.ctx.sregs r 8)) with
      | some s => .done (s.setCtx gi (g.ctx.setC c true))
      | none => .done (s.setCtx gi (g.ctx.setC c false))

def execTkpop (x : Asy) (k : Word) (s : State) :=
  let (c, r) := taskArgs k
  runInstr (.tkpop x k) { sregs := sregRun r 8 } s fun s gi g =>
    if s.taskTeam g.core != some g.team then .trap (trapOf (.tkpop x k) g .illegalOperand)
    else match s.taskTake g.team false with
      | some (s, l) => .done (s.setGroup gi (g.tookTask r c g.core false l))
      | none => .done (s.setCtx gi (g.ctx.setC c false))

/-- TKSTEAL: a core without a queue, or one of another job, is empty. -/
def execTksteal (x : Asy) (k : Word) (s : State) :=
  let (c, r) := taskArgs k
  runInstr (.tksteal x k) { sregs := sregRun r 8 } s fun s gi g =>
    let core := (g.ctx.getS r).toNat % 64
    let got := (s.taskTeam core).bind fun ti => (s.teams[ti]?).bind fun t => if t.job == g.job then s.taskTake ti true else none
    match got with
    | some (s, l) => .done (s.setGroup gi (g.tookTask r c core true l))
    | none => .done (s.setCtx gi (g.ctx.setC c false))

/-- The order of TKDONE's decrement: a 32-bit add, acq_rel, with observers CORE (R68). -/
def decOrder : Order := { method := 0, size := 0, reassoc := false, aop := 0, fail := 0, ord := 3, mask := 1 }

/-- TKDONE once the decrement has returned the counter's old value (R68, R251): at 1 the successor is read and pushed, or its address handed
back. A core without a task queue counts as one whose owner end is full (log 32). A trap of the read keeps the decrement as done (R461). -/
def taskReady (i : Instr) (c r : Nat) (s : State) (gi : Nat) (g : Group) : Eff :=
  let succ := g.ctx.getS (r + 5)
  if g.savedReply 0 % 2 ^ 32 != 1 then .done (s.setCtx gi (g.ctx.setC c false))
  else
    match s.devRead g.job succ 64 with
    | .fail e va => .trap { trapAt i g e va 0 false with done := 1, replies := [(0, BitVec.ofNat 128 (g.savedReply 0))], deferred := e == .eccUncorrected }
    | .wait => .await s
    | .ok v =>
      match (s.taskTeam g.core).bind fun ti => s.taskPush ti (leBytes 64 v) with
      | some s => .done (s.setCtx gi (g.ctx.setC c false))
      | none => .done (s.setCtx gi ((g.ctx.setC c true).setS r succ))

/-- TKDONE (R68, R251): the decrement goes to its home as an atomic, whose result the group waits for. -/
def execTkdone (x : Asy) (k : Word) (s : State) :=
  let i := Instr.tkdone x k
  let (c, r) := taskArgs k
  runInstr i { sregs := sregRun r 8, rel := true } s fun s gi g =>
    if (g.ctx.getS (r + 3)).toNat / 2 ^ 32 % 2 == 0 then .done (s.setCtx gi (g.ctx.setC c false))
    else if g.doneLanes.getLsbD 0 then taskReady i c r s gi g
    else atomBody i decOrder 4 [(0, g.ctx.getS (r + 4), 2 ^ 32 - 1, 0)] true true .none s gi g

/-! ## XCHG (R253) -/

/-- The partner a group's XCHG names: its index and whether it has ended. -/
def State.xchgPartner (s : State) (g : Group) (v : DWord) : Option Nat :=
  if (g.kind == .team || g.kind == .resolve) && v.toNat < 255 && v.toNat != g.number then s.partner g v.toNat else none

def execXchg (x : Asy) (s : State) :=
  let i := Instr.xchg x
  let v : Src := ⟨x.a, false⟩
  runInstr i { ents := v.ents ||| entRange x.d.toNat 1 } s fun s gi g =>
    if !g.ctx.mappedAll (entRange x.d.toNat 1) then .trap (trapOf i g .illegalOperand)
    else
      match s.xchgPartner g (g.ctx.slotOf x.b) with
      | none => .trap (trapOf i g .illegalOperand)
      | some h =>
        let n := (g.ctx.slotOf x.b).toNat
        let next := g.ctx.pc + BitVec.ofNat 64 (instrBytes i)
        let vals : Lanes := Vector.ofFn fun t : Fin 256 => if g.ctx.active.getLsbD t then lo32 (g.ctx.read .int false x.a t) else 0
        let req := pendOf i g (.entries x.d.toNat 1) g.ctx.active false
        let g' := { g with ctx := g.ctx.applyFrees.clearLatches, block := some req }
        if match s.groups[h]? with | some p => p.living | none => false then
          .ended (s.setGroup gi { g' with status := .xchgWait next, xchg := some (x.d.toNat, n, vals) })
        else
          .ended (s.setGroup gi { g' with status := .trapPending { xchgTrap g n with iword := req.iword }, ctx := { g'.ctx with pc := next } })

/-! ## Collectives (R254, R420, R508, R509) -/

/-- Bytes of an element type: binary32, bfloat16, int32. -/
def credBytes (ty : Nat) : Nat := if ty == 1 then 2 else 4

/-- The identity an inactive thread contributes (R254). -/
def credIdentity (op ty : Nat) : Nat :=
  match op, ty with
  | 0, 0 => 0x80000000 | 0, 1 => 0x8000 | 0, _ => 0
  | 1, 0 => 0x7F800000 | 1, 1 => 0x7F80 | 1, _ => 0x7FFFFFFF
  | _, 0 => 0xFF800000 | _, 1 => 0xFF80 | _, _ => 0x80000000

/-- Writes the status word of a contribution (R254): 1 DONE, 2 ABORTED. One that cannot be written is dropped (log 36). -/
def State.credStatus (s : State) (c : Contribution) (v : Nat) : State :=
  s.devPut c.job (c.dest + BitVec.ofNat 64 (256 * credBytes c.ty)) (leBytes 8 v)

/-- The devices that an instance's messages go to: its parent and the children heard from (R420). -/
def CollEntry.links (e : CollEntry) : List Nat := (if e.parent == 0xFFFF then [] else [e.parent]) ++ e.fromChildren.map (·.1)

/-- An instance aborts (R508): every participant's status word receives 2. -/
def State.abortColl (s : State) (ident : Nat) : State :=
  match s.colls.find? fun e => e.ident == ident with
  | none => s
  | some e =>
    if e.aborted then s
    else
      let s := e.contribs.foldl (fun s c => s.credStatus c 2) s
      let job := match e.contribs with | c :: _ => c.job | [] => 0
      let s := e.links.foldl (fun s d => s.sendTo d 4) (s.postError job 5 (BitVec.ofNat 64 ident))
      let left := e.locals - e.contribs.length
      { s with colls := s.colls.map fun q =>
          if q.ident == ident then
            (if left == 0 then { q with op := none, contribs := [], fromChildren := [], sent := false, aborted := false, late := 0 }
             else { q with aborted := true, late := left, fromChildren := [], sent := false })
          else q }

/-- One local contributor of an aborted instance less (R509). -/
def State.lateColl (s : State) (ident : Nat) : State :=
  { s with colls := s.colls.map fun q =>
      if q.ident == ident && q.aborted then
        (if q.late ≤ 1 then { q with op := none, contribs := [], aborted := false, late := 0 } else { q with late := q.late - 1 })
      else q }

/-- CRED (R254). Log 55: a group whose instance has all its local contributions already waits for the next instance, and an entry with
local count 0 takes every contribution. -/
def execCred (x : Asy) (k : Word) (s : State) :=
  let i := Instr.cred x k
  let v : Src := ⟨x.a, false⟩
  runInstr i { ents := v.ents, rel := true } s fun s gi g =>
    let (op, ty, ident) := (fld k 1 0, fld k 3 2, fld k 31 16)
    let dest := g.ctx.slotOf x.b
    let free (s : State) : State := s.modGroup gi fun g => { g with ctx := g.ctx.free v.frees }
    let mine := s.colls.find? fun e => e.ident == ident
    let again := match mine with | some e => !e.aborted && e.contribs.any (fun c => c.grp == gi) | none => false
    if again then .trap (trapOf i g .illegalOperand)
    else if dest.toNat % 1024 != 0 then .trap (trapAt i g .align dest 0 true)
    else
      match mine with
      | none => .done (free s)
      | some e =>
        let vals := (List.range 256).map fun t =>
          if g.ctx.active.getLsbD t then (if ty == 1 then lo32 (g.ctx.read .int false x.a t) &&& 0xFFFF else lo32 (g.ctx.read .int false x.a t))
          else BitVec.ofNat 32 (credIdentity op ty)
        let c : Contribution := ⟨g.core, g.number, g.job, gi, vals, dest, ty⟩
        if e.aborted then
          (if e.contribs.any fun c => c.grp == gi then .wait s
           else .done (free ((s.credStatus c 2).lateColl ident)))
        else if e.contribs.length ≥ e.locals && e.locals != 0 then .wait s
        else
          let add (s : State) : State := { s with colls := s.colls.map fun q =>
            if q.ident == ident then { q with contribs := q.contribs ++ [c], op := some (q.op.getD (op, ty)) } else q }
          if e.op.isSome && e.op != some (op, ty) then .done (free ((add s).abortColl ident))
          else .done (free (add s))

/-! ## The order log (R255, R312 to R319) -/

/-- The group runs the job's control kernel (R255). -/
def State.isControl (s : State) (g : Group) : Bool :=
  match s.kernelOf g, s.jobs[g.job]? with
  | some k, some j => k.addr == j.control
  | _, _ => false

/-- Writes 8-byte zeros at offsets of a log's header. -/
def State.zeroAt (s : State) (job : Nat) (log : DWord) : List Nat → Dev State
  | [] => .ok s
  | o :: l => (s.devWrite job (log + BitVec.ofNat 64 o) (leBytes 8 0)).bind fun s => s.zeroAt job log l

/-- Reads a log's header words. -/
def State.readAt (s : State) (job : Nat) (log : DWord) : List Nat → Dev (List Nat)
  | [] => .ok []
  | o :: l => (s.devRead job (log + BitVec.ofNat 64 o) 8).bind fun v => (s.readAt job log l).bind fun r => .ok (v :: r)

/-- The job takes a new order-log mode: open runs are closed, and the gates of the old mode go. -/
def State.setLog (s : State) (job : Nat) (m : LogMode) : State :=
  let s := s.closeRuns job
  { s with
    gates := s.gates.filter fun g => g.job != job
    launches := s.launches.map (fun (l : Launch) => if l.job == job then { l with recorded := none } else l) }.modJob job fun j =>
    { j with log := m, placed := 0, placeStop := false, markStop := false, colStop := 0 }

/-- The `n` chunks of a sublog. -/
def State.readChunks (s : State) (job : Nat) (base : Nat) : Nat → Nat → Dev (List Nat)
  | _, 0 => .ok []
  | i, n + 1 => (s.devRead job (BitVec.ofNat 64 (base + 16 * i)) 16).bind fun v =>
      (s.readChunks job base (i + 1) n).bind fun l => .ok (v :: l)

/-- Adds a chunk at the end of its line's gate (R315, R317). -/
def addChunk (col job : Nat) (gs : List Gate) (v : Nat) : List Gate :=
  let line := v % 2 ^ 45
  let c := (v / 2 ^ 48 % 64, v / 2 ^ 54 % 128, v / 2 ^ 64 % 2 ^ 16)
  if gs.any fun g => g.col == col && g.line == line then
    gs.map fun g => if g.col == col && g.line == line then { g with chunks := g.chunks ++ [c] } else g
  else gs ++ [⟨col, job, line, [c]⟩]

/-- Every home reads its sublog (R317): `size` bytes per column, from `base`. -/
def State.readLog (s : State) (job : Nat) (log : DWord) (base size : Nat) : List Nat → Dev (List Gate)
  | [] => .ok []
  | c :: l =>
    (s.devRead job (log + BitVec.ofNat 64 (colOffset c)) 8).bind fun ext =>
      (s.readChunks job (base + c * size) 0 (ext % 2 ^ 63 / 16)).bind fun vs =>
        (s.readLog job log base size l).bind fun gs => .ok (vs.foldl (addChunk c job) [] ++ gs)

/-- Every home has read its sublog: its replay read offset counts the bytes (R531). A read offset that cannot be written is handled as
R312 says of an offset. -/
def State.readDone (s : State) (job : Nat) (log : DWord) : List Nat → Dev State
  | [] => .ok s
  | c :: l =>
    let at_ : DWord := log + BitVec.ofNat 64 (colOffset c)
    (s.devRead job at_ 8).bind fun ext =>
      match s.devWrite job (at_ + 8) (leBytes 8 (ext % 2 ^ 63)) with
      | .ok s => s.readDone job log l
      | .fail _ va => ((s.overflow job at_).postError job 12 va).readDone job log l
      | .wait => .wait

/-- An open run of the job cannot be closed yet: its home's chunk waits (R409). -/
def State.runsWait (s : State) (job : Nat) : Bool := s.runs.any fun r => r.job == job && s.logWaits job r.col

/-- Runs an RLOG of a log address: only from the control kernel, and of an aligned log (R255). -/
def runRlog (i : Instr) (x : Asy) (f : State → Group → DWord → Dev State) (s : State) :=
  runInstr i { rel := true } s fun s _ g =>
    let log := g.ctx.slotOf x.b
    if !s.isControl g then .trap (trapOf i g .privilege)
    else if log.toNat % 4096 != 0 then .trap (trapAt i g .align log 0 false)
    else if s.runsWait g.job then .await s
    else match f s g log with
      | .ok s => .done s
      | .fail c va => .trap (trapAt i g c va 0 false)
      | .wait => .await s

def execRlogDisable (x : Asy) (s : State) :=
  runInstr (.rlogDisable x) { rel := true } s fun s _ g =>
    if !s.isControl g then .trap (trapOf (.rlogDisable x) g .privilege) else if s.runsWait g.job then .await s else .done (s.setLog g.job .off)

def execRlogRecord (x : Asy) (s : State) :=
  runRlog (.rlogRecord x) x (fun s g log => if s.mapMoves then .wait else
    (s.readAt g.job log [0, 8, 16, 24, 40, 48]).bind fun _ =>
      ((s.closeRuns g.job).zeroAt g.job log ([32, 56] ++ (List.range 64).map colOffset)).bind fun s => .ok (s.setLog g.job (.record log))) s

def execRlogReplay (x : Asy) (s : State) :=
  runRlog (.rlogReplay x) x (fun s g log => if s.mapMoves then .wait else
    (s.readAt g.job log [0, 8, 16, 24, 32, 40, 48, 56]).bind fun h =>
      (s.readLog g.job log (h.getD 0 0) (h.getD 1 0) (List.range 64)).bind fun gs =>
        (s.readDone g.job log (List.range 64)).bind fun s =>
          let s := s.setLog g.job (.replay log)
          .ok { s with gates := s.gates ++ gs }) s

/-- The mark record of a group (R319); in a replay it names the launch as the placement entries do (R531). -/
def State.markRecord (s : State) (g : Group) : Nat :=
  let l := match s.launches[g.launch]? with | some l => l.recorded.getD l.id | none => 0
  let t := match s.teams[g.team]? with | some t => t.index | none => 0
  g.ctx.storehash.toNat + 2 ^ 64 * (l % 2 ^ 32) + 2 ^ 96 * (t % 2 ^ 32) + 2 ^ 128 * (g.number % 256) + 2 ^ 136 * (g.spawnSeq % 2 ^ 24) +
    2 ^ 160 * (g.markNum % 2 ^ 32) + 2 ^ 192 * (s.core g.core).stamp.toNat

/-- The hash recorded for a group's mark among `n` records from `i` on: bits [191:64] name the mark. -/
def State.findMark (s : State) (job base key : Nat) : Nat → Nat → Dev (Option Nat)
  | _, 0 => .ok none
  | i, n + 1 =>
    (s.devRead job (BitVec.ofNat 64 (base + 32 * i)) 32).bind fun v =>
      if v / 2 ^ 64 % 2 ^ 128 == key then .ok (some (v % 2 ^ 64)) else s.findMark job base key (i + 1) n

/-- What a mark does. -/
inductive Marked where
  | ok (s : State)
  | diverge
  | fail (c : Cause) (va : DWord)
  | wait

def markBody (s : State) (g : Group) : Marked :=
  match s.recordLog g.job, s.replayLog g.job with
  | some log, _ =>
    if s.runsWait g.job then .wait
    else
    let s := s.closeRuns g.job
    if (match s.jobs[g.job]? with | some j => j.markStop | none => true) then .ok s
    else
      match s.append g.job (s.homeRead g.job (log + 40) 8) (s.homeRead g.job (log + 48) 8) (log + 56) (leBytes 32 (s.markRecord g)) with
      | .ok s => .ok s
      | .full s => .ok (s.modJob g.job fun j => { j with markStop := true })
      | .failed s va => .ok ((s.modJob g.job fun j => { j with markStop := true }).postError g.job 12 va)
      | .wait => .wait
  | none, some log =>
    if g.handler then .ok s
    else
      match (s.devRead g.job (log + 40) 8).bind fun b => (s.devRead g.job (log + 56) 8).bind fun o =>
          (s.findMark g.job b (s.markRecord g / 2 ^ 64 % 2 ^ 128) 0 (o % 2 ^ 63 / 32)).bind fun m => Dev.ok (o, m) with
      | .ok (_, some h) => if h == g.ctx.storehash.toNat then .ok s else .diverge
      | .ok (o, none) => if o ≥ 2 ^ 63 then .ok s else .diverge
      | .fail c va => .fail c va
      | .wait => .wait
  | none, none => .ok s

def execRlogMark (x : Asy) (s : State) :=
  let i := Instr.rlogMark x
  runInstr i {} s fun s gi g =>
    if !s.isControl g then .trap (trapOf i g .privilege)
    else match markBody s g with
      | .ok s => .done (s.modGroup gi fun g => { g with markNum := g.markNum + 1 })
      | .diverge => .trap (trapOf i g .replayDiverge)
      | .fail c va => .trap (trapAt i g c va 0 false)
      | .wait => .await s

end Sys2Proof.Machine
end

