-- ==== Sys2Proof/Machine/Matrix.lean ====
section
/-! DEFINITION. The matrix instructions and the tile operations they enter in a tile's queue (R320 to R340, R349, R498 to R500). -/

namespace Sys2Proof.Machine

/-! ## Kinds, ZMASK groups and the chunk arithmetic (R127, R128, R321, R326) -/

/-- The format of an operand kind. -/
def kindFmt : Nat → Fmt
  | 0 => .b16 | 1 => .bf16 | 2 => .e4m3 | 3 => .e5m2 | 4 => .e2m3 | 5 => .e3m2 | _ => .e2m1

/-- Elements of a panel row (R323). -/
def panelElems (k : Nat) : Nat := if k ≤ 1 then 64 else if k ≤ 3 then 128 else if k ≤ 5 then 160 else 256

/-- Panels of an A operand with K columns (R323). -/
def panels (kind k : Nat) : Nat := (k + panelElems kind - 1) / panelElems kind

/-- Element `e` of a packed row held as a number: FP6 groups of 16 in 12 bytes are contiguous too (R110). -/
def rowElem (w row e : Nat) : Nat := row / 2 ^ (w * e) % 2 ^ w

/-- The 32 elements of a group from its mask on: stored ones in ascending order, +0 elsewhere (R326). -/
def zElems (w mask bits : Nat) : Nat → Nat → List Nat
  | _, 0 => []
  | m, n + 1 =>
    if mask.testBit m then bits % 2 ^ w :: zElems w mask (bits / 2 ^ w) (m + 1) n else 0 :: zElems w mask bits (m + 1) n

/-- The number held by `n` consecutive 4-byte words. -/
def readWords (rd : Nat → Dev Nat) : Nat → Nat → Dev Nat
  | _, 0 => .ok 0
  | off, n + 1 => (rd off).bind fun v => (readWords rd (off + 4) n).bind fun r => .ok (v + 2 ^ 32 * r)

/-- The groups of a ZMASK block in order, each as its 32 elements; `rd` reads a 4-byte word at an offset (R326). -/
def zGroups (rd : Nat → Dev Nat) (w : Nat) : Nat → Nat → Dev (List (List Nat))
  | _, 0 => .ok []
  | off, n + 1 =>
    (rd off).bind fun mask =>
      let len := (popCount 32 mask * w + 31) / 32
      (readWords rd (off + 4) len).bind fun bits =>
        (zGroups rd w (off + 4 + 4 * len) n).bind fun l => .ok (zElems w mask bits 0 32 :: l)

/-- The chunk sum of 32 products, exact and rounded once (R127). -/
def chunkSum (fa fb : Fmt) (as bs : List Nat) : Nat :=
  match (as.zip bs).map fun p => mulExact (fa.num p.1) (fb.num p.2) with
  | [] => 0
  | p :: l => (dotSum .plain false l p.num).bits

/-- One output element: chunks in increasing order, each rounded and added (R127, R334). `col c` is chunk `c` of the column. -/
def chunkChain (fa fb : Fmt) (row : Nat → Nat) (col : Nat → List Nat) : Nat → Nat → Nat → Nat
  | _, 0, acc => acc
  | c, n + 1, acc =>
    chunkChain fa fb row col (c + 1) n (addF .b32 acc (chunkSum fa fb ((List.range 32).map fun m => row (32 * c + m)) (col c)))

/-! ## Tiles -/

/-- An element of a physical tile; one not written since the tile became undefined has no defined value (log 12). -/
def Core.tileElem (c : Core) (core tile e : Nat) : Word :=
  let v := SMap.get c.tiles (tile * 16384 + e)
  if v.getLsbD 32 then v.setWidth 32
  else match c.tileEpoch.lookup tile with
    | none => 0
    | some k => if k == 0 then 0 else Config.undefTile core k (tile * 16384 + e)

/-- A tile with elements written from one on. -/
def Core.tileSet (c : Core) (tile e : Nat) (l : List Word) : Core :=
  { c with tiles := SMap.setList c.tiles (tile * 16384 + e) (l.map fun v => v.setWidth 33 ||| (1#33 <<< 32)) }

/-- The tile's contents become undefined, or zeros in the secure world. -/
def State.loseTile (s : State) (core tile : Nat) (zero : Bool) : State :=
  let e := if zero then 0 else s.free + 1
  { s with free := s.free + 1 }.modCore core fun c =>
    { c with
      tiles := SMap.clear c.tiles (tile * 16384) 16384
      tileEpoch := (tile, e) :: c.tileEpoch.filter fun (p : Nat × Epoch) => p.1 != tile }

/-- The physical tile of accN in the group's team (R27). -/
def State.teamTile (s : State) (g : Group) (n : Nat) : Option Nat :=
  match s.teams[g.team]? with
  | some t => if n < t.accLen then some (t.accBase + n) else none
  | none => none

/-! ## Batches (R332, R333) -/

def Batch.ended (b : Batch) (err : Bool) : Batch := { b with left := b.left - 1, err := b.err || err }

/-- An operation of the batch with a sequence has retired. -/
def Group.batchDone (g : Group) (seq : Nat) (err : Bool) : Group :=
  if g.batch.seq == seq then { g with batch := g.batch.ended err }
  else { g with batches := g.batches.map fun b => if b.seq == seq then b.ended err else b }

/-- An operation joins the open batch. -/
def Group.joinBatch (g : Group) (n : Nat) : Group := { g with batch := { g.batch with left := g.batch.left + n } }

/-! ## Issue -/

/-- Puts an operation in a tile's queue. -/
def State.pushTile (s : State) (core tile : Nat) (o : TileOp) : State :=
  { s with free := s.free + 1 }.modCore core fun c =>
    { c with tileQ := c.tileQ.set (Fin.ofNat 16 tile) (c.tileQ[Fin.ofNat 16 tile] ++ [{ o with issued := s.free }]) }

def State.tileQueue (s : State) (core tile : Nat) : List TileOp := (s.core core).tileQ[Fin.ofNat 16 tile]

/-- A tile operation of the group. -/
def tileOp (gi : Nat) (g : Group) (k : TileKind) : TileOp :=
  { kind := k, grp := gi, team := g.team, job := g.job, batch := g.batch.seq, stalled := none, issued := 0 }

/-- The trap of a scratchpad offset, if any: its alignment, then its extent (R349). -/
def scratchFault (i : Instr) (g : Group) (l : List (DWord × Nat × Nat)) (size : Nat) : Option TrapInfo :=
  match l.find? fun x => x.1.toNat % x.2.1 != 0 with
  | some x => some (trapAt i g .align x.1 0 false)
  | none =>
    match l.find? fun x => x.2.2 != 0 && x.1.toNat + x.2.2 > size with
    | some x => some (trapAt i g .perm x.1 0 false)
    | none => none

/-- MMA (R334, R335). An operand extent of 0 is one that scratchpad does not hold. -/
def execMma (x : Asy) (k : Word) (s : State) :=
  let i := Instr.mma x k
  runInstr i {} s fun s gi g =>
    let (pair, ga) := (fld k 0 0 == 1, fld k 1 1 == 1)
    let (ka, kb, n) := (fld k 4 2, fld k 7 5, 32 * (fld k 12 8 + 1))
    let (a, b) := (g.ctx.slotOf x.a, g.ctx.slotOf x.b)
    let twin := match s.teams[g.team]? with | some t => t.twin.isSome | none => false
    if pair && (!twin || g.core % 2 == 1) then .trap (trapOf i g .mmaRole)
    else
      match s.teamTile g x.sub.toNat with
      | none => .trap (trapOf i g .illegalOperand)
      | some tile =>
        match scratchFault i g [(a, 128, if ga then 0 else 16384 * panels ka n), (b, 4, 0)] (s.scratchOf g).2 with
        | some t => .trap t
        | none =>
          let op (half : Option Bool) : TileOp := tileOp gi g (.mma half ga ka kb n a b.toNat)
          if pair then
            let s := s.modGroup gi fun g => g.joinBatch 2
            .done ((s.pushTile g.core tile (op (some false))).pushTile (g.core + 1) tile (op (some true)))
          else .done ((s.modGroup gi fun g => g.joinBatch 1).pushTile g.core tile (op none))

/-- MBATCH (R332). -/
def execMbatch (x : Asy) (s : State) :=
  runInstr (.mbatch x) {} s fun s gi g =>
    if g.batches.any fun b => b.num == g.batch.num && b.left != 0 then .wait s
    else
      .done (s.setGroup gi { g with
        batches := g.batch :: g.batches.filter fun b => b.num != g.batch.num
        batch := ⟨g.batch.seq + 1, (g.batch.num + 1) % 256, 0, false⟩ })

/-- MWAIT (R333): it acquires toward TEAM, which leaves L1 as it is (R278). -/
def execMwait (x : Asy) (k : Word) (s : State) :=
  runInstr (.mwait x k) {} s fun s gi g =>
    let f := fld k 9 8
    match g.batches.find? fun b => b.num == fld k 7 0 with
    | none => .done (s.setCtx gi (g.ctx.setC f false))
    | some b => if b.left != 0 then .wait s else .done ((s.setCtx gi (g.ctx.setC f b.err)).acquire g.core 0)

/-- Bytes a whole tile takes in scratchpad (R339). -/
def tileBytes (fmt : Nat) : Nat := if fmt == 0 then 65536 else 32768

/-- Entries of a thread's eight elements (R338). -/
def bandEntries (fmt : Nat) : Nat := if fmt == 0 then 8 else 4

/-- Enters an MDRAIN, MFILL or MZERO: the group stalls while operations stand ahead, and for its own where `own` (R329). -/
def enterTile (x : Asy) (s : State) (gi : Nat) (g : Group) (tile : Nat) (k : TileKind) (own : Bool) : Eff :=
  let ahead := !(s.tileQueue g.core tile).isEmpty
  let at_ := s.free
  let s := s.pushTile g.core tile (tileOp gi g k)
  .done (s.modGroup gi fun g => { g.joinBatch 1 with status := if ahead || own then .tileWait own at_ x.sp else g.status })

/-- Tile row and column of element `e` of a thread in a band (R338), as a tile element number. -/
def bandElem (band t e : Nat) : Nat := (16 * band + t / 16) * 128 + 8 * (t % 16) + e

/-- MDRAIN (R337 to R339). -/
def execMdrain (x : Asy) (k : Word) (s : State) :=
  let i := Instr.mdrain x k
  let sp := fld k 0 0 == 1
  let (band, fmt, rs, cs) := (fld k 3 1, fld k 5 4, fld k 6 6 == 1, fld k 7 7 == 1)
  let range := if sp then 0 else entRange x.d.toNat (bandEntries fmt)
  runInstr i { ents := range } s fun s gi g =>
    match s.teamTile g x.sub.toNat with
    | none => .trap (trapOf i g .illegalOperand)
    | some tile =>
      if !g.ctx.mappedAll range then .trap (trapOf i g .illegalOperand)
      else
        let scale := if rs || cs then g.ctx.slotOf x.b else 0
        let out := if sp then g.ctx.slotOf x.a else 0
        let scales := [(scale, 16, if rs && cs then 1024 else if rs || cs then 512 else 0)]
        match scratchFault i g (if sp then (out, 128, tileBytes fmt) :: scales else scales) (s.scratchOf g).2 with
        | some t => .trap t
        | none => enterTile x s gi g tile (.drain (if sp then none else some x.d.toNat) fmt band rs cs out.toNat scale.toNat) (!sp)

/-- The eight elements a thread gives to MFILL, widened to binary32 (R338, R340). -/
def fillWords (x : Ctx) (d fmt t : Nat) : List Word :=
  (List.range 8).map fun e =>
    if fmt == 0 then (x.entry (d + e)).at t
    else
      let v := elem ((x.entry (d + e / 2)).at t) 16 (e % 2)
      BitVec.ofNat 32 (rne .b32 ((if fmt == 1 then Fmt.b16 else Fmt.bf16).num v))

/-- MFILL (R337, R340). -/
def execMfill (x : Asy) (k : Word) (s : State) :=
  let i := Instr.mfill x k
  let sp := fld k 0 0 == 1
  let (band, fmt) := (fld k 3 1, fld k 5 4)
  let range := if sp then 0 else entRange x.d.toNat (bandEntries fmt)
  runInstr i { ents := range } s fun s gi g =>
    match s.teamTile g x.sub.toNat with
    | none => .trap (trapOf i g .illegalOperand)
    | some tile =>
      if !g.ctx.mappedAll range then .trap (trapOf i g .illegalOperand)
      else
        let src := if sp then g.ctx.slotOf x.a else 0
        match scratchFault i g (if sp then [(src, 128, tileBytes fmt)] else []) (s.scratchOf g).2 with
        | some t => .trap t
        | none =>
          let vals := if sp then none else some (g.ctx.lanes.map fun t => (t, fillWords g.ctx x.d.toNat fmt t))
          enterTile x s gi g tile (.fill vals fmt band src.toNat) false

/-- MZERO (R340). -/
def execMzero (x : Asy) (s : State) :=
  let i := Instr.mzero x
  runInstr i {} s fun s gi g =>
    match s.teamTile g x.sub.toNat with
    | none => .trap (trapOf i g .illegalOperand)
    | some tile => enterTile x s gi g tile .zero false

/-- The main registers that NEVAL reads and will write, where its windows hold them (R342). -/
def State.evalWindows (s : State) (ixI ixO nin nout : Nat) : BitVec 256 :=
  match s.issuing with
  | some g =>
    let win (k n : Nat) : BitVec 256 := mainRange (g.ctx.ix[Fin.ofNat 4 k]).base.toNat ((n + 1) / 2)
    win ixI nin ||| win ixO nout
  | none => 0

/-- NEVAL (R342, R343). -/
def execNeval (x : Asy) (k : Word) (s : State) :=
  let i := Instr.neval x k
  let (ixI, ixO, nin, nout) := (fld k 1 0, fld k 3 2, fld k 9 4 + 1, fld k 15 10 + 1)
  runInstr i { main := s.evalWindows ixI ixO nin nout } s fun s gi g =>
    let c := g.ctx
    let (ri, ro) := (c.ix[Fin.ofNat 4 ixI], c.ix[Fin.ofNat 4 ixO])
    let h := c.slotOf x.a
    if ri.len.toNat < (nin + 1) / 2 || ro.len.toNat < (nout + 1) / 2 || !s.whorlRes g.core then .trap (trapOf i g .illegalOperand)
    else if h.toNat % 64 != 0 then .trap (trapAt i g .align h 0 false)
    else
      match g.freeSlot with
      | none => .wait s
      | some slot =>
        let inputs (t : Nat) : List Nat := (List.range nin).map fun e => elem ((c.readMain (ri.base.toNat + e / 2)).at t) 16 (e % 2)
        let rows := c.lanes.map fun t => (⟨gi, slot, t, nin, nout, g.batch.seq, inputs t⟩ : WRow)
        let p := pendOf i g (.main ro.base.toNat ((nout + 1) / 2)) c.active false
        if rows.isEmpty then .done s
        else
          let s := s.setGroup gi ((g.setSlot slot (some p)).joinBatch 1)
          let pr := pairIx g.core
          let w := s.whorls[pr]
          .done { s with whorls := s.whorls.set pr { w with queue := w.queue ++ [(⟨g.job, h, rows⟩ : WBin)] } }

/-! ## Retiring an operation -/

/-- The 128 bytes of a row of a scratchpad panel in canonical layout, swizzle 0 (R245, R323), from an offset of the core array. -/
def Core.panelRow (c : Core) (core base off : Nat) : Nat :=
  let q := off / 128 % 8
  leNat ((List.range 8).map fun k => c.arrayBytes core (base + off + 16 * (Nat.xor k q)) 16).flatten

/-- The core array with a panel row written (R245). -/
def Core.setPanelRow (c : Core) (base off v : Nat) : Core :=
  let q := off / 128 % 8
  (List.range 8).foldl (fun c k => c.arraySet (base + off + 16 * (Nat.xor k q)) (leBytes 16 (v / 2 ^ (128 * k)))) c

/-- What an A fetch gives: its rows, each as its panels' rows, or an error, a page it stalls on (R498), or a wait at the core's edge (R306,
R506). -/
inductive AFetch where
  | rows (l : List (List Nat))
  | fail (va : DWord)
  | stall (va : DWord)
  | wait
  deriving DecidableEq, Repr

/-- Reads one row of a panel in global memory (R325). -/
def State.globalRow (s : State) (core job : Nat) (va : DWord) : Except AFetch Nat :=
  match s.xlate core job va .read true with
  | .ok pa _ =>
    if s.peerRefused job pa then .error (.fail va)
    else if s.edgeWaits job pa then .error .wait
    else if s.poisoned pa 128 && !deniedPa pa then .error (.fail va)
    else .ok (if deniedPa pa then 0 else s.devBytes job pa 128)
  | .fault _ => .error (.fail va)
  | .miss => .error (.stall va)
  | .pri => .error (.stall va)

/-- The panels' rows of one matrix row. -/
def State.globalRows (s : State) (core job : Nat) (va : DWord) : Nat → Except AFetch (List Nat)
  | 0 => .ok []
  | n + 1 =>
    match s.globalRow core job va with
    | .error e => .error e
    | .ok v => match s.globalRows core job (va + 16384) n with | .error e => .error e | .ok l => .ok (v :: l)

/-- The core's messages for the rows that it fetches (R290). -/
def State.fetchedA (s : State) (core job p : Nat) (va : DWord) : State :=
  (List.range (128 * p)).foldl (fun s k => match s.xlate core job (va + BitVec.ofNat 64 (128 * k)) .read true with
    | .ok pa _ => s.exchange (.core core) pa
    | _ => s) s

/-- Every row of A in global memory. -/
def State.globalA (s : State) (core job p : Nat) (va : DWord) : Nat → AFetch
  | 0 => .rows []
  | n + 1 =>
    match s.globalRows core job va p with
    | .error e => e
    | .ok r =>
      match s.globalA core job p (va + 128) n with
      | .rows l => .rows (r :: l)
      | e => e

/-- The A operand of an operation on a core (R323 to R325). -/
def State.fetchA (s : State) (core : Nat) (o : TileOp) (half : Option Bool) (ga : Bool) (ka k : Nat) (a : DWord) : AFetch :=
  let p := panels ka k
  if ga then
    s.globalA core o.job p (if half == some true then a + BitVec.ofNat 64 (16384 * p) else a) 128
  else
    let team := if half == some true then ((s.teams[o.team]?).bind (·.twin)).getD o.team else o.team
    let base := match s.teams[team]? with | some t => t.scrBase * 65536 | none => 0
    .rows ((List.range 128).map fun i => (List.range p).map fun j => (s.core core).panelRow core base (a.toNat + 16384 * j + 128 * i))

/-- A 4-byte word of the weight buffer; it ends at byte 524,288 (R349). -/
def Core.weightWord (c : Core) (off : Nat) : Dev Nat := if off + 4 ≤ 524288 then .ok (memNat c.weight off 4) else .fail .perm (BitVec.ofNat 64 off)

/-- The tile after an MMA (R334). -/
def mmaTile (ka kb k : Nat) (old : Nat → Nat) (a b : List (List Nat)) : List Word :=
  let (fa, fb) := (kindFmt ka, kindFmt kb)
  let e := panelElems ka
  a.zipIdx.flatMap fun r =>
    (List.range 128).map fun j =>
      BitVec.ofNat 32 (chunkChain fa fb (fun c => rowElem fa.width (r.1.getD (c / e) 0) (c % e)) (fun c => b.getD (128 * c + j) [])
        0 (k / 32) (old (128 * r.2 + j)))

/-- One scaled element converted to a format (R129, R339). -/
def drainElem (fmt x : Nat) (rs cs : Option Nat) : Nat :=
  let x := match rs with | some v => mulF .b32 x v | none => x
  let x := match cs with | some v => mulF .b32 x v | none => x
  match fmt with
  | 0 => x
  | 1 => rne .b16 (Fmt.b32.num x)
  | _ => rne .bf16 (Fmt.b32.num x)

/-- What applying an operation gives. -/
inductive Applied where
  | ok (s : State)
  | error (s : State) (at_ : DWord)
  | stall (va : DWord)
  | wait

/-- The first byte of a team's scratchpad in its core's array. -/
def State.teamScratch (s : State) (t : Nat) : Nat := match s.teams[t]? with | some t => t.scrBase * 65536 | none => 0

/-- Applies an operation to its tile (R328, R334, R339, R340, R499, R500). -/
def State.applyOp (s : State) (core tile : Nat) (o : TileOp) : Applied :=
  let c := s.core core
  let elemAt (e : Nat) : Nat := (c.tileElem core tile e).toNat
  let base := s.teamScratch o.team
  match o.kind with
  | .zero => .ok (s.modCore core fun c => c.tileSet tile 0 (List.replicate 16384 0))
  | .layer => .wait
  | .mma half ga ka kb k a b =>
    match s.fetchA core o half ga ka k a with
    | .stall va => .stall va
    | .wait => .wait
    | .fail va => .error (s.loseTile core tile false) va
    | .rows l =>
      match zGroups (s.core (if half == some true then core - 1 else core)).weightWord (kindFmt kb).width b (4 * k) with
      | .ok g =>
        let p := panels ka k
        let s := if ga then s.fetchedA core o.job p (if half == some true then a + BitVec.ofNat 64 (16384 * p) else a) else s
        .ok (s.modCore core fun c => c.tileSet tile 0 (mmaTile ka kb k elemAt l g))
      | .fail _ off => .error (s.loseTile core tile false) off
      | .wait => .error (s.loseTile core tile false) 0
  | .drain d fmt band rs cs out scale =>
    let sc (n : Nat) : Nat := leNat (c.arrayBytes core (base + scale + n) 4)
    let one (e : Nat) : Nat :=
      drainElem fmt (elemAt e) (if rs then some (sc (4 * (e / 128))) else none)
        (if cs then some (sc ((if rs then 512 else 0) + 4 * (e % 128))) else none)
    match d with
    | some d =>
      .ok (s.modGroup o.grp fun g =>
        if g.status == .exited || g.status == .gone then g
        else { g with ctx := (List.range (bandEntries fmt)).foldl (fun x j =>
          x.writeEntry (d + j) g.ctx.active fun t =>
            if fmt == 0 then BitVec.ofNat 32 (one (bandElem band t j))
            else BitVec.ofNat 32 (one (bandElem band t (2 * j)) + 65536 * one (bandElem band t (2 * j + 1)))) g.ctx })
    | none =>
      let (n, w) := if fmt == 0 then (32, 32) else (64, 16)
      .ok (s.modCore core fun c => (List.range 128).foldl (fun c i =>
        (List.range (128 / n)).foldl (fun c p =>
          c.setPanelRow base (out + 16384 * p + 128 * i) (packBits w n fun e => one (128 * i + n * p + e))) c) c)
  | .fill vals fmt band src =>
    match vals with
    | some l => .ok (s.modCore core fun c => l.foldl (fun c v => c.tileSet tile (bandElem band v.1 0) v.2) c)
    | none =>
      let (n, w) := if fmt == 0 then (32, 32) else (64, 16)
      let wide (v : Nat) : Nat := if fmt == 0 then v else rne .b32 ((if fmt == 1 then Fmt.b16 else Fmt.bf16).num v)
      .ok (s.modCore core fun k => (List.range 128).foldl (fun k i =>
        k.tileSet tile (128 * i) ((List.range 128).map fun e =>
          BitVec.ofNat 32 (wide (rowElem w (c.panelRow core base (src + 16384 * (e / n) + 128 * i)) (e % n))))) k)

/-- A group that stalled resumes: running, or stopped at its safe point when its team is pre-empted (R469). -/
def Group.goOn (g : Group) (preempt : Bool) (sp : Option Word) : Group :=
  match sp with
  | some m => if preempt && !g.handler && (g.kind == .team || g.kind == .spawned) then { g with status := .stopped m } else { g with status := .running }
  | none => { g with status := .running }

/-- The group that stalled for its own operation, or for those ahead of it, goes on (R329). -/
def State.wakeTile (s : State) (o : TileOp) (own : Bool) : State :=
  match s.groups[o.grp]? with
  | some g =>
    match g.status with
    | .tileWait w k sp => if w == own && k == o.issued then s.setGroup o.grp (g.goOn (s.preempting g) sp) else s
    | _ => s
  | none => s

/-- The first operation of a tile's queue has been applied: it leaves, its batch counts it, and the waiting groups go on. -/
def State.popTile (s : State) (core tile : Nat) (o : TileOp) (err : Option DWord) : State :=
  let s := s.modCore core fun c => { c with tileQ := c.tileQ.set (Fin.ofNat 16 tile) (c.tileQ[Fin.ofNat 16 tile].drop 1) }
  let s := s.modGroup o.grp fun g => g.batchDone o.batch err.isSome
  let s := match err with | some a => s.postError o.job 3 a | none => s
  let s := s.wakeTile o true
  match s.tileQueue core tile with
  | n :: _ => s.wakeTile n false
  | [] => s

/-- A pair operation stands in a queue before any solo MMA. -/
def pairFirst : List TileOp → Bool
  | [] => false
  | o :: l =>
    match o.kind with
    | .mma (some _) _ _ _ _ _ _ => true
    | .mma none _ _ _ _ _ _ => false
    | _ => pairFirst l

/-- A solo operation of a follower core waits for the unretired pair operations of the core, but for those that wait for a solo one themselves
(R335, log 33). -/
def State.slaved (s : State) (core : Nat) (o : TileOp) : Bool :=
  match o.kind with
  | .mma none _ _ _ _ _ _ => core % 2 == 1 && (List.range 16).any fun t => pairFirst (s.tileQueue core t)
  | _ => false

/-- The first operation of a tile's queue retires, or stalls on a page (R328, R498). Layer operations retire with their Whorl tile. -/
def retireTile (core tile : Nat) (s : State) : State :=
  match s.tileQueue core tile with
  | [] => s
  | o :: rest =>
    if o.stalled.isSome || s.slaved core o then s
    else
      match s.applyOp core tile o with
      | .ok t => t.popTile core tile o none
      | .error t a => t.popTile core tile o (some a)
      | .wait => s
      | .stall va =>
        let s := if s.pages.contains (o.job, pageOf va) || s.xlate core o.job va .read true != .miss then s
          else { s with pages := s.pages ++ [(o.job, pageOf va)] }
        s.modCore core fun c => { c with tileQ := c.tileQ.set (Fin.ofNat 16 tile) ({ o with stalled := some va } :: rest) }

end Sys2Proof.Machine
end

