-- ==== Sys2Proof/Machine/Breach.lean ====
section
/-! DEFINITION. What follows where software breaks an obligation of which no chapter states the consequence (R3): any state that the job may
write may take any value, and nothing else does. Whether it has broken one is a free value (log 51). -/

namespace Sys2Proof.Machine

/-- A register, entry, predicate, flag or the address of a group takes a free value. -/
def Ctx.scribble (x : Ctx) (k v : Nat) : Ctx :=
  let lanes : Lanes := Vector.ofFn fun t : Fin 256 => BitVec.ofNat 32 (v / 2 ^ (32 * t.val))
  let (k, i) := (k % 6, k / 6)
  match k with
  | 0 => x.setS (i % 64) (BitVec.ofNat 64 v)
  | 1 => if i < x.main.length then x.writeMain i (BitVec.allOnes 256) fun t => lanes.at t else x
  | 2 => if (x.entry (i % 16)).map.isSome then x.writeEntry (i % 16) (BitVec.allOnes 256) fun t => lanes.at t else x
  | 3 => { x with preds := x.preds.set (Fin.ofNat 8 i) (BitVec.ofNat 256 v) }
  | 4 => x.setC (i % 4) (v % 2 == 1)
  | _ => { x with pc := BitVec.ofNat 64 (v / 2 * 2) }

/-- State of a job takes a free value: a byte of its memory, a group's context, a byte of a team's scratchpad, an element of its tiles, a
barrier, or a byte of the weight buffer that it has filled. What is another job's stays. -/
def State.scribble (s : State) (job n : Nat) : State :=
  let (v, s) := s.take
  let (k, n) := (n % 6, n / 6)
  let team (f : Team → State) : State :=
    match s.teams[n % max 1 s.teams.length]? with
    | some t => if t.live && !t.saved && t.job == job then f t else s
    | none => s
  let place := n / max 1 s.teams.length
  match k with
  | 0 => match s.devWrite job (BitVec.ofNat 64 n) [BitVec.ofNat 8 v] with | .ok s => s | _ => s
  | 1 =>
    s.modGroup (n % max 1 s.groups.length) fun g =>
      if g.job == job && g.living then { g with ctx := g.ctx.scribble (n / max 1 s.groups.length) v } else g
  | 2 => team fun t => if t.scrLen == 0 then s else s.modCore t.core fun c => c.arraySet (t.scrBase * 65536 + place % (t.scrLen * 65536)) [BitVec.ofNat 8 v]
  | 3 => team fun t => if t.accLen == 0 then s else s.modCore t.core fun c => c.tileSet (t.accBase + place / 16384 % t.accLen) (place % 16384) [BitVec.ofNat 32 v]
  | 4 => team fun _ => s.modTeam (n % max 1 s.teams.length) fun t => { t with bars := t.bars.set (Fin.ofNat 16 place) (Barrier.start (1 + v % 255)) }
  | _ => s.modCore (n % 64) fun c => if c.weightJob == some job then { c with weight := SMap.setList c.weight (n / 64 % 524288) [BitVec.ofNat 8 v] } else c

/-- The consequence of a breach by a job's software, where there is one (R3). -/
def State.breach (s : State) (n : Nat) : State :=
  let job := n % max 1 s.jobs.length
  match s.jobs[job]? with
  | some j => if j.live && Config.breach job s.free then s.scribble job (n / max 1 s.jobs.length) else s
  | none => s

end Sys2Proof.Machine
end

