-- ==== Sys2Proof/Machine/Texture.lean ====
section
/-! DEFINITION. Textures: descriptors, samplers, formats, filtering and the instructions TEX, TEXF and TEXQ (R370 to R377). -/

namespace Sys2Proof.Machine

/-! ## Descriptors, samplers and formats (R370 to R372) -/

/-- A texture descriptor. -/
structure TexDesc where
  base : Nat
  fmt : Nat
  dim : Nat
  levels : Nat
  w : Nat
  h : Nat
  d : Nat
  table : Nat
  deriving DecidableEq, Repr

/-- Bytes `hi` to `lo` of a record held as a number. -/
def recField (v off n : Nat) : Nat := v / 2 ^ (8 * off) % 2 ^ (8 * n)

/-- The ASTC footprints of codes 16 to 29 (R371). -/
def astcBlock (k : Nat) : Nat × Nat :=
  [(4, 4), (5, 4), (5, 5), (6, 5), (6, 6), (8, 5), (8, 6), (8, 8), (10, 5), (10, 6), (10, 8), (10, 10), (12, 10), (12, 12)].getD k (1, 1)

/-- The block of a format in texels. -/
def texBlock (fmt : Nat) : Nat × Nat := if fmt < 16 then (1, 1) else if fmt < 32 then astcBlock (fmt - 16) else astcBlock (fmt - 32)

/-- Bytes of a texel, or of a block. -/
def texBytes : Nat → Nat
  | 0 => 1 | 1 => 2 | 2 => 4 | 3 => 1 | 4 => 2 | 5 => 4 | 6 => 2 | 7 => 4 | 8 => 8 | 9 => 4 | _ => 16

def texFmtOk (f : Nat) : Bool := f ≤ 10 || (16 ≤ f && f ≤ 29) || (32 ≤ f && f ≤ 45)

/-- A descriptor read from its 64 bytes; none outside R370. -/
def texDesc (v : Nat) : Option TexDesc :=
  let t : TexDesc := ⟨recField v 0 8, recField v 8 1, recField v 9 1, recField v 10 1, recField v 12 4, recField v 16 4, recField v 20 4, recField v 48 8⟩
  let size (n m : Nat) : Bool := 1 ≤ n && n ≤ m
  if t.base % 65536 == 0 && texFmtOk t.fmt && t.dim ≤ 3 && size t.levels 15 && recField v 11 1 == 0 && size t.w 16384 && size t.h 16384 &&
      size t.d 2048 && (t.dim != 0 || t.h == 1) && (t.dim == 2 || t.d == 1) && recField v 24 24 == 0 && t.table % 16 == 0 && recField v 56 8 == 0
  then some t else none

/-- A sampler record. -/
structure Sampler where
  filter : Nat
  aniso : Nat
  modes : List Nat
  bias : Nat
  lodMax : Nat
  deriving DecidableEq, Repr

/-- A sampler read from its 16 bytes; none outside R372. -/
def sampler (v : Nat) : Option Sampler :=
  let t : Sampler := ⟨recField v 0 1, recField v 1 1, [recField v 2 1, recField v 3 1, recField v 4 1], recField v 8 4, recField v 12 4⟩
  if t.filter ≤ 3 && t.aniso ≤ 4 && t.modes.all (· ≤ 2) && recField v 5 3 == 0 && (Num.fin false 0 0).le (Fmt.b32.num t.lodMax) then some t else none

/-- A level's size along a dimension. -/
def levelSize (n l : Nat) : Nat := max 1 (n / 2 ^ l)

/-- Blocks that cover `n` texels. -/
def blocksOf (n b : Nat) : Nat := (n + b - 1) / b

/-- Bytes of a row of a level: its pitch (R370). -/
def TexDesc.pitch (t : TexDesc) (l : Nat) : Nat := (blocksOf (levelSize t.w l) (texBlock t.fmt).1 * texBytes t.fmt + 127) / 128 * 128

/-- Bytes of a slice or face of a level. -/
def TexDesc.slice (t : TexDesc) (l : Nat) : Nat := t.pitch l * blocksOf (levelSize t.h l) (texBlock t.fmt).2

def TexDesc.slices (t : TexDesc) (l : Nat) : Nat := if t.dim == 3 then 6 else levelSize t.d l

/-- Where level `l` starts, from the base. -/
def TexDesc.levelAt (t : TexDesc) : Nat → Nat
  | 0 => 0
  | l + 1 => (t.levelAt l + t.slice l * t.slices l + 65535) / 65536 * 65536

/-- A texel: level, slice or face, column and row. -/
structure Texel where
  l : Nat
  z : Nat
  x : Nat
  y : Nat
  deriving DecidableEq, Repr

/-- The virtual address of the texel or of its block. -/
def TexDesc.addr (t : TexDesc) (p : Texel) : DWord :=
  let (bw, bh) := texBlock t.fmt
  BitVec.ofNat 64 (t.base + t.levelAt p.l + p.z * t.slice p.l + p.y / bh * t.pitch p.l + p.x / bw * texBytes t.fmt)

/-- v ÷ n rounded to binary32. -/
def unorm (v n : Nat) : Nat := if v == 0 then 0 else ratioRes .b32 false v 0 n 0

/-- The sRGB value v ÷ 255 as a linear binary32 number, correctly rounded (R371; the transfer function of the sRGB standard). -/
def srgbLinear (v : Nat) : Nat :=
  if v * 100000 ≤ 4045 * 255 then (if v == 0 then 0 else ratioRes .b32 false (v * 100) 0 (255 * 1292) 0)
  else
    let l := fxLog2 (1000 * v + 55 * 255) 0 - fxLog2 (1055 * 255) 0
    (roundDy .b32 .plain false (exp2Dy (l * 12 / 5))).bits

/-- The four channels of a texel as binary32 encodings, from its bytes (R371). -/
def texelChannels (t : TexDesc) (p : Texel) (v : Nat) : List Nat :=
  let one := Fmt.b32.one
  let pad (l : List Nat) : List Nat := (l ++ [0, 0, 0, one].drop l.length)
  let bytes (n : Nat) : List Nat := (List.range n).map fun k => recField v k 1
  let halves (n : Nat) : List Nat := (List.range n).map fun k => rne .b32 (Fmt.b16.num (recField v (2 * k) 2))
  let srgb (l : List Nat) : List Nat := l.mapIdx fun k b => if k == 3 then unorm b 255 else srgbLinear b
  match t.fmt with
  | 0 => pad ((bytes 1).map (unorm · 255))
  | 1 => pad ((bytes 2).map (unorm · 255))
  | 2 => (bytes 4).map (unorm · 255)
  | 3 => pad (srgb (bytes 1))
  | 4 => pad (srgb (bytes 2))
  | 5 => srgb (bytes 4)
  | 6 => pad (halves 1)
  | 7 => pad (halves 2)
  | 8 => halves 4
  | 9 => pad [v % 2 ^ 32]
  | 10 => (List.range 4).map fun k => recField v (4 * k) 4
  | f =>
    let (bw, bh) := texBlock f
    let q := Config.astc f v (p.x % bw) (p.y % bh)
    if f < 32 then (List.range 4).map fun k => unorm (recField q (2 * k) 2) 65535
    else srgb ((List.range 4).map fun k => recField q k 1)

/-! ## Filtering (R374) -/

/-- A texel index as the sampler addresses it: wrap, clamp or mirror. -/
def texAddress (mode : Nat) (n : Nat) (i : Int) : Nat :=
  match mode with
  | 0 => (i % n).toNat
  | 1 => (max 0 (min i ((n : Int) - 1))).toNat
  | _ => let m := (i % (2 * n)).toNat; if m < n then m else 2 * n - 1 - m

/-- A fraction in [0, 1) quantised to 256ths, with the integer it belongs to. -/
def quantise (x : Num) (key : Nat) : Int × Nat :=
  if !x.isFinite then (Config.texIndex key, 0)
  else
    let i := x.floor
    let a := ((x.sub (Num.ofInt i)).mul (.fin false 256 0)).nearest.toNat
    if a == 256 then (i + 1, 0) else (i, a)

def half : Nat := 0x3F000000

/-- The texel coordinates of a bilinear axis: two indices and their weights in 256ths; a weight of 0 is left out. -/
def linearAxis (mode n u : Nat) : List (Nat × Nat) :=
  let x := subF .b32 (mulF .b32 u (rne .b32 (Num.ofInt n))) half
  let (i, a) := quantise (Fmt.b32.num x) x
  [(texAddress mode n i, 256 - a), (texAddress mode n (i + 1), a)].filter fun p => p.2 != 0

/-- The texel of a nearest axis. -/
def nearestAxis (mode n u : Nat) : List (Nat × Nat) :=
  let x := mulF .b32 u (rne .b32 (Num.ofInt n))
  let f := Fmt.b32.num x
  [(texAddress mode n (if f.isFinite then f.floor else Config.texIndex x), 256)]

/-- A bilinear result: texels and their weights, with the power of two that divides them. -/
structure Bilinear where
  terms : List (Texel × Nat)
  shift : Nat
  deriving DecidableEq, Repr

/-- A probe: its bilinear results with weights in 256ths. -/
abbrev Probe := List (Bilinear × Nat)

/-- The face and face coordinates of a cube direction, as binary32 encodings, with |ma| (R374; the face axes are log 35). -/
def cubeFace (x y z : Nat) : Nat × Nat × Nat × Nat :=
  let f := Fmt.b32
  let mag (v : Nat) : Num := f.num (clearSign f v)
  let neg (v : Nat) : Bool := (f.num v).neg
  let ge (a b : Nat) : Bool := !((mag a).lt (mag b))
  let flip (v : Nat) : Nat := flipSign f v
  let (face, s, t, m) :=
    if ge x y && ge x z then (if neg x then (1, z, flip y, x) else (0, flip z, flip y, x))
    else if ge y z then (if neg y then (3, x, flip z, y) else (2, x, z, y))
    else (if neg z then (5, flip x, flip y, z) else (4, x, flip y, z))
  let ma := clearSign f m
  let coord (v : Nat) : Nat := mulF f (addF f (divF f v ma) f.one) half
  (face, coord s, coord t, ma)

/-- The texels of one level at coordinates (R374). -/
def levelTerms (t : TexDesc) (sm : Sampler) (nearest : Bool) (l : Nat) (c : List Nat) : Bilinear :=
  let axis (mode n u : Nat) : List (Nat × Nat) := if nearest then nearestAxis mode n u else linearAxis mode n u
  let (w, h, d) := (levelSize t.w l, levelSize t.h l, levelSize t.d l)
  let mode (k : Nat) : Nat := if t.dim == 3 then 1 else sm.modes.getD k 0
  let (face, u, v) := if t.dim == 3 then (let q := cubeFace (c.getD 0 0) (c.getD 1 0) (c.getD 2 0); (q.1, q.2.1, q.2.2.1)) else (0, c.getD 0 0, c.getD 1 0)
  let xs := axis (mode 0) w u
  let ys := if t.dim == 0 then [(0, 1)] else axis (mode 1) h v
  let zs := if t.dim == 2 then axis (mode 2) d (c.getD 2 0) else [(face, 1)]
  { terms := zs.flatMap fun z => ys.flatMap fun y => xs.map fun x => (⟨l, z.1, x.1, y.1⟩, x.2 * y.2 * z.2)
    shift := 8 * (match t.dim with | 0 => 1 | 2 => 3 | _ => 2) }

/-- The probe at coordinates for an LOD (R374). -/
def probeAt (t : TexDesc) (sm : Sampler) (lam : Num) (c : List Nat) : Probe :=
  let top : Int := (t.levels : Int) - 1
  let lev (i : Int) : Nat := (max 0 (min i top)).toNat
  if sm.filter ≤ 1 then [(levelTerms t sm (sm.filter == 0) (lev (lam.add (.fin false 1 (-1))).floor) c, 256)]
  else
    let (i, g) := quantise lam 0
    [(levelTerms t sm false (lev i) c, 256 - g), (levelTerms t sm false (lev (i + 1)) c, g)].filter fun p => p.2 != 0

/-- log2 of a positive number, correctly rounded to binary32. -/
def log2Round (x : Num) : Num :=
  match x with
  | .fin _ m e => if m == 0 then .inf true else Fmt.b32.num (roundDy .b32 .plain false ⟨fxLog2 m e, -(fxBits : Int)⟩).bits
  | y => y

/-- log2 of a quotient of positive numbers, correctly rounded to binary32. -/
def log2Quot (x y : Num) : Num :=
  match x, y with
  | .fin _ m e, .fin _ n g =>
    if m == 0 || n == 0 then log2Round (Fmt.b32.num (divNum .b32 x y))
    else Fmt.b32.num (roundDy .b32 .plain false ⟨fxLog2 m e - fxLog2 n g, -(fxBits : Int)⟩).bits
  | _, _ => log2Round (Fmt.b32.num (divNum .b32 x y))

/-- The larger of two numbers; a NaN stays. -/
def Num.top (a b : Num) : Num := if a.isNan then a else if b.isNan then b else if a.lt b then b else a

/-- λ clamped to [0, min(LOD maximum, levels − 1)]; where it is not a number its level is free (log 34). -/
def clampLod (t : TexDesc) (sm : Sampler) (lam : Num) : Num :=
  let lim := Num.ofInt ((t.levels : Int) - 1)
  let hi := if (Fmt.b32.num sm.lodMax).lt lim then Fmt.b32.num sm.lodMax else lim
  if lam.isNan then Num.ofInt (Config.texIndex t.levels % t.levels)
  else if lam.lt (.fin false 0 0) then .fin false 0 0 else if hi.lt lam then hi else lam

/-- ρ of one direction from its derivatives (R374); for a cube, times |ma|. -/
def footprint (t : TexDesc) (ds : List Nat) : Num :=
  let size (k : Nat) : Num := Num.ofInt (if t.dim == 3 then t.w else [t.w, t.h, t.d].getD k 1)
  let one (k v : Nat) : Num := (Fmt.b32.num (clearSign .b32 v)).mul (size k)
  (ds.mapIdx one).foldl Num.top (.fin false 0 0)

/-- The least N = 2^k up to 2^`m` with N × ρmin ≥ ρmax. -/
def anisoCount (rmax rmin : Num) : Nat → Nat → Nat
  | _, 0 => 1
  | k, n + 1 => if rmax.le (rmin.mul (Num.ofInt (2 ^ k))) then 2 ^ k else max (2 ^ (k + 1)) (anisoCount rmax rmin (k + 1) n)

/-- The probes of a lane (R374): coordinates, and derivatives in x and y or an explicit LOD. -/
def texProbes (t : TexDesc) (sm : Sampler) (c : List Nat) (lod : Option Nat) (dx dy : List Nat) : List Probe :=
  match lod with
  | some v => [probeAt t sm (clampLod t sm ((Fmt.b32.num v).add (Fmt.b32.num sm.bias))) c]
  | none =>
    let ma := if t.dim == 3 then (cubeFace (c.getD 0 0) (c.getD 1 0) (c.getD 2 0)).2.2.2 else Fmt.b32.one
    let (rx, ry) := (footprint t dx, footprint t dy)
    let (rmax, rmin, major) := if rx.lt ry then (ry, rx, dy) else (rx, ry, dx)
    let n := if sm.filter == 3 && !rmax.isZero then anisoCount rmax rmin 0 sm.aniso else 1
    let rho := if n == 1 then rx.top ry else rmax.mul (.fin false 1 (-(Nat.log2 n : Int)))
    let lam := if rho.isZero then .fin false 0 0 else clampLod t sm ((log2Quot rho (Fmt.b32.num ma)).add (Fmt.b32.num sm.bias))
    (List.range n).map fun (k : Nat) =>
      -- (k + 0.5) ÷ N − 0.5 = (2k + 1 − N) ÷ 2N
      let off : Num := Num.mul (Num.ofInt (2 * Int.ofNat k + 1 - n)) (.fin false 1 (-((Nat.log2 n : Int) + 1)))
      probeAt t sm lam (if n == 1 then c else c.mapIdx fun i u => rne .b32 ((Fmt.b32.num u).add (off.mul (Fmt.b32.num (major.getD i 0)))))

def Bilinear.texels (b : Bilinear) : List Texel := b.terms.map fun t => t.1

/-- Channel `ch` of a bilinear result: the exact weighted sum rounded once. -/
def Bilinear.value (b : Bilinear) (texel : Texel → List Nat) (ch : Nat) : Nat :=
  rne .b32 ((b.terms.map fun t => (Fmt.b32.num ((texel t.1).getD ch 0)).mul (.fin false t.2 (-(b.shift : Int)))) |> fun l =>
    match l with | [] => .fin false 0 0 | x :: xs => xs.foldl Num.add x)

/-- Channel `ch` of a probe. -/
def probeValue (p : Probe) (texel : Texel → List Nat) (ch : Nat) : Nat :=
  match p with
  | [(b, _)] => b.value texel ch
  | l => rne .b32 ((l.map fun q => (Fmt.b32.num (q.1.value texel ch)).mul (.fin false q.2 (-8))) |> fun l =>
      match l with | [] => .fin false 0 0 | x :: xs => xs.foldl Num.add x)

/-- Channel `ch` of a lane's result. -/
def texValue (ps : List Probe) (texel : Texel → List Nat) (ch : Nat) : Nat :=
  match ps with
  | [p] => probeValue p texel ch
  | l => rne .b32 (((l.map fun p => Fmt.b32.num (probeValue p texel ch)) |> fun l =>
      match l with | [] => Num.fin false 0 0 | x :: xs => xs.foldl Num.add x).mul (.fin false 1 (-(Nat.log2 l.length : Int))))

/-- The words of a lane's result: binary32 channels, or binary16 pairs (R373). -/
def texWords (f16 : Bool) (n : Nat) (ch : Nat → Nat) : List Word :=
  let h (k : Nat) : Nat := if k < n then rne .b16 (Fmt.b32.num (ch k)) else 0
  if f16 then (List.range ((n + 1) / 2)).map fun k => BitVec.ofNat 32 (h (2 * k) + 65536 * h (2 * k + 1))
  else (List.range n).map fun k => BitVec.ofNat 32 (ch k)

/-! ## The instructions -/

/-- What reading a record for every active lane gives. -/
inductive RecRead where
  | ok (s : State) (v : Nat)
  | stop (e : Eff)

/-- Reads a record of `n` bytes as a load of the group; `bad` says what stands for a failure at its address. -/
def readRecord (i : Instr) (s : State) (gi : Nat) (g : Group) (va : DWord) (n : Nat) : RecRead :=
  match s.checkLanes g .read true 1 (g.ctx.lanes.map fun t => (t, va)) with
  | .trap c a m => .stop (accessTrap i g c a m false)
  | .pri _ => .stop (.await s)
  | .park a => .stop (.ended (parkGroup s gi g a))
  | .ok [] => .ok s 0
  | .ok (a :: l) =>
    if s.holdsBack gi g [a] then .stop (.wait s)
    else
      let s := s.touch gi g false [a]
      if s.peerRefused g.job a.pa then .stop (.trap { trapAt i g .perm va (maskOf ((a :: l).map (·.lane))) false with deferred := true })
      else if s.poisoned a.pa n then .stop (.trap { trapAt i g .eccUncorrected (lineVa va) (maskOf ((a :: l).map (·.lane))) false with deferred := true })
      else .ok s (leNat (s.loadBytes gi g false a n))

/-- The entries a texture instruction frees: every entry it reads, under last use. -/
def rangeFrees (f : SrcField) (n : Nat) : BitVec 16 := if lastUse f then entRange (selNat f) n else 0

/-- The value of entry `e` in a lane as a number. -/
def Ctx.entVal (x : Ctx) (e t : Nat) : Nat := ((x.entry e).at t).toNat

/-- Issues the texel reads of every lane and places the request: `reads` gives a lane's texels and `out` its result from them. -/
def texIssue (i : Instr) (t : TexDesc) (s : State) (gi : Nat) (g : Group) (d n : Nat) (frees : BitVec 16) (blocking : Bool)
    (reads : Nat → List Texel) (out : Nat → (Texel → List Nat) → List Word) : Eff :=
  let bytes := texBytes t.fmt
  let lanes := g.ctx.lanes
  match s.checkLanes g .read true bytes (lanes.flatMap fun k => (reads k).map fun p => (k, t.addr p)) with
  | .trap c a m => accessTrap i g c a m false
  | .pri _ => .await s
  | .park a => .ended (parkGroup s gi g a)
  | .ok l =>
    if s.holdsBack gi g l then .wait s
    else
      match g.portFor blocking i with
      | none => .wait s
      | some at_ =>
        let s := s.touch gi g false l
        let texel (p : Texel) : List Nat :=
          match l.find? fun a => a.va == t.addr p with
          | some a => texelChannels t p (leNat (s.loadBytes gi g false a bytes))
          | none => []
        let causes := l.filterMap fun a => s.loadCause g.job a bytes
        let good := lanes.filter fun k => !causes.any fun c => c.1 == k
        let s := l.foldl (fun s a => if deniedPa a.pa then s.countDenied a.pa g.identity else s) s
        let p := { pendOf i g (.entries d n) g.ctx.active false with vals := good.map fun k => (k, out k texel), causes := causes }
        .done (s.setGroup gi ({ g with ctx := g.ctx.free frees }.place at_ p))

/-- The descriptor a texture instruction names. -/
inductive DescRead where
  | ok (s : State) (t : TexDesc)
  | stop (e : Eff)

/-- Reads the descriptor: its alignment, the read, and its fields (R379). -/
def readDesc (i : Instr) (s : State) (gi : Nat) (g : Group) (va : DWord) : DescRead :=
  if va.toNat % 64 != 0 then .stop (.trap (trapAt i g .align va g.ctx.active false))
  else match readRecord i s gi g va 64 with
    | .stop e => .stop e
    | .ok s v => match texDesc v with
      | some t => .ok s t
      | none => .stop (.trap (trapOf i g .illegalOperand))

/-- The result of a texture read whose dimension is not its descriptor's: the manual states none, so it is free (log 34). -/
def texUnstated (i : Instr) (s : State) (gi : Nat) (g : Group) (d n : Nat) (frees : BitVec 16) (blocking : Bool) : Eff :=
  match g.portFor blocking i with
  | none => .wait s
  | some at_ =>
    let (r, s) := s.take
    let p := { pendOf i g (.entries d n) g.ctx.active false with
      vals := g.ctx.lanes.map fun k => (k, (List.range n).map fun j => BitVec.ofNat 32 (Config.texIndex (r + 4 * k + j))) }
    .done (s.setGroup gi ({ g with ctx := g.ctx.free frees }.place at_ p))

/-- TEX (R373, R374). -/
def execTex (x : Asy) (k : Word) (s : State) :=
  let i := Instr.tex x k
  let (dim, lodm, f16, n) := (fld k 1 0, fld k 3 2, fld k 4 4 == 1, fld k 6 5 + 1)
  let e := selNat x.a
  let nc := texCoords k
  runInstr i { ents := entRange e (texInputs k) ||| entRange x.d.toNat (texOutputs k) } s fun s gi g =>
    if !g.ctx.mappedAll (entRange x.d.toNat (texOutputs k)) then .trap (trapOf i g .illegalOperand)
    else
      match readDesc i s gi g (g.ctx.slotOf x.b) with
      | .stop q => q
      | .ok s t =>
        match readRecord i s gi g (BitVec.ofNat 64 (t.table + 16 * x.sub.toNat)) 16 with
        | .stop q => q
        | .ok s v =>
          match sampler v with
          | none => .trap (trapOf i g .illegalOperand)
          | some sm =>
            if t.dim != dim then texUnstated i s gi g x.d.toNat (texOutputs k) (rangeFrees x.a (texInputs k)) false
            else
            let val (j t : Nat) : Nat := g.ctx.entVal (e + j) t
            let quad (o j t : Nat) : Nat := subF .b32 (val j (t / 4 * 4 + o)) (val j (t / 4 * 4))
            let coords (f : Nat → Nat) : List Nat := (List.range nc).map f
            let probes (l : Nat) : List Probe :=
              match lodm with
              | 1 => texProbes t sm (coords fun j => val j l) (some (val nc l)) [] []
              | 2 => texProbes t sm (coords fun j => val j l) none (coords fun j => val (nc + j) l) (coords fun j => val (2 * nc + j) l)
              | _ => texProbes t sm (coords fun j => val j l) none (coords fun j => quad 1 j l) (coords fun j => quad 2 j l)
            texIssue i t s gi g x.d.toNat (texOutputs k) (rangeFrees x.a (texInputs k)) false
              (fun l => (probes l).flatMap fun (p : Probe) => List.flatMap (fun (b : Bilinear × Nat) => b.1.texels) p)
              (fun l texel => texWords f16 n (texValue (probes l) texel))

/-- The texel a TEXF names, or none outside the texture (R375). -/
def texfTexel (t : TexDesc) (c : List Nat) (l : Nat) : Option Texel :=
  let (u, v, w) := (c.getD 0 0, c.getD 1 0, c.getD 2 0)
  let (y, z) := match t.dim with | 0 => (0, 0) | 1 => (v, 0) | _ => (v, w)
  if l < t.levels && u < levelSize t.w l && y < levelSize t.h l && z < t.slices l then some ⟨l, z, u, y⟩ else none

/-- TEXF (R375). -/
def execTexf (x : Asy) (k : Word) (s : State) :=
  let i := Instr.texf x k
  let (dim, lev, f16, n) := (fld k 1 0, fld k 3 2, fld k 4 4 == 1, fld k 6 5 + 1)
  let e := selNat x.a
  let nc := texCoords k
  runInstr i { ents := entRange e (texfInputs k) ||| entRange x.d.toNat (texOutputs k) } s fun s gi g =>
    if !g.ctx.mappedAll (entRange x.d.toNat (texOutputs k)) then .trap (trapOf i g .illegalOperand)
    else
      match readDesc i s gi g (g.ctx.slotOf x.b) with
      | .stop q => q
      | .ok s t =>
        if t.dim != dim then texUnstated i s gi g x.d.toNat (texOutputs k) (rangeFrees x.a (texfInputs k)) true
        else
        let val (j l : Nat) : Nat := g.ctx.entVal (e + j) l
        let at_ (l : Nat) : Option Texel := texfTexel t ((List.range nc).map fun j => val j l) (if lev == 1 then val nc l else 0)
        texIssue i t s gi g x.d.toNat (texOutputs k) (rangeFrees x.a (texfInputs k)) true
          (fun l => (at_ l).toList)
          (fun l texel => match at_ l with
            | some p => texWords f16 n fun ch => (texel p).getD ch 0
            | none => texWords f16 n fun _ => 0)

/-- Every page of a level is resident; a failed walk says no (R376). -/
def State.levelResident (s : State) (g : Group) (t : TexDesc) (l : Nat) : Bool :=
  let first := t.base + t.levelAt l
  (List.range ((t.slice l * t.slices l + 65535) / 65536)).all fun k =>
    match s.leaf g.core g.job (BitVec.ofNat 64 (first + 65536 * k)) with
    | some f => f.resident
    | none => false

/-- The descriptor of a TEXQ, which neither faults nor parks on what it reads: none where it cannot be read (R376). -/
def State.queryDesc (s : State) (gi : Nat) (g : Group) (va : DWord) : Option Nat :=
  match s.xlate g.core g.job va .read false with
  | .ok pa c =>
    if s.poisoned pa 64 || s.peerRefused g.job pa then none else some (leNat (s.loadBytes gi g false ⟨0, va, pa, c⟩ 64))
  | _ => none

/-- A TEXQ waits as the group's other reads do (R270, R272, R277). -/
def State.queryWaits (s : State) (gi : Nat) (g : Group) (va : DWord) : Bool :=
  match s.xlate g.core g.job va .read false with
  | .ok pa c => s.holdsBack gi g [⟨0, va, pa, c⟩]
  | .pri => true
  | _ => g.acquiring

/-- TEXQ (R376). -/
def execTexq (x : Asy) (s : State) :=
  let i := Instr.texq x
  let e := selNat x.a
  let n := if x.sub == 0 then 3 else 1
  runInstr i { ents := entRange e 1 ||| entRange x.d.toNat n } s fun s gi g =>
    let va := g.ctx.slotOf x.b
    if !g.ctx.mappedAll (entRange x.d.toNat n) then .trap (trapOf i g .illegalOperand)
    else if va.toNat % 64 != 0 then .trap (trapAt i g .align va g.ctx.active false)
    else
      let put (s : State) (out : Nat → List Nat) : Eff :=
        let p := { pendOf i g (.entries x.d.toNat n) g.ctx.active false with
          vals := g.ctx.lanes.map fun l => (l, (out l).map fun v => BitVec.ofNat 32 v) }
        .done (s.setGroup gi ({ g with ctx := g.ctx.free (rangeFrees x.a 1) }.place (.block (spOf i)) p))
      if s.queryWaits gi g va then .wait s
      else
      match s.queryDesc gi g va with
      | none => put s fun _ => List.replicate n 0
      | some v =>
        match texDesc v with
        | none => .trap (trapOf i g .illegalOperand)
        | some t =>
          put s fun k =>
            let l := g.ctx.entVal e k
            match x.sub.toNat with
            | 0 => if l < t.levels then [levelSize t.w l, levelSize t.h l, levelSize t.d l] else [0, 0, 0]
            | 1 => [t.levels]
            | _ => [(l < t.levels && s.levelResident g t l).toNat]

end Sys2Proof.Machine
end

