-- ==== Sys2Proof/Machine/Frags.lean ====
section
/-! DEFINITION. The graphics instructions of fragment lists, ordered sections, patches and vertices (R359, R360, R365, R380 to R387,
R395, R396, R402, R403). -/

namespace Sys2Proof.Machine

/-- The open pass a group's fragment instructions act on (R358, R403). -/
def State.passIx (s : State) (g : Group) : Option Nat :=
  let p := match g.gfx with
    | some x => some x.pass
    | none =>
      match s.launches[g.launch]? with
      | some l => (match l.pass with | some p => some p | none => (l.queue.bind fun q => s.queues[q]?).bind fun q => q.pass)
      | none => none
  p.bind fun k => match s.passes[k]? with | some x => if x.live then some k else none | none => none

/-- A key the group may insert at or read (R403). -/
def keyAllowed (p : Pass) (g : Group) (k : Nat × Nat × Nat) : Bool :=
  p.block.keyOk k && (p.block.immediate || match g.gfx with | some x => p.block.tileOf k == x.tile | none => false)

/-- The key an entry pair holds in a lane. -/
def Ctx.keyAt (x : Ctx) (e t : Nat) : Nat × Nat × Nat := keyOf ((x.entry e).at t) ((x.entry (e + 1)).at t)

/-- A precise trap of failed insertions or list reads (R403, R453). -/
def listTrap (i : Instr) (g : Group) (es : List HeldFail) (write : Bool) : Option TrapInfo :=
  match firstLaneCause (es.map fun e => (e.lane, e.cause, e.va)) with
  | some (c, va, m) => some { trapAt i g c va m write with deferred := c == .eccUncorrected }
  | none => none

/-- FLINS (R395): its predicate is set, and not combined. -/
def execFlins (x : Asy) (s : State) :=
  let i := Instr.flins x
  let e := selNat x.a
  runInstr i { ents := entRange e 6 } s fun s gi g =>
    let c := g.ctx
    match (s.passIx g).bind fun k => (s.passes[k]?).map fun p => (k, p) with
    | none => .trap (trapOf i g .illegalOperand)
    | some (ps, p) =>
      if c.lanes.any fun t => !keyAllowed p g (c.keyAt e t) then .trap (trapOf i g .illegalOperand)
      else
        let frag (t : Nat) : ListFrag :=
          { key := c.keyAt e t, depth := (c.entry (e + 2)).at t, colour := (c.entry (e + 5)).at t ++ (c.entry (e + 4)).at t,
            seq := c.entVal (e + 3) t }
        let frags := c.lanes.map fun t => (t, frag t)
        let frees (s : State) : State := s.modGroup gi fun g => { g with ctx := g.ctx.free (rangeFrees x.a 6) }
        if !g.inRegion && (g.acquiring || insertsWait s gi ps (frags.map fun f => f.2)) then .await s
        else
          match holdOr s gi g (32 * frags.length) [.flins c.pc x.d frags] (fun s =>
            let (t, oks, es) := insertLanes s g.core ps c.pc frags
            match listTrap i g es true with
            | some tr => .trap tr
            | none => .done (t.modGroup gi fun g => { g with ctx := g.ctx.writePred x.d false fun k => oks.contains k })) with
          | .done s => .done (frees s)
          | q => q

/-- What FLRES writes for a lane (R396): the node `p` steps from the head, if it exists. -/
def flresWords (l : List Node4) (p : Nat) : List Word :=
  match l[p]? with
  | some n => [BitVec.ofNat 32 n.depth, BitVec.ofNat 32 n.colour, BitVec.ofNat 32 (n.colour / 2 ^ 32), BitVec.ofNat 32 n.seq,
      BitVec.ofNat 32 ((p + 1) % 256 + 256 * n.merges + 65536)]
  | none => [0, 0, 0, 0, BitVec.ofNat 32 p]

/-- FLRES (R396): it sees the group's own held stores, and not its held insertions (R387, R478). -/
def execFlres (x : Asy) (s : State) :=
  let i := Instr.flres x
  let e := selNat x.a
  let d := x.d.toNat
  runInstr i { ents := entRange e 2 ||| entRange d 5 } s fun s gi g =>
    let c := g.ctx
    match (s.passIx g).bind fun k => s.passes[k]? with
    | none => .trap (trapOf i g .illegalOperand)
    | some p =>
      if !c.mappedAll (entRange d 5) || c.lanes.any fun t => !keyAllowed p g (c.keyAt e t) then .trap (trapOf i g .illegalOperand)
      else
        let v := s.ownView g
        let got := c.lanes.map fun t => (t, v.listOf p (c.keyAt e t))
        let places := c.lanes.flatMap fun t => v.listPlaces p (c.keyAt e t)
        let fails := got.filterMap fun r => match r.2 with | .fail q va => some (⟨c.pc, r.1, q, va⟩ : HeldFail) | _ => none
        match listTrap i g fails false with
        | some t => .trap t
        | none =>
          if g.acquiring || places.any (s.placeBusy gi p.job) || got.any fun r => match r.2 with | .wait => true | _ => false then .await s
          else
            placeLoad i { g with ctx := c.free (rangeFrees x.a 2) } (.entries d 5)
              (got.map fun r => (r.1, match r.2 with | .ok l => flresWords l (c.entVal (d + 4) r.1 % 256) | _ => [])) (s.forget g.core p.job places) gi

/-! ## Ordered sections (R383 to R385) -/

/-- The fragment of a lane: its key and sequence. -/
def Gfx.fragOf (x : Gfx) (t : Nat) : Option ((Nat × Nat × Nat) × Nat) := x.keys.lookup t

/-- Every fragment and grid that must come before a lane's fragment has (R383). -/
def turnOf (p : Pass) (tile : Nat) (key : Nat × Nat × Nat) (seq : Nat) : Bool :=
  !(p.reserved.any fun r => r.2.1 == key && r.2.2 < seq) &&
    p.grids.all fun q => q.sampled || q.seq ≥ seq / 256 || (!p.block.immediate && q.tile != tile)

/-- The key pair of an ordered-section instruction, freed under last use: entry A alone (R383). -/
def orderFrees (x : Asy) : BitVec 16 := rangeFrees x.a 1

/-- ORDENT (R383). -/
def execOrdent (x : Asy) (s : State) :=
  let i := Instr.ordent x
  let e := selNat x.a
  runInstr i { ents := entRange e 2 } s fun s gi g =>
    match g.gfx with
    | none => .trap (trapOf i g .orderRule)
    | some gx =>
      match s.passes[gx.pass]? with
      | none => .trap (trapOf i g .orderRule)
      | some p =>
        let c := g.ctx
        let bad (t : Nat) : Bool :=
          (match gx.fragOf t with | some f => f.1 != c.keyAt e t | none => true) ||
            gx.entered.getLsbD t || gx.released.getLsbD t
        if g.kind != .sample || c.lanes.any bad then .trap (trapOf i g .orderRule)
        else if c.lanes.any fun t => match gx.fragOf t with | some f => !turnOf p gx.tile f.1 f.2 | none => false then .wait s
        else
          let s := s.setGroup gi { g with ctx := c.free (orderFrees x), gfx := some { gx with entered := gx.entered ||| c.active } }
          .done (s.acquire g.core (if p.block.immediate then 1 else 0))

/-- ORDLV (R384): a lane already released, or about to be, is left alone. -/
def execOrdlv (x : Asy) (s : State) :=
  let i := Instr.ordlv x
  let e := selNat x.a
  runInstr i { ents := entRange e 2, rel := true } s fun s gi g =>
    match g.gfx with
    | none => .trap (trapOf i g .orderRule)
    | some gx =>
      let c := g.ctx
      if g.kind != .sample || c.lanes.any (fun t => match gx.fragOf t with | some f => f.1 != c.keyAt e t | none => true) then
        .trap (trapOf i g .orderRule)
      else
        let m := c.active &&& ~~~gx.released &&& ~~~gx.leaving
        let n := (c.lanes.filter fun t => m.getLsbD t).length
        let frees (s : State) : State := s.modGroup gi fun g => { g with ctx := g.ctx.free (orderFrees x) }
        if n == 0 then .done (frees s)
        else
          match holdOr s gi g (4 * n) [.ordlv m] (fun s => .done (s.releaseLanes gi m)) with
          | .done s => .done (frees (s.modGfx gi fun x => { x with leaving := if x.inRegion then x.leaving ||| m else x.leaving }))
          | q => q

/-! ## Patches and vertices (R359, R360, R365) -/

/-- A patch record read from its 128 bytes; none where a field is outside R360. -/
def patchRecord (v : Nat) : Option (Word × Word × Word × List DWord) :=
  let f (off : Nat) : Num := Fmt.b32.num (recField v off 4)
  let within (x lo hi : Num) : Bool := lo.le x && x.le hi
  let kind := recField v 0 1
  let corner (k : Nat) : DWord := BitVec.ofNat 64 (recField v (16 + 8 * k) 8)
  let cs := (List.range 12).map corner
  if kind ≤ 1 && recField v 1 3 == 0 && within (f 4) (.fin false 1 (-2)) (.fin false 64 0) && within (f 8) (.fin false 0 0) (.fin false 4096 0) &&
      recField v 120 8 == 0
  then some (BitVec.ofNat 32 (recField v 12 4), BitVec.ofNat 32 (recField v 4 4), BitVec.ofNat 32 (recField v 8 4),
    if kind == 1 then cs.take 9 ++ (cs.drop 6).take 3 else cs)
  else none

/-- PATCH (R359, R377). -/
def execPatch (x : Asy) (s : State) :=
  let i := Instr.patch x
  let e := selNat x.a
  runInstr i { ents := entRange e 2 } s fun s gi g =>
    let c := g.ctx
    let ps := ((s.launches[g.launch]?).bind (·.pass)).bind fun k =>
      match s.passes[k]? with | some p => if p.live then some k else none | none => none
    match ps with
    | none => .trap (trapOf i g .illegalOperand)
    | some k =>
      let lanes := c.lanes.map fun t => (t, (c.entry (e + 1)).at t ++ (c.entry e).at t)
      match firstLaneCause (lanes.filterMap fun p => if p.2.toNat % 64 != 0 then some (p.1, .align, p.2) else none) with
      | some (q, va, m) => accessTrap i g q va m false
      | none =>
        -- a record may lie in two pages, so each half is checked and read
        match s.checkLanes g .read true 64 (lanes.flatMap fun p => [p, (p.1, p.2 + 64)]) with
        | .trap q va m => accessTrap i g q va m false
        | .pri _ => .await s
        | .park va => .ended (parkGroup s gi g va)
        | .ok l =>
          if s.holdsBack gi g l then .wait s
          else
            let s := s.touch gi g false l
            match firstLaneCause (l.filterMap fun a => s.loadCause g.job a 64) with
            | some (q, va, m) => .trap { trapAt i g q va m false with deferred := true }
            | none =>
              let bytes (t : Nat) : List (BitVec 8) := (l.filter fun a => a.lane == t).flatMap fun a => s.loadBytes gi g false a 64
              let recs := lanes.map fun p => (p.2, patchRecord (leNat (bytes p.1)))
              if recs.any fun r => r.2.isNone then .trap (trapOf i g .illegalOperand)
              else
                let made := recs.filterMap fun r => r.2.map fun p =>
                  ({ core := g.core, launch := g.launch, team := g.team, grp := gi, addr := r.1, user := p.1, rate := p.2.1, margin := p.2.2.1,
                     corners := p.2.2.2 } : Patch)
                .done ((s.modPass k fun p => { p with patches := p.patches ++ made }).setCtx gi (c.free (rangeFrees x.a 2)))

/-- GVTX (R365). -/
def execGvtx (x : Asy) (k : Word) (s : State) :=
  let i := Instr.gvtx x k
  let e := selNat x.a
  let n := 6 + 2 * fld k 2 0
  runInstr i { ents := entRange e n } s fun s gi g =>
    let c := g.ctx
    match g.gfx with
    | some gx =>
      if g.kind != .grid || gx.gvtxDone then .trap (trapOf i g .illegalOperand)
      else
        let recs := c.lanes.map fun t => (t, (List.range n).map fun j => (c.entry (e + j)).at t)
        match holdOr s gi g (64 * recs.length) [.vertices (fld k 2 0) recs] (fun s => .done (s.handVertices gi gx.pass (fld k 2 0) recs)) with
        | .done s => .done ((s.modGfx gi fun x => { x with gvtxDone := true }).modGroup gi fun g => { g with ctx := g.ctx.free (rangeFrees x.a n) })
        | q => q
    | none => .trap (trapOf i g .illegalOperand)

end Sys2Proof.Machine
end

