-- ==== Sys2Proof/Machine/Rays.lean ====
section
/-! DEFINITION. The ray unit: exact box and triangle tests, traversal and TRACE (R397 to R401, R539). -/

namespace Sys2Proof.Machine

/-! ## Exact numbers -/

/-- A point of the extended real line: a quotient of dyadics with a positive denominator, or an infinity. -/
inductive Ext where
  | low
  | fin (n d : Dy)
  | high
  deriving DecidableEq, Repr

/-- The quotient of two dyadics, the second not 0. -/
def quot (n d : Dy) : Ext := if d.i < 0 then .fin n.neg d.neg else .fin n d

def Ext.le : Ext → Ext → Bool
  | .low, _ => true
  | _, .high => true
  | .fin a b, .fin c d => (a.mul d).le (c.mul b)
  | _, _ => false

def Ext.max (a b : Ext) : Ext := if a.le b then b else a
def Ext.min (a b : Ext) : Ext := if a.le b then a else b
/-- Strictly less. -/
def Ext.lt (a b : Ext) : Bool := !(b.le a)

/-- The value rounded to binary32 by RNE. -/
def Ext.round32 : Ext → Nat
  | .low => Fmt.b32.signBit true + Fmt.b32.inf
  | .high => Fmt.b32.inf
  | .fin n d => if n.i == 0 then 0 else ratioRes .b32 (n.i < 0) n.i.natAbs n.e d.i.natAbs d.e

/-- A number that is not a NaN, on the extended line. -/
def extOf : Num → Ext
  | .inf s => if s then .low else .high
  | x => .fin x.dy (Dy.ofInt 1)

/-! ## Rays, boxes and triangles (R399, R400) -/

/-- A ray that is traversed. -/
structure Ray where
  o : List Dy
  d : List Dy
  lo : Ext
  hi : Ext
  deriving DecidableEq, Repr

/-- The ray of eight words, or none where it misses without traversal. -/
def rayOf (w : List Nat) : Option Ray :=
  let v := w.map Fmt.b32.num
  let at_ (k : Nat) : Num := v.getD k (.nan false)
  let ends := ((extOf (at_ 6)), (extOf (at_ 7)))
  if v.any Num.isNan || (v.take 6).any Num.isInf || ((v.drop 3).take 3).all Num.isZero || ends.2.lt ends.1 then none
  else some ⟨(v.take 3).map Num.dy, ((v.drop 3).take 3).map Num.dy, ends.1, ends.2⟩

def dyAt (l : List Dy) (k : Nat) : Dy := l.getD k (Dy.ofInt 0)

/-- Where the ray's parameter reaches a bound on an axis it moves along. -/
def reach (b : Num) (o d : Dy) : Ext :=
  match b with
  | .inf s => if s == (d.i < 0) then .high else .low
  | x => quot (x.dy.sub o) d

/-- The interval of an axis joined to the one so far; none where the segment leaves the box. -/
def clipAxis (r : Ray) (mn mx : Num) (k : Nat) (i : Ext × Ext) : Option (Ext × Ext) :=
  let (o, d) := (dyAt r.o k, dyAt r.d k)
  if mn.isNan || mx.isNan || mx.lt mn then none
  else if d.i == 0 then (if (extOf mn).le (.fin o (Dy.ofInt 1)) && (Ext.fin o (Dy.ofInt 1)).le (extOf mx) then some i else none)
  else
    let (a, b) := if d.i < 0 then (reach mx o d, reach mn o d) else (reach mn o d, reach mx o d)
    some (i.1.max a, i.2.min b)

/-- The smallest parameter at which the segment lies in a closed box given by its six words, if it meets it (R399). -/
def enterBox (r : Ray) (w : List Nat) : Option Ext :=
  let b (k : Nat) : Num := Fmt.b32.num (w.getD k 0)
  match (clipAxis r (b 0) (b 3) 0 (r.lo, r.hi)).bind fun i => (clipAxis r (b 1) (b 4) 1 i).bind fun i => clipAxis r (b 2) (b 5) 2 i with
  | some (lo, hi) => if lo.le hi && lo != .high && hi != .low then some lo else none
  | none => none

/-- An accepted hit: t, β, γ, the primitive and its colour. -/
structure Hit where
  t : Ext
  beta : Ext
  gamma : Ext
  prim : Word
  colour : DWord
  deriving DecidableEq, Repr

def cross (a b : List Dy) : List Dy :=
  let m (i j : Nat) : Dy := ((dyAt a i).mul (dyAt b j)).sub ((dyAt a j).mul (dyAt b i))
  [m 1 2, m 2 0, m 0 1]
def dotDy (a b : List Dy) : Dy := (((dyAt a 0).mul (dyAt b 0)).add ((dyAt a 1).mul (dyAt b 1))).add ((dyAt a 2).mul (dyAt b 2))
def subDy (a b : List Dy) : List Dy := (List.range 3).map fun k => (dyAt a k).sub (dyAt b k)

/-- The hit of a ray on a triangle leaf held as a number, if accepted (R400). -/
def hitLeaf (r : Ray) (leaf : Nat) : Option Hit :=
  let v := (List.range 9).map fun k => Fmt.b32.num (recField leaf (4 * k) 4)
  if v.any fun x => !x.isFinite then none
  else
    let p (k : Nat) : List Dy := ((v.drop (3 * k)).take 3).map Num.dy
    let (e1, e2, tv) := (subDy (p 1) (p 0), subDy (p 2) (p 0), subDy r.o (p 0))
    let pv := cross r.d e2
    let qv := cross tv e1
    let det := dotDy e1 pv
    if det.i == 0 then none
    else
      let (b, g, t) := (quot (dotDy tv pv) det, quot (dotDy r.d qv) det, quot (dotDy e2 qv) det)
      let sum := quot ((dotDy tv pv).add (dotDy r.d qv)) det
      let zero := Ext.fin (Dy.ofInt 0) (Dy.ofInt 1)
      if zero.le b && zero.le g && sum.le (.fin (Dy.ofInt 1) (Dy.ofInt 1)) && r.lo.le t && t.le r.hi then
        some ⟨t, b, g, BitVec.ofNat 32 (recField leaf 36 4), BitVec.ofNat 64 (recField leaf 40 8)⟩
      else none

/-! ## Traversal (R398, R399) -/

/-- What a traversal meets, in order. -/
inductive Met where
  | hit (h : Hit)
  | fault (c : Cause) (va : DWord)
  | wait
  /-- A node or a leaf has been read. -/
  | read (a : LaneAcc)
  deriving DecidableEq, Repr

/-- A read of a BVH node or leaf, a load of the group (R270, R401): its access, and its value. -/
def State.bvhRead (s : State) (gi : Nat) (g : Group) (va : DWord) (n : Nat) : Dev (LaneAcc × Nat) :=
  match s.xlate g.core g.job va .read false with
  | .ok pa c =>
    if s.peerRefused g.job pa then .fail .perm va
    else if s.poisoned pa n && !deniedPa pa then .fail .eccUncorrected va
    else if s.ownPending gi pa || s.atEdge gi g pa then .wait
    else .ok (⟨0, va, pa, c⟩, leNat (s.loadBytes gi g false ⟨0, va, pa, c⟩ n))
  | .fault c => .fail c va
  | .miss => .fail .xlate va
  | .pri => .wait

/-- Tests consecutive leaves. -/
def testLeaves (s : State) (gi : Nat) (g : Group) (r : Ray) (va : DWord) : Nat → List Met
  | 0 => []
  | n + 1 =>
    match s.bvhRead gi g va 64 with
    | .ok (a, v) => .read a :: (match hitLeaf r v with | some h => [.hit h] | none => []) ++ testLeaves s gi g r (va + 64) n
    | .fail c a => [.fault c a]
    | .wait => [.wait]

/-- Children in the order they are visited: by the parameter at which the ray enters, ties to the lower slot. -/
def visitOrder (l : List (Ext × Word)) : List (Ext × Word) :=
  l.foldr (fun x acc => acc.takeWhile (fun y => y.1.lt x.1) ++ [x] ++ acc.dropWhile (fun y => y.1.lt x.1)) []

/-- Visits a node with `n` levels left below and including it; `root` is the BVH's root. -/
def visitNode (s : State) (gi : Nat) (g : Group) (r : Ray) (root : DWord) : Nat → DWord → List Met
  | 0, va => [.fault .illegalOperand va]
  | n + 1, va =>
    match s.bvhRead gi g va 128 with
    | .fail c a => [.fault c a]
    | .wait => [.wait]
    | .ok (a, v) =>
      let kids := (List.range 4).filterMap fun c =>
        let ref : Word := BitVec.ofNat 32 (recField v (96 + 4 * c) 4)
        if ref.toNat / 2 ^ 30 == 0 then none
        else (enterBox r ((List.range 6).map fun k => recField v (24 * c + 4 * k) 4)).map fun e => (e, ref)
      .read a :: (visitOrder kids).flatMap fun p =>
        let (ty, x) := (p.2.toNat / 2 ^ 30, p.2.toNat % 2 ^ 30)
        match ty with
        | 1 => if x % 2 == 1 then [.fault .illegalOperand va] else visitNode s gi g r root n (root + BitVec.ofNat 64 (64 * x))
        | 2 => testLeaves s gi g r (root + BitVec.ofNat 64 (64 * (x % 2 ^ 26))) (x / 2 ^ 26 + 1)
        | _ => [.fault .illegalOperand va]

/-- What a lane's traversal meets; a ray that misses outright meets nothing. -/
def traverse (s : State) (gi : Nat) (g : Group) (root : DWord) (w : List Nat) : List Met :=
  match rayOf w with
  | some r => visitNode s gi g r root 64 root
  | none => []

def Met.failure : Met → Option (Cause × DWord)
  | .fault c va => some (c, va)
  | _ => none

def hitsOf (l : List Met) : List Hit := l.filterMap fun m => match m with | .hit h => some h | _ => none

/-- The nearest hit, ties to the earlier. -/
def nearestHit : List Hit → Option Hit
  | [] => none
  | h :: l => match nearestHit l with
    | some k => if k.t.lt h.t then some k else some h
    | none => some h

/-- The four result words of CLOSEST and ANY (R401). -/
def hitWords : Option Hit → List Word
  | some h => [BitVec.ofNat 32 h.t.round32, h.prim, BitVec.ofNat 32 h.beta.round32, BitVec.ofNat 32 h.gamma.round32]
  | none => [0x7F800000, 0xFFFFFFFF, 0, 0]

/-- Hits by exact t, ties in traversal order. -/
def sortHits (l : List Hit) : List Hit :=
  l.foldr (fun x acc => acc.takeWhile (fun y => y.t.lt x.t) ++ [x] ++ acc.dropWhile (fun y => y.t.lt x.t)) []

/-- The depth of an appended hit: t × scale + bias, rounded once (R401). -/
def appendDepth (scale bias : Word) (t : Ext) : Nat :=
  let (a, b) := (Fmt.b32.num scale.toNat, Fmt.b32.num bias.toNat)
  match t with
  | .fin n d =>
    if a.isFinite && b.isFinite then (Ext.fin ((n.mul a.dy).add (b.dy.mul d)) d).round32
    else rne .b32 ((Num.mul (Fmt.b32.num t.round32) a).add b)
  | _ => rne .b32 ((Num.mul (Fmt.b32.num t.round32) a).add b)

/-! ## TRACE (R401, R539) -/

/-- What a traversal meets beside the reads it makes. -/
def outcomes (l : List Met) : List Met := l.filter fun m => match m with | .read _ => false | _ => true

/-- The reads that a lane makes under a mode: ANY ends at the first hit, and at what it cannot pass. -/
def readsOf (any : Bool) (l : List Met) : List LaneAcc :=
  (if any then l.takeWhile fun m => match m with | .read _ => true | _ => false else l).filterMap fun m => match m with | .read a => some a | _ => none

/-- The state after the reads of a traversal: their translations are held, those at a peer's addresses went out, and those that R510 denies
are counted (R264, R418, R511). -/
def State.traced (s : State) (g : Group) (l : List LaneAcc) : State :=
  l.foldl (fun s a =>
    let s := (s.tlbFill g.core g.job a.va).sendAt a.pa 0
    if deniedPa a.pa then s.countDenied a.pa g.identity else s) s

/-- What a lane of TRACE gives under a mode: its result, or its cause. -/
def laneOutcome (any : Bool) (l : List Met) : Except (Cause × DWord) (List Word) :=
  if any then
    match outcomes l with
    | [] => .ok (hitWords none)
    | .hit h :: _ => .ok (hitWords (some h))
    | m :: _ => .error (m.failure.getD (.xlate, 0))
  else
    match l.findSome? Met.failure with
    | some e => .error e
    | none => .ok (hitWords (nearestHit (hitsOf l)))

/-- Whether a lane's traversal waits for a PRI response before its outcome is known. -/
def laneWaits (any : Bool) (l : List Met) : Bool :=
  if any then (outcomes l).head? == some .wait else l.contains .wait

/-- TRACE CLOSEST and ANY. -/
def traceHit (i : Instr) (x : Asy) (any : Bool) (met : List (Nat × List Met)) (s : State) (gi : Nat) (g : Group) : Eff :=
  match g.freeSlot with
  | none => .wait s
  | some k =>
    let out := met.map fun m => (m.1, laneOutcome any m.2)
    let s := s.traced g (met.flatMap fun m => readsOf any m.2)
    let p := { pendOf i g (.entries x.d.toNat 4) g.ctx.active false with
      vals := out.filterMap fun o => match o.2 with | .ok v => some (o.1, v) | .error _ => none
      causes := out.filterMap fun o => match o.2 with | .error e => some (o.1, e.1, e.2) | .ok _ => none }
    .done (s.setGroup gi ({ g with ctx := g.ctx.free (rangeFrees x.a 8) }.setSlot k (some p)))

/-- The last of the held hits of an instruction that answer nobody answer a slot from now on: the request is retried (R461, R539). -/
def readopt (pc : DWord) (k : Nat) : List Held → List Held
  | [] => []
  | .hits q slot frags :: l =>
    if q == pc && slot == nobody && !(l.any fun h => match h with | .hits q' slot' _ => q' == pc && slot' == nobody | _ => false) then .hits q k frags :: l
    else .hits q slot frags :: readopt pc k l
  | h :: l => h :: readopt pc k l

/-- The lanes of a retried TRACE whose hits are held (R539). -/
def Group.heldLanes (g : Group) : List Nat :=
  match g.gfx with
  | some x =>
    match (x.held.reverse.filterMap fun h => match h with | .hits q slot frags => if q == g.ctx.pc && slot == nobody then some frags else none | _ => none).head? with
    | some frags => (frags.map fun f => f.1).filter g.doneLanes.getLsbD
    | none => []
  | none => []

/-- TRACE APPEND: the hits of each lane without a cause are inserted, or held. A lane whose hits are held counts as done for the trap that
another lane's cause brings (R539), and has its result at commit. -/
def traceAppend (i : Instr) (x : Asy) (ps : Nat) (b : PassBlock) (met : List (Nat × List Met)) (s : State) (gi : Nat) (g : Group) : Eff :=
  let e := selNat x.a
  match g.freeSlot with
  | none => .wait s
  | some k =>
    let frags (t : Nat) (l : List Met) : List ListFrag × Bool :=
      let hs := sortHits (hitsOf l)
      ((hs.take 64).map fun h => { key := g.ctx.keyAt (e + 8) t, depth := BitVec.ofNat 32 (appendDepth b.rayScale b.rayBias h.t),
                                   colour := h.colour, seq := g.ctx.entVal (e + 10) t }, hs.length > 64)
    let go := met.filter fun m => (m.2.findSome? Met.failure).isNone
    let work := go.map fun m => (m.1, frags m.1 m.2)
    let n := work.foldl (fun a w => a + w.2.1.length) 0
    let causes := met.filterMap fun m => (m.2.findSome? Met.failure).map fun f => (m.1, f.1, f.2)
    let old := g.heldLanes
    let p := { pendOf i g (.entries x.d.toNat 1) g.ctx.active true with
      vals := (g.ctx.lanes.filter fun t => g.doneLanes.getLsbD t && !old.contains t).map (fun t => (t, [BitVec.ofNat 32 (g.savedReply t)])) ++
        (if g.inRegion && !causes.isEmpty then (old ++ work.map fun w => w.1).map fun t => (t, []) else [])
      causes := causes }
    if !g.inRegion && insertsWait s gi ps (work.flatMap fun w => w.2.1) then .await s
    else
      let s := s.traced g (met.flatMap fun m => readsOf false m.2)
      let put (s : State) : State := s.modGroup gi fun g => { g.setSlot k (some p) with
        ctx := g.ctx.free (rangeFrees x.a 11)
        gfx := g.gfx.map fun y => { y with held := if old.isEmpty then y.held else readopt g.ctx.pc k y.held } }
      match holdOr s gi g (32 * n) [.hits g.ctx.pc k work] (fun s =>
        let (t, es) := appendHits (put s) g.core gi ps g.ctx.pc k work
        match listTrap i g es true with
        | some tr => .trap tr
        | none => .done t) with
      | .done t => .done (if g.inRegion then put t else t)
      | q => q

def execTrace (x : Asy) (s : State) :=
  let i := Instr.trace x
  let e := selNat x.a
  let (append, any) := (x.sub == 2, x.sub == 1)
  runInstr i { ents := entRange e (if append then 11 else 8) ||| entRange x.d.toNat (if append then 1 else 4) } s fun s gi g =>
    let c := g.ctx
    let root := c.slotOf x.b
    let pass := (s.passIx g).bind fun k => (s.passes[k]?).map fun p => (k, p)
    if !c.mappedAll (entRange x.d.toNat (if append then 1 else 4)) then .trap (trapOf i g .illegalOperand)
    else if append && match pass with | some (_, p) => c.lanes.any fun t => !keyAllowed p g (c.keyAt (e + 8) t) | none => true then
      .trap (trapOf i g .illegalOperand)
    else if root.toNat % 128 != 0 then .trap (trapAt i g .align root c.active false)
    else if g.acquiring then .wait s
    else
      let go := if append then c.lanes.filter fun t => !g.doneLanes.getLsbD t else c.lanes
      let met := go.map fun t => (t, traverse s gi g root ((List.range 8).map fun j => c.entVal (e + j) t))
      if met.any fun m => laneWaits any m.2 then .await s
      else match append, pass with
        | true, some (ps, p) => traceAppend i x ps p.block met s gi g
        | _, _ => traceHit i x any met s gi g

end Sys2Proof.Machine
end

