-- ==== Sys2Proof/Machine/Launches.lean ====
section
/-! DEFINITION. Launches, graphs, phases and jobs: how each starts, what cancels it and how it completes (R51 to R62, R87 to R90,
R97). -/

namespace Sys2Proof.Machine

/-! ## Kernels (R87, R89) -/

/-- Bytes of a run of memory, page by page, as an agent reads them; `fuel` bounds the pages. -/
def State.readRun (s : State) (job : Nat) : Nat → DWord → Nat → Dev (List (BitVec 8))
  | 0, _, _ => .ok []
  | fuel + 1, va, n =>
    if n == 0 then .ok []
    else
      let k := min n (65536 - va.toNat % 65536)
      (s.devRead job va k).bind fun v => (s.readRun job fuel (va + BitVec.ofNat 64 k) (n - k)).bind fun l => .ok (leBytes k v ++ l)

/-- A kernel descriptor read from its 64 bytes, with its code range; none outside R87. -/
def kernelOfRecord (addr : DWord) (v : Nat) : Option (Kernel × DWord × Nat) :=
  let f (off n : Nat) : Nat := recField v off n
  let flags := f 33 1
  let k : Kernel := {
    addr := addr, entryTable := BitVec.ofNat 64 (f 0 8), entry := 0, entries := f 8 4, regs := f 12 2, groups := f 14 1, producer := f 15 1,
    scratch := f 16 4, priv := f 20 4, liveness := BitVec.ofNat 64 (f 24 8), acc := f 32 1, twin := flags.testBit 0,
    task := flags.testBit 1, secure := flags.testBit 2, neval := flags.testBit 3 }
  if addr.toNat % 64 == 0 && 1 ≤ k.entries && k.entries ≤ 65536 && 8 ≤ k.regs && k.regs ≤ 256 && k.regs % 8 == 0 && 1 ≤ k.groups &&
      k.groups ≤ 16 && k.producer < k.groups && k.scratch ≤ 2097152 && k.priv % 4 == 0 && k.acc ≤ 16 && flags < 16 && f 34 6 == 0 &&
      f 48 4 % 2 == 0 && f 52 12 == 0
  then some (k, BitVec.ofNat 64 (f 40 8), f 48 4) else none

/-- Scratchpad granules of a team (R47). -/
def Kernel.granules (k : Kernel) : Nat := (k.scratch + 65535) / 65536

/-- The footprint of a group area (R239). -/
def areaFootprint (priv acc : Nat) : Nat := 256 * priv + 16384 + 270336 + 65536 * acc

/-- Teams, or halves of twin teams, that an empty core could hold with a main-file carve of `m` granules (R22 to R28, R46, R65). -/
def Kernel.fits (k : Kernel) (q pool m : Nat) : Nat :=
  let bound (need have_ : Nat) : Nat := if need == 0 then 128 else have_ / need
  let main := 64 * m - 128
  if main < pool * k.regs then 0
  else
    min (min (bound (k.groups * k.regs) (main - pool * k.regs)) (bound k.granules (120 - m)))
      (min (min (bound k.acc (if k.neval then 14 else 16)) (bound k.groups (128 - pool))) (if q != 0 then 1 else 128))

/-- The most teams an empty core could hold. -/
def Kernel.perCore (k : Kernel) (q pool : Nat) : Nat := (List.range 81).foldl (fun a m => max a (k.fits q pool (m + 16))) 0

/-- Cores of a mask at which a team may be admitted: leaders of whole pairs for a twin kernel. -/
def seatCores (twin : Bool) (mask : BitVec 64) : List Nat :=
  (List.range 64).filter fun c => if twin then c % 2 == 0 && mask.getLsbD c && mask.getLsbD (c + 1) else mask.getLsbD c

/-- The cases of R89 and R53 that a descriptor and its launch show. -/
def launchRejected (k : Kernel) (p : LaunchPacket) (secure : Bool) (mask : BitVec 64) : Bool :=
  let teams := p.dx * p.dy * p.dz
  let room := (seatCores k.twin mask).length * k.perCore p.taskQ p.pool
  k.secure != secure || (p.taskQ != 0 && (!k.task || p.taskQ % 64 != 0 || p.taskQ < 128 || p.taskQ > k.scratch)) ||
    (p.privBase == 0 && k.priv != 0) ||
    (p.privBase != 0 && (p.privZ < 16 || p.privZ > 40 || 2 ^ p.privZ < areaFootprint k.priv k.acc)) ||
    room == 0 || (k.neval && k.acc > 14) || (p.coResident && teams > room)

/-! ## Starting a launch (R88) -/

/-- What a launch takes from where it comes from. -/
structure LaunchSrc where
  job : Nat
  queue : Option Nat
  mask : BitVec 64
  graph : Option (Nat × Nat)
  phase : Option Nat
  pass : Option Nat
  deriving DecidableEq, Repr

def Kernel.none : Kernel :=
  { addr := 0, regs := 8, groups := 1, twin := false, scratch := 0, acc := 0, producer := 0, priv := 0, secure := false, task := false,
    neval := false, entries := 1, entryTable := 0, entry := 0, liveness := 0 }

/-- The launch as it stands before its first team. -/
def newLaunch (id : Nat) (k : Kernel) (p : LaunchPacket) (src : LaunchSrc) (rejected cancelled : Bool) : Launch :=
  { live := true, job := src.job, id := id, kernel := k, args := p.args, dx := p.dx, dy := p.dy, dz := p.dz, record := p.record,
    cancel := p.cancel, taskQ := p.taskQ, pool := p.pool, coResident := p.coResident, prio := p.prio, privZ := p.privZ,
    privBase := p.privBase, queue := src.queue, mask := src.mask, graph := src.graph, phase := src.phase,
    admitted := 0, left := if rejected || cancelled then 0 else p.dx * p.dy * p.dz, doneTeams := 0, cancelled := cancelled,
    faulted := false, rejected := rejected, complete := false, pass := src.pass, recorded := none }

/-- The unit a launch belongs to has been cancelled (R61). -/
def State.srcCancelled (s : State) (src : LaunchSrc) : Bool :=
  (match src.graph with | some (g, _) => (match s.graphs[g]? with | some x => x.cancelled | none => false) | none => false) ||
    match src.phase with | some p => (match s.phases[p]? with | some x => x.cancelled | none => false) | none => false

/-- The descriptor, entry 0 and the code of a kernel as dispatch reads them at a launch (R89, R430): none where the launch is
rejected. -/
def State.readKernel (s : State) (job : Nat) (desc : DWord) : Dev (Option (Kernel × DWord × List (BitVec 8))) :=
  match (s.devRead job desc 64).bind fun v =>
      match kernelOfRecord desc v with
      | none => .ok none
      | some (k, start, len) =>
        (s.devRead job k.entryTable 8).bind fun e =>
          (s.readRun job (len / 65536 + 2) start len).bind fun code => .ok (some ({ k with entry := BitVec.ofNat 64 e }, start, code)) with
  | .fail _ _ => .ok none
  | r => r

/-- A cancel word holds a non-zero value (R90). -/
def State.wordSet (s : State) (job : Nat) (va : DWord) : Bool :=
  va != 0 && match s.devRead job va 8 with | .ok v => v != 0 | _ => false

/-- Starts a launch: its index, or a wait for a PRI response. A cancel word that holds a value cancels it at once (R90). -/
def State.startLaunch (s : State) (p : LaunchPacket) (src : LaunchSrc) : Dev (State × Nat) :=
  match s.jobs[src.job]? with
  | none => .ok (s, s.launches.length)
  | some j =>
    (s.readKernel src.job p.desc).bind fun r =>
      let (k, bad, j) := match r with
        | some (k, start, code) =>
          (k, launchRejected k p j.secure src.mask, if j.measured.any fun m => m.1 == start then j else { j with measured := j.measured ++ [(start, code)] })
        | none => (Kernel.none, true, j)
      let l := newLaunch (j.launchSeq % 2 ^ 32) k p src bad (s.srcCancelled src || s.wordSet src.job p.cancel)
      .ok ({ s with launches := s.launches ++ [l], jobs := s.jobs.set src.job { j with launchSeq := j.launchSeq + 1 } }, s.launches.length)

/-! ## Completion (R55 to R60) -/

def DoneStatus.code : DoneStatus → Nat
  | .done => 1 | .cancelled => 2 | .faulted => 3 | .rejected => 4

/-- The front end's write goes to its home (R290). -/
def State.frontTells (s : State) (job : Nat) (va : DWord) : State :=
  match s.devXlate job va .write with | .ok pa => s.exchange .front pa | _ => s

/-- Writes a completion record, a release with every observer (R59, R60); none while it waits for a PRI response. A record that
cannot be written is dropped (log 36). -/
def State.writeRecord (s : State) (job : Nat) (addr : DWord) (st : DoneStatus) (count : Nat) : Option State :=
  if addr == 0 then some s
  else
    match s.devWrite job addr (leBytes 16 (st.code + 2 ^ 32 * (count % 2 ^ 32) + 2 ^ 64 * s.sys.feStamp.toNat)) with
    | .ok s => some (({ s with sys := { s.sys with feStamp := stampUp s.sys.feStamp } } : State).frontTells job addr)
    | .fail _ _ => some s
    | .wait => none

def Launch.status (l : Launch) : DoneStatus :=
  if l.faulted then .faulted else if l.cancelled then .cancelled else if l.rejected then .rejected else .done

/-- The first status of R56 among units. -/
def worst (l : List (Option DoneStatus)) : DoneStatus :=
  if l.contains (some .faulted) then .faulted
  else if l.contains (some .cancelled) then .cancelled
  else if l.any fun x => x == none || x == some .rejected then .rejected
  else .done

def countDone (l : List (Option DoneStatus)) : Nat := (l.filter fun x => x == some .done).length

/-- Nothing of a graph runs and nothing can start (R56). -/
def Graph.ended (g : Graph) : Bool := g.ready.isEmpty && g.nodes.all fun n => !n.started || n.status.isSome

/-- Completes a graph that is over (R56). -/
def State.settleGraph (s : State) (gi : Nat) : State :=
  match s.graphs[gi]? with
  | none => s
  | some g =>
    if g.status.isSome || !g.ended then s
    else
      let sts := g.nodes.map (·.status)
      let st := if g.cancelled && !sts.contains (some .faulted) then .cancelled else worst sts
      match s.writeRecord g.job g.record st (countDone sts) with
      | none => s
      | some s => { s with graphs := s.graphs.set gi { g with status := some st, live := false } }

/-- Queue `q` takes part in its job's phases: the flags of its current QCB body (R75, R77). -/
def State.qcbBody (s : State) (q : Queue) : Dev DWord :=
  (s.devRead q.job (q.qcb + 56) 8).bind fun g =>
    let even := if g % 2 == 0 then some g else q.gen
    match even with
    | some e => .ok (if e % 4 == 0 then q.qcb else q.qcb + 64)
    | none => .wait

def State.phased (s : State) (q : Queue) : Bool :=
  match (s.qcbBody q).bind fun b => s.devRead q.job (b + 35) 1 with
  | .ok f => f / 2 % 2 == 1
  | _ => false

/-- Statuses of the graphs of a phase: a plain launch counts as one (R57). -/
def State.phaseParts (s : State) (pi : Nat) : List (Option DoneStatus) :=
  ((s.launches.filter fun l => l.phase == some pi && l.graph.isNone).map fun l =>
    if l.complete then some l.status else none) ++
    (s.graphs.filter fun g => g.phase == some pi).map (·.status)

/-- Every graph of a phase is complete, and no queue starts another (R97): the job's last phase ends with the request to destroy the job
(log 37). -/
def State.phaseOver (s : State) (pi : Nat) (p : Phase) : Bool :=
  let reached := s.queues.all fun q => !(q.live && q.job == p.job && s.phased q) || q.phases ≥ p.number + 2
  let last := match s.jobs[p.job]? with | some j => j.destroy.isSome | none => true
  !(s.phaseParts pi).contains none && (reached || last || p.cancelled)

/-- Completes a phase (R57, R97). -/
def State.settlePhase (s : State) (pi : Nat) : State :=
  match s.phases[pi]? with
  | none => s
  | some p =>
    let parts := s.phaseParts pi
    if p.status.isSome || !s.phaseOver pi p then s
    else
      let st := if p.cancelled && !parts.contains (some .faulted) then .cancelled else worst parts
      match s.writeRecord p.job p.record st (countDone parts) with
      | none => s
      | some s => { s with phases := s.phases.set pi { p with status := some st } }

/-- Firmware posts that a request is complete (R411, R412). -/
def State.postDone (s : State) (fn : Nat) (tag : Word) (job status : Nat) : State :=
  s.post { fn := fn, code := 0x81, status := status, tag := tag.toNat, job := job, data := 0 }

/-- Nothing of the job is left to run. -/
def State.jobIdle (s : State) (ji : Nat) : Bool :=
  s.launches.all (fun l => l.job != ji || l.complete) && s.graphs.all (fun g => g.job != ji || g.status.isSome) &&
    s.phases.all (fun p => p.job != ji || p.status.isSome) && s.passes.all (fun p => p.job != ji || !p.live) &&
    s.groups.all (fun g => g.job != ji || g.status == .gone)

/-- Vaults return to the CACHE role (R30), once the slice map may change (R313): those of the secure world are zeroed first. -/
def State.returnVaults (s : State) (m : BitVec 512) : State :=
  if m == 0 then s
  else if s.mapFixed then s.later (.returns m)
  else
    let s := s.taken (.returns m)
    let zeroed (pa : Nat) : Bool := match target s.gddrTop pa with | .direct v => m.getLsbD v && s.sys.secVaults.getLsbD v | _ => false
    ({ s with
      mem := s.mem.filter fun (p : Nat × BitVec 8) => !zeroed p.1
      direct := s.direct &&& ~~~m
      sys := { s.sys with secVaults := s.sys.secVaults &&& ~~~m } } : State).retarget

/-- Completes a job whose destruction has been requested (R58): its queues end, its translations leave the TLBs, and its number is
free for nothing else. -/
def State.settleJob (s : State) (ji : Nat) : State :=
  match s.jobs[ji]? with
  | none => s
  | some j =>
    match j.destroy with
    | none => s
    | some tag =>
      if !j.live || !s.jobIdle ji then s
      else
        let keep (l : List TlbEntry) : List TlbEntry := l.filter fun e => e.job != ji
        let s : State := { s with
          jobs := s.jobs.set ji { j with live := false }
          queues := s.queues.map fun q => if q.job == ji then { q with live := false } else q
          slots := s.slots.map fun x => if x.bound && x.job == ji then Slot.empty else x
          cores := s.cores.map fun c => { c with tlb := keep c.tlb }
          l2tlb := s.l2tlb.map keep
          ats := keep s.ats }
        let s := s.returnVaults j.vaultMap
        (s.postDone j.fn tag ji 0).post { fn := j.fn, code := 0x83, status := 0, tag := 0, job := ji, data := 0 }

/-- Completes every graph, phase and job that can be. -/
def State.settle (s : State) : State :=
  let s := (List.range s.graphs.length).foldl State.settleGraph s
  let s := (List.range s.phases.length).foldl State.settlePhase s
  (List.range s.jobs.length).foldl State.settleJob s

/-- One entry of a successor list: the node's counter falls, and a node whose counter reaches 0 is ready (R55). Log 52: an entry that names no
node does nothing. -/
def Graph.countDown (g : Graph) (k : Nat) : Graph :=
  match g.nodes[k]? with
  | some m => { g with nodes := g.nodes.set k { m with counter := m.counter - 1 }, ready := if m.counter == 1 && !m.started then g.ready ++ [k] else g.ready }
  | none => g

/-- A node's launch has completed: its status, and the successors of a DONE node counted down, in list order (R55). -/
def State.nodeDone (s : State) (gi ni : Nat) (st : DoneStatus) : State :=
  match s.graphs[gi]? with
  | none => s
  | some g =>
    match g.nodes[ni]? with
    | none => s
    | some n =>
      let g : Graph := { g with nodes := g.nodes.set ni { n with status := some st } }
      { s with graphs := s.graphs.set gi (if st == .done && !g.cancelled then n.succ.foldl Graph.countDown g else g) }

/-- A node that runs ends when its prologue has ended and its launches are complete: its status is the first of R56 among theirs and
`more` (R55, R91). -/
def State.nodeEnd (s : State) (gi ni : Nat) (more : List (Option DoneStatus)) : State :=
  let running := match (s.graphs[gi]?).bind fun g => g.nodes[ni]? with | some n => n.started && n.status.isNone | none => false
  let mine := s.launches.filter fun l => l.graph == some (gi, ni)
  if !running || mine.any (fun l => !l.complete) || s.slots.any (fun x => x.prologues.any fun p => p.graph == (gi, ni)) then s
  else s.nodeDone gi ni (worst (mine.map (fun l => some l.status) ++ more))

/-! ## Cancelling (R61, R62) -/

/-- Kills a group: it ends, and its replies are discarded (R61, R481). -/
def State.killGroup (s : State) (gi : Nat) : State :=
  match s.groups[gi]? with
  | some g => if g.living then endGroup (s.orphan gi) gi else s
  | none => s

/-- A group that runs is killed at its next instruction boundary; one that waits, at once. -/
def Group.waits (g : Group) : Bool := !(g.status == .running && g.hasSlot)

/-- Kills the groups of a set that wait. -/
def State.killWaiting (s : State) (mine : Group → Bool) : State :=
  (List.range s.groups.length).foldl (fun s gi =>
    match s.groups[gi]? with
    | some g => if mine g && g.waits then s.killGroup gi else s
    | none => s) s

/-- Cancels a launch: no further team is admitted, its waiting groups are killed, and the others at their next instruction
boundary. Nothing happens once its counter is 0 (R62). -/
def State.cancelLaunch (s : State) (li : Nat) : State :=
  match s.launches[li]? with
  | none => s
  | some l =>
    if l.complete || l.cancelled || l.left == 0 then s
    else
      let living := (s.teams.filter fun t => t.live && t.launch == li && !(match t.twin with | some _ => t.core % 2 == 1 | none => false)).length
      let s : State := { s with launches := s.launches.set li { l with cancelled := true, left := if l.rejected then 0 else living, admitted := l.dx * l.dy * l.dz } }
      s.killWaiting fun g => g.launch == li

/-- Cancels a graph: its launches are cancelled, and no node starts (R56, R61). -/
def State.cancelGraph (s : State) (gi : Nat) : State :=
  match s.graphs[gi]? with
  | none => s
  | some g =>
    if g.status.isSome || g.cancelled || g.ended then s
    else
      let s : State := { s with
        graphs := s.graphs.set gi { g with cancelled := true, ready := [] }
        slots := s.slots.map fun x => { x with prologues := x.prologues.filter fun p => p.graph.1 != gi } }
      let s := (List.range g.nodes.length).foldl (fun s ni => s.nodeEnd gi ni [some .cancelled]) s
      let s := (List.range s.launches.length).foldl (fun s li =>
        match s.launches[li]? with
        | some l => (match l.graph with | some (k, _) => if k == gi then s.cancelLaunch li else s | none => s)
        | none => s) s
      s.settle

/-- Cancels a phase with its graphs and launches. -/
def State.cancelPhase (s : State) (pi : Nat) : State :=
  match s.phases[pi]? with
  | none => s
  | some p =>
    if p.status.isSome || p.cancelled || s.phaseOver pi p then s
    else
      let s : State := { s with phases := s.phases.set pi { p with cancelled := true } }
      let s := (List.range s.graphs.length).foldl (fun s gi =>
        match s.graphs[gi]? with | some g => if g.phase == some pi then s.cancelGraph gi else s | none => s) s
      let s := (List.range s.launches.length).foldl (fun s li =>
        match s.launches[li]? with | some l => if l.phase == some pi then s.cancelLaunch li else s | none => s) s
      s.settle

/-- Cancels every unit of a job, its graphics groups and the collectives it takes part in (R61, R411, R508); its gates hold requests no
more (R317). -/
def State.cancelJobWork (s : State) (ji : Nat) : State :=
  let s := (List.range s.phases.length).foldl (fun s pi =>
    match s.phases[pi]? with | some p => if p.job == ji then s.cancelPhase pi else s | none => s) s
  let s := (List.range s.graphs.length).foldl (fun s gi =>
    match s.graphs[gi]? with | some g => if g.job == ji then s.cancelGraph gi else s | none => s) s
  let s := (List.range s.launches.length).foldl (fun s li =>
    match s.launches[li]? with | some l => if l.job == ji then s.cancelLaunch li else s | none => s) s
  let s : State := { s with
    passes := s.passes.map fun p => if p.job == ji then
        { p with live := false, patches := [], diced := [], grids := [], reserved := [], toLists := [], opened := [], closed := [] } else p }
  let s := s.killWaiting fun g => g.job == ji && g.kind != .combiner
  let s : State := { s with
    gates := s.gates.filter fun g => g.job != ji
    methods := s.methods.filter fun r => r.job != ji
    objects := s.objects.filterMap fun o =>
      if o.job != ji then some o else if o.running.isNone then none else some { o with pending := [] } }
  let s := (s.colls.filter fun c => c.contribs.any fun x => x.job == ji).foldl (fun s c => s.abortColl c.ident) s
  s.settle

/-- The unit a group belongs to has been cancelled. -/
def State.doomed (s : State) (g : Group) : Bool :=
  match g.gfx with
  | some x => (match s.passes[x.pass]? with | some p => !p.live | none => true)
  | none => g.kind != .combiner && match s.launches[g.launch]? with | some l => l.cancelled | none => false

/-- GROUP_KILL (R61): a group whose unit is cancelled ends at its instruction boundary. -/
def execGroupKill (gi : Nat) (s : State) : Host.Outcome State Fault Refusal :=
  match s.groups[gi]? with
  | some g => .next (if s.doomed g then s.killGroup gi else s)
  | none => .next s

/-- The cancel word of a running unit (R90). -/
def State.cancelWordOf (s : State) : UnitRef → Option (Nat × DWord)
  | .launch l => (s.launches[l]?).bind fun x => if x.complete || x.cancel == 0 then none else some (x.job, x.cancel)
  | .graph g => (s.graphs[g]?).bind fun x => if x.status.isSome || x.cancel == 0 then none else some (x.job, x.cancel)
  | .phase p => (s.phases[p]?).bind fun x => if x.status.isSome || x.cancel == 0 then none else some (x.job, x.cancel)

/-- Cancels a unit (R61). -/
def State.cancelUnit (s : State) : UnitRef → State
  | .launch l => s.cancelLaunch l
  | .graph g => s.cancelGraph g
  | .phase p => s.cancelPhase p

/-- CANCEL_WORD_WRITE (R90): the signal unit finds the unit's cancel word non-zero, or has found it so at an earlier write. -/
def execCancelWordWrite (u : UnitRef) (s : State) : Host.Outcome State Fault Refusal :=
  .next (match s.cancelWordOf u with
    | none => s
    | some (job, va) => if s.noticed.contains (.cancel u) || s.wordSet job va then s.cancelUnit u else s)

/-! ## Graphs (R54, R55) -/

/-- Reads `n` node indices of a successor list. -/
def State.readSucc (s : State) (job : Nat) (va : DWord) : Nat → Dev (List Nat)
  | 0 => .ok []
  | n + 1 => (s.devRead job va 4).bind fun v => (s.readSucc job (va + 4) n).bind fun l => .ok (v :: l)

/-- Reads `n` node records. -/
def State.readNodes (s : State) (job : Nat) (va : DWord) : Nat → Dev (List Node)
  | 0 => .ok []
  | n + 1 =>
    (s.devRead job va 8).bind fun p => (s.devRead job (va + 8) 4).bind fun c => (s.devRead job (va + 12) 4).bind fun k =>
      (s.devRead job (va + 16) 8).bind fun l => (s.devRead job (va + 24) 8).bind fun r =>
        (s.readSucc job (BitVec.ofNat 64 l) k).bind fun succ =>
          (s.readNodes job (va + 64) n).bind fun rest =>
            .ok (⟨BitVec.ofNat 64 p, c, succ, BitVec.ofNat 64 r, false, none⟩ :: rest)

/-- Every dependence count is the number of times its node appears in successor lists (R55). -/
def countsOk (l : List Node) : Bool :=
  l.zipIdx.all fun p => p.1.counter == (l.foldl (fun a n => a + n.succ.count p.2) 0)

end Sys2Proof.Machine
end

