-- ==== Sys2Proof/Machine/FrontEnd.lean ====
section
/-! DEFINITION. The front end: QCBs, fetch windows, nesting levels, packets and what stops a queue (R74 to R99, R513). -/

namespace Sys2Proof.Machine

def slotIx (sl : Nat) : Fin 64 := Fin.ofNat 64 sl
def State.slot (s : State) (sl : Nat) : Slot := s.slots[slotIx sl]
def State.modSlot (s : State) (sl : Nat) (f : Slot → Slot) : State := { s with slots := s.slots.set (slotIx sl) (f s.slots[slotIx sl]) }
def State.modQueue (s : State) (q : Nat) (f : Queue → Queue) : State := { s with queues := s.queues.modify q f }

/-! ## QCBs (R74 to R77) -/

/-- The read offset and the write offset, always of the QCB itself (R77). -/
def State.qcbRead (s : State) (q : Queue) : Dev Nat := s.devRead q.job (q.qcb + 16) 8
def State.qcbWritten (s : State) (q : Queue) : Dev Nat := s.devRead q.job (q.qcb + 24) 8

/-- A firmware-written field of the current body. -/
def State.qcbField (s : State) (q : Queue) (off n : Nat) : Dev Nat :=
  (s.qcbBody q).bind fun b => s.devRead q.job (b + BitVec.ofNat 64 off) n

/-- The stores of firmware's generation protocol (R77), where `g` is the even generation: stage 0 makes the word odd, stage 1 writes every
firmware-written field into the other body, and stage 2 makes that body current. -/
def State.qcbStore (s : State) (job : Nat) (qcb : DWord) (g : Nat) (fields : List (Nat × Nat × Nat)) : Nat → Dev State
  | 0 => s.devWrite job (qcb + 56) (leBytes 8 (g + 1))
  | 1 =>
    let (cur, other) := if g % 4 == 0 then (qcb, qcb + 64) else (qcb + 64, qcb)
    (s.devRead job cur 16).bind fun a => (s.devRead job (cur + 32) 24).bind fun b =>
      (s.devWrite job other (leBytes 16 a)).bind fun s => (s.devWrite job (other + 32) (leBytes 24 b)).bind fun s =>
        fields.foldl (fun (r : Dev State) f => r.bind fun s => s.devWrite job (other + BitVec.ofNat 64 f.1) (leBytes f.2.1 f.2.2)) (.ok s)
  | _ => s.devWrite job (qcb + 56) (leBytes 8 ((g + 2) % 2 ^ 64))

/-- An entry of the journal that updates this QCB. -/
def Waiting.updates (job : Nat) (qcb : DWord) : Waiting → Bool
  | .update j a _ _ => j == job && a == qcb
  | _ => false

/-- Firmware is updating the QCB, or has yet to. -/
def State.updating (s : State) (q : Queue) : Bool := s.sys.journal.any (Waiting.updates q.job q.qcb)

/-- The next store of the oldest update of a QCB; one that cannot be made ends the update (log 36). -/
def State.pumpUpdate (s : State) (job : Nat) (qcb : DWord) : State :=
  match s.sys.journal.find? (Waiting.updates job qcb) with
  | some (.update _ _ fields stage) =>
    let w : Waiting := .update job qcb fields stage
    let made := (s.devRead job (qcb + 56) 8).bind fun g => (s.qcbStore job qcb (g / 2 * 2) fields stage).bind fun t => .ok (g / 2 * 2, t)
    (match made with
     | .ok (g, t) =>
       if stage ≥ 2 then t.taken w
       else { t with
         queues := t.queues.map fun q => if q.job == job && q.qcb == qcb then { q with gen := some g } else q
         sys := { t.sys with journal := t.sys.journal.map fun x => if x == w then .update job qcb fields (stage + 1) else x } }
     | .fail _ _ => s.taken w
     | .wait => s)
  | _ => s

/-- Firmware begins to update firmware-written fields (R77). -/
def State.qcbUpdate (s : State) (q : Queue) (fields : List (Nat × Nat × Nat)) : State := s.later (.update q.job q.qcb fields 0)

/-- The QCB's firmware-written fields are within R74 and R75: read as the current body's bytes. -/
def State.qcbValid (s : State) (q : Queue) : Dev Bool :=
  (s.qcbBody q).bind fun b => (s.devRead q.job b 16).bind fun a => (s.devRead q.job (b + 32) 24).bind fun c =>
    let (base, size) := (a % 2 ^ 64, a / 2 ^ 64)
    let f (off n : Nat) : Nat := recField c off n
    .ok (base % 4096 == 0 && 4096 ≤ size && size ≤ 2 ^ 32 && size == 2 ^ Nat.log2 size && f 0 1 ≤ 7 && f 1 1 ≤ 3 && f 2 1 ≤ 1 &&
      f 3 1 / 4 % 4 == 0 && f 20 4 == 0)

/-! ## Stopping a queue (R513, R514) -/

/-- Sets the QCB's state (R75). -/
def State.setQcbState (s : State) (q : Queue) (st : Nat) : State := s.qcbUpdate q [(33, 1, st)]

/-- The queue of a slot stops: no part of the offending packet is performed, and the read offset stays at the level-0 packet that
holds it. -/
def State.stopQueue (s : State) (sl reason : Nat) : State :=
  let x := s.slot sl
  match s.queues[x.queue]? with
  | none => s
  | some q =>
    let s := (s.setQcbState q 3).postError x.job 7 (q.qcb ||| BitVec.ofNat 64 reason)
    s.modSlot sl fun x => { x with
      stopped := some reason
      release := true
      begun := if x.levels.length > 1 || x.levels.any (fun n => n.loop.isSome || n.cover != 0) then x.begun.dropLast else x.begun
      levels := [] }

/-! ## Windows and levels (R92 to R95) -/

/-- The virtual address of a byte of a level. -/
def Nest.at_ (n : Nest) (off : Nat) : DWord := if n.ring != 0 then n.base + BitVec.ofNat 64 (off % n.ring) else n.base + BitVec.ofNat 64 off

/-- Fetches the 4-byte units that a window lacks, from an offset on. -/
def fetchUnits (s : State) (job : Nat) (n : Nest) : Nat → Nat → SMap 9 → Dev (SMap 9)
  | 0, _, w => .ok w
  | k + 1, off, w =>
    if (SMap.get w off).getLsbD 8 then fetchUnits s job n k (off + 4) w
    else
      (s.devRead job (n.at_ off) 4).bind fun v =>
        fetchUnits s job n k (off + 4) (SMap.setList w off ((leBytes 4 v).map fun b => b.setWidth 9 ||| 256))

/-- The window as it stands when a packet begins at the level's position (R95): bytes of a loop body stay held (R94). -/
def State.fillWindow (s : State) (job : Nat) (n : Nest) : Dev Nest :=
  let low := match n.loop with | some l => l.start | none => n.pos
  let kept := n.win.filter fun p => low ≤ p.1 && p.1 < n.pos + 2048
  (fetchUnits s job n ((min (n.pos + 2048) n.limit - n.pos) / 4) n.pos kept).bind fun w => .ok { n with win := w }

/-- A 32-bit word of the held bytes, from the level's position. -/
def Nest.word (n : Nest) (i : Nat) : Word := BitVec.ofNat 32 (leNat ((List.range 4).map fun k => (SMap.get n.win (n.pos + 4 * i + k)).setWidth 8))

/-- The level after a packet of `len` bytes: the next packet, a loop body's start again, or what follows the loop (R93, R94). -/
def Nest.advance (n : Nest) (len : Nat) : Nest :=
  let n := { n with pos := n.pos + len, cover := if n.loop.isNone then n.cover - 1 else n.cover }
  match n.loop with
  | none => n
  | some l =>
    if l.left > 1 then { n with loop := some { l with left := l.left - 1 } }
    else if l.iters > 1 then { n with pos := l.start, loop := some { l with left := l.body, iters := l.iters - 1 }, skip := 0 }
    else { n with loop := none, skip := 0 }

/-- Levels below the ring that have ended are left (R92). Log 52: with a level goes what is left of a LOOP whose body runs past its end. -/
def leaveLevels : List Nest → List Nest
  | [] => []
  | [n] => [n]
  | n :: l => if n.pos ≥ n.limit then leaveLevels l else n :: l

/-- The slot after a packet of its top level. -/
def Slot.advance (x : Slot) : Slot :=
  match x.levels with
  | [] => x
  | n :: l => { x with levels := leaveLevels (n.advance x.len :: l) }

/-- The slot releases: it is asked to, or its quota is reached (R79). -/
def Slot.due (x : Slot) : Bool := x.release || (x.quota != 0 && x.packets ≥ x.quota)

/-- Covered packets or a loop go on at level 0, so that the last begun packet still covers what begins. A slot that releases begins no
further level-0 packet, so that a PRED covers those that have begun (R79; log 52). -/
def Slot.open_ (x : Slot) : Bool :=
  match x.levels.getLast? with
  | some n => n.loop.isSome || n.skip != 0 || (n.cover != 0 && !x.due)
  | none => false

/-- Level-0 packets begun with one more: those of a loop body and those skipped are not counted (R79). -/
def Slot.counted (x : Slot) (n : Nest) : Nat := if n.loop.isSome || n.skip != 0 then x.packets else x.packets + 1

/-- A packet begins: at level 0 it joins the packets begun (R96), or the one that covers it. -/
def Slot.begin (x : Slot) : Slot :=
  match x.levels with
  | [n] =>
    let next := n.pos + x.len
    match x.begun.reverse with
    | b :: rest => if x.open_ then { x with begun := (({ b with next := max b.next next }) :: rest).reverse, packets := x.counted n }
      else { x with begun := x.begun ++ [⟨n.pos, next, [], []⟩], packets := x.packets + 1 }
    | [] => { x with begun := [⟨n.pos, next, [], []⟩], packets := x.packets + 1 }
  | _ => x

/-- Work of the packet that begins joins the last begun level-0 packet. -/
def Slot.addWork (x : Slot) (launches graphs : List Nat) : Slot :=
  match x.begun.reverse with
  | b :: rest => { x with begun := (({ b with launches := b.launches ++ launches, graphs := b.graphs ++ graphs }) :: rest).reverse }
  | [] => x

/-- Work of a prologue joins the level-0 packet that holds it. -/
def Slot.addTo (x : Slot) (pos : Nat) (launches : List Nat) : Slot :=
  { x with begun := x.begun.map fun b => if b.pos == pos then { b with launches := b.launches ++ launches } else b }

/-! ## Packets (R84, R85, R99) -/

/-- Fields of a packet's words. -/
def packetAddr (w : Nat → Word) (i : Nat) : DWord := w (i + 1) ++ w i

/-- The lengths of R85 in words: exact, but for NOPP. -/
def packetLength : Nat → Option Nat
  | 1 => some 16 | 2 => some 8 | 3 => some 4 | 4 => some 6 | 5 => some 2 | 6 => some 5 | 7 => some 6 | 8 => some 1 | 9 => some 6
  | 10 => some 5 | 11 => some 3 | _ => none

/-- The body of a LAUNCH packet, from word 1 on (R85). -/
def launchBody (w : Nat → Word) : LaunchPacket :=
  let b := (w 13).toNat
  { desc := packetAddr w 1, args := packetAddr w 3, dx := (w 5).toNat, dy := (w 6).toNat, dz := (w 7).toNat, record := packetAddr w 8,
    cancel := packetAddr w 10, taskQ := (w 12).toNat, pool := b % 256, coResident := b / 256 % 2 == 1, prio := b / 65536 % 8,
    privZ := b / 2 ^ 24, privBase := packetAddr w 14 }

/-- What is wrong with a LAUNCH's fields: a reason of R513, 0 where nothing is. -/
def launchFault (w : Nat → Word) : Nat :=
  let p := launchBody w
  let b := (w 13).toNat
  if b / 512 % 128 != 0 || b / 2 ^ 19 % 32 != 0 then 3
  else if p.dx == 0 || p.dy == 0 || p.dz == 0 || p.dx * p.dy * p.dz > 2 ^ 32 || p.pool > 32 || p.privBase.toNat % 65536 != 0 ||
      (p.privBase == 0 && p.privZ != 0) then 4
  else 0

/-- A condition of PRED or WAIT and what is wrong with it (R86). -/
def condOf (h : Word) (w : Nat → Word) : MemCond :=
  { code := h.extractLsb' 8 3, wide := h.getLsbD 11, addr := packetAddr w 1, value := packetAddr w 3 }

def condFault (h : Word) (c : MemCond) : Nat :=
  if fld h 14 12 != 0 || c.code == 7 then 3 else if c.addr.toNat % (if c.wide then 8 else 4) != 0 then 4 else 0

def okOr (reason : Nat) (i : Instr) : Except Nat Instr := if reason == 0 then .ok i else .error reason

/-- The packet a slot's top level stands at, from its words; a reason of R513 where it is malformed. `depth` is the nesting level,
`inLoop` says that a loop goes on at that level. -/
def decodePacket (sl depth : Nat) (inLoop phased passOpen : Bool) (w : Nat → Word) : Except Nat Instr :=
  let h := w 0
  let flags := fld h 14 8
  let plain (r : Nat) : Nat := if flags != 0 then 3 else r
  match fld h 7 0 with
  | 1 => okOr (plain (launchFault w)) (.launch sl (launchBody w))
  | 2 => okOr (plain (if w 7 != 0 then 3 else 0)) (.launch2 sl (packetAddr w 1) (packetAddr w 3) (packetAddr w 5))
  | 3 =>
    let n := (w 3).toNat
    okOr (plain (if (w 1).toNat % 4 != 0 || n % 4 != 0 || n < 4 || n > 2 ^ 24 then 4 else if depth ≥ 2 then 5 else 0)) (.ib sl (packetAddr w 1) n)
  | 4 =>
    let n := (w 5).toNat
    let c := condOf h w
    okOr (if condFault h c != 0 then condFault h c else if n == 0 || n > 65535 then 4 else 0) (.pred sl c n)
  | 5 =>
    let (n, k) := (fld (w 1) 15 0, fld (w 1) 31 16)
    okOr (plain (if n == 0 || k == 0 then 4 else if inLoop then 8 else 0)) (.loop sl n k)
  | 6 => okOr (if condFault h (condOf h w) != 0 then condFault h (condOf h w) else if depth != 0 then 7 else 0) (.wait sl (condOf h w))
  | 7 =>
    let x := w 5
    let wide := x.getLsbD 2
    okOr (plain (if fld x 31 8 != 0 || fld x 1 0 == 3 then 3 else if fld x 7 3 == 0 || (w 1).toNat % (if wide then 8 else 4) != 0 then 4 else 0))
      (.signal sl (packetAddr w 1) (packetAddr w 3) (x.extractLsb' 0 2) wide (x.extractLsb' 3 5))
  | 8 => okOr (plain 0) (.ffence sl)
  | 9 => okOr (plain (if fld (w 5) 31 3 != 0 then 3 else 0)) (.graph sl (packetAddr w 1) (packetAddr w 3) (fld (w 5) 2 0))
  | 10 => okOr (plain (if depth != 0 then 7 else if !phased then 9 else 0)) (.phase sl (packetAddr w 1) (packetAddr w 3))
  | 11 =>
    let a := fld h 9 8
    let addr := packetAddr w 1
    if fld h 14 10 != 0 || (a != 1 && addr != 0) then .error 3
    else if a == 0 then .error 4
    else if (a == 1) == passOpen then .error 10
    else .ok (if a == 1 then .passBegin sl addr else if a == 2 then .passNext sl else .passEnd sl)
  | _ => okOr (plain 0) (.nopp sl)

/-- What the front end finds at a slot. -/
inductive FrontFetch where
  /-- Nothing begins. -/
  | idle (s : State)
  /-- A packet begins: its instruction. -/
  | packet (s : State) (i : Instr)

/-- Every launch, graph and prologue that the queue has started has completed (R84). -/
def State.queueDone (s : State) (sl : Nat) : Bool :=
  let q := (s.slot sl).queue
  s.launches.all (fun l => l.queue != some q || l.complete) && s.graphs.all (fun g => g.queue != some q || g.status.isSome) &&
    (s.slot sl).prologues.isEmpty

/-- The queue of a slot has a pass open. -/
def State.openPass (s : State) (sl : Nat) : Option Nat := (s.queues[(s.slot sl).queue]?).bind (·.pass)

/-- A skipped packet is walked over (R93): only its header, and a LOOP's body count, are looked at. -/
def skipPacket (x : Slot) (n : Nest) (l : List Nest) (len : Nat) : Except Nat Slot :=
  let ty := fld (n.word 0) 7 0
  let body := if ty == 5 then fld (n.word 1) 15 0 else 0
  if ty == 5 && body == 0 then .error 4
  else
    let m := { n with skip := n.skip - 1 + body }
    .ok ({ { x with len := len, levels := m :: l }.begin with levels := m :: l }.advance)

/-- The front end at a slot: the window of the top level is filled and its packet looked at (R84, R93, R95, R99). -/
def frontFetch (s : State) (sl : Nat) : FrontFetch :=
  let x := s.slot sl
  match x.levels, s.queues[x.queue]? with
  | n :: l, some q =>
    if !x.bound || x.stopped.isSome || x.waiting.isSome || (l.isEmpty && n.loop.isNone && n.skip == 0 && x.due && !x.open_) || n.pos ≥ n.limit then
      .idle s
    else
      match s.fillWindow x.job n with
      | .fail _ _ => .idle (s.stopQueue sl 12)
      | .wait => .idle s
      | .ok n =>
        let s := s.modSlot sl fun x => { x with levels := n :: l }
        let h := n.word 0
        let ty := fld h 7 0
        let len := 4 * fld h 31 16
        if ty == 0 || ty > 12 then .idle (s.stopQueue sl 1)
        else if (match packetLength ty with | some k => len != 4 * k | none => len == 0) then .idle (s.stopQueue sl 2)
        else if n.pos + len > n.limit then (if l.isEmpty then .idle s else .idle (s.stopQueue sl 6))
        else if n.skip != 0 then
          match skipPacket (s.slot sl) n l len with
          | .ok y => .idle (s.modSlot sl fun _ => y)
          | .error r => .idle (s.stopQueue sl r)
        else
          match decodePacket sl l.length n.loop.isSome (s.phased q) (s.openPass sl).isSome n.word with
          | .error r => .idle (s.stopQueue sl r)
          | .ok i => if h.getLsbD 15 && !s.queueDone sl then .idle s else .packet (s.modSlot sl fun x => { x with len := len }) i
  | _, _ => .idle s

/-! ## Consumption (R96) -/

/-- A begun packet's work is over: its launches wholly admitted, its graphs complete, its prologues ended. -/
def State.workDone (s : State) (x : Slot) (b : Begun) : Bool :=
  b.launches.all (fun l => match s.launches[l]? with | some y => y.rejected || y.cancelled || y.admitted ≥ y.dx * y.dy * y.dz | none => true) &&
    b.graphs.all (fun g => match s.graphs[g]? with | some y => y.status.isSome | none => true) &&
    x.prologues.all (fun p => p.at_ != b.pos)

/-- The packets of a list that are consumed from its front: those left, and the offset of the first that is not. -/
def consumed (s : State) (x : Slot) (busy : Bool) : List Begun → Option Nat → List Begun × Option Nat
  | [], o => ([], o)
  | b :: l, o => if s.workDone x b && !(l.isEmpty && busy) then consumed s x busy l (some b.next) else (b :: l, o)

/-- Consumes the begun packets that are done, and writes the read offset where it advances. -/
def State.settleSlot (s : State) (sl : Nat) : State :=
  let x := s.slot sl
  let busy := x.stopped.isNone && (x.levels.length > 1 || x.open_ || (x.waiting.isSome && x.levels.any fun n => n.loop.isSome))
  match s.queues[x.queue]? with
  | none => s
  | some q =>
    if !x.bound then s
    else
      match consumed s x busy x.begun none with
      | (_, none) => s
      | (l, some off) =>
        match s.devWrite q.job (q.qcb + 16) (leBytes 8 off) with
        | .ok s => s.modSlot sl fun x => { x with begun := l }
        | .fail _ _ => s.modSlot sl fun x => { x with begun := l }
        | .wait => s

/-- A packet has begun and acted: the slot stands at the next one. -/
def State.packetDone (s : State) (sl : Nat) (f : Slot → Slot) : State :=
  (s.modSlot sl fun x => f x.begin.advance).settleSlot sl

/-! ## Conditions (R86) -/

/-- Whether the condition holds of a word. -/
def condHolds (c : MemCond) (word : Nat) : Bool :=
  let m := if c.wide then 2 ^ 64 else 2 ^ 32
  let (a, v) := (word % m, c.value.toNat % m)
  let sg (x : Nat) : Int := if 2 * x ≥ m then (x : Int) - m else x
  match c.code.toNat with
  | 0 => a == v
  | 1 => a != v
  | 2 => a < v
  | 3 => a ≥ v
  | 4 => (a &&& v) != 0
  | 5 => sg a < sg v
  | _ => sg a ≥ sg v

def State.evalCond (s : State) (job : Nat) (c : MemCond) : Dev Bool :=
  (s.devRead job c.addr (if c.wide then 8 else 4)).bind fun v => .ok (condHolds c v)

/-! ## The packets but PASS -/

/-- The slot may begin the packet: it is bound and stands at one. -/
def State.fronting (s : State) (sl : Nat) : Bool := let x := s.slot sl; x.bound && x.stopped.isNone && x.waiting.isNone && !x.levels.isEmpty

/-- The phase whose launches the queue starts (R97), and whether the one before it is complete. -/
def State.phaseOf (s : State) (q : Queue) : Option Nat :=
  if q.phases == 0 || !s.phased q then none else s.phases.findIdx? fun p => p.job == q.job && p.number + 1 == q.phases

def State.phaseOpen (s : State) (q : Queue) : Bool :=
  q.phases < 2 || !s.phased q || s.phases.any fun p => p.job == q.job && p.number + 2 == q.phases && p.status.isSome

/-- Where the launches of a slot come from. -/
def State.slotSrc (s : State) (sl : Nat) (graph : Option (Nat × Nat)) : LaunchSrc :=
  let x := s.slot sl
  let q := s.queues[x.queue]?
  { job := x.job, queue := some x.queue, mask := x.mask, graph := graph, phase := q.bind s.phaseOf, pass := q.bind (·.pass) }

/-- Runs a packet of a slot: nothing happens where the slot stands at none. -/
def runPacket (sl : Nat) (s : State) (f : State → Slot → Queue → State) : Host.Outcome State Fault Refusal :=
  match s.queues[(s.slot sl).queue]? with
  | some q => .next (if s.fronting sl then f s (s.slot sl) q else s)
  | none => .next s

/-- LAUNCH (R88). -/
def execLaunch (sl : Nat) (p : LaunchPacket) (s : State) :=
  runPacket sl s fun s _ q =>
    if !s.phaseOpen q then s
    else
      match s.startLaunch p (s.slotSrc sl none) with
      | .ok (s, l) => s.packetDone sl fun x => { x.addWork [l] [] with launches := x.launches ++ [l] }
      | _ => s

/-- The phase whose launches the queue starts is cancelled (R61). -/
def State.phaseCancelled (s : State) (q : Queue) : Bool :=
  match (s.phaseOf q).bind fun p => s.phases[p]? with | some p => p.cancelled | none => false

/-- A graph of a packet's, in the slot's phase: it is cancelled where that is. -/
def State.packetGraph (s : State) (sl : Nat) (x : Slot) (q : Queue) (prio : Nat) (record cancel : DWord) (nodes : List Node) : Graph :=
  let cancelled := s.phaseCancelled q || s.wordSet x.job cancel
  { live := true, job := x.job, queue := some x.queue, slot := sl, mask := x.mask, prio := prio, record := record, cancel := cancel, nodes := nodes,
    ready := if cancelled then [] else (List.range nodes.length).filter fun k => match nodes[k]? with | some n => !n.started && n.counter == 0 | none => false
    cancelled := cancelled, phase := s.phaseOf q, status := none }

/-- LAUNCH2 (R91): it counts as a graph of one node (R57), and has no prologue where its phase is cancelled. -/
def execLaunch2 (sl : Nat) (prologue params arg : DWord) (s : State) :=
  runPacket sl s fun s x q =>
    if !s.phaseOpen q then s
    else
      let gi := s.graphs.length
      let g := s.packetGraph sl x q 0 0 0 [⟨0, 0, [], 0, true, none⟩]
      if g.cancelled then (({ s with graphs := s.graphs ++ [{ g with nodes := [⟨0, 0, [], 0, true, some .cancelled⟩] }] } : State).packetDone sl id).settle
      else ({ s with graphs := s.graphs ++ [g] } : State).packetDone sl fun x =>
        { x with prologues := x.prologues ++ [⟨prologue, params, arg, 0, none, (gi, 0), false, (x.begun.getLast?.map (·.pos)).getD 0⟩] }

/-- IB (R92): its buffer becomes the top level. -/
def execIb (sl : Nat) (addr : DWord) (len : Nat) (s : State) :=
  runPacket sl s fun s _ _ =>
    (s.modSlot sl fun x =>
      let y := x.begin
      match y.levels with
      | n :: l => { y with levels := ⟨addr, 0, len, 0, [], none, 0, 0⟩ :: n.advance y.len :: l }
      | [] => y).settleSlot sl

/-- PRED (R93): it covers the next packets, or skips them; at the end of a loop body or buffer there are none. -/
def execPred (sl : Nat) (c : MemCond) (skip : Nat) (s : State) :=
  runPacket sl s fun s x _ =>
    match s.evalCond x.job c with
    | .fail _ _ => s.stopQueue sl 12
    | .wait => s
    | .ok b =>
      (s.modSlot sl fun x =>
        let y := x.begin
        match y.levels with
        | n :: l =>
          ({ y with levels := (if b then (if n.loop.isNone then { n with cover := max n.cover (skip + 1) } else n) else { n with skip := skip }) :: l }
            : Slot).advance
        | [] => y).settleSlot sl

/-- LOOP (R94): its body is the packets after it at its level. -/
def execLoop (sl : Nat) (body iters : Nat) (s : State) :=
  runPacket sl s fun s _ _ =>
    (s.modSlot sl fun x =>
      let y := x.begin
      match y.levels with
      | n :: l => ({ y with levels := { n with cover := n.cover - 1, loop := some ⟨n.pos + y.len, body, body + 1, iters⟩ } :: l } : Slot).advance
      | [] => y).settleSlot sl

/-- WAIT (R82): outside a loop body it parks the queue, and inside one it waits in place. -/
def execWait (sl : Nat) (c : MemCond) (s : State) :=
  runPacket sl s fun s x _ =>
    match s.evalCond x.job c with
    | .fail _ _ => s.stopQueue sl 12
    | .wait => s
    | .ok true => s.packetDone sl id
    | .ok false =>
      if x.levels.any fun n => n.loop.isSome then s.modSlot sl fun x => { x.begin with waiting := some c }
      else s.packetDone sl fun x => { x with waiting := some c, release := true }

/-- SIGNAL (R96): a release atomic once everything the queue has started is complete. -/
def execSignal (sl : Nat) (addr value : DWord) (op : BitVec 2) (wide : Bool) (_mask : BitVec 5) (s : State) :=
  runPacket sl s fun s x _ =>
    if !s.queueDone sl then s
    else
      let n := if wide then 8 else 4
      match (s.devRead x.job addr n).bind fun old =>
          s.devWrite x.job addr (leBytes n (match op.toNat with | 0 => value.toNat | 1 => old + value.toNat | _ => old ||| value.toNat)) with
      | .ok s => s.packetDone sl id
      | .fail _ _ => s.stopQueue sl 12
      | .wait => s

/-- FFENCE (R95): every held byte of every level is discarded. -/
def execFfence (sl : Nat) (s : State) :=
  runPacket sl s fun s _ _ => s.packetDone sl fun x => { x with levels := x.levels.map fun n => { n with win := [] } }

/-- NOPP (R85). -/
def execNopp (sl : Nat) (s : State) := runPacket sl s fun s _ _ => s.packetDone sl id

/-- PHASE (R97): it opens the job's next phase, once; a cancel word that holds a value cancels it at once (R90). -/
def execPhase (sl : Nat) (record cancel : DWord) (s : State) :=
  runPacket sl s fun s x q =>
    let set_ := s.wordSet q.job cancel
    let pi := s.phases.length
    let s := s.modQueue x.queue fun q => { q with phases := q.phases + 1 }
    if s.phases.any fun p => p.job == q.job && p.number == q.phases then (s.packetDone sl id).settle
    else
      let s := (({ s with phases := s.phases ++ [⟨q.job, q.phases, record, cancel, false, none⟩] } : State).packetDone sl id).settle
      if set_ then s.cancelPhase pi else s

/-! ## Graphs (R54, R55) -/

/-- The LAUNCH or LAUNCH2 packet of a node, read at its address: none where it is neither, or malformed. -/
def State.nodePacket (s : State) (job : Nat) (va : DWord) : Dev (Option Instr) :=
  (s.devRead job va 4).bind fun h =>
    let n := if h % 256 == 1 then 16 else if h % 256 == 2 then 8 else 0
    if n == 0 || h / 65536 != n then .ok none
    else (s.devRead job va (4 * n)).bind fun v =>
      match decodePacket 0 0 false false false (fun i => BitVec.ofNat 32 (v / 2 ^ (32 * i))) with
      | .ok i => .ok (some i)
      | .error _ => .ok none

/-- A node that never becomes a launch: it completes REJECTED (log 38). -/
def State.rejectNode (s : State) (job gi ni : Nat) (record : DWord) : State :=
  match s.writeRecord job record .rejected 0 with
  | some s => s.nodeDone gi ni .rejected
  | none => s.nodeDone gi ni .rejected

/-- Starts a node: its launch, or its prologue; none while it waits for a PRI response. -/
def State.startNode (s : State) (gi ni : Nat) : Option State :=
  match s.graphs[gi]? with
  | none => some s
  | some g =>
    match g.nodes[ni]? with
    | none => some s
    | some n =>
      let s : State := { s with graphs := s.graphs.set gi { g with nodes := g.nodes.set ni { n with started := true } } }
      let at_ := ((s.slot g.slot).begun.find? fun b => b.graphs.contains gi).map (·.pos)
      match s.nodePacket g.job n.packet with
      | .wait => none
      | .ok (some (.launch _ p)) =>
        let src : LaunchSrc := ⟨g.job, g.queue, g.mask, some (gi, ni), g.phase, (g.queue.bind fun q => s.queues[q]?).bind (·.pass)⟩
        (match s.startLaunch { p with record := n.record, prio := if p.prio == 0 then g.prio else p.prio } src with
         | .ok (s, l) => some (s.modSlot g.slot fun x => { x with launches := x.launches ++ [l] })
         | .fail _ _ => some (s.rejectNode g.job gi ni n.record)
         | .wait => none)
      | .ok (some (.launch2 _ a b c)) =>
        some (s.modSlot g.slot fun x => { x with prologues := x.prologues ++ [⟨a, b, c, 0, none, (gi, ni), true, at_.getD 0⟩] })
      | _ => some (s.rejectNode g.job gi ni n.record)

/-- Starts the nodes whose counter has reached 0, in that order; a node that waits for a PRI response is left for later (R55). -/
def State.startNodes (s : State) (gi : Nat) : State :=
  match s.graphs[gi]? with
  | none => s
  | some g =>
    if g.cancelled || g.status.isSome then s
    else g.ready.foldl (fun s ni =>
      match s.startNode gi ni with
      | some t => { t with graphs := t.graphs.modify gi fun g => { g with ready := g.ready.filter (· != ni) } }
      | none => s) s

/-- What waits for a PRI response in the front end is tried again: a graph's nodes, a slot's read offset, and the records of what is over. -/
def State.retryFront (s : State) (gi sl : Nat) : State := ((s.startNodes gi).settleSlot sl).settle

/-- GRAPH (R55): one whose table cannot be read, or whose counts differ, starts no node and completes REJECTED: it stands as one node that
never starts. -/
def execGraph (sl : Nat) (table cancel : DWord) (prio : Nat) (s : State) :=
  runPacket sl s fun s x q =>
    if !s.phaseOpen q then s
    else
      let got : Dev (DWord × Option (List Node)) :=
        (s.devRead x.job table 16).bind fun h =>
          let n := h % 2 ^ 32
          let record : DWord := BitVec.ofNat 64 (h / 2 ^ 64)
          if n == 0 || n > 65536 then .ok (record, none)
          else match s.readNodes x.job (table + 16) n with
            | .ok l => .ok (record, if countsOk l then some l else none)
            | .fail _ _ => .ok (record, none)
            | .wait => .wait
      match got with
      | .wait => s
      | r =>
        let (record, nodes) := match r with | .ok v => v | _ => (0, none)
        let gi := s.graphs.length
        let g := s.packetGraph sl x q prio record cancel (nodes.getD [⟨0, 1, [], 0, false, none⟩])
        ((({ s with graphs := s.graphs ++ [g] } : State).packetDone sl fun x => x.addWork [] [gi]).startNodes gi).settle

end Sys2Proof.Machine
end

