-- ==== Sys2Proof/Machine/Admission.lean ====
section
/-! DEFINITION. Dispatch: which core a team goes to, its admission and its end (R17, R22 to R29, R46 to R53, R59, R63, R100, R101,
R475, R483). -/

namespace Sys2Proof.Machine

/-! ## What a core has to offer -/

/-- A live team that holds its core's storage. -/
def Team.holds (t : Team) (core : Nat) : Bool := t.live && !t.saved && t.core == core

/-- The core is in power state C0 (R425, R522). -/
def State.powered (s : State) (core : Nat) : Bool := !s.sys.held && !(s.power.any fun p => p.1 == .core core && p.2 != .c0)

/-- Both cores of a pair. -/
def pairOf (core : Nat) : List Nat := [core / 2 * 2, core / 2 * 2 + 1]

/-- A core without resident group, combiner group, team or spawn pool: its carve may be set (R23). -/
def State.emptyCore (s : State) (core : Nat) : Bool :=
  !(s.groups.any fun g => g.core == core && g.resident) && !(s.teams.any fun t => t.holds core) && (s.core core).pool.isNone

/-- R17: no group of another job stands on the pair. -/
def State.pairJob (s : State) (core job : Nat) : Bool :=
  (pairOf core).all fun c => !(s.groups.any fun g => g.core == c && g.resident && g.kind != .combiner && g.job != job) &&
    !(s.teams.any fun t => t.holds c && t.job != job)

/-- The core is of the job's world, or the pair can pass to it (R421). -/
def State.worldFits (s : State) (core : Nat) (secure : Bool) : Bool :=
  (s.core core).secure == secure || (pairOf core).all s.emptyCore

/-- A pass that keeps slots of the core for its groups is open (R386). -/
def State.passOn (s : State) (core : Nat) : Bool := s.passes.any fun p => p.live && p.mask.getLsbD core

/-- Resident slots of a partition that ordinary dispatch may fill. -/
def State.slotLimit (s : State) (core : Nat) : Nat := if s.passOn core then 31 else 32

/-- A tile may be allotted (R27, R28, R483). -/
def State.tileFree (s : State) (core tile : Nat) (neval : Bool) : Bool :=
  !(s.teams.any fun t => t.holds core && t.accBase ≤ tile && tile < t.accBase + t.accLen) && (s.tileQueue core tile).isEmpty &&
    !(tile ≥ 14 && (neval || s.whorlRes core))

/-- Tiles 14 and 15 of the pair can be held for the Whorl unit (R28). -/
def State.whorlFits (s : State) (core : Nat) : Bool :=
  s.whorlRes core || (pairOf core).all fun c =>
    !(s.teams.any fun t => t.holds c && ((t.accBase ≤ 14 && 14 < t.accBase + t.accLen) || (t.accBase ≤ 15 && 15 < t.accBase + t.accLen)))

/-- What a team asks of its core: its kernel, its groups, its spawn pool and task queue, its launch and job. -/
structure Need where
  k : Kernel
  groups : Nat
  scr : Nat
  pool : Nat
  q : Nat
  launch : Nat
  job : Nat
  secure : Bool
  /-- It is the graphics group that may take the slot kept for the oldest (R386). -/
  gfx : Bool := false

/-- Pool slots that the core would have to reserve; none where its pool serves another launch (R63). -/
def State.newPool (s : State) (core : Nat) (n : Need) : Option Nat :=
  match (s.core core).pool with
  | none => some n.pool
  | some (l, _) => if n.pool == 0 || l == n.launch then some 0 else none

/-- The smallest carve that an empty core could take for the team, and the largest (R22 to R24). -/
def Need.carves (n : Need) : Nat × Nat := (max 16 ((n.pool * n.k.regs + n.groups * n.k.regs + 128 + 63) / 64), min 96 (120 - n.scr))

/-- An empty core takes a carve for the team, any that fits (log 1). -/
def State.setCarve (s : State) (core : Nat) (n : Need) : State :=
  let (lo, hi) := n.carves
  if s.emptyCore core && lo ≤ hi then
    ({ s with free := s.free + 1 }.modCore core fun c => { c with mainLen := lo + Config.fresh s.free % (hi + 1 - lo) }).shrinkL1 core
  else s

/-- Free resident slots of the four partitions, once `p` pool slots are reserved (R46). -/
def State.partFree (s : State) (core p : Nat) (gfx : Bool) : List Nat :=
  (List.range 4).map fun q => (if gfx then 32 else s.slotLimit core) - s.slotsTaken core q - poolSlots p q

/-- The partition of group 0: the most free slots, the lowest on a tie (R46). -/
def firstPart (l : List Nat) : Nat := ((List.range 4).find? fun q => l.all fun x => x ≤ l.getD q 0).getD 0

/-- Groups `0` to `n - 1` find their slots. -/
def partsFit (l : List Nat) (n : Nat) : Bool :=
  let p0 := firstPart l
  (List.range 4).all fun q => ((List.range n).filter fun g => (p0 + g) % 4 == q).length ≤ l.getD q 0

/-- The team fits on the core, its carve set, but for its scratchpad's and its tiles' places. -/
def State.coreFits (s : State) (n : Need) (core : Nat) : Bool :=
  match s.newPool core n with
  | none => false
  | some p =>
    s.powered core && s.pairJob core n.job && s.worldFits core n.secure &&
      (s.places core (List.replicate (p + n.groups) n.k.regs)).isSome &&
      n.scr + 8 ≤ s.l1Len core && partsFit (s.partFree core p n.gfx) n.groups && (n.q == 0 || (s.taskTeam core).isNone) &&
      (!n.k.neval || s.whorlFits core)

/-- The place of a scratchpad that is free on every core of a list (R25). Log 54: the lowest, which SCRBASE shows. -/
def State.scrPlace (s : State) (n : Need) (cores : List Nat) : Option Nat :=
  if n.scr == 0 then some 0 else (List.range 128).find? fun g => cores.all fun c => s.inL1 c g n.scr

/-- The place of tiles that are free on every core of a list (R27). Log 54: the lowest, which ACCBASE shows. -/
def State.accPlace (s : State) (n : Need) (cores : List Nat) : Option Nat :=
  if n.k.acc == 0 then some 0
  else (List.range (17 - n.k.acc)).find? fun b => cores.all fun c => (List.range n.k.acc).all fun i => s.tileFree c (b + i) n.k.neval

/-- Where a team goes on given cores: the state with carves set, and its places. -/
def State.placeOn (s : State) (n : Need) (cores : List Nat) : Option (State × Nat × Nat) :=
  let s := cores.foldl (fun s c => s.setCarve c n) s
  if cores.all (s.coreFits n) then (s.scrPlace n cores).bind fun b => (s.accPlace n cores).map fun a => (s, b, a) else none

/-- Resident groups of a core. -/
def State.residents (s : State) (core : Nat) : Nat := (s.groups.filter fun g => g.core == core && g.resident && g.kind != .combiner).length

/-- The cores of a list in the order in which dispatch prefers them (R100). -/
def State.preferred (s : State) (l : List Nat) : List Nat := sortBy (fun c => s.residents c * 64 + c) l

/-- The cores a team would take, from a leader or its one core. -/
def seatOf (twin : Bool) (core : Nat) : List Nat := if twin then [core, core + 1] else [core]

/-- The first of the cores at which a team can be placed. -/
def State.findSeat (s : State) (n : Need) (cores : List Nat) : Option (State × Nat × Nat × Nat) :=
  (s.preferred cores).findSome? fun c => (s.placeOn n (seatOf n.k.twin c)).map fun r => (r.1, c, r.2.1, r.2.2)

/-! ## Reservations and the order of slots (R53, R100, R101) -/

/-- The launch a slot would admit a team of next. -/
def State.headLaunch (s : State) (x : Slot) : Option Nat :=
  x.launches.find? fun l => match s.launches[l]? with | some y => !y.rejected && !y.cancelled && y.admitted < y.dx * y.dy * y.dz | none => false

/-- Cores that another slot keeps from a slot of priority `prio`: by its reservation, or by a co-resident launch that waits. -/
def State.keptFrom (s : State) (sl prio lprio : Nat) : BitVec 64 :=
  (List.range 64).foldl (fun m k =>
    let x := s.slot k
    if k == sl || !x.bound then m
    else
      let m := if x.reserved && prio ≤ x.prio then m ||| x.mask else m
      match (s.headLaunch x).bind fun l => s.launches[l]? with
      | some y => if y.coResident && lprio ≤ y.prio then m ||| x.mask else m
      | none => m) 0

/-- What a team of a launch asks for. -/
def State.needOf (s : State) (li : Nat) (l : Launch) : Need :=
  { k := l.kernel, groups := l.kernel.groups, scr := l.kernel.granules, pool := l.pool, q := l.taskQ, launch := li, job := l.job,
    secure := s.jobSecure l.job }

/-- Cores at which a launch of a slot may place a team now; a replayed log names the core (R316). -/
def State.coresFor (s : State) (sl : Nat) (prio li : Nat) (l : Launch) (index number spawnSeq : Nat) : List Nat :=
  let cores := seatCores l.kernel.twin (l.mask &&& ~~~(s.keptFrom sl prio l.prio))
  match s.seatDemand l.job number spawnSeq li index with
  | .free => cores
  | .at_ c _ => cores.filter fun x => x == c || (l.kernel.twin && x + 1 == c)
  | .wait => []

/-! ## Placing groups -/

/-- The seat of a group in a partition, or the one a replayed log demands, with the place of its footprint (R24, R46, R316). -/
def State.seatFor (s : State) (core job number spawnSeq li index place : Nat) (part : Option Nat) : Option Seat :=
  match s.seatDemand job number spawnSeq li index with
  | .free => part.bind fun q => (s.freeSeat core q).map fun k => ⟨core, q, k, place⟩
  | .at_ c r =>
    if c == core && !(s.groups.any fun h => h.core == core && h.part == r / 32 && h.rslot == r % 32 && h.resident && h.kind != .combiner) then
      some ⟨core, r / 32, r % 32, place⟩ else none
  | .wait => none

/-- Admits groups `j` to `n - 1` of a half whose first GROUP number is `base` (R40, R46, R239). -/
def State.addGroups (ti core p0 base : Nat) (l : Launch) (li index : Nat) : Nat → Nat → State → Option State
  | 0, _, s => some s
  | n + 1, j, s =>
    ((s.mainPlace core l.kernel.regs).bind fun a => s.seatFor core l.job (base + j) 0 li index a (some ((p0 + j) % 4))).bind fun seat =>
      let h := Group.start .team l.job li ti (base + j) seat l.kernel.regs l.prio s.free l.kernel.entry
      let x := (h.ctx.setS 0 l.args).setS 1 (BitVec.ofNat 64 index)
      let h : Group := { h with
        ctx := x
        area := areaAt l.privBase l.privZ (index * (l.numbers + l.pool) + base + j)
        privLimit := l.privLimit }
      let s : State := { s with groups := s.groups ++ [h], free := s.free + 1 }
      State.addGroups ti core p0 base l li index n (j + 1)
        (s.placedGroup l.job li ⟨core, seat.part * 32 + seat.rslot, base + j, 0, l.id, index⟩)

/-- Granules and tiles pass to a team: undefined, or zero in the secure world or from another job (R25, R227, R476). Tiles are keyed
128 and above. -/
def State.passTo (s : State) (core job : Nat) (secure : Bool) (keys : List Nat) : State :=
  keys.foldl (fun s k =>
    let zero := secure || (match (s.core core).owners.lookup k with | some j => j != job | none => false)
    let s := if k < 128 then s.grantGranules core k 1 zero else s.loseTile core (k - 128) zero
    s.modCore core fun c => { c with owners := (k, job) :: c.owners.filter fun (p : Nat × Nat) => p.1 != k }) s

/-- The pair passes to a world: what leaves the secure world is zeroed (R421, R422). -/
def State.setWorld (s : State) (core : Nat) (secure : Bool) : State :=
  if (s.core core).secure == secure then s
  else
    let one (s : State) (c : Nat) : State :=
      let s := (s.core c).l1.foldl State.lineBack s
      s.modCore c fun x => { x with
        secure := secure
        array := if secure then x.array else []
        granEpoch := if secure then x.granEpoch else []
        tiles := if secure then x.tiles else []
        tileEpoch := if secure then x.tileEpoch else []
        weight := if secure then x.weight else []
        l1 := [], pfLines := [] }
    let s := (pairOf core).foldl one s
    let blocks := Block.whorl (core / 2) :: (pairOf core).map Block.column
    { s with secBlocks := if secure then s.secBlocks ++ blocks.filter (fun b => !s.secBlocks.contains b)
        else s.secBlocks.filter fun b => !blocks.contains b }

/-- A core prepares for a team of the job: world, weight buffer, pool, granules and tiles (R25, R29, R63). -/
def State.readyCore (s : State) (n : Need) (core scr acc : Nat) : State :=
  let s := s.setWorld core n.secure
  let p := (s.newPool core n).getD 0
  let at_ := (s.places core (List.replicate p n.k.regs)).getD []
  let s := s.modCore core fun c => { c with
    weight := if c.weightJob == some n.job then c.weight else []
    weightJob := some n.job
    pool := if p == 0 then c.pool else some (n.launch, p)
    poolAt := if p == 0 then c.poolAt else at_.map fun a => (a, n.k.regs) }
  s.passTo core n.job n.secure ((List.range n.scr).map (scr + ·) ++ (List.range n.k.acc).map (128 + acc + ·))

/-- A half of a team that starts. -/
def startTeam (l : Launch) (li index core scr acc mainLen : Nat) (twin : Option Nat) (base : Nat) : Team :=
  { live := true, job := l.job, launch := li, index := index, x := index % l.dx, y := index / l.dx % l.dy, z := index / (l.dx * l.dy),
    core := core, twin := twin, scrBase := scr, scrLen := l.kernel.granules, accBase := acc, accLen := l.kernel.acc,
    producer := base + l.kernel.producer, bars := Vector.replicate 16 (Barrier.start l.kernel.groups), nextSpawn := 0, carve := none, carveAt := 0,
    taskQ := l.taskQ, taskHead := 0, taskTail := 0, mainLen := mainLen, preempt := false, saved := false, saveMask := 0, handled := false,
    resuming := false, savedSq := [], savedTiles := false, fault := false, neval := l.kernel.neval }

/-- Admits the halves of the team with a linear index, each on its core. -/
def State.addHalves (s : State) (n : Need) (l : Launch) (li index scr acc first total : Nat) : List (Nat × Nat) → Option State
  | [] => some s
  | (h, core) :: rest =>
    let p0 := firstPart (s.partFree core ((s.newPool core n).getD 0) false)
    let s := s.readyCore n core scr acc
    let twin := if total == 2 then some (first + 1 - h) else none
    let t := startTeam l li index core scr acc (s.core core).mainLen twin (h * n.groups)
    let s : State := { s with teams := s.teams ++ [t] }
    let s := s.shrinkL1 core
    (State.addGroups (first + h) core p0 (h * n.groups) l li index n.groups 0 s).bind fun s =>
      ((s.acquire core 31).tell .front (.core core)).addHalves n l li index scr acc first total rest

/-- Admits the next team of a launch, from a slot of priority `prio` (R46, R52, R100); none where no core qualifies. -/
def State.admitOne (s : State) (sl prio li : Nat) : Option State :=
  (s.launches[li]?).bind fun l =>
    let n := s.needOf li l
    (s.findSeat n (s.coresFor sl prio li l l.admitted 0 0)).bind fun (s, core, scr, acc) =>
      let cores := seatOf l.kernel.twin core
      (s.addHalves n l li l.admitted scr acc s.teams.length cores.length (cores.zipIdx.map fun p => (p.2, p.1))).map fun s =>
        s.modLaunch li fun l => { l with admitted := l.admitted + 1 }

/-- Admits `n` teams of a launch, all or none (R53). -/
def State.admitMany (s : State) (sl prio li : Nat) : Nat → Option State
  | 0 => some s
  | n + 1 => (s.admitOne sl prio li).bind fun s => s.admitMany sl prio li n

/-! ## Readmission (R475) -/

/-- The groups of a half that are saved. -/
def State.savedOf (s : State) (ti : Nat) : List Nat :=
  (List.range s.groups.length).filter fun k => match s.groups[k]? with | some g => g.team == ti && g.status == .saved | none => false

/-- The team's numbered groups that return. -/
def State.savedNumbered (s : State) (ti : Nat) : Nat :=
  ((s.savedOf ti).filter fun k => match s.groups[k]? with | some g => g.kind == .team | none => false).length

/-- The context area of a group (R471). -/
def Group.context (g : Group) : DWord := g.frame.getD 0 + 16384

/-- Main registers from the context area; those that were not saved hold no defined value (R470). -/
def State.reload (s : State) (job : Nat) (g : Group) : Nat → Dev (List Lanes)
  | 0 => .ok []
  | n + 1 =>
    (s.reload job g n).bind fun l =>
      if g.saved.getLsbD n then
        (s.devRead job (g.context + BitVec.ofNat 64 (1024 * n)) 1024).bind fun v =>
          .ok (l ++ [Vector.ofFn fun t : Fin 256 => BitVec.ofNat 32 (v / 2 ^ (32 * t.val))])
      else .ok (l ++ [Vector.ofFn fun t : Fin 256 => BitVec.ofNat 32 (Config.fresh (s.free + 256 * n + t.val))])

/-- The handler a resumed producer runs first (R475). -/
def resumeHandler (job : Job) (g : Group) : Group :=
  let x := g.ctx
  let y := { x.clearLatches with
    entries := Vector.replicate 16 ⟨none, .free, Lanes.zero⟩, slots := Vector.replicate 8 ⟨false, 0⟩, pendFree := 0, fpmode := 0, fpflags := 0,
    pc := job.handler }
  { g with
    ctx := (y.setS 0 (g.frame.getD 0)).setS 1 0x8000000000000016
    handler := true
    status := .slotWait
    trapSave := some ⟨.preempt, false, x.pc, x.pc, x.pc, [], none⟩ }

/-- Restores one saved group at a seat (R459, R475); the failing address otherwise (R472). -/
def State.restoreGroup (s : State) (gi : Nat) (seat : Seat) (producer : Bool) : Except DWord State :=
  match s.groups[gi]? with
  | none => .ok s
  | some g =>
    match s.jobs[g.job]? with
    | none => .ok s
    | some job =>
      let g : Group := { g with core := seat.core, part := seat.part, rslot := seat.rslot, mainAt := seat.place, since := s.free }
      match s.reload g.job g g.regs with
      | .ok main =>
        let g := { g with ctx := { g.ctx with main := main } }
        (match readFrame s g (g.frame.getD 0) with
         | none => .error (g.frame.getD 0)
         | some tr =>
           let h : Group := { g with ctx := tr.ctx, status := .stopped 0x07FFFFFF }
           .ok ({ s with free := s.free + 65536 }.setGroup gi (if producer then resumeHandler job h else h)))
      | .fail _ va => .error va
      | .wait => .error g.context

/-- Where the saved groups of a half go, in order: numbered groups as at admission, spawned ones in the pool (R475), or where a replayed
log demands (R316). -/
def State.restoreAll (ti core p0 : Nat) (t : Team) : List Nat → State → Option (Except DWord State)
  | [], s => some (.ok s)
  | gi :: rest, s =>
    match s.groups[gi]? with
    | none => State.restoreAll ti core p0 t rest s
    | some g =>
      let part : Option Nat := if g.kind == .spawned
        then (List.range 4).map (fun q => (p0 + q) % 4) |>.find? fun q => s.poolFree core t.launch q > 0
        else some ((p0 + g.number) % 4)
      let place := if g.kind == .spawned then s.poolPlace core else s.mainPlace core g.regs
      match place.bind fun a => s.seatFor core g.job g.number g.spawnSeq t.launch t.index a part with
      | none => none
      | some seat =>
        match s.restoreGroup gi seat (g.kind == .team && g.number == t.producer) with
        | .error va => some (.error va)
        | .ok s =>
          let id := match s.launches[t.launch]? with | some l => l.id | none => 0
          State.restoreAll ti core p0 t rest (s.placedGroup g.job t.launch ⟨core, seat.part * 32 + seat.rslot, g.number, g.spawnSeq, id, t.index⟩)

/-- Tiles read back at their new place (R474, R475): row after row. -/
def State.reloadTiles (s : State) (t : Team) (acc : Nat) (g : Group) : Nat → Except DWord State
  | 0 => .ok s
  | n + 1 =>
    match s.reloadTiles t acc g n with
    | .error e => .error e
    | .ok s =>
      match s.readRun t.job 3 (g.context + BitVec.ofNat 64 (270336 + 65536 * n)) 65536 with
      | .ok bs => .ok (s.modCore t.core fun c => c.tileSet (acc + n) 0
          ((List.range 16384).map fun i => BitVec.ofNat 32 (leNat ((bs.drop (4 * i)).take 4))))
      | .fail _ va => .error va
      | .wait => .error (g.context + 270336)

/-- A team whose context cannot be read or written is killed (R472). -/
def State.contextFailure (s : State) (ti : Nat) (va : DWord) : State :=
  match s.teams[ti]? with
  | none => s
  | some t =>
    let s := (s.halves ti).foldl State.killTeam s
    ((s.modTeam ti fun t => { t with fault := true }).failLaunch t.launch false).postError t.job 1 va

/-- Readmits one half on its core. Another core than before first loses the L1 lines that could hold older bytes than the groups have seen
(R272). -/
def State.readmitHalf (s : State) (n : Need) (ti core scr acc : Nat) : Option State :=
  (s.teams[ti]?).bind fun t =>
    let p0 := firstPart (s.partFree core ((s.newPool core n).getD 0) false)
    let s := if core == t.core then s else s.acquire core 31
    let s := (s.readyCore n core scr acc).tell .front (.core core)
    let s := s.setTeam ti { t with core := core, scrBase := scr, accBase := acc, mainLen := (s.core core).mainLen, saved := false, handled := false,
                                   saveMask := 0, resuming := (s.savedOf ti).any fun k => match s.groups[k]? with
                                     | some g => g.kind == .team && g.number == t.producer | none => false }
    let s := s.shrinkL1 core
    let s := t.savedSq.foldl (fun s e => s.modCore core fun c => { c with sq := c.sq.set (Fin.ofNat 2 e.1) (c.sq[Fin.ofNat 2 e.1] ++ [e.2]) }) s
    let s := ((s.modTeam ti fun t => { t with savedSq := [] }).beginHead core 0).beginHead core 1
    (State.restoreAll ti core p0 t (s.savedOf ti) s).map fun r =>
      match r with
      | .error va => s.contextFailure ti va
      | .ok s =>
        let s := if (match s.teams[ti]? with | some t => t.resuming | none => false) then s else s.resumeHalf ti
        let prod := s.groups.find? fun g => g.team == ti && g.kind == .team && g.number == t.producer
        match t.savedTiles, prod with
        | true, some g => (match s.reloadTiles { t with core := core } acc g t.accLen with
          | .ok s => s
          | .error va => s.contextFailure ti va)
        | _, _ => s

/-- Readmits the first saved team of a launch from a slot of priority `prio` (R52, R475); none where no core qualifies. -/
def State.readmit (s : State) (sl prio li : Nat) : Option State :=
  (s.launches[li]?).bind fun l => (s.teams.findIdx? fun t => t.live && t.saved && t.launch == li).bind fun ti => (s.teams[ti]?).bind fun t =>
    let halves := match t.twin with | some u => [min ti u, max ti u] | none => [ti]
    if !(halves.all fun h => match s.teams[h]? with | some t => t.saved | none => true) then none
    else
      let n : Need := { s.needOf li l with groups := halves.foldl (fun m h => max m (s.savedNumbered h)) 0, scr := t.scrLen }
      let (number, seq) := match (s.savedOf (halves.getD 0 0)).head?.bind fun k => s.groups[k]? with | some g => (g.number, g.spawnSeq) | none => (0, 0)
      (s.findSeat n (s.coresFor sl prio li l t.index number seq)).bind fun (s, core, scr, acc) =>
        halves.zipIdx.foldl (fun (s : Option State) h => s.bind fun s => s.readmitHalf n h.1 (core + h.2) scr acc) (some s)

/-! ## What a slot admits (R52, R53, R100, R475) -/

/-- The launch has a saved team. -/
def State.hasSaved (s : State) (li : Nat) : Bool := s.teams.any fun t => t.live && t.saved && t.launch == li

/-- The launch has a saved team to readmit. -/
def State.returning (s : State) (li : Nat) : Bool := s.hasSaved li && match s.launches[li]? with | some l => !l.cancelled && !l.complete | none => false

/-- The first launch of the slot's queue with a team to readmit. -/
def State.savedLaunch (s : State) (x : Slot) : Option Nat :=
  (List.range s.launches.length).find? fun li => (match s.launches[li]? with | some l => l.queue == some x.queue | none => false) && s.returning li

/-- The launch whose team the slot takes next, in packet order, and whether that team returns. -/
def State.nextWork (s : State) (x : Slot) : Option (Nat × Bool) :=
  match s.savedLaunch x, s.headLaunch x with
  | some a, some b => if a ≤ b then some (a, true) else some (b, false)
  | some a, none => some (a, true)
  | none, some b => some (b, false)
  | none, none => none

/-- What a slot can admit now. -/
def State.slotAdmits (s : State) (sl : Nat) : Option (Nat × State) :=
  let x := s.slot sl
  if !x.bound then none
  else
    (s.nextWork x).bind fun (li, back) => (s.launches[li]?).bind fun l =>
      (if back then s.readmit sl x.prio li
        else if l.coResident then s.admitMany sl x.prio li (l.dx * l.dy * l.dz) else s.admitOne sl x.prio li).map fun t => (li, t)

/-- Bound slots with a team to admit, in the order dispatch takes them: by priority, and round-robin within one (R100). -/
def State.slotOrder (s : State) : List Nat :=
  sortBy (fun k => (7 - min 7 (s.slot k).prio) * 64 + (k + 127 - s.sys.lastSlot) % 64)
    ((List.range 64).filter fun k => (s.slot k).bound && (s.nextWork (s.slot k)).isSome)

/-- A launch whose queue no slot holds: its saved teams return when no slot has a team that a core can take (log 54). -/
def State.slotless (s : State) (li : Nat) : Bool :=
  match s.launches[li]? with | some l => !s.slots.any fun x => x.bound && some x.queue == l.queue | none => false

/-! ## The events of dispatch -/

/-- The slot passes over and the ones before it in the order (R101). -/
def State.passOver (s : State) (l : List Nat) : State := l.foldl (fun s k => s.modSlot k fun x => { x with passes := x.passes + 1 }) s

/-- TEAM_ADMIT (R100): dispatch goes through the slots in order, and admits where the first that finds a core holds the launch. -/
def execTeamAdmit (li : Nat) (s : State) : Host.Outcome State Fault Refusal :=
  let order := s.slotOrder
  match order.find? fun k => (s.nextWork (s.slot k)).map (·.1) == some li with
  | none =>
    .next (if s.returning li && s.slotless li && !(order.any fun k => (s.slotAdmits k).isSome) then (s.readmit 64 0 li).getD s else s)
  | some sl =>
    let before := order.takeWhile (· != sl)
    if before.any fun k => (s.slotAdmits k).isSome then .next s
    else
      match s.slotAdmits sl with
      | none => .next (s.passOver (before ++ [sl]))
      | some (_, t) =>
        let t := (t.passOver before).modSlot sl fun x => { x with passes := 0, reserved := false }
        let t : State := { t with sys := { t.sys with lastSlot := sl } }
        let gone : Bool := match t.launches[li]? with | some y => y.admitted ≥ y.dx * y.dy * y.dz | none => true
        let t := if gone then t.modSlot sl fun x => { x with launches := x.launches.filter (· != li) } else t
        .next (t.settleSlot sl)

/-- SLOT_MASK_RESERVE (R101); a co-resident launch waits under R53 instead. -/
def execSlotMaskReserve (sl : Nat) (s : State) : Host.Outcome State Fault Refusal :=
  let x := s.slot sl
  let co := match s.nextWork x with | some (li, back) => !back && (match s.launches[li]? with | some l => l.coResident | none => true) | none => true
  .next (if x.bound && x.passes ≥ 256 && !co then s.modSlot sl fun x => { x with reserved := true } else s)

/-- No group of the half lives, spawned ones included. -/
def State.halfOver (s : State) (ti : Nat) : Bool := s.groups.all fun g => g.team != ti || !g.living

/-- The half's entries in the stream queues of its core. -/
def State.queuesEmpty (s : State) (ti : Nat) (t : Team) : Bool := (s.core t.core).sq.all fun q => q.all fun e => e.team != ti

/-- Every tile operation of the half has retired, and every Whorl request of its groups has returned (R331). -/
def State.halfQuiet (s : State) (ti : Nat) : Bool :=
  let row (b : WBin) : Bool := b.rows.any fun r => match s.groups[r.grp]? with | some g => g.team == ti | none => false
  s.cores.all (fun c => c.tileQ.all fun q => q.all fun o => o.team != ti) &&
    s.whorls.all fun w => !(w.queue.any row || w.bins.any row || w.tiles.any row)

/-- A half gives its storage back (R483): zeroed in the secure world. -/
def State.releaseHalf (s : State) (ti : Nat) (t : Team) : State :=
  let s := if (s.core t.core).secure then
      (List.range t.accLen).foldl (fun s k => s.loseTile t.core (t.accBase + k) true) (s.grantGranules t.core t.scrBase t.scrLen true)
    else s
  let others := s.teams.zipIdx.any fun p => p.2 != ti && p.1.holds t.core && p.1.launch == t.launch
  s.modCore t.core fun c =>
    match c.pool with
    | some (l, _) => if l == t.launch && !others then { c with pool := none, poolAt := [] } else c
    | none => c

/-- The team holds a tile of an open pass, which gives it up itself (R354). -/
def State.isTileTeam (s : State) (ti : Nat) : Bool := s.passes.any fun p => p.live && p.tiles.any fun t => t.team == some ti

/-- The whole team is over: both halves of a twin team (R50, R331). -/
def State.teamOver (s : State) (ti : Nat) : Bool :=
  (s.halves ti).all fun h =>
    match s.teams[h]? with
    | some t => s.halfOver h && s.halfQuiet h && (t.saved || s.queuesEmpty h t)
    | none => true

/-- One half ends, and its core tells the front end (R290). -/
def State.endHalf (s : State) (ti : Nat) : State :=
  match s.teams[ti]? with
  | some t =>
    if t.live then
      ((if t.saved then s else s.releaseHalf ti t).modTeam ti fun t => { t with live := false, carve := none, savedSq := [] }).tell (.core t.core) .front
    else s
  | none => s

/-- TEAM_END (R50, R483): the launch counts a twin team once. -/
def execTeamEnd (ti : Nat) (s : State) : Host.Outcome State Fault Refusal :=
  match s.teams[ti]? with
  | none => .next s
  | some t =>
    if !t.live || s.isTileTeam ti || !s.teamOver ti then .next s
    else
      let bad := (s.halves ti).any fun h => match s.teams[h]? with | some u => u.fault | none => false
      .next (((s.halves ti).foldl State.endHalf s).modLaunch t.launch fun l =>
        { l with left := l.left - 1, doneTeams := if bad || l.cancelled then l.doneTeams else l.doneTeams + 1 })

/-- GROUP_STORAGE_DRAIN (R481): no write is on its way to the group's registers or slot. A fragment group that was killed releases
its reservations (R384, R482). -/
def execGroupStorageDrain (gi : Nat) (s : State) : Host.Outcome State Fault Refusal :=
  let req (r : MethodReq) : Bool := match r.src with | .lane g k _ => g == gi && k < 33 | .peer _ => false
  let row (b : WBin) : Bool := b.rows.any fun r => r.grp == gi && r.slot != nobody
  let busy := s.atomics.any (fun a => a.grp == some gi && a.slot < 33) || s.methods.any req ||
    s.objects.any (fun o => o.pending.any req || match o.running with | some (_, b) => b.any req | none => false) ||
    s.whorls.any (fun w => w.queue.any row || w.bins.any row || w.tiles.any row) ||
    s.cores.any fun c => c.tileQ.any fun q => q.any fun o => o.grp == gi && match o.kind with | .drain (some _) .. => true | _ => false
  match s.groups[gi]? with
  | some g => .next (if g.status == .exited && (!busy || s.doomed g) then
      ((s.releaseLanes gi (BitVec.allOnes 256)).modGroup gi fun g => { g with status := .gone, board := Vector.replicate 32 none, block := none }).settle
      else s)
  | none => .next s

/-- Nothing of a launch is on its way any more (R60). -/
def State.launchQuiet (s : State) (li : Nat) : Bool :=
  (List.range s.groups.length).all (fun gi => match s.groups[gi]? with
    | some g => g.launch != li || (!g.living && !s.outstanding gi)
    | none => true) &&
    s.cores.all fun c => c.tileQ.all fun q => q.all fun o => match s.teams[o.team]? with | some t => t.launch != li | none => true

/-- LAUNCH_COMPLETE (R59, R60): the record is written, and a graph's node and its successors go on. -/
def execLaunchComplete (li : Nat) (s : State) : Host.Outcome State Fault Refusal :=
  match s.launches[li]? with
  | none => .next s
  | some l =>
    let ended := if l.cancelled then !(s.teams.any fun t => t.live && t.launch == li) else l.left == 0
    if l.complete || !l.live || !ended || !s.launchQuiet li then .next s
    else
      match s.writeRecord l.job l.record l.status l.doneTeams with
      | none => .next s
      | some s =>
        let s := s.modLaunch li fun l => { l with complete := true, live := false }
        let s := match l.graph with
          | some (g, n) => (s.nodeEnd g n []).startNodes g
          | none => s
        .next ((List.range 64).foldl State.settleSlot s.settle)

/-- The resize is done, and the team's barrier receives an arrival. -/
def State.arriveCarve (s : State) (ti : Nat) : State :=
  match s.teams[ti]? with
  | none => s
  | some t =>
    match t.carve with
    | none => s
    | some (nb, n, base) =>
      let sec := (s.core t.core).secure
      let s := if n > t.scrLen then s.passTo t.core t.job sec ((List.range (n - t.scrLen)).map (base + t.scrLen + ·))
        else if sec then s.grantGranules t.core (base + n) (t.scrLen - n) true else s
      (s.modTeam ti fun t => { t with scrBase := base, scrLen := n, carve := none }).teamArrive ti nb

/-- A tile operation that reads or writes scratchpad (R334, R338, R340). -/
def TileKind.scratch : TileKind → Bool
  | .mma _ ga _ _ _ _ _ => !ga
  | .drain d _ _ rs cs _ _ => d.isNone || rs || cs
  | .fill vals _ _ _ => vals.isNone
  | .zero => false
  | .layer => false

/-- Scratchpad accesses of a team, issued before its CARVE, that have not completed (R227). -/
def State.scratchBusy (s : State) (ti : Nat) (t : Team) : Bool :=
  let fence (e : SqEntry) : Bool := match e.kind with | .fence _ _ => true | _ => false
  (s.core t.core).sq.any (fun q => q.any fun e => e.team == ti && e.issued < t.carveAt && !fence e) ||
    (s.core t.core).tileQ.any fun q => q.any fun o => o.team == ti && o.issued < t.carveAt && o.kind.scratch

/-- CARVE_ARRIVAL (R227): growth arrives once the granules are clean; a shrink waits for the team's earlier scratchpad accesses. -/
def execCarveArrival (ti : Nat) (s : State) : Host.Outcome State Fault Refusal :=
  .next (match s.teams[ti]? with
    | some t =>
      let shrinks := match t.carve with | some (_, n, _) => n < t.scrLen | none => false
      if t.live && !t.saved && !(shrinks && s.scratchBusy ti t) then s.arriveCarve ti else s
    | none => s)

end Sys2Proof.Machine
end

