-- ==== Sys2Proof/Machine/Waking.lean ====
section
/-! DEFINITION. What ends a group's wait: operand-buffer slots, barriers, XCHG, returning results and traps that waited (R72, R149,
R223, R225, R253, R457). -/

namespace Sys2Proof.Machine

/-- The group's team is being pre-empted and the group is not in its handler: its waits are stop points (R469). -/
def State.stopping (s : State) (g : Group) : Bool := s.preempting g && !g.handler

/-- Changes a group that exists. -/
def onGroup (gi : Nat) (s : State) (f : Group → State) : Host.Outcome State Fault Refusal :=
  .next (match s.groups[gi]? with | some g => f g | none => s)

/-! ## Operand-buffer slots (R43, R72) -/

/-- Slots of a partition that ordinary groups may hold: 15, less the one kept for a pass's oldest group (R18, R386). -/
def State.bufferLimit (s : State) (core : Nat) : Nat := if s.passOn core then 14 else 15

/-- Groups of a partition, the combiner apart, of which something holds. -/
def State.inPart (s : State) (core part : Nat) (f : Group → Bool) : List (Nat × Group) :=
  s.groups.zipIdx.filterMap fun p => if p.1.core == core && p.1.part == part && p.1.kind != .combiner && f p.1 then some (p.2, p.1) else none

/-- A group that waits for an operand-buffer slot. -/
def State.wantsSlot (s : State) (g : Group) : Bool := g.status == .slotWait && !g.hasSlot && !s.stopping g

/-- The group that has waited longest. -/
def longest : List (Nat × Group) → Option (Nat × Group)
  | [] => none
  | p :: l => match longest l with | some q => if p.2.since ≤ q.2.since then some p else some q | none => some p

/-- The oldest graphics group of a partition that waits takes the slot kept for it (R386). -/
def oldestGfx (l : List (Nat × Group)) : Option Nat :=
  let gfx := l.filterMap fun p => if p.2.kind == .resolve then none else p.2.gfx.map fun x => (p.1, x.pass, 2 * x.age + (p.2.kind == .sample).toNat)
  let better (a b : Nat × Nat × Nat) : Bool := a.2.1 < b.2.1 || (a.2.1 == b.2.1 && a.2.2 ≤ b.2.2)
  (gfx.find? fun a => gfx.all fun b => better a b).map (·.1)

/-- OPERAND_SLOT_GRANT (R72): in the order of waiting; where every slot is held, the holder that has waited longest at a BAR gives
its slot up. -/
def execOperandSlotGrant (gi : Nat) (s : State) : Host.Outcome State Fault Refusal :=
  onGroup gi s fun g =>
    if !s.wantsSlot g then s
    else
      let waiting := s.inPart g.core g.part s.wantsSlot
      let held := s.inPart g.core g.part (·.hasSlot)
      let oldest := g.gfx.isSome && oldestGfx waiting == some gi
      let ordinary := waiting.filter fun p => !(s.passOn g.core && oldestGfx waiting == some p.1)
      let turn := oldest || (match longest ordinary with | some p => p.1 == gi | none => false)
      if !turn then s
      else if held.length < (if oldest then 15 else s.bufferLimit g.core) then s.setGroup gi { g with hasSlot := true, status := .running }
      else
        match longest (held.filter fun p => match p.2.status with | .barWait _ _ => true | _ => false) with
        | some (k, h) => s.setGroup k { h with ctx := h.ctx.surrender, hasSlot := false }
        | none => s

/-! ## Barriers and exchange (R223, R225, R253) -/

/-- A group goes on at an address: it runs when it holds its slot, and waits for one otherwise. -/
def goAt (g : Group) (pc : DWord) (since : Nat) : Group :=
  { g with ctx := { g.ctx.clearLatches with pc := pc }, status := if g.hasSlot then .running else .slotWait, since := if g.hasSlot then g.since else since }

/-- BARRIER_WAIT_RETURN (R223). -/
def execBarrierWaitReturn (gi : Nat) (s : State) : Host.Outcome State Fault Refusal :=
  onGroup gi s fun g =>
    match g.status with
    | .barWait nb next =>
      if s.stopping g || !s.phaseReady g nb then s
      else ({ s.consumePhase gi nb with free := s.free + 1 } : State).modGroup gi fun g => goAt g next s.free
    | _ => s

/-- YIELD_WAKE (R225). -/
def execYieldWake (gi : Nat) (s : State) : Host.Outcome State Fault Refusal :=
  onGroup gi s fun g =>
    match g.status with
    | .yielded nb target =>
      if s.stopping g || !s.phaseReady g nb then s
      else ({ s.consumePhase gi nb with free := s.free + 1 } : State).modGroup gi fun g => goAt g target s.free
    | _ => s

/-- The last-use frees of an XCHG. -/
def xchgFrees : Option Pend → BitVec 16 × Option Word
  | some p => match p.i with | .xchg x => ((⟨x.a, false⟩ : Src).frees, x.sp) | _ => (0, none)
  | none => (0, none)

/-- A group whose XCHG has paired receives its partner's values (R253). -/
def State.exchanged (s : State) (g : Group) (d : Nat) (next : DWord) (vals : Lanes) : Group :=
  let (fr, sp) := xchgFrees g.block
  let m := match g.block with | some p => p.lanes | none => 0
  ({ g with
    ctx := { (g.ctx.free fr).writeEntry d m (fun t => vals.at t) with pc := next }
    block := none
    xchg := none
    status := .running } : Group).goOn (s.preempting g) sp

/-- XCHG_PAIRING (R253): the two name each other. -/
def execXchgPairing (gi hi : Nat) (s : State) : Host.Outcome State Fault Refusal :=
  .next (match s.groups[gi]?, s.groups[hi]? with
    | some g, some h =>
      match g.status, h.status, g.xchg, h.xchg with
      | .xchgWait ng, .xchgWait nh, some (dg, pg, vg), some (dh, ph, vh) =>
        if s.partner g pg == some hi && s.partner h ph == some gi && gi != hi && !s.stopping g && !s.stopping h then
          (s.setGroup gi (s.exchanged g dg ng vh)).setGroup hi (s.exchanged h dh nh vg)
        else s
      | _, _, _, _ => s
    | _, _ => s)

/-! ## Results and traps (R149, R454, R457) -/

/-- A request of lanes that were performed before their instruction's trap (R461). -/
def Pend.ofFirst (p : Pend) : Bool :=
  match p.i with
  | .atom .. | .red .. | .callm .. | .postm .. => p.dest == .none
  | _ => false

def Pend.ofTask (p : Pend) : Bool := match p.i with | .tkdone .. => true | _ => false

/-- A TKDONE whose decrement has returned goes on with its value (R251), and an instruction of which some lanes have been performed is
executed again with those done (R461). -/
def Group.withReplies (g : Group) (p : Pend) : Group :=
  if p.ofTask || p.ofFirst then
    { g with ctx := { g.ctx with pc := p.pc }
             retry := some ⟨p.pc, maskOf (p.vals.map fun v => v.1), p.vals.map fun v => (v.1, BitVec.ofNat 128 (numOf v.2))⟩ }
  else g

/-- The request for which a group is blocked has settled. A lane performed before its instruction's trap that meets a deferred cause is not
done, and meets it again at the retry (R454). -/
def State.unblock (s : State) (gi : Nat) (g : Group) (p : Pend) (sp : Option Word) : State :=
  match if p.ofFirst then none else deferredTrap p with
  | some t => takeTrap (s.setGroup gi { g with status := .running, block := none }) gi t g.ctx.pc [] (some p)
  | none =>
    let s := s.setGroup gi ((({ g with ctx := g.ctx.deliver p, block := none } : Group).withReplies p).goOn (s.preempting g) sp)
    match p.acquired with | some m => s.acquire g.core m | none => s

/-- SPLIT_PHASE_RESULT (R149): a result lands; number 32 is the request for which the group is blocked. -/
def execSplitPhaseResult (gi k : Nat) (s : State) : Host.Outcome State Fault Refusal :=
  onGroup gi s fun g =>
    if !g.living then s
    else if k < 32 then s.land gi k
    else
      match g.status, g.block with
      | .blocked sp, some p => if p.settled then s.unblock gi g p sp else s
      | _, _ => s

/-- TRAP_ENTRY (R457): the scoreboard slots that the trap waited for have cleared. -/
def execTrapEntry (gi : Nat) (s : State) : Host.Outcome State Fault Refusal := .next (resumeTrap s gi)

/-- A page has become resident, or has been refused: groups parked on it go on, in the order of R72 (R240, R377). -/
def State.unpark (s : State) (job page : Nat) (refused : Bool) : State :=
  { s with
    free := s.free + 1
    groups := s.groups.map fun g =>
      match g.status with
      | .parked va => if g.job == job && pageOf va == page then
          { g with status := if g.hasSlot then .running else .slotWait, since := s.free, absent := if refused then some page else none } else g
      | _ => g }

end Sys2Proof.Machine
end

