-- ==== Sys2Proof/Machine/Pass.lean ====
section
/-! DEFINITION. Render passes: the pass state block, tile memory's start, PASS packets, and the dicer (R350 to R363). -/

namespace Sys2Proof.Machine

/-! ## The pass state block (R350, R351, R388, R392) -/

/-- A 512-byte block's fields and the kernels it names. -/
structure BlockRead where
  b : PassBlock
  table : DWord
  grid : DWord
  sample : DWord
  resolve : DWord

/-- Bytes of the block that must be 0 (R350, R388, R392): offset and count. -/
def blockReserved : List (Nat × Nat) := [(10, 6), (22, 2), (49, 15), (220, 4), (285, 3), (346, 166)]

def blockOf (v : Nat) : BlockRead :=
  let f (off n : Nat) : Nat := recField v off n
  let a (off : Nat) : DWord := BitVec.ofNat 64 (f off 8)
  { b := { immediate := f 0 1 == 1, logS := f 1 1, motion := (f 3 1).testBit 0, defocus := (f 3 1).testBit 1, persistent := (f 3 1).testBit 2,
           width := f 4 2, height := f 6 2, budget := f 8 1, depthFn := f 9 1, merge := f 16 8, rayScale := BitVec.ofNat 32 (f 24 4),
           rayBias := BitVec.ofNat 32 (f 28 4), pool := a 32, poolPages := f 40 4, nodeLimit := f 44 4, tilePages := f 48 1,
           view := (List.range 16).map fun i => a (64 + 8 * i), origin := (List.range 3).map fun i => a (192 + 8 * i),
           clearDepth := BitVec.ofNat 32 (f 216 4), clearColour := a 224, args := a 264, colourAt := a 272, pitch := f 280 4,
           colourFmt := f 284 1, depthAt := a 288, spill := a 296, bin := a 304, binBytes := f 312 8, plane := a 320, statusAt := a 328,
           privBase := a 336, privZ := f 344 1, areaLog := f 345 1 }
    table := a 232, grid := a 240, sample := a 248, resolve := a 256 }

/-- The block's own fields: a reason of R513, 0 where they are in range. -/
def blockFault (v : Nat) : Nat :=
  let f (off n : Nat) : Nat := recField v off n
  let r := blockOf v
  let b := r.b
  let pages := if b.immediate then b.poolPages else b.tilePages
  if blockReserved.any (fun p => f p.1 p.2 != 0) || f 3 1 ≥ 8 then 3
  else if f 0 1 > 1 || !([0, 2, 3, 4].contains b.logS) || f 2 1 != 0 || b.width == 0 || b.width > 16384 || b.height == 0 || b.height > 16384 ||
      b.budget == 0 || b.budget > 16 || b.depthFn > 2 || (List.range 4).any (fun i => f (16 + i) 1 > 5) || f 20 1 > 1 || f 21 1 > 2 ||
      b.pool.toNat % 4096 != 0 || b.nodeLimit > 128 * pages ||
      (if b.immediate then b.poolPages == 0 || b.poolPages > 131071 || b.tilePages != 0 else b.pool != 0 || b.poolPages != 0) ||
      b.colourFmt > 2 || b.binBytes % 16 != 0 || b.plane.toNat % 128 != 0 || b.statusAt.toNat % 8 != 0 || r.grid == 0 ||
      (!b.immediate && b.tileBytes > 32 * 65536) || b.privBase == 0 || b.privBase.toNat % 65536 != 0 || b.privZ < 16 || b.privZ > 40 ||
      b.areaLog < 4 || b.areaLog > 20 then 4
  else 0

/-- A kernel the block names (R351): none where it breaks R87 or may not be named. -/
def State.passKernel (s : State) (job : Nat) (b : PassBlock) (sample : Bool) (desc : DWord) : Dev (Option Kernel) :=
  (s.devRead job desc 64).bind fun v =>
    match kernelOfRecord desc v with
    | none => .ok none
    | some (k, _, _) =>
      if k.twin || k.task || (sample && k.regs < 16) || 2 ^ b.privZ < areaFootprint k.priv k.acc then .ok none
      else (s.devRead job k.entryTable 8).bind fun e => .ok (some { k with entry := BitVec.ofNat 64 e })

/-- A kernel that may be absent. -/
def State.passKernelOpt (s : State) (job : Nat) (b : PassBlock) (sample : Bool) (desc : DWord) : Dev (Option (Option Kernel)) :=
  if desc == 0 then .ok (some none) else (s.passKernel job b sample desc).bind fun k => .ok (k.map some)

/-- A signed byte of the pattern, −128 read as −127 (R352). -/
def lensByte (v : Nat) : Int := if v ≥ 128 then max ((v : Int) - 256) (-127) else v

/-- The pattern's entries: ox, oy, tt, lu, lv, as the pass uses them (R352). -/
def patternOf (b : PassBlock) (bs : List (BitVec 8)) : List (List Int) :=
  (List.range (16 * b.S)).map fun i =>
    let at_ (k : Nat) : Nat := (bs.getD (8 * i + k) 0).toNat
    [(at_ 0 : Int), at_ 1, if b.motion then at_ 2 else 0, if b.defocus then lensByte (at_ 3) else 0, if b.defocus then lensByte (at_ 4) else 0]

/-! ## Tile memory at its start (R356) -/

def PassBlock.tiles (b : PassBlock) : Nat := b.tilesX * b.tilesY

/-- The bytes of the planes at their start: colour, depth and empty heads. -/
def startPlanes (b : PassBlock) : List (List (BitVec 8)) :=
  let rep (n : Nat) (l : List (BitVec 8)) : List (List (BitVec 8)) := List.replicate n l
  rep (4096 * b.S) (leBytes 8 b.clearColour.toNat) ++ rep (4096 * b.S) (leBytes 4 b.clearDepth.toNat) ++ rep (4096 * b.S) (leBytes 8 noNode)

/-- Writes pieces of bytes one after another. -/
def State.writePieces (s : State) (job : Nat) (va : DWord) : List (List (BitVec 8)) → Dev State
  | [] => .ok s
  | p :: l => (s.devWrite job va p).bind fun s => s.writePieces job (va + BitVec.ofNat 64 p.length) l

/-- Where a tile's memory lies while no core holds it. -/
def PassBlock.tileAt (b : PassBlock) (tile : Nat) : DWord :=
  if b.immediate then b.plane + BitVec.ofNat 64 (tile * 81920 * b.S) else b.spill + BitVec.ofNat 64 (tile * b.tileBytes)

/-- Initialises every tile memory. -/
def State.startTiles (s : State) (job : Nat) (b : PassBlock) : Nat → Dev State
  | 0 => .ok s
  | n + 1 => (s.startTiles job b n).bind fun s => s.writePieces job (b.tileAt n) (startPlanes b)

/-! ## PASS (R351, R357) -/

/-- PASS begin's work: the new pass, or a reason to stop the queue. -/
def State.openPassFrom (s : State) (sl job queue : Nat) (mask : BitVec 64) (va : DWord) : Dev (Except Nat State) :=
  if va.toNat % 64 != 0 then .ok (.error 4)
  else
    (s.readRun job 3 va 512).bind fun bs =>
      let v := leNat bs
      let r := blockOf v
      if blockFault v != 0 then .ok (.error (blockFault v))
      else
        (s.readRun job 3 r.table (128 * r.b.S)).bind fun pat =>
          (s.passKernel job r.b false r.grid).bind fun g => (s.passKernelOpt job r.b true r.sample).bind fun k =>
            (s.passKernelOpt job r.b false r.resolve).bind fun q =>
              match g, k, q with
              | some g, some k, some q =>
                (s.startTiles job r.b r.b.tiles).bind fun s =>
                  .ok (.ok { s with passes := s.passes ++ [({
                    live := true, job := job, queue := queue, slot := sl, mask := mask, block := r.b, pattern := patternOf r.b pat, gridKernel := g,
                    sampleKernel := k, resolveKernel := q, stage := .draw, sub := 0, resolveFail := false, guard := false, seqwrap := false,
                    binflush := false, poolEmpty := false, gridSeq := 0, binUsed := 0, flushing := false, patches := [], diced := [], grids := [],
                    used := [], reserved := [], toLists := [], opened := [], closed := [], tiles := [] } : Pass)] })
              | _, _, _ => .ok (.error 4)

/-- PASS_BEGIN (R351). -/
def execPassBegin (sl : Nat) (va : DWord) (s : State) :=
  runPacket sl s fun s x _ =>
    if !s.queueDone sl then s
    else
      match s.openPassFrom sl x.job x.queue x.mask va with
      | .wait => s
      | .fail _ _ => s.stopQueue sl 12
      | .ok (.error r) => s.stopQueue sl r
      | .ok (.ok t) => (t.modQueue x.queue fun q => { q with pass := some s.passes.length }).packetDone sl id

/-- A graphics group of the pass that has not ended. -/
def State.passGroups (s : State) (ps : Nat) : Bool := s.groups.any fun g => g.living && match g.gfx with | some x => x.pass == ps | none => false

/-- Every numbered grid of the pass has been sampled and every fragment has retired. -/
def State.drained (s : State) (ps : Nat) (p : Pass) : Bool :=
  p.grids.all (·.sampled) && p.reserved.isEmpty && p.toLists.isEmpty && p.opened.isEmpty && p.closed.isEmpty && !s.passGroups ps &&
    p.tiles.all fun t => t.team.isNone

/-- Everything of the sub-pass has been drawn. -/
def State.subDone (s : State) (ps : Nat) (p : Pass) : Bool := p.patches.isEmpty && p.diced.isEmpty && s.drained ps p

/-- PASS_NEXT (R356, R357). A pass that a cancel has ended has nothing left to do (log 24). -/
def execPassNext (sl : Nat) (s : State) :=
  runPacket sl s fun s x _ =>
    match (s.openPass sl).bind fun ps => (s.passes[ps]?).map fun p => (ps, p) with
    | none => s
    | some (ps, p) =>
      if !s.queueDone sl then s
      else if !p.live then s.packetDone sl id
      else if p.stage != .next then s.modPass ps fun p => { p with stage := .next }
      else if !s.subDone ps p then s
      else
        let go (s : State) : State :=
          (s.modPass ps fun p => { p with
            stage := .draw, sub := p.sub + 1, gridSeq := 0, binUsed := 0, grids := [], tiles := []
            used := if p.block.persistent then p.used else [] }).packetDone sl id
        if p.block.persistent then go s
        else
          match s.startTiles x.job p.block p.block.tiles with
          | .ok s => go s
          | .fail _ _ => s.stopQueue sl 12
          | .wait => s

/-- Every tile of the pass is resolved (R378). -/
def Pass.resolvedAll (p : Pass) : Bool := (List.range p.block.tiles).all fun t => p.tiles.any fun x => x.tile == t && x.resolved

/-- PASS_END (R357, R378): the resolve, then the status word. -/
def execPassEnd (sl : Nat) (s : State) :=
  runPacket sl s fun s x _ =>
    match (s.openPass sl).bind fun ps => (s.passes[ps]?).map fun p => (ps, p) with
    | none => s
    | some (ps, p) =>
      if !s.queueDone sl then s
      else if !p.live then (s.modQueue x.queue fun q => { q with pass := none }).packetDone sl id
      else if p.stage != .finish then s.modPass ps fun p => { p with stage := .finish }
      else if !s.subDone ps p || !p.resolvedAll then s
      else
        let done (s : State) : State :=
          ((s.modPass ps fun p => { p with live := false }).modQueue x.queue fun q => { q with pass := none }).packetDone sl id
        if p.block.statusAt == 0 then done s
        else
          match s.devWrite x.job p.block.statusAt (leBytes 8 p.status) with
          | .ok s => done s
          | .fail _ _ => done s
          | .wait => s

/-! ## The order of patches (R361) -/

/-- A group's place among the groups of its team: spawned groups follow the numbered ones, in SPAWN order. -/
def Group.place361 (g : Group) : Nat := if g.kind == .spawned then 256 + g.spawnSeq else g.number

/-- A patch's place: launch, team index and group. -/
def State.patchPlace (s : State) (p : Patch) : Nat × Nat × Nat :=
  (p.launch, (match s.teams[p.team]? with | some t => t.index | none => 0), match s.groups[p.grp]? with | some g => g.place361 | none => 0)

def placeLt (a b : Nat × Nat × Nat) : Bool := a.1 < b.1 || (a.1 == b.1 && (a.2.1 < b.2.1 || (a.2.1 == b.2.1 && a.2.2 < b.2.2)))

/-- The earliest patch: the first of a least place. -/
def State.firstPatch (s : State) (p : Pass) : Option Patch :=
  p.patches.find? fun a => p.patches.all fun b => !placeLt (s.patchPlace b) (s.patchPlace a)

/-- A group that could still submit an earlier patch, or a team that has not been admitted. -/
def State.earlierOpen (s : State) (ps : Nat) (x : Patch) : Bool :=
  let at_ := s.patchPlace x
  (s.launches.zipIdx.any fun l => l.1.pass == some ps && l.1.live && !l.1.cancelled &&
      (l.2 < at_.1 || l.2 == at_.1) && l.1.admitted < l.1.dx * l.1.dy * l.1.dz && (l.2 < at_.1 || l.1.admitted ≤ at_.2.1)) ||
    s.groups.any fun g => g.living && g.gfx.isNone && (match s.launches[g.launch]? with | some l => l.pass == some ps | none => false) &&
      placeLt (g.launch, (match s.teams[g.team]? with | some t => t.index | none => 0), g.place361) at_

/-! ## The dicer (R362, R363) -/

/-- A patch being diced: corners P00, P10, P01, P11 as binary64, and its place in the root's parameter square. -/
structure Piece where
  corners : List DWord
  ku : Nat
  au : Nat
  kv : Nat
  av : Nat

/-- A projected corner: w, screen x and y (R362). -/
structure Corner where
  w : Num
  x : Nat
  y : Nat

def b64 (x : Nat) : Num := Fmt.b64.num x

/-- One component of the product. -/
def projRow (b : PassBlock) (k : Nat) (d : List Nat) : Nat :=
  let m (i : Nat) : Nat := (b.view.getD (4 * k + i) 0).toNat
  let t (i : Nat) : Nat := mulF .b64 (m i) (d.getD i 0)
  addF .b64 (addF .b64 (addF .b64 (t 0) (t 1)) (t 2)) (m 3)

/-- Projects a corner. -/
def project (b : PassBlock) (c : List DWord) : Corner :=
  let d := (List.range 3).map fun i => subF .b64 (c.getD i 0).toNat (b.origin.getD i 0).toNat
  let w := projRow b 3 d
  let one := rne .b64 (Num.ofInt 1)
  let half (v : Nat) (size : Nat) : Nat := divF .b64 (mulF .b64 v (rne .b64 (Num.ofInt size))) (rne .b64 (Num.ofInt 2))
  { w := b64 w
    x := half (addF .b64 (divF .b64 (projRow b 0 d) w) one) b.width
    y := half (subF .b64 one (divF .b64 (projRow b 1 d) w)) b.height }

def Piece.corner (p : Piece) (i : Nat) : List DWord := (p.corners.drop (3 * i)).take 3
def midOf (a b : List DWord) : List DWord :=
  (a.zip b).map fun p => BitVec.ofNat 64 (mulF .b64 (addF .b64 p.1.toNat p.2.toNat) (rne .b64 (.fin false 1 (-1))))

/-- The children of a split, the lower first. -/
def Piece.split (p : Piece) (alongU : Bool) : Piece × Piece :=
  let (c0, c1, c2, c3) := (p.corner 0, p.corner 1, p.corner 2, p.corner 3)
  if alongU then
    let (a, b) := (midOf c0 c1, midOf c2 c3)
    (⟨c0 ++ a ++ c2 ++ b, 2 * p.ku, p.au + 1, p.kv, p.av⟩, ⟨a ++ c1 ++ b ++ c3, 2 * p.ku + 1, p.au + 1, p.kv, p.av⟩)
  else
    let (a, b) := (midOf c0 c2, midOf c1 c3)
    (⟨c0 ++ c1 ++ a ++ b, p.ku, p.au, 2 * p.kv, p.av + 1⟩, ⟨a ++ b ++ c2 ++ c3, p.ku, p.au, 2 * p.kv + 1, p.av + 1⟩)

/-- The least and greatest of numbers. -/
def numMin : List Num → Num
  | [] => .fin false 0 0
  | [x] => x
  | x :: l => if x.le (numMin l) then x else numMin l
def numMax : List Num → Num
  | [] => .fin false 0 0
  | [x] => x
  | x :: l => if (numMax l).le x then x else numMax l

/-- The screen bound widened by the margin: least and greatest x, least and greatest y, exactly. -/
def boundOf (cs : List Corner) (margin : Num) : Num × Num × Num × Num :=
  let xs := cs.map fun c => b64 c.x
  let ys := cs.map fun c => b64 c.y
  ((numMin xs).sub margin, (numMax xs).add margin, (numMin ys).sub margin, (numMax ys).add margin)

/-- The bound lies wholly outside the screen. -/
def outside (b : PassBlock) (d : Num × Num × Num × Num) : Bool :=
  let zero := Num.ofInt 0
  d.2.1.lt zero || d.2.2.2.lt zero || (Num.ofInt b.width).lt d.1 || (Num.ofInt b.height).lt d.2.2.1

/-- The Euclidean distance of two corners, each step rounded. -/
def screenDist (a b : Corner) : Nat :=
  let dx := subF .b64 b.x a.x
  let dy := subF .b64 b.y a.y
  sqrtNum .b64 (b64 (addF .b64 (mulF .b64 dx dx) (mulF .b64 dy dy)))

/-- The greater of two lengths; a NaN stays. -/
def longer (a b : Nat) : Nat := if (b64 a).isNan then a else if (b64 b).isNan then b else if (b64 a).lt (b64 b) then b else a

/-- A grid as the dicer makes it: its counts, place and bound. -/
structure Diced where
  piece : Piece
  nu : Nat
  nv : Nat
  bound : Num × Num × Num × Num

/-- Dices a piece (R362, R363); `n` levels are left. -/
def dice (b : PassBlock) (rate margin : Num) : Nat → Piece → List Diced
  | n, p =>
    let cs := (List.range 4).map fun i => project b (p.corner i)
    let zero := Num.ofInt 0
    let depth := 8 - n
    if cs.any (fun c => c.w.isNan) || cs.all (fun c => c.w.le zero) then []
    else if cs.any fun c => c.w.le zero then
      match n with
      | 0 => []
      | m + 1 => let (a, c) := p.split (depth % 2 == 0); dice b rate margin m a ++ dice b rate margin m c
    else if cs.any fun c => !(b64 c.x).isFinite || !(b64 c.y).isFinite then []
    else
      let bound := boundOf cs margin
      if outside b bound then []
      else
        match cs with
        | [c00, c10, c01, c11] =>
          let lu := longer (screenDist c00 c10) (screenDist c01 c11)
          let lv := longer (screenDist c00 c01) (screenDist c10 c11)
          if !(b64 lu).isFinite || !(b64 lv).isFinite then []
          else
            let count (l : Nat) : Nat := max 1 (b64 (divF .b64 l (rne .b64 rate))).ceil.toNat
            let (nu, nv) := (count lu, count lv)
            if nu ≤ 15 && nv ≤ 15 then [⟨p, nu, nv, bound⟩]
            else
              match n with
              | 0 => [⟨p, min nu 15, min nv 15, bound⟩]
              | m + 1 => let (a, c) := p.split (nu ≥ nv); dice b rate margin m a ++ dice b rate margin m c
        | _ => []

/-- Tiles a bound overlaps, in ascending order (R361). -/
def overlapped (b : PassBlock) (d : Num × Num × Num × Num) : List Nat :=
  let clampTo (v : Int) (n : Nat) : Nat := (min (max v 0) (n : Int)).toNat
  let (x0, x1) := (clampTo (d.1.floor / 64) b.tilesX, clampTo (d.2.1.floor / 64 + 1) b.tilesX)
  let (y0, y1) := (clampTo (d.2.2.1.floor / 64) b.tilesY, clampTo (d.2.2.2.floor / 64 + 1) b.tilesY)
  (List.range (y1 - y0)).flatMap fun j => (List.range (x1 - x0)).map fun i => (y0 + j) * b.tilesX + x0 + i

/-- The core that processes a tile (R354). -/
def coreOfTile (mask : BitVec 64) (tile : Nat) : Nat :=
  let cs := (List.range 64).filter fun c => mask.getLsbD c
  cs.getD (tile % max 1 cs.length) 0

/-- The entries of a diced grid. Until it is numbered, `seq` is 0 in its first entry and 1 in the others; a grid that no tile sees has
one entry of the tile `noTeam`. -/
def gridEntries (p : Pass) (x : Patch) (g : Diced) : List Grid :=
  let span (a n : Nat) : Word := BitVec.ofNat 32 (divNum .b32 (.fin false 1 (-(a : Int))) (Num.ofInt n))
  let start (k a : Nat) : Word := BitVec.ofNat 32 (rne .b32 (.fin false k (-(a : Int))))
  let one (tile first : Nat) : Grid :=
    { core := if p.block.immediate then x.core else coreOfTile p.mask tile, launch := x.launch, tile := tile, seq := first, addr := x.addr,
      user := x.user, nu := g.nu, nv := g.nv, u0 := start g.piece.ku g.piece.au, du := span g.piece.au g.nu,
      v0 := start g.piece.kv g.piece.av, dv := span g.piece.av g.nv, grp := none, verts := none, next := 0, sampled := false }
  if p.block.immediate then [one 0 0]
  else match overlapped p.block g.bound with
    | [] => [one noTeam 0]
    | t :: l => one t 0 :: l.map fun t => one t 1

/-- The entries of a patch. -/
def dicePatch (p : Pass) (x : Patch) : List Grid :=
  (dice p.block (Fmt.b32.num x.rate.toNat) (Fmt.b32.num x.margin.toNat) 8 ⟨x.corners, 0, 0, 0, 0⟩).flatMap (gridEntries p x)

/-- Numbers and bins entries from the front, while numbers and bin entries last (R361). -/
def numberGrids (p : Pass) : List Grid → Pass
  | [] => { p with diced := [] }
  | g :: l =>
    let first := g.seq == 0
    if first && p.gridSeq ≥ 2 ^ 24 then { p with diced := g :: l }
    else if !p.block.immediate && g.tile != noTeam && p.binUsed ≥ p.block.binBytes / 16 then { p with diced := g :: l }
    else
      let n := if first then p.gridSeq else p.gridSeq - 1
      let p := { p with gridSeq := if first then p.gridSeq + 1 else p.gridSeq }
      if !p.block.immediate && g.tile == noTeam then numberGrids p l
      else numberGrids { p with grids := p.grids ++ [{ g with seq := n }], binUsed := if p.block.immediate then 0 else p.binUsed + 1 } l

/-- PATCH_DICE (R361, R363): the core's dicer numbers what it has diced, and then dices the earliest patch once no earlier one can
come. -/
def execPatchDice (core : Nat) (s : State) : Host.Outcome State Fault Refusal :=
  let ready (p : Pass) (ps : Nat) : Option Patch :=
    if !p.live || !p.diced.isEmpty then none
    else (s.firstPatch p).bind fun x => if x.core == core && !s.earlierOpen ps x then some x else none
  match s.passes.zipIdx.findSome? fun p => (ready p.1 p.2).map fun x => (p.2, p.1, x) with
  | none => .next s
  | some (ps, p, x) =>
    .next (s.modPass ps fun q => numberGrids { q with patches := q.patches.eraseP (· == x) } (dicePatch p x))

/-- The dicer waits for the sequence to restart, or for the bin area (R361). -/
def Pass.wrapDue (p : Pass) : Bool := p.gridSeq ≥ 2 ^ 24 && match p.diced with | g :: _ => g.seq == 0 | [] => false
def Pass.binDue (p : Pass) : Bool := !p.diced.isEmpty && !p.wrapDue

/-- SEQUENCE_WRAP (R361): in TILED mode the binned tiles are processed first. -/
def execSequenceWrap (ps : Nat) (s : State) : Host.Outcome State Fault Refusal :=
  match s.passes[ps]? with
  | none => .next s
  | some p =>
    if !p.live || !p.wrapDue then .next s
    else if !s.drained ps p then .next (s.modPass ps fun p => { p with flushing := !p.block.immediate })
    else .next (s.modPass ps fun p => numberGrids { p with gridSeq := 0, seqwrap := true, flushing := false, grids := [], binUsed := 0, tiles := [] } p.diced)

/-- BIN_FLUSH (R361). -/
def execBinFlush (ps : Nat) (s : State) : Host.Outcome State Fault Refusal :=
  match s.passes[ps]? with
  | none => .next s
  | some p =>
    if !p.live || !p.binDue then .next s
    else if !s.drained ps p then .next (s.modPass ps fun p => { p with flushing := true })
    else .next (s.modPass ps fun p => numberGrids { p with binflush := true, flushing := false, grids := [], binUsed := 0, tiles := [] } p.diced)

end Sys2Proof.Machine
end

