-- ==== Sys2Proof/Machine/Render.lean ====
section
/-! DEFINITION. Graphics groups, the sampler and the resolve (R354, R355, R364 to R369, R378 to R382, R391, R479, R480). -/

namespace Sys2Proof.Machine

/-! ## Tile teams (R354, R356, R480) -/

/-- A tile of the pass still has work on its core. -/
def State.tileWork (s : State) (ps : Nat) (p : Pass) (tile : Nat) : Bool :=
  p.grids.any (fun g => g.tile == tile && !g.sampled) || p.reserved.any (fun r => r.1 == tile) || p.toLists.any (fun f => f.tile == tile) ||
    p.opened.any (fun f => f.tile == tile) || p.closed.any (fun l => l.any fun f => f.tile == tile) ||
    s.groups.any (fun g => g.living && match g.gfx with | some x => x.pass == ps && x.tile == tile | none => false) ||
    (p.stage == .finish && !p.flushing && p.patches.isEmpty && p.diced.isEmpty && !(p.tiles.any fun t => t.tile == tile && t.resolved))

/-- Binned grids are processed now: at PASS next and end, and in a flush. -/
def Pass.processing (p : Pass) : Bool := !p.block.immediate && (p.stage != .draw || p.flushing)

/-- The tile a core holds for the pass, with its team. -/
def State.heldTile (s : State) (p : Pass) (core : Nat) : Option (Nat × Nat) :=
  p.tiles.findSome? fun t => t.team.bind fun k => (s.teams[k]?).bind fun x => if x.core == core then some (t.tile, k) else none

/-- The lowest tile of a core that has work. -/
def State.nextTile (s : State) (ps : Nat) (p : Pass) (core : Nat) : Option Nat :=
  (List.range p.block.tiles).find? fun t => coreOfTile p.mask t == core && s.tileWork ps p t

/-- The pass with a tile's record changed. -/
def Pass.setTile (p : Pass) (tile : Nat) (f : TileSt → TileSt) : Pass :=
  if p.tiles.any fun t => t.tile == tile then { p with tiles := p.tiles.map fun t => if t.tile == tile then f t else t }
  else { p with tiles := p.tiles ++ [f ⟨tile, none, false, [], false⟩] }

/-- What graphics storage of a kernel asks of a core. -/
def gfxNeed (s : State) (job : Nat) (k : Kernel) (groups scr : Nat) (oldest : Bool) : Need :=
  { k := k, groups := groups, scr := scr, pool := 0, q := 0, launch := noTeam, job := job, secure := s.jobSecure job, gfx := oldest }

/-- A team of graphics groups. -/
def gfxTeam (p : Pass) (tile core scr scrLen acc accLen mainLen producer groups : Nat) (neval : Bool) : Team :=
  { live := true, job := p.job, launch := noTeam, index := tile, x := tile % p.block.tilesX, y := tile / p.block.tilesX, z := 0, core := core,
    twin := none, scrBase := scr, scrLen := scrLen, accBase := acc, accLen := accLen, producer := producer,
    bars := Vector.replicate 16 (Barrier.start groups), nextSpawn := 0, carve := none, carveAt := 0, taskQ := 0, taskHead := 0, taskTail := 0,
    mainLen := mainLen, preempt := false, saved := false, saveMask := 0, handled := false, resuming := false, savedSq := [],
    savedTiles := false, fault := false, neval := neval }

/-- A new team on a core; none where its storage does not fit. -/
def State.addGfxTeam (s : State) (p : Pass) (tile core : Nat) (n : Need) (producer : Nat) : Option State :=
  (s.placeOn n [core]).map fun (s, scr, acc) =>
    let s := s.readyCore n core scr acc
    ({ s with teams := s.teams ++ [gfxTeam p tile core scr n.scr acc n.k.acc (s.core core).mainLen producer (max 1 n.groups) n.k.neval] } : State).shrinkL1 core

/-- The pieces of a run of `n` bytes at an address, none across a page: offset and length. -/
def pagePieces (va : DWord) (n : Nat) : List (Nat × Nat) :=
  let first := min n (65536 - va.toNat % 65536)
  (0, first) :: (List.range ((n - first + 65535) / 65536)).map fun k => (first + 65536 * k, min 65536 (n - first - 65536 * k))

/-- Reads a piece of a tile's memory into the core's array: bytes that cannot be read stay undefined (log 39). -/
def State.fillPiece (s : State) (p : Pass) (tile core base : Nat) (q : Nat × Nat) : State :=
  match s.devRead p.job (p.block.tileAt tile + BitVec.ofNat 64 q.1) q.2 with
  | .ok v => s.modCore core fun c => c.arraySet (base + q.1) (leBytes q.2 v)
  | _ => s

/-- Writes a piece of a tile's memory to the spill area: bytes that cannot be written are lost (log 39). -/
def State.spillPiece (s : State) (p : Pass) (tile : Nat) (bs : List (BitVec 8)) (q : Nat × Nat) : State :=
  match s.devWrite p.job (p.block.tileAt tile + BitVec.ofNat 64 q.1) ((bs.drop q.1).take q.2) with
  | .ok s => s
  | _ => s

/-- An access to the tile's memory in the spill area would wait (R306, R409). -/
def State.tileWaits (s : State) (p : Pass) (tile : Nat) (write : Bool) : Bool :=
  (pagePieces (p.block.tileAt tile) p.block.tileBytes).any fun q =>
    let va : DWord := p.block.tileAt tile + BitVec.ofNat 64 q.1
    (List.range ((q.2 + 127) / 128)).any fun k =>
      match s.devXlate p.job (va + BitVec.ofNat 64 (128 * k)) (if write then .write else .read) with
      | .ok pa => s.edgeWaits p.job pa
      | .wait => true
      | .fail _ _ => false

/-- A core takes a tile: its team is allotted and its memory read back (R354, R356). -/
def State.takeTile (s : State) (ps : Nat) (p : Pass) (tile core : Nat) : State :=
  let neval := p.gridKernel.neval || [p.sampleKernel, p.resolveKernel].any fun k => match k with | some k => k.neval | none => false
  let k : Kernel := { Kernel.none with regs := 0, neval := neval, acc := match p.resolveKernel with | some r => r.acc | none => 0 }
  match s.addGfxTeam p tile core (gfxNeed s p.job k 0 ((p.block.tileBytes + 65535) / 65536) false) (match p.resolveKernel with | some r => r.producer | none => 0) with
  | none => s
  | some t =>
    let ti := s.teams.length
    let base := match t.teams[ti]? with | some x => x.scrBase * 65536 | none => 0
    let t := (pagePieces (p.block.tileAt tile) p.block.tileBytes).foldl (fun t q => t.fillPiece p tile core base q) t
    t.modPass ps fun p => p.setTile tile fun x => { x with team := some ti, spilled := false }

/-- A tile's memory goes to the spill area, and its team ends (R356). -/
def State.spillTile (s : State) (ps : Nat) (p : Pass) (tile ti : Nat) : State :=
  match s.teams[ti]? with
  | none => s
  | some t =>
    let bs := (s.core t.core).arrayBytes t.core (t.scrBase * 65536) p.block.tileBytes
    let s := (pagePieces (p.block.tileAt tile) p.block.tileBytes).foldl (fun s q => s.spillPiece p tile bs q) s
    let s : State := { s with groups := s.groups.map fun (g : Group) => if g.team == ti && g.living then { g with status := .saved } else g }
    let s := s.releaseHalf ti t
    (s.modTeam ti fun t => { t with live := false }).modPass ps fun p => p.setTile tile fun x => { x with team := none, spilled := true }

/-! ## Graphics groups -/

/-- The lowest graphics area number that no living graphics group of the pass holds (R239). -/
def State.freeArea (s : State) (ps : Nat) (p : Pass) : Option Nat :=
  (List.range (2 ^ p.block.areaLog)).find? fun n =>
    !s.groups.any fun g => g.living && match g.gfx with | some x => x.pass == ps && x.area == n | none => false

/-- A graphics group with its start state (R40, R477). -/
def gfxGroup (kind : GKind) (ps : Nat) (p : Pass) (k : Kernel) (team number area tile age prio since : Nat) (seat : Seat) (f : Ctx → Ctx)
    (patchId gridU gridV : DWord) (keys : List (Nat × (Nat × Nat × Nat) × Nat)) : Group :=
  let g := Group.start kind p.job noTeam team number seat k.regs prio since k.entry
  let x := f (g.ctx.setS 0 p.block.args)
  { g with
    ctx := x
    area := areaAt p.block.privBase p.block.privZ area
    privLimit := k.priv
    gfx := some { pass := ps, tile := tile, area := area, patchId := patchId, gridU := gridU, gridV := gridV, age := age, gvtxDone := false,
                  keys := keys, entered := 0, released := 0, leaving := 0, inRegion := true, snap := x, snapKeys := (0, 0), snapGvtx := false,
                  held := [], heldBytes := 0, replay := false } }

/-- The lowest sequence of a fragment group. -/
def lowestSeq (l : List Frag) : Nat := l.foldl (fun a f => min a f.seq) (2 ^ 32)

/-- The core processes the tile, or the pass has none. -/
def State.onTile (s : State) (p : Pass) (core tile : Nat) : Bool :=
  p.block.immediate || match s.heldTile p core with | some (t, _) => t == tile | none => false

/-- Grid and fragment groups of a pass that wait for admission on a core, those killed for replay among them: the pass, the age, and 1 for a
fragment group (R386). -/
def State.waitingGfx (s : State) (core ps : Nat) (p : Pass) : List (Nat × Nat × Nat) :=
  ((p.grids.filter fun g => g.core == core && g.grp.isNone && s.onTile p core g.tile).map fun g => (ps, g.seq * 256, 0)) ++
    ((p.closed.filter fun l => l.any fun f => f.core == core).map fun l => (ps, lowestSeq l, 1)) ++
    s.groups.filterMap fun g => g.gfx.bind fun x =>
      if x.pass == ps && x.replay && g.status == .saved && g.kind != .resolve && coreOfTile p.mask x.tile == core && s.onTile p core x.tile then
        some (ps, x.age, if g.kind == .grid then 0 else 1)
      else none

/-- A pass began earlier, or within one pass a group is older, a grid group than a fragment group of equal age (R386). -/
def olderGfx (a b : Nat × Nat × Nat) : Bool := a.1 < b.1 || (a.1 == b.1 && (a.2.1 < b.2.1 || (a.2.1 == b.2.1 && a.2.2 ≤ b.2.2)))

/-- The group is the oldest that waits for admission on the core, and so may take the slot kept for it (R386). -/
def State.oldestHere (s : State) (core : Nat) (a : Nat × Nat × Nat) : Bool :=
  s.passes.zipIdx.all fun p => !p.1.live || !p.1.mask.getLsbD core || (s.waitingGfx core p.2 p.1).all (olderGfx a)

/-- A seat for a group that a team of the core takes: in the partition with the most free slots, or where a replayed log demands (R46,
R316). -/
def State.gfxSeat (s : State) (core job number index regs : Nat) (oldest : Bool) : Option Seat :=
  let l := s.partFree core 0 oldest
  let q := firstPart l
  (s.mainPlace core regs).bind fun a => s.seatFor core job number 0 noTeam index a (if l.getD q 0 == 0 then none else some q)

/-- The team in which a graphics group of a kernel starts on a core: the tile's, or one of its own (R354, R355). -/
def State.gfxPlace (s : State) (p : Pass) (tile core : Nat) (k : Kernel) (oldest : Bool) : Option (State × Nat × Seat) :=
  if p.block.immediate then
    (s.addGfxTeam p tile core (gfxNeed s p.job k 1 k.granules oldest) k.producer).bind fun t =>
      (t.gfxSeat core p.job 0 tile k.regs oldest).map fun seat => (t, s.teams.length, seat)
  else
    match s.heldTile p core with
    | some (t, ti) =>
      if t == tile && !(match s.teams[ti]? with | some x => x.preempt | none => true) then
        (s.gfxSeat core p.job 0 tile k.regs oldest).map fun seat => (s, ti, seat) else none
    | none => none

/-- A graphics group is placed: the placement log has it (R316). It belongs to no launch, and its entry's LAUNCHID is 0. -/
def State.placedGfx (s : State) (g : Group) : State :=
  s.placedGroup g.job noTeam ⟨g.core, g.part * 32 + g.rslot, g.number, 0, 0, match s.teams[g.team]? with | some t => t.index | none => 0⟩

/-- Adds a graphics group, acquiring as a group that starts does (R41). -/
def State.addGfx (s : State) (g : Group) : State :=
  (({ s with groups := s.groups ++ [g], free := s.free + 1 } : State).acquire g.core 31).placedGfx g

/-- The lowest-numbered grid of a core, of its tile, that has no group. -/
def Pass.nextGrid (p : Pass) (core : Nat) (tile : Option Nat) : Option Grid :=
  p.grids.find? fun g => g.core == core && g.grp.isNone && match tile with | some t => g.tile == t | none => true

/-- The first lanes of a mask. -/
def firstLanes (n : Nat) : LaneMask := maskFn fun t => t < n

/-- Starts the group of a grid (R364). -/
def State.startGrid (s : State) (ps : Nat) (p : Pass) (g : Grid) : State :=
  let prio := match s.launches[g.launch]? with | some l => l.prio | none => 0
  match s.freeArea ps p, s.gfxPlace p g.tile g.core p.gridKernel (s.oldestHere g.core (ps, g.seq * 256, 0)) with
  | some area, some (t, ti, seat) =>
    let id : DWord := BitVec.ofNat 64 (g.seq % 2 ^ 24 + 2 ^ 24 * g.nu + 2 ^ 28 * g.nv + 2 ^ 32 * g.user.toNat)
    let f (x : Ctx) : Ctx :=
      { ((x.setS 1 g.addr).setS 2 (BitVec.ofNat 64 g.seq)).setS 3 (BitVec.ofNat 64 g.tile) with active := firstLanes ((g.nu + 1) * (g.nv + 1)) }
    let t := t.addGfx (gfxGroup .grid ps p p.gridKernel ti 0 area g.tile (g.seq * 256) prio t.free seat f id (g.du ++ g.u0) (g.dv ++ g.v0) [])
    t.modPass ps fun p => { p with grids := p.grids.map fun q => if q.seq == g.seq && q.tile == g.tile then { q with grp := some s.groups.length } else q }
  | _, _ => s

/-- Goes through the live passes until one gives a new state. -/
def onPass (s : State) (f : Nat → Pass → Option State) : Host.Outcome State Fault Refusal :=
  .next ((s.passes.zipIdx.findSome? fun p => if p.1.live then f p.2 p.1 else none).getD s)

/-- GRID_GROUP_START (R364): in TILED mode the core first takes the tile it is to process, and gives up one that is done. -/
def execGridGroupStart (core : Nat) (s : State) : Host.Outcome State Fault Refusal :=
  onPass s fun ps p =>
    if p.block.immediate then (p.nextGrid core none).map fun g => s.startGrid ps p g
    else if !p.processing then none
    else
      match s.heldTile p core with
      | some (t, ti) =>
        if s.tileWork ps p t then (p.nextGrid core (some t)).map fun g => s.startGrid ps p g
        else if s.halfQuiet ti && (match s.teams[ti]? with | some x => s.queuesEmpty ti x | none => true) && !s.tileWaits p t true then
          some (s.spillTile ps p t ti)
        else none
      | none => (s.nextTile ps p core).bind fun t => if s.tileWaits p t false then none else some (s.takeTile ps p t core)

/-! ## Coverage (R366 to R368) -/

/-- A vertex moved for a pattern entry, in 16.8 fixed point; none where it is NaN or out of range (R366). -/
def moveVertex (e : List Int) (v : List Word) : Option (Int × Int) :=
  let w (i : Nat) : Nat := (v.getD i 0).toNat
  let t := rne .b32 (.fin false (e.getD 2 0).toNat (-8))
  let lens (i : Nat) : Nat := divNum .b32 (Num.ofInt (e.getD i 0)) (Num.ofInt 127)
  let axis (a b l : Nat) : Nat := addF .b32 (addF .b32 a (mulF .b32 t (subF .b32 b a))) (mulF .b32 l (w 4))
  let fix (x : Nat) : Option Int :=
    let n := Fmt.b32.num x
    if !n.isFinite then none
    else
      let i := (n.mul (Num.ofInt 256)).nearest
      if i < -4194304 || i > 8388607 then none else some i
  match fix (axis (w 0) (w 2) (lens 3)), fix (axis (w 1) (w 3) (lens 4)) with
  | some x, some y => some (x, y)
  | _, _ => none

/-- The edge function (R367). -/
def edgeFn (a b p : Int × Int) : Int := (b.1 - a.1) * (p.2 - a.2) - (b.2 - a.2) * (p.1 - a.1)

/-- The edge a → b takes the point. -/
def edgeIn (a b p : Int × Int) : Bool :=
  edgeFn a b p > 0 || (edgeFn a b p == 0 && (b.2 < a.2 || (b.2 == a.2 && b.1 > a.1)))

/-- The triangle covers the point: the edge functions opposite its vertices, and its area (R367). -/
def covers (a b c p : Int × Int) : Option (Int × Int × Int × Int) :=
  let area := edgeFn a b c
  if area == 0 then none
  else if area > 0 then
    (if edgeIn a b p && edgeIn b c p && edgeIn c a p then some (edgeFn b c p, edgeFn c a p, edgeFn a b p, area) else none)
  else if edgeIn c b p && edgeIn b a p && edgeIn a c p then some (edgeFn c b p, edgeFn a c p, edgeFn b a p, -area) else none

/-- b0 × q0 + b1 × q1 + b2 × q2, exact and rounded once. -/
def bary (b q : List Nat) : Nat :=
  match (b.zip q).map fun p => mulExact (Fmt.b32.num p.1) (Fmt.b32.num p.2) with
  | [x, y, z] => (dotSum .plain false [x, y] z.num).bits
  | _ => 0

/-- A colour of a vertex record: its four binary16 channels. -/
def vertexColour (v : List Word) (k ch : Nat) : Nat := elem (v.getD (6 + 2 * k + ch / 2) 0) 16 (ch % 2)

/-- Depth and colours of a fragment (R368). -/
def shade (c : Nat) (vs : List (List Word)) (e : Int × Int × Int × Int) : Nat × List DWord :=
  let b := [e.1, e.2.1, e.2.2.1].map fun x => divNum .b32 (Num.ofInt x) (Num.ofInt e.2.2.2)
  let depth := bary b (vs.map fun v => (v.getD 5 0).toNat)
  let channel (k ch : Nat) : Nat := rne .b16 (Fmt.b32.num (bary b (vs.map fun v => rne .b32 (Fmt.b16.num (vertexColour v k ch)))))
  (depth, (List.range c).map fun k => BitVec.ofNat 64 (packBits 16 4 fun ch => channel k ch))

/-- The region a grid is sampled in: first and last column and row, exclusive (R362). -/
def regionOf (b : PassBlock) (tile : Nat) : Nat × Nat × Nat × Nat :=
  if b.immediate then (0, b.width, 0, b.height)
  else
    let (tx, ty) := (tile % b.tilesX, tile / b.tilesX)
    (64 * tx, min b.width (64 * tx + 64), 64 * ty, min b.height (64 * ty + 64))

/-- The fragments of one micropolygon, and whether GUARD is set; its vertices v00, v10, v11, v01. -/
def sampleQuad (p : Pass) (tile c : Nat) (vs : List (List Word)) : List ((Nat × Nat × Nat) × Nat × List DWord) × Bool :=
  let b := p.block
  let (x0, x1, y0, y1) := regionOf b tile
  let entry (x y k : Nat) : List Int := p.pattern.getD ((y % 4 * 4 + x % 4) * b.S + k) []
  let moved (e : List Int) : Option (List (Int × Int)) := vs.mapM (moveVertex e)
  let all := (List.range (min 4 (y1 - y0))).flatMap fun j => (List.range (min 4 (x1 - x0))).flatMap fun i =>
    (List.range b.S).map fun k => moved (entry (x0 + i) (y0 + j) k)
  let pts := (all.filterMap id).flatten
  let lo (l : List Int) (cap : Nat) : Nat := (max (cap : Int) ((l.foldl min (2 ^ 24)) / 256 - 1)).toNat
  let hi (l : List Int) (cap : Nat) : Nat := (min (cap : Int) ((l.foldl max (-(2 ^ 24))) / 256 + 2)).toNat
  let (px0, px1) := (lo (pts.map (·.1)) x0, hi (pts.map (·.1)) x1)
  let (py0, py1) := (lo (pts.map (·.2)) y0, hi (pts.map (·.2)) y1)
  let one (x y k : Nat) : Option ((Nat × Nat × Nat) × Nat × List DWord) :=
    let e := entry x y k
    let pt : Int × Int := (256 * (x : Int) + e.getD 0 0, 256 * (y : Int) + e.getD 1 0)
    match moved e, vs with
    | some [a, q, r, d], [va, vq, vr, vd] =>
      (match covers a q r pt with
       | some w => some ((x, y, k), shade c [va, vq, vr] w)
       | none => match covers a r d pt with
         | some w => some ((x, y, k), shade c [va, vr, vd] w)
         | none => none)
    | _, _ => none
  ((List.range (py1 - py0)).flatMap fun j => (List.range (px1 - px0)).flatMap fun i => (List.range b.S).filterMap fun k => one (px0 + i) (py0 + j) k,
   all.any (·.isNone))

/-! ## Fragments (R368, R369, R381, R382) -/

/-- A depth passes the depth function against the plane (R350). -/
def depthPasses (fn d plane : Nat) : Bool :=
  let (x, y) := (Fmt.b32.num d, Fmt.b32.num plane)
  match fn with
  | 0 => x.lt y
  | 1 => x.le y
  | _ => true

/-- A fragment joins the open fragment group of its core, which closes first where the key is in it, and then where it is full (R381). -/
def Pass.openFrag (p : Pass) (f : Frag) : Pass :=
  let mine := p.opened.filter fun x => x.core == f.core
  let others := p.opened.filter fun x => x.core != f.core
  if mine.any fun x => x.key == f.key || x.tile != f.tile then { p with closed := p.closed ++ [mine], opened := others ++ [f] }
  else if mine.length ≥ 255 then { p with closed := p.closed ++ [mine ++ [f]], opened := others }
  else { p with opened := p.opened ++ [f] }

/-- The sampler makes a fragment (R368, R369), or waits for an access to the planes (R306, R409). A read that fails drops it, and an opaque
one keeps what it has written (log 39). -/
def State.makeFrag (s : State) (ps core tile seq c : Nat) (f : (Nat × Nat × Nat) × Nat × List DWord) : Option State :=
  match s.passes[ps]? with
  | none => some s
  | some p =>
    let (key, d, cols) := f
    let i := p.block.sampleIx key
    let n := Fmt.b32.num d
    if n.isNan || n.lt (Num.ofInt 0) || (Num.ofInt 1).lt n then some s
    else
      let t := p.block.tileOf key
      match s.tileRead p t (depthOff p.block i) 4 with
      | .wait => none
      | .fail _ _ => some s
      | .ok plane =>
        if !depthPasses p.block.depthFn d plane then some s
        else
          let colour := (cols.getD 0 0).toNat
          if c == 0 || chan colour 3 == 0x3C00 then
            match (if c == 0 then .ok s else s.tileWrite p t (colourOff i) 8 colour : Dev State) with
            | .wait => none
            | .fail _ _ => some s
            | .ok u =>
              (match u.tileWrite p t (depthOff p.block i) 4 d with
               | .wait => none
               | .fail _ _ => some u
               | .ok u => some u)
          else
            let fr : Frag := ⟨core, tile, key, seq, BitVec.ofNat 32 d, c, cols⟩
            some (s.modPass ps fun p =>
              let p := { p with reserved := p.reserved ++ [(tile, key, seq)] }
              if p.sampleKernel.isNone then { p with toLists := p.toLists ++ [fr] } else p.openFrag fr)

/-- The first grid that has not been sampled, of a core: of the pass, or of the tile (R361, R382). -/
def Pass.samplingGrid (p : Pass) (core : Nat) (held : Option Nat) : Option Grid :=
  let g := if p.block.immediate then p.grids.find? fun g => !g.sampled
    else p.grids.find? fun g => !g.sampled && some g.tile == held
  g.bind fun g => if g.core == core then some g else none

def Pass.setGrid (p : Pass) (g : Grid) (f : Grid → Grid) : Pass :=
  { p with grids := p.grids.map fun q => if q.seq == g.seq && q.tile == g.tile then f q else q }

/-- The vertex records of a micropolygon, when all four came from active lanes (R365, R366). -/
def quadOf (g : Grid) (recs : List (Nat × List Word)) (m : Nat) : Option (List (List Word)) :=
  let (i, j) := (m % g.nu, m / g.nu)
  let lane (x y : Nat) : Nat := y * (g.nu + 1) + x
  [lane i j, lane (i + 1) j, lane (i + 1) (j + 1), lane i (j + 1)].mapM fun t => recs.lookup t

/-- MICROPOLYGON_SAMPLE (R366): the next micropolygon of the first grid not sampled. Pending list insertions come first (R382). -/
def execMicropolygonSample (core : Nat) (s : State) : Host.Outcome State Fault Refusal :=
  onPass s fun ps p =>
    if !p.toLists.isEmpty then none
    else
      (p.samplingGrid core ((s.heldTile p core).map (·.1))).bind fun g =>
        let ended := match g.grp.bind fun k => s.groups[k]? with | some h => !h.living | none => false
        let verts := match g.verts with | some v => some v | none => if ended then some (0, []) else none
        verts.bind fun (c, recs) =>
          if recs.isEmpty || g.next ≥ g.nu * g.nv then some (s.modPass ps fun p => p.setGrid g fun q => { q with sampled := true })
          else
            let s := s.modPass ps fun p => p.setGrid g fun q => { q with next := q.next + 1, sampled := q.next + 1 ≥ q.nu * q.nv }
            match quadOf g recs g.next with
            | none => some s
            | some vs =>
              let (fs, guard) := sampleQuad p g.tile c vs
              let s := s.modPass ps fun p => { p with guard := p.guard || guard }
              fs.foldl (fun s f => s.bind fun s => s.makeFrag ps core g.tile (g.seq * 256 + g.next) c f) (some s)

/-- FRAGMENT_GROUP_CLOSE (R381): the sampler has been idle. -/
def execFragmentGroupClose (core : Nat) (s : State) : Host.Outcome State Fault Refusal :=
  onPass s fun ps p =>
    match p.opened.filter fun f => f.core == core with
    | [] => none
    | mine => some (s.modPass ps fun p => { p with closed := p.closed ++ [mine], opened := p.opened.filter fun f => f.core != core })

/-- The start of a sample group's context (R369). -/
def sampleCtx (tile : Nat) (l : List Frag) (x : Ctx) : Ctx :=
  let word (i t : Nat) : Word :=
    match l[t]? with
    | none => 0
    | some f => match i with
      | 0 => BitVec.ofNat 32 (f.key.1 + 65536 * f.key.2.1)
      | 1 => BitVec.ofNat 32 (f.key.2.2 + 16 * f.c)
      | 2 => f.depth
      | 3 => BitVec.ofNat 32 f.seq
      | k => let col := f.colours.getD ((k - 4) / 2) 0; if k % 2 == 0 then lo32 col else hi32 col
  let val (i : Nat) : Lanes := Vector.ofFn fun t : Fin 256 => word i t.val
  { x.setS 1 (BitVec.ofNat 64 tile) with
    active := firstLanes l.length
    main := x.main.mapIdx fun i v => if i < 12 then val i else v
    entries := Vector.ofFn fun e : Fin 16 => if e.val < 12 then ⟨some (BitVec.ofNat 8 e.val), .clean, val e.val⟩ else ⟨none, .free, Lanes.zero⟩ }

/-- SAMPLE_GROUP_START (R369, R381): the closed fragment groups of a core start in the order of their lowest sequence. -/
def execSampleGroupStart (core : Nat) (s : State) : Host.Outcome State Fault Refusal :=
  onPass s fun ps p =>
    p.sampleKernel.bind fun k =>
      let mine := p.closed.filter fun l => l.any fun f => f.core == core
      (mine.find? fun l => mine.all fun m => lowestSeq l ≤ lowestSeq m).bind fun l =>
        let tile := match l with | f :: _ => f.tile | [] => 0
        (s.freeArea ps p).bind fun area => (s.gfxPlace p tile core k (s.oldestHere core (ps, lowestSeq l, 1))).map fun (t, ti, seat) =>
          let keys := l.zipIdx.map fun f => (f.2, f.1.key, f.1.seq)
          let t := t.addGfx (gfxGroup .sample ps p k ti 0 area tile (lowestSeq l) 0 t.free seat (sampleCtx tile l) 0 0 0 keys)
          t.modPass ps fun p => { p with closed := p.closed.eraseP (· == l) }

/-- FRAGMENT_LIST_INSERTION (R369, R391): the first fragment for the lists, when it is of this core. An insertion that fails is not
made (log 39). -/
def execFragmentListInsertion (core : Nat) (s : State) : Host.Outcome State Fault Refusal :=
  onPass s fun ps p =>
    match p.toLists with
    | f :: rest =>
      if f.core != core then none
      else
        let go (s : State) : State := s.modPass ps fun p => { p with
          toLists := rest, reserved := p.reserved.filter fun r => !(r.1 == f.tile && r.2.1 == f.key && r.2.2 == f.seq) }
        (match insertFrag s ps ⟨f.key, f.depth, f.colours.getD 0 0, f.seq⟩ with
         | .ok r => some (go r.s)
         | .fail _ _ => some (go s)
         | .wait => none)
    | [] => none

/-! ## The resolve (R378) -/

/-- The linear value of an sRGB fraction n ÷ d (the transfer function of the sRGB standard). -/
def srgbCurve (n d : Nat) : Dy := exp2Dy ((fxLog2 (1000 * n + 55 * d) 0 - fxLog2 (1055 * d) 0) * 12 / 5)

/-- The byte of a number in [0, 1], sRGB-encoded, correctly rounded. -/
def srgbByte (x : Num) : Nat :=
  let above (v : Nat) : Bool :=
    let (n, d) := (2 * v + 1, 510)
    if n * 100000 ≤ 4045 * d then
      let y := (x.dy.mul (Dy.ofInt (1292 * d)))
      if v % 2 == 0 then (Dy.ofInt (100 * n)).lt y else (Dy.ofInt (100 * n)).le y
    else (srgbCurve n d).lt x.dy
  ((List.range 255).filter above).length

/-- The byte of a number in [0, 1] as UNORM. -/
def unormByte (x : Num) : Nat := (x.mul (Num.ofInt 255)).nearest.toNat

/-- The colour of a sample: its list over colour 0, farthest first, per channel as binary32 (R378). -/
def sampleColour (colour : Nat) (l : List Node4) (k : Nat) : Nat :=
  l.reverse.foldl (fun c n =>
    rne .b32 ((Fmt.b16.num (chan n.colour k)).add (((Num.ofInt 1).sub (Fmt.b16.num (chan n.colour 3))).mul (Fmt.b32.num c))))
    (rne .b32 (Fmt.b16.num (chan colour k)))

/-- The mean of samples: the exact sum ÷ S, rounded (R378). -/
def meanOf (logS : Nat) (l : List Nat) : Nat :=
  match l.map fun x => Fmt.b32.num x with
  | [] => 0
  | x :: r => rne .b32 ((r.foldl Num.add x).mul (.fin false 1 (-(logS : Int))))

/-- The bytes of a pixel in the target's format. -/
def targetBytes (fmt : Nat) (m : Nat → Nat) : List (BitVec 8) :=
  let unit (k : Nat) : Num := Fmt.b32.num (fclamp .b32 (m k))
  match fmt with
  | 2 => (List.range 4).flatMap fun k => leBytes 2 (rne .b16 (Fmt.b32.num (m k)))
  | f => (List.range 4).flatMap fun k => leBytes 1 (if f == 1 && k < 3 then srgbByte (unit k) else unormByte (unit k))

/-- Writes until one fails or waits: what was written stays. -/
def State.putAll (job : Nat) : List (DWord × List (BitVec 8)) → State → State × Dev Unit
  | [], s => (s, .ok ())
  | (va, bs) :: l, s =>
    match s.devWrite job va bs with
    | .ok s => State.putAll job l s
    | .fail c a => (s, .fail c a)
    | .wait => (s, .wait)

/-- Resolves one pixel by default: its colour, then its samples' depths (R378). -/
def State.resolvePixel (s : State) (p : Pass) (tile x y : Nat) : State × Dev Unit :=
  let b := p.block
  let sample (k : Nat) : Dev (Nat × List Node4 × Nat) :=
    let i := b.sampleIx (x, y, k)
    (s.tileRead p tile (colourOff i) 8).bind fun c => (s.listOf p (x, y, k)).bind fun l =>
      (if b.depthAt == 0 then .ok 0 else s.tileRead p tile (depthOff b i) 4).bind fun d => .ok (c, l, d)
  let rec all : Nat → Dev (List (Nat × List Node4 × Nat))
    | 0 => .ok []
    | n + 1 => (all n).bind fun l => (sample n).bind fun v => .ok (l ++ [v])
  match all b.S with
  | .fail c a => (s, .fail c a)
  | .wait => (s, .wait)
  | .ok l =>
    let mean (k : Nat) : Nat := meanOf b.logS (l.map fun v => sampleColour v.1 v.2.1 k)
    let at_ : DWord := b.colourAt + BitVec.ofNat 64 (y * b.pitch + x * (if b.colourFmt == 2 then 8 else 4))
    let depths := if b.depthAt == 0 then []
      else l.zipIdx.map fun v => (b.depthAt + BitVec.ofNat 64 (4 * ((y * b.width + x) * b.S + v.2)), leBytes 4 v.1.2.2)
    State.putAll p.job ((at_, targetBytes b.colourFmt mean) :: depths) s

/-- Resolves the pixels of a tile until one fails or waits: what was written stays. -/
def State.resolvePixels (p : Pass) (tile : Nat) : List (Nat × Nat) → State → State × Dev Unit
  | [], s => (s, .ok ())
  | (x, y) :: l, s =>
    match s.resolvePixel p tile x y with
    | (s, .ok _) => State.resolvePixels p tile l s
    | r => r

/-- Resolves a tile by default (R378); none while an access waits (R306, R409). -/
def State.resolveDefault (s : State) (ps : Nat) (p : Pass) (tile : Nat) : Option State :=
  let b := p.block
  let (tx, ty) := (tile % b.tilesX, tile / b.tilesX)
  let px := (List.range (min 64 (b.height - 64 * ty))).flatMap fun j => (List.range (min 64 (b.width - 64 * tx))).map fun i => (64 * tx + i, 64 * ty + j)
  match State.resolvePixels p tile px s with
  | (_, .wait) => none
  | (s, r) => some (s.modPass ps fun p => { p.setTile tile fun t => { t with resolved := true } with
      resolveFail := p.resolveFail || match r with | .fail _ _ => true | _ => false })

/-- Starts the groups of a resolve team in a team. -/
def State.startResolve (s : State) (ps : Nat) (p : Pass) (k : Kernel) (tile core ti : Nat) : Nat → List Nat → Option (State × List Nat)
  | 0, l => some (s, l)
  | n + 1, l =>
    (s.startResolve ps p k tile core ti n l).bind fun (s, l) =>
      (s.freeArea ps p).bind fun area => (s.gfxSeat core p.job n tile k.regs false).map fun seat =>
        (s.addGfx (gfxGroup .resolve ps p k ti n area tile (2 ^ 32) 0 s.free seat (fun x => x.setS 1 (BitVec.ofNat 64 tile)) 0 0 0 []), l ++ [s.groups.length])

/-- Where a tile's resolve team runs: its tile team, or a team of its own on a core of the mask (R355, R378). -/
def State.resolvePlace (s : State) (p : Pass) (k : Kernel) (tile : Nat) : Option (State × Nat × Nat) :=
  if p.block.immediate then
    let cores := seatCores false p.mask
    let cores := match s.seatDemand p.job 0 0 noTeam tile with | .free => cores | .at_ c _ => cores.filter (· == c) | .wait => []
    (s.preferred cores).findSome? fun c =>
      (s.addGfxTeam p tile c (gfxNeed s p.job k k.groups k.granules false) k.producer).map fun t => (t, c, s.teams.length)
  else
    let core := coreOfTile p.mask tile
    match s.heldTile p core with
    | some (t, ti) =>
      if t == tile && !(match s.teams[ti]? with | some x => x.preempt | none => true) then
        some (s.modTeam ti fun t => { t with bars := Vector.replicate 16 (Barrier.start k.groups) }, core, ti) else none
    | none => none

/-- TILE_RESOLVE (R378): by default (a tile with an access that waits is tried again later), or by a resolve team, which has
resolved the tile once its groups have ended. -/
def execTileResolve (ps tile : Nat) (s : State) : Host.Outcome State Fault Refusal :=
  match s.passes[ps]? with
  | none => .next s
  | some p =>
    let t := p.tiles.find? fun t => t.tile == tile
    let busy := p.grids.any (fun g => g.tile == tile && !g.sampled) || (p.block.immediate && p.grids.any fun g => !g.sampled) ||
      p.reserved.any (fun r => p.block.tileOf r.2.1 == tile)
    if !p.live || p.stage != .finish || p.flushing || tile ≥ p.block.tiles || !p.patches.isEmpty || !p.diced.isEmpty || busy ||
        (match t with | some x => x.resolved | none => false) then .next s
    else
      match p.resolveKernel with
      | none => .next ((s.resolveDefault ps p tile).getD s)
      | some k =>
        match t.map (·.resolving) with
        | some (g :: l) =>
          .next (if (g :: l).all fun i => match s.groups[i]? with | some h => !h.living | none => true
            then s.modPass ps fun p => p.setTile tile fun x => { x with resolved := true } else s)
        | _ =>
          .next (match s.resolvePlace p k tile with
            | none => s
            | some (u, core, ti) =>
              match u.startResolve ps p k tile core ti k.groups [] with
              | some (u, l) => u.modPass ps fun p => p.setTile tile fun x => { x with resolving := l }
              | none => s)

/-! ## Kill and replay (R479, R480) -/

/-- GRAPHICS_KILL (R479): a group inside a region whose tile team is pre-empted. -/
def execGraphicsKill (gi : Nat) (s : State) : Host.Outcome State Fault Refusal :=
  onGroup gi s fun g => if g.gfx.isSome && s.preempting g && g.inRegion then killForReplay s gi else s

/-- A killed group starts its region again, with its barriers (R479, R537). -/
def replayed (g : Group) (team since : Nat) (seat : Seat) : Group :=
  { g with
    team := team, core := seat.core, part := seat.part, rslot := seat.rslot, mainAt := seat.place, status := .slotWait, since := since
    seen := Vector.replicate 16 0
    ownBars := Vector.replicate 16 ⟨1, 0, 0, 0⟩
    gfx := g.gfx.map fun x => { x with replay := false } }

/-- GRAPHICS_REPLAY (R479, R480): the group is readmitted in place, or where its tile is now processed. -/
def execGraphicsReplay (gi : Nat) (s : State) : Host.Outcome State Fault Refusal :=
  onGroup gi s fun g =>
    match g.gfx with
    | none => s
    | some x =>
      if !x.replay || s.preempting g then s
      else if g.status == .saved then
        match s.passes[x.pass]? with
        | none => s
        | some p =>
          match s.heldTile p (coreOfTile p.mask x.tile) with
          | some (t, ti) =>
            if t != x.tile || (match s.teams[ti]? with | some x => x.preempt | none => true) then s
            else
              let core := coreOfTile p.mask x.tile
              (match s.gfxSeat core g.job g.number x.tile g.regs (g.kind != .resolve && s.oldestHere core (x.pass, x.age, if g.kind == .grid then 0 else 1)) with
               | some seat =>
                 let h := replayed g ti s.free seat
                 let s := if core == g.core then s else s.acquire core 31
                 ({ s.setGroup gi h with free := s.free + 1 } : State).placedGfx h
               | none => s)
          | none => s
      else { s.setGroup gi (replayed g g.team s.free ⟨g.core, g.part, g.rslot, g.mainAt⟩) with free := s.free + 1 }

end Sys2Proof.Machine
end

