-- ==== Sys2Proof/Machine/Preempt.lean ====
section
/-! DEFINITION. Pre-emption: its request, the stop of each group, and what is saved of a team (R468 to R474, R480). -/

namespace Sys2Proof.Machine

/-- The kernel of a team can be pre-empted (R468). -/
def State.preemptible (s : State) (t : Team) : Bool :=
  match s.launches[t.launch]? with
  | some l => l.kernel.liveness != 0 && l.privBase != 0
  | none => false

/-- PREEMPT_REQUEST (R468, R480): both halves of a twin team; a tile team has its graphics groups killed. -/
def execPreemptRequest (ti : Nat) (s : State) : Host.Outcome State Fault Refusal :=
  match s.teams[ti]? with
  | none => .next s
  | some t =>
    if !t.live || t.saved || t.preempt || t.resuming || !(s.preemptible t || s.isTileTeam ti) then .next s
    else .next ((s.halves ti).foldl (fun s h => s.modTeam h fun t => if t.live && !t.saved then { t with preempt := true } else t) s)

/-- The liveness entry whose offset, from the kernel's entry 0, is the stop point's (R167): `n` entries are left. -/
def State.liveEntry (s : State) (job : Nat) (va : DWord) (off : DWord) : Nat → Dev (Option LaneMask)
  | 0 => .ok none
  | n + 1 =>
    (s.devRead job va 8).bind fun o =>
      if o == off.toNat then (s.readRun job 2 (va + 8) 32).bind fun m => .ok (some (BitVec.ofNat 256 (leNat m)))
      else s.liveEntry job (va + 40) off n

/-- Main registers to save at a stop point (R470): every one without an entry, or where the table cannot be read (log 40). -/
def State.liveAt (s : State) (g : Group) (safePoint : Bool) : LaneMask :=
  let all : LaneMask := firstLanes g.regs
  match s.launches[g.launch]? with
  | some l =>
    if !safePoint then all
    else
      (match (s.devRead g.job l.kernel.liveness 8).bind fun h =>
          s.liveEntry g.job (l.kernel.liveness + 8) (g.ctx.pc - l.kernel.entry) (h % 2 ^ 32) with
       | .ok (some m) => m &&& all
       | _ => all)
  | none => all

/-- The mask of a stop: the safe point's, or everything where the group waits (R469). -/
def stopMask : Status → Option Word
  | .stopped m => some m
  | .barWait _ _ => some 0x07FFFFFF
  | .yielded _ _ => some 0x07FFFFFF
  | .xchgWait _ => some 0x07FFFFFF
  | .slotWait => some 0x07FFFFFF
  | .parked _ => some 0x07FFFFFF
  | _ => none

/-- How the group goes on: in the same wait, but for an XCHG, which is issued again, and a parked group, which meets its page again. -/
def resumeOf : Status → Status
  | .barWait nb next => .barWait nb next
  | .yielded nb target => .yielded nb target
  | _ => .slotWait

/-- Entries and slots whose mask bit is 0 are dropped (R151, R470). -/
def Ctx.keepOnly (x : Ctx) (m : Word) : Ctx :=
  { x with
    entries := x.entries.mapFinIdx fun e en _ => if m.getLsbD e then en else { en with st := .free, val := Lanes.zero }
    slots := x.slots.mapFinIdx fun w u _ => if m.getLsbD (16 + w) then u else ⟨false, 0⟩ }

/-- The record of a stop. -/
def preemptInfo (g : Group) : TrapInfo :=
  { cause := .preempt, code := 0, pc := g.ctx.pc, addr := none, lanes := 0, write := false, fetch := false, deferred := false, done := 0,
    replies := [], iword := 0, oword := 0, reqAddr := [], reqData := [] }

/-- Writes the live main registers to the context area (R470 step 3): register `n - 1` and those below. -/
def State.saveRegs (s : State) (g : Group) (live : LaneMask) (main : List Lanes) : Nat → Except DWord State
  | 0 => .ok s
  | n + 1 =>
    match s.saveRegs g live main n with
    | .error e => .error e
    | .ok s =>
      if !live.getLsbD n then .ok s
      else
        let va := g.context + BitVec.ofNat 64 (1024 * n)
        match s.devWrite g.job va ((main.getD n Lanes.zero).toList.flatMap fun v => leBytes 4 v.toNat) with
        | .ok s => .ok s
        | .fail _ va => .error va
        | .wait => .error va

/-- Saves a group at its stop point (R470 steps 2 to 6). -/
def State.saveGroup (s : State) (gi : Nat) (g : Group) (mask : Word) (safePoint : Bool) : State :=
  let kept := g.ctx.keepOnly mask
  let x := kept.writeBack.clearLatches
  let s := s.tick g.core
  let items := recordItems 0 g (preemptInfo g) (s.core g.core).stamp false false ++
    frameItems { g with ctx := x } kept (preemptInfo g) g.ctx.pc
  let live := s.liveAt g safePoint
  let again : Bool := match s.teams[g.team]? with | some t => t.handled && g.number == t.producer && g.kind == .team | none => false
  match s.frameWrite gi g (g.frame.getD 0) items with
  | .error va => s.contextFailure g.team va
  | .ok s =>
    match s.saveRegs g live x.main g.regs with
    | .error va => s.contextFailure g.team va
    | .ok s =>
      (s.flushPrivate g.core gi).setGroup gi { g with
        ctx := x, status := .saved, hasSlot := false, block := none, xchg := none, saved := live
        resumeAs := if again then g.resumeAs else resumeOf g.status }

/-- Every other group of the half is saved or has ended (R473). -/
def State.othersSaved (s : State) (gi : Nat) (ti : Nat) : Bool :=
  (List.range s.groups.length).all fun k => k == gi || match s.groups[k]? with
    | some h => h.team != ti || !h.living || h.status == .saved
    | none => true

/-- The first deferred cause of a group's settled requests, with its request. -/
def Group.dueCause (g : Group) : Option (TrapInfo × Option Pend) :=
  match (List.range 32).findSome? fun k => (g.board[Fin.ofNat 32 k]).bind fun p => (deferredTrap p).map fun t => (t, some p) with
  | some r => some r
  | none => g.deferred.head?

/-- PREEMPT_STOP (R469, R470, R473): a deferred trap is taken first; the producer runs its handler once every other group is saved, and
is saved after it. -/
def execPreemptStop (gi : Nat) (s : State) : Host.Outcome State Fault Refusal :=
  onGroup gi s fun g =>
    match stopMask g.status, s.teams[g.team]? with
    | some mask, some t =>
      if !t.preempt || g.handler || g.gfx.isSome || !(g.kind == .team || g.kind == .spawned) || g.unsettled || !g.posts.isEmpty then s
      else
        match g.dueCause with
        | some (tr, req) =>
          (clearCause (takeTrap (s.setGroup gi { g with status := .running, resumeAs := resumeOf g.status }) gi tr g.ctx.pc [] req) gi tr req).modGroup gi fun g =>
            if g.status == .running && !g.hasSlot then { g with status := .slotWait } else g
        | none =>
          let s := s.landAll gi
          match s.groups[gi]? with
          | none => s
          | some g =>
            let safe := match g.status with | .stopped _ => true | _ => false
            let s := s.modTeam g.team fun t => { t with saveMask := t.saveMask ||| mask }
            let producer := g.kind == .team && g.number == t.producer
            if !producer || t.handled then s.saveGroup gi g mask (safe && !producer)
            else if !s.othersSaved gi g.team then s
            else
              let h : Group := { g with ctx := g.ctx.keepOnly mask, status := .running, xchg := none, block := none, resumeAs := resumeOf g.status }
              (takeTrap (s.setGroup gi h) gi (preemptInfo h) h.ctx.pc [] none).modGroup gi fun g =>
                if g.status == .running && !g.hasSlot then { g with status := .slotWait } else g
    | _, _ => s

/-- Rows of the team's tiles written to the producer's context area (R471, R474). -/
def State.saveTiles (s : State) (t : Team) (g : Group) : Nat → Except DWord State
  | 0 => .ok s
  | n + 1 =>
    match s.saveTiles t g n with
    | .error e => .error e
    | .ok s =>
      let (tile, row) := (n / 128, n % 128)
      let va := g.context + BitVec.ofNat 64 (270336 + 65536 * tile + 512 * row)
      let c := s.core t.core
      match s.devWrite t.job va ((List.range 128).flatMap fun k => leBytes 4 (c.tileElem t.core (t.accBase + tile) (128 * row + k)).toNat) with
      | .ok s => .ok s
      | .fail _ va => .error va
      | .wait => .error va

/-- The team's stream-queue entries, with their queues. -/
def State.queued (s : State) (ti : Nat) (t : Team) : List (Nat × SqEntry) :=
  (List.range 2).flatMap fun q => ((s.core t.core).sq[Fin.ofNat 2 q]).filterMap fun e => if e.team == ti then some (q, e) else none

/-- The units' work for the team is over (R474). -/
def State.unitsDone (s : State) (ti : Nat) (t : Team) : Bool :=
  let row (b : WBin) : Bool := b.rows.any fun r => match s.groups[r.grp]? with | some g => g.team == ti | none => false
  (s.core t.core).tileQ.all (fun q => q.all fun o => o.team != ti) &&
    !(s.whorls.any fun w => w.queue.any row || w.bins.any row || w.tiles.any row) &&
    (t.saveMask.getLsbD 25 || s.queuesEmpty ti t)

/-- TEAM_CONTEXT_SAVE (R473, R474, R480). -/
def execTeamContextSave (ti : Nat) (s : State) : Host.Outcome State Fault Refusal :=
  match s.teams[ti]? with
  | none => .next s
  | some t =>
    if !t.live || t.saved || !t.preempt then .next s
    else if s.isTileTeam ti then
      let killed (g : Group) : Bool := g.team != ti || !g.living || match g.gfx with | some x => x.replay | none => false
      match s.passes.zipIdx.findSome? fun p => (p.1.tiles.find? fun x => p.1.live && x.team == some ti).map fun x => (p.2, p.1, x.tile) with
      | some (ps, p, tile) => .next (if s.groups.all killed && !s.tileWaits p tile true then s.spillTile ps p tile ti else s)
      | none => .next s
    else
      let mine := s.groups.filter fun g => g.team == ti && g.living
      if mine.isEmpty || !(mine.all fun g => g.status == .saved) || !s.unitsDone ti t then .next s
      else
        let s := s.arriveCarve ti
        match s.teams[ti]? with
        | none => .next s
        | some t =>
          let keep := t.saveMask.getLsbD 24 && t.accLen != 0
          let prod := s.groups.find? fun g => g.team == ti && g.kind == .team && g.number == t.producer
          let saved : Except DWord State := match keep, prod with | true, some g => s.saveTiles t g (128 * t.accLen) | _, _ => .ok s
          match saved with
          | .error va => .next (s.contextFailure ti va)
          | .ok s =>
            let entries := s.queued ti t
            let s := s.modCore t.core fun c => { c with sq := c.sq.map fun q => q.filter fun e => e.team != ti }
            let s := ((s.releaseHalf ti t).beginHead t.core 0).beginHead t.core 1
            .next (s.setTeam ti { t with saved := true, preempt := false, savedSq := entries, savedTiles := keep })

end Sys2Proof.Machine
end

