-- ==== Sys2Proof/Machine/Burl.lean ====
section
/-! DEFINITION. The Burl homes and the edge atomic units: arrival of method requests, combiner launches, and atomics (R282 to R286,
R299 to R307, R311, R314, R317, R491, R495, R510). -/

namespace Sys2Proof.Machine

/-! ## Method requests (R299 to R301) -/

/-- A home column takes requests to an address now: it is on, and no remap stalls the slice (R37, R38). -/
def State.homeTakes (s : State) (col pa : Nat) : Bool := s.homeCol pa == col && (s.column col).on && !s.isStalled pa

/-- A source's request passes the gate of its line (R317). -/
def State.passes_ (s : State) (logged : Bool) (job col pa core rslot : Nat) : Bool := !logged || s.gateOpen job col pa core rslot

/-- The column receives a message (R290). -/
def State.colReceives (s : State) (col : Nat) (stamp : BitVec 48) : State := s.modColumn col fun c => { c with stamp := stampMax c.stamp stamp }

/-- The request becomes pending for its object. -/
def State.makePending (s : State) (col : Nat) (r : MethodReq) (o : ObjState) : State :=
  let r := { r with order := s.arrivals }
  let o := { o with pending := o.pending ++ [r] }
  let s := if r.logged then s.passGate r.job col r.pa else s
  { s with
    arrivals := s.arrivals + 1
    objects := if (s.objectFor r).isSome then s.objects.map fun x => if x.job == r.job && x.base == r.base then o else x else s.objects ++ [o] }

/-- The elements that stand behind none of their own source. -/
def sourceHeads {α : Type} (same : α → α → Bool) : List α → List α → List α
  | _, [] => []
  | seen, x :: l => if seen.any (same x) then sourceHeads same seen l else x :: sourceHeads same (x :: seen) l

/-- The element that a number picks. -/
def pickOne {α : Type} (k : Nat) : List α → Option α
  | [] => none
  | [x] => some x
  | l => l[k % l.length]?

/-- Two requests of one source to one object, which enter in their order (R299). -/
def MethodReq.sameSource (a b : MethodReq) : Bool :=
  a.pa == b.pa && match a.src, b.src with
    | .lane g _ _, .lane h _ _ => g == h
    | .peer d, .peer e => d == e
    | _, _ => false

/-- The request that enters next: those of one source to an object in their order, the others in any (R299). -/
def State.nextRequest (s : State) (col : Nat) : Option MethodReq :=
  pickOne (Config.fresh s.free) ((sourceHeads MethodReq.sameSource [] s.methods).filter fun r =>
    s.homeTakes col r.pa && s.passes_ r.logged r.job col r.pa r.core r.rslot && s.roomFor col r)

/-- HOME_REQUEST_ARRIVAL (R300). -/
def execHomeRequestArrival (col : Nat) (s : State) : Host.Outcome State Fault Refusal :=
  match s.nextRequest col with
  | none => .next s
  | some r =>
    let t : State := ({ s with methods := s.methods.eraseP (· == r), free := s.free + 1 } : State).colReceives col r.stamp
    if deniedPa r.pa then .next (t.reply r (.error (.illegalOperand, r.base)))
    else
      match s.admitMethod r col (s.objectFor r) with
      | .wait => .next s
      | .fail c _ => .next (t.reply r (.error (c, r.base)))
      | .ok (.error c) => .next (t.reply r (.error (c, r.base)))
      | .ok (.ok o) => .next (t.makePending col r o)

/-! ## Combiner groups (R302 to R304) -/

/-- The lowest free home slot of a core. -/
def State.homeSlot (s : State) (core : Nat) : Option Nat :=
  (List.range 4).find? fun q => !s.groups.any fun g => g.core == core && g.part == q && g.kind == .combiner && g.status != .gone

/-- The batch at the head of an object's requests (R302). -/
def batchOf : List MethodReq → List MethodReq
  | [] => []
  | r :: l => (r :: l.takeWhile fun x => x.method == r.method && x.bytes == r.bytes).take 256

/-- The object a column serves first: one with 256 requests, and otherwise the one whose request is oldest. -/
def State.nextObject (s : State) (col : Nat) : Option ObjState :=
  let ready := s.objects.filter fun o => o.col == col && o.running.isNone && !o.pending.isEmpty
  let age (o : ObjState) : Nat := match o.pending with | r :: _ => r.order | [] => 0
  let first (l : List ObjState) : Option ObjState := l.find? fun o => l.all fun x => age o ≤ age x
  match first (ready.filter fun o => o.pending.length ≥ 256) with
  | some o => some o
  | none => first ready

/-- The context of a combiner group (R304). -/
def combinerCtx (o : ObjState) (r : MethodReq) (batch : List MethodReq) (x : Ctx) : Ctx :=
  let n := batch.length
  let word (i t : Nat) : Word :=
    match batch[t]? with
    | none => 0
    | some q => match i with
      | 0 => lo32 q.arg
      | 1 => if q.bytes == 8 then hi32 q.arg else 0
      | _ => q.ident
  let val (i : Nat) : Lanes := Vector.ofFn fun t : Fin 256 => word i t.val
  let args : List DWord := [o.base, BitVec.ofNat 64 n, BitVec.ofNat 64 r.method, BitVec.ofNat 64 r.bytes]
  let y : Ctx := { x with
    active := firstLanes n
    main := x.main.mapIdx fun i v => if i < 3 then val i else v
    entries := Vector.ofFn fun e : Fin 16 => if e.val < 3 then ⟨some (BitVec.ofNat 8 e.val), .clean, val e.val⟩ else ⟨some (BitVec.ofNat 8 e.val), .free, Lanes.zero⟩
    slots := Vector.ofFn fun w : Fin 8 => if w.val < 4 then ⟨true, args.getD w.val 0⟩ else ⟨false, 0⟩ }
  (args ++ [BitVec.ofNat 64 (2 ^ o.z)]).zipIdx.foldl (fun y p => y.setS p.2 p.1) y

/-- COMBINER_LAUNCH (R302): the batch is recorded (R314), and the group starts with an acquire with CORE (R309). -/
def execCombinerLaunch (col : Nat) (s : State) : Host.Outcome State Fault Refusal :=
  match s.nextObject col, s.homeSlot col with
  | some o, some q =>
    (match o.pending with
     | [] => .next s
     | r :: _ =>
       let batch := batchOf o.pending
       if !(s.column col).on || !s.powered col || batch.any (fun r => r.logged && s.logWaits r.job col) then .next s
       else
         let s := batch.foldl (fun s r => if r.logged then s.record r.job col r.pa r.core r.rslot else s) s
         let g := Group.start .combiner o.job noTeam noTeam 0 ⟨col, q, 0, 32 * q⟩ 32 0 s.free (o.methods.getD r.method 0)
         let g : Group := { g with ctx := combinerCtx o r batch g.ctx, status := .running, hasSlot := true }
         .next (({ s with
           groups := s.groups ++ [g]
           free := s.free + 1
           objects := s.objects.map fun x => if x.job == o.job && x.base == o.base
             then { x with pending := x.pending.drop batch.length, running := some (s.groups.length, batch) } else x } : State).acquire col 1))
  | _, _ => .next s

/-- COMBINER_INSTRUCTION_LIMIT (R495). -/
def execCombinerInstructionLimit (gi : Nat) (s : State) : Host.Outcome State Fault Refusal :=
  onGroup gi s fun g => if g.kind == .combiner && g.living && g.icount ≥ 16777216 then combinerFault s gi 0x7F else s

/-! ## Atomics (R282 to R285, R311) -/

/-- Where an atomic's answer goes: its lane, with the stamp of the block that answers (R290), or nowhere for a peer's. -/
def State.answerAtom (s : State) (r : AtomReq) (x : Except (Cause × DWord) (List Word)) : State :=
  match r.grp with
  | some gi => (match s.blockAt r.pa with | some b => s.tell b (.core r.core) | none => s).answer gi r.slot r.lane x
  | none => s

/-- The issuing core's copy of the line goes, so that its later loads find the atomic's result. -/
def State.dropCopy (s : State) (core pa : Nat) : State :=
  s.modCore core fun c => c.drop fun l => !l.priv && l.line == pa / 128

/-- What stops an atomic at its unit, answered: a denied access, a poisoned line, a peer that refuses (R417, R491, R510). -/
def State.atomStopped (s : State) (r : AtomReq) : Option State :=
  if s.peerRefused r.job r.pa then some (s.answerAtom r (.error (.perm, r.va)))
  else if deniedPa r.pa then some ((s.countDenied r.pa 0).answerAtom r (.ok (wordsOf r.bytes 0)))
  else if s.poisoned r.pa r.bytes then some (s.answerAtom r (.error (.eccUncorrected, lineVa r.va)))
  else none

/-- One atomic, applied to its location. -/
def State.applyAtom (s : State) (r : AtomReq) : State :=
  match s.atomStopped r with
  | some s => s
  | none =>
    let old := if (s.peerOf r.pa).isSome then leNat (s.peerBytes r.pa r.bytes) else s.memFor r.job r.pa r.bytes
    let s := match r.edge, s.blockAt r.pa with | some _, some b => s.hears b r.stamp | _, _ => s
    let s := s.sendAt r.pa 2
    let s := match atomNew r.op r.bytes old r.op1 r.cmp with | some v => s.pokeFor r.job r.pa (leBytes r.bytes v) | none => s
    (s.dropCopy r.core r.pa).answerAtom r (.ok (wordsOf r.bytes old))

/-- The sum of binary32 operands in a grouping that free values choose; `n` bounds their number. -/
def freeSum (seed : Nat) : Nat → List Nat → Nat
  | 0, l => l.headD 0
  | n + 1, l =>
    match l with
    | [] => 0
    | [x] => x
    | _ =>
      let i := Config.fresh (seed + 2 * n) % l.length
      let a := l.getD i 0
      let l := l.eraseIdx i
      let j := Config.fresh (seed + 2 * n + 1) % l.length
      freeSum seed n (l.set j (addF .b32 a (l.getD j 0)))

/-- A subset of a list that free values choose. -/
def freeSubset (seed : Nat) (l : List Nat) : List Nat := (l.zipIdx.filter fun p => Config.fresh (seed + p.2) % 2 == 0).map (·.1)

/-- REASSOC fadd operands at the head of a word, applied as one sum (R284): every returned value is the old value plus a sum of some of
the other operands. -/
def State.applySum (s : State) (l : List AtomReq) : State :=
  match l with
  | [] => s
  | r :: _ =>
    let old := s.memFor r.job r.pa 4
    let ops := l.map (·.op1)
    let n := l.length + 2
    let seed := s.free
    let s : State := { s with free := s.free + (n + 1) * 3 * n }
    let s := s.pokeFor r.job r.pa (leBytes 4 (freeSum seed n (old :: ops)))
    l.zipIdx.foldl (fun s p =>
      let k := seed + 2 * n + 3 * n * p.2
      let some_ := freeSubset k (ops.eraseIdx p.2)
      (s.dropCopy p.1.core p.1.pa).answerAtom p.1 (.ok (wordsOf 4 (freeSum (k + n) n (old :: some_))))) s

/-- An atomic that a home can apply now. -/
def State.atomReady (s : State) (col : Nat) (r : AtomReq) : Bool :=
  r.edge.isNone && s.homeTakes col r.pa && !(s.locked r.pa && !(match r.grp with | some g => s.ownObject g r.pa | none => false)) &&
    s.passes_ r.logged r.job col r.pa r.core r.rslot && !(r.logged && s.logWaits r.job col)

/-- A home takes an atomic off its queue, and logs it where it applies it (R314, R317). -/
def State.takeAtom (s : State) (col : Nat) (r : AtomReq) : State :=
  let s : State := ({ s with atomics := s.atomics.eraseP (· == r) } : State).colReceives col r.stamp
  let s := if r.logged then s.passGate r.job col r.pa else s
  if r.logged && (s.atomStopped r).isNone then s.record r.job col r.pa r.core r.rslot else s

/-- The line of a request is gated: its job replays, and the line's chunks are not exhausted (R317). -/
def State.gated (s : State) (col : Nat) (r : AtomReq) : Bool :=
  r.logged && s.gates.any fun g => g.job == r.job && g.col == col && g.line == r.pa / 128 && !g.chunks.isEmpty

/-- Goes on with a run of one integer operation on a word (R311). -/
def State.applyRun (col : Nat) (first : AtomReq) : List AtomReq → State → State
  | [], s => s
  | r :: l, s =>
    if r.op == first.op && s.atomReady col r then State.applyRun col first l ((s.takeAtom col r).applyAtom r) else s

/-- Requests that a column can apply now to the word of one, oldest first; on a gated line, where each source's requests go in their
order, those to the line (R317). -/
def State.wordQueue (s : State) (col : Nat) (r : AtomReq) : List AtomReq :=
  s.atomics.filter fun x => s.atomReady col x && (if s.gated col r then x.pa / 128 == r.pa / 128 else x.pa / 8 == r.pa / 8)

/-- Two atomics of one source to one word, which are performed in their order (R235). -/
def AtomReq.sameSource (a b : AtomReq) : Bool := a.grp == b.grp && a.pa / 8 == b.pa / 8

/-- The atomic that a column performs next: those of one source to a word in their order, the others in any. -/
def State.nextAtom (s : State) (col : Nat) : Option AtomReq :=
  pickOne (Config.fresh s.free) ((sourceHeads AtomReq.sameSource [] (s.atomics.filter (·.edge.isNone))).filter (s.atomReady col))

/-- The run of requests to its word that one update may take, the first one first; how long it is depends on what has arrived. -/
def State.burlRun (s : State) (col : Nat) (r : AtomReq) : List AtomReq :=
  if s.gated col r then [r]
  else
    let q := r :: (s.wordQueue col r).erase r
    q.take (1 + Config.fresh (s.free + 1) % q.length)

/-- BURL_ATOMIC_UPDATE (R311): one update of a word. -/
def execBurlAtomicUpdate (col : Nat) (s : State) : Host.Outcome State Fault Refusal :=
  match s.nextAtom col with
  | none => .next s
  | some r =>
    let q := s.burlRun col r
    let s : State := { s with free := s.free + 2 }
    if r.op ≤ 9 then .next (State.applyRun col r q s)
    else if r.op == 11 && r.reassoc && (s.atomStopped r).isNone then
      let run := q.takeWhile fun x => x.op == 11 && x.reassoc && x.pa == r.pa && s.atomReady col x && (s.atomStopped x).isNone
      let (k, s) := s.take
      let run := run.take (1 + k % run.length)
      .next ((run.foldl (fun s x => s.takeAtom col x) s).applySum run)
    else .next ((s.takeAtom col r).applyAtom r)

/-- The atomic that an edge unit performs next, of those that can go. -/
def State.nextEdge (s : State) (e : Edge) : Option AtomReq :=
  let ready (r : AtomReq) : Bool :=
    !(s.peerWaits r.job r.pa) && !s.isStalled r.pa && !(s.locked r.pa && !(match r.grp with | some g => s.ownObject g r.pa | none => false))
  pickOne (Config.fresh s.free) ((sourceHeads AtomReq.sameSource [] (s.atomics.filter fun r => r.edge == some e)).filter ready)

/-- EDGE_ATOMIC (R283): a request of the GDDR-7, host or Brual unit; those of one source to a word go in their order. -/
def execEdgeAtomic (e : Edge) (s : State) : Host.Outcome State Fault Refusal :=
  match s.nextEdge e with
  | none => .next s
  | some r => .next (({ s with atomics := s.atomics.eraseP (· == r), free := s.free + 1 } : State).applyAtom r)

end Sys2Proof.Machine
end

