-- ==== Sys2Proof/Machine/Queues.lean ====
section
/-! DEFINITION. Binding queues to slots, releasing them, parking and waking (R74 to R83, R415), and the prologue of a LAUNCH2 (R91). -/

namespace Sys2Proof.Machine

/-! ## What firmware and the signal unit find in a QCB -/

/-- A registered queue that no slot holds. -/
def State.unbound (s : State) (qi : Nat) : Bool :=
  (match s.queues[qi]? with | some q => q.live | none => false) && s.slots.all fun x => !(x.bound && x.queue == qi)

/-- Registered queues that no slot holds. -/
def State.unboundQueues (s : State) : List Nat := (List.range s.queues.length).filter s.unbound

/-- A field of the QCB's current body as a number, 0 where it cannot be read. -/
def State.qcbNat (s : State) (q : Queue) (off n : Nat) : Nat := match s.qcbField q off n with | .ok v => v | _ => 0

/-- The queue's state byte. -/
def State.qcbState (s : State) (q : Queue) : Nat := s.qcbNat q 33 1

/-- A queue that is not bound is treated as STOPPED where its QCB is invalid (R75, R513). -/
def State.checkQcb (s : State) (qi : Nat) : State :=
  match s.queues[qi]? with
  | none => s
  | some q =>
    match s.qcbValid q with
    | .ok false => if s.qcbState q == 3 || s.updating q then s else (s.setQcbState q 3).postError q.job 7 (q.qcb ||| 11)
    | _ => s

/-- The condition a queue is parked on (R75). -/
def State.parkCond (s : State) (q : Queue) : MemCond :=
  let flags := s.qcbNat q 35 1
  { code := BitVec.ofNat 3 (flags / 16), wide := flags / 128 == 1, addr := BitVec.ofNat 64 (s.qcbNat q 36 8), value := BitVec.ofNat 64 (s.qcbNat q 44 8) }

/-- The queue is parked, on a condition that is one. -/
def State.parked (s : State) (qi : Nat) (q : Queue) : Bool :=
  s.unbound qi && s.qcbState q == 2 && !s.updating q && (s.parkCond q).code != 7

/-- The signal unit evaluates the condition of a parked queue, which is set ENABLED where it holds or has held at a write (R82). -/
def State.evalParked (s : State) (qi : Nat) : State :=
  match s.queues[qi]? with
  | none => s
  | some q =>
    if s.parked qi q && (s.noticed.contains (.park qi) || match s.evalCond q.job (s.parkCond q) with | .ok b => b | _ => false) then s.setQcbState q 1
    else s

/-- PARK_CONDITION_EVAL (R82). -/
def execParkConditionEval (qi : Nat) (s : State) : Host.Outcome State Fault Refusal := .next (s.evalParked qi)

/-! ## Rereading (R82, R83) -/

/-- The front end reads the write offset of a slot's queue again. -/
def State.rereadWrite (s : State) (sl : Nat) : State :=
  let x := s.slot sl
  match s.queues[x.queue]? with
  | some q =>
    if !x.bound then s
    else
      (match s.qcbWritten q with
       | .ok w => s.modSlot sl fun x => { x with levels := match x.levels.reverse with | n :: l => ({ n with limit := w } :: l).reverse | [] => [] }
       | _ => s)
  | none => s

/-- The level holds no whole packet. -/
def Nest.dry (n : Nest) : Bool := n.pos ≥ n.limit || n.pos + 4 * fld (n.word 0) 31 16 > n.limit

/-- WRITE_OFFSET_REREAD (R83): with WAKEREG = 0, while the queue holds no packets. -/
def execWriteOffsetReread (sl : Nat) (s : State) : Host.Outcome State Fault Refusal :=
  let x := s.slot sl
  match x.levels, s.queues[x.queue]? with
  | [n], some q => .next (if x.bound && x.stopped.isNone && n.dry && s.qcbNat q 35 1 % 2 == 0 then s.rereadWrite sl else s)
  | _, _ => .next s

/-- The condition of a WAIT that waits in place, inside a LOOP body (R82). -/
def Slot.waitsIn (x : Slot) : Option MemCond := if x.bound && x.levels.any (fun n => n.loop.isSome) then x.waiting else none

/-- A WAIT inside a LOOP body reads its word again, and goes on where its condition holds or has held at a write (R82). -/
def State.recheck (s : State) (sl : Nat) : State :=
  let x := s.slot sl
  let pass (s : State) : State := (s.modSlot sl fun x => { x with waiting := none }.advance).settleSlot sl
  match x.waitsIn with
  | some c =>
    if s.noticed.contains (.wait sl) then pass s
    else
      (match s.evalCond x.job c with
       | .ok true => pass s
       | .ok false => s
       | .fail _ _ => (s.modSlot sl fun x => { x with waiting := none }).stopQueue sl 12
       | .wait => s)
  | none => s

/-! ## Watched words (R82, R90) -/

/-- The word is in device memory, and so has a home. -/
def State.homed (s : State) (job : Nat) (va : DWord) : Bool := match s.devXlate job va .read with | .ok pa => pa < 0x8000000000000 | _ => false

def State.condNow (s : State) (job : Nat) (c : MemCond) : Bool := s.homed job c.addr && match s.evalCond job c with | .ok b => b | _ => false

/-- What a notice is about goes on waiting for it. -/
def State.heeds (s : State) : Notice → Bool
  | .cancel u => (s.cancelWordOf u).isSome
  | .park qi => match s.queues[qi]? with | some q => s.parked qi q | none => false
  | .wait sl => (s.slot sl).waitsIn.isSome

/-- What stands at the word of a notice meets it now. -/
def State.meets (s : State) : Notice → Bool
  | .cancel u => match s.cancelWordOf u with | some (job, va) => s.wordSet job va | none => false
  | .park qi => match s.queues[qi]? with | some q => s.condNow q.job (s.parkCond q) | none => false
  | .wait sl => match (s.slot sl).waitsIn with | some c => s.condNow (s.slot sl).job c | none => false

/-- Every word that is watched. -/
def State.watched (s : State) : List Notice :=
  ((List.range s.launches.length).map fun k => .cancel (.launch k)) ++ ((List.range s.graphs.length).map fun k => .cancel (.graph k)) ++
    ((List.range s.phases.length).map fun k => .cancel (.phase k)) ++ ((List.range s.queues.length).map .park) ++ ((List.range 64).map .wait)

/-- After a step, the watched words that meet what is waited for are noted: a later write does not undo it. -/
def State.notice (s : State) : State :=
  { s with noticed := s.watched.filter fun n => s.heeds n && (s.noticed.contains n || s.meets n) }

/-- WAIT_RECHECK (R82). -/
def execWaitRecheck (sl : Nat) (s : State) : Host.Outcome State Fault Refusal := .next (s.recheck sl)

/-! ## Release (R79) -/

/-- Every level-0 packet that has begun is consumed, and nothing the slot started has teams to admit. -/
def State.atBoundary (s : State) (sl : Nat) : Bool :=
  let x := s.slot sl
  x.begun.isEmpty && x.prologues.isEmpty && (s.headLaunch x).isNone && x.levels.length ≤ 1 && !x.open_ &&
    s.graphs.all fun g => g.slot != sl || g.queue != some x.queue || g.status.isSome

/-- One of the cases of R79 holds: a release is asked for, the quota is reached, the queue stopped or parked, or it holds no packets and
no work is pending. -/
def State.leaves (s : State) (sl : Nat) : Bool :=
  let x := s.slot sl
  x.due || x.stopped.isSome || (s.atBoundary sl && match x.levels with | [n] => n.pos ≥ n.limit | _ => false)

/-- Firmware writes the parking WAIT into the QCB (R82). -/
def State.parkQueue (s : State) (q : Queue) (c : MemCond) : State :=
  let flags := s.qcbNat q 35 1 % 16 + 16 * c.code.toNat + 128 * c.wide.toNat
  s.qcbUpdate q [(33, 1, 2), (35, 1, flags), (36, 8, c.addr.toNat), (44, 8, c.value.toNat)]

/-- SLOT_RELEASE (R79): a bind round follows (R80). -/
def execSlotRelease (sl : Nat) (s : State) : Host.Outcome State Fault Refusal :=
  let x := s.slot sl
  if !x.bound || !s.leaves sl || !s.atBoundary sl then .next s
  else
    let s := match x.waiting, s.queues[x.queue]? with
      | some c, some q => s.parkQueue q c
      | _, _ => s
    .next { s.modSlot sl (fun _ => Slot.empty) with agenda := s.agenda ++ [.bindRound] }

/-! ## Bind rounds (R80) -/

/-- An unbound queue is runnable, and of its job's world (R76, R79); none is while firmware updates its QCB. -/
def State.runnable (s : State) (qi : Nat) : Bool :=
  match s.queues[qi]? with
  | none => false
  | some q =>
    match s.qcbValid q, s.qcbRead q, s.qcbWritten q with
    | .ok true, .ok r, .ok w => s.unbound qi && !s.updating q && s.qcbState q == 1 && w > r && s.qcbNat q 34 1 == (s.jobSecure q.job).toNat
    | _, _, _ => false

/-- Firmware asks for the release of slots until enough are free or releasing, the lowest slot priority first. Log 52: of equal priorities,
the lowest slot number. -/
def State.releaseSlots (s : State) (k : Nat) : State :=
  let going := (List.range 64).filter fun i => !(s.slot i).bound || s.leaves i
  let more := sortBy (fun i => (s.slot i).prio * 64 + i) ((List.range 64).filter fun i => !going.contains i)
  (more.take (min k 64 - going.length)).foldl (fun s i => s.modSlot i fun x => { x with release := true }) s

/-- Firmware binds a queue into the lowest empty slot. The packet quota is firmware's choice (log 1). -/
def State.bindQueue (s : State) (prio : Option Nat) (qi : Nat) : State :=
  match s.queues[qi]?, (List.range 64).find? fun i => !(s.slot i).bound with
  | some q, some sl =>
    match s.jobs[q.job]?, s.qcbRead q, s.qcbWritten q with
    | some j, .ok r, .ok w =>
      let (quota, s) := s.take
      let ring : Nest := ⟨BitVec.ofNat 64 (s.qcbNat q 0 8), s.qcbNat q 8 8, w, r, [], none, 0, 0⟩
      (s.modSlot sl fun _ => { Slot.empty with
        bound := true, queue := qi, qcb := q.qcb, job := q.job, prio := prio.getD (s.qcbNat q 32 1), secure := j.secure, mask := j.coreMask
        quota := quota % 2 ^ 32, round := s.sys.rounds, levels := [ring] }).modQueue qi fun q =>
          { q with passCount := 0, lastBind := s.sys.rounds + 1 }
    | _, _, _ => s
  | _, _ => s

/-- The pass count of a queue. -/
def State.passesOf (s : State) (qi : Nat) : Nat := match s.queues[qi]? with | some q => q.passCount | none => 0

/-- The order in which step 2 of a round binds starved queues: highest pass count, then lowest QCB address. -/
def State.starvedOrder (s : State) (l : List Nat) : List Nat :=
  let top := l.foldl (fun m qi => max m (s.passesOf qi)) 0
  sortBy (fun qi => (top - s.passesOf qi) * 2 ^ 64 + match s.queues[qi]? with | some q => q.qcb.toNat | none => 0) l

/-- The order in which step 3 binds the others: by QCB priority, the one bound longest ago first (log 1). -/
def State.roundOrder (s : State) (l : List Nat) : List Nat :=
  sortBy (fun qi => match s.queues[qi]? with
    | some q => (7 - min 7 (s.qcbNat q 32 1)) * (s.sys.rounds + 2) * (s.queues.length + 1) + q.lastBind * (s.queues.length + 1) + qi
    | none => 0) l

/-- One pass of firmware's binding policy. -/
def State.bindRound (s : State) : State :=
  let s := s.unboundQueues.foldl State.checkQcb s
  let s := s.unboundQueues.foldl State.evalParked s
  let runs := s.unboundQueues.filter s.runnable
  let starved := runs.filter fun qi => s.passesOf qi ≥ 64
  let s := s.releaseSlots starved.length
  let s := (s.starvedOrder starved).foldl (fun s qi => s.bindQueue (some 7) qi) s
  let s := (s.roundOrder (runs.filter fun qi => s.unbound qi && !starved.contains qi)).foldl (fun s qi => s.bindQueue none qi) s
  let s := (runs.filter s.unbound).foldl (fun s qi => s.modQueue qi fun q => { q with passCount := q.passCount + 1 }) s
  { s with sys := { s.sys with rounds := s.sys.rounds + 1 } }

/-- Firmware posts a residency-needed event for every page on which a group has parked since the last post (R413). -/
def State.postPages (s : State) : State :=
  { s with
    pages := []
    events := s.events ++ s.pages.map fun p =>
      { fn := (s.jobs[p.1]?).elim 0 (·.fn), code := 0x82, status := 0, tag := 0, job := p.1
        data := (BitVec.ofNat 57 (65536 * p.2)).signExtend 64 } }

/-- BIND_ROUND (R80): none runs while firmware does not (R516). -/
def execBindRound (s : State) : Host.Outcome State Fault Refusal :=
  .next (if s.sys.fwState == 1 && s.sys.dev == .d0 then s.bindRound.postPages else s)

/-! ## Prologues (R91) -/

/-- What an instruction of a prologue does; none where it may not run there. -/
def prologueInstr (i : Instr) (s : State) : Option (Host.Outcome State Fault Refusal) :=
  match i with
  | .smov x => some (execSmov x s)
  | .sadd x => some (execSadd x s)
  | .ssub x => some (execSsub x s)
  | .smul x => some (execSmul x s)
  | .smulhi x => some (execSmulhi x s)
  | .sand x => some (execSand x s)
  | .sor x => some (execSor x s)
  | .sxor x => some (execSxor x s)
  | .sshl x => some (execSshl x s)
  | .sshr x => some (execSshr x s)
  | .ssar x => some (execSsar x s)
  | .smin x => some (execSmin x s)
  | .smax x => some (execSmax x s)
  | .scmp x => some (execScmp x s)
  | .ssel x => some (execSsel x s)
  | .smovw x k => some (execSmovw x k s)
  | .smovd x k => some (execSmovd x k s)
  | .saddw x k => some (execSaddw x k s)
  | .sld x => some (execSld x s)
  | .sst x => some (execSst x s)
  | .slda x o => some (execSlda x o s)
  | .sstl x o => some (execSstl x o s)
  | .satom x o => some (execSatom x o s)
  | .sread x => some (execSread x s)
  | .swrite x => some (execSwrite x s)
  | .sfadd x => some (execSfadd x s)
  | .sfmul x => some (execSfmul x s)
  | .scvt x => some (execScvt x s)
  | .spopc x => some (execSpopc x s)
  | .sclz x => some (execSclz x s)
  | .sdadd x => some (execSdadd x s)
  | .sdmul x => some (execSdmul x s)
  | .bra sp off => some (execBra sp off s)
  | .brc sp c sense off => some (execBrc sp c sense off s)
  | .call sp off => some (execCall sp off s)
  | .ret sp => some (execRet sp s)
  | .nop32 sp => some (execNop32 sp s)
  | _ => none

/-- How a prologue run ends. -/
inductive PrologueEnd where
  /-- EXIT, with s3. -/
  | exit (s : State) (s3 : DWord)
  | bad (s : State)
  /-- It meets something that must end first: the run is taken again later. -/
  | wait

/-- The request for which the prologue blocks is performed at once, and lands. -/
def State.servePrologue (s : State) (gi : Nat) : State :=
  let mine := s.atomics.filter fun a => a.grp == some gi
  let s := mine.foldl State.applyAtom { s with atomics := s.atomics.filter fun a => a.grp != some gi }
  match s.groups[gi]? with
  | some g =>
    match g.status, g.block with
    | .blocked _, some p =>
      if p.settled && (deferredTrap p).isNone then s.setGroup gi { g with ctx := g.ctx.deliver p, block := none, status := .running } else s
    | _, _ => s
  | none => s

/-- An instruction that leaves the address as it is only where it waits. -/
def prologueStays : Instr → Bool
  | .bra .. | .brc .. | .call .. | .ret .. => false
  | _ => true

/-- Runs a prologue, at most `n` instructions more. -/
def prologueLoop (gi : Nat) : Nat → State → PrologueEnd
  | 0, s => .bad s
  | n + 1, s =>
    match s.groups[gi]? with
    | none => .bad s
    | some g =>
      match s.fetch g with
      | .wait => .wait
      | .trap _ _ => .bad s
      | .instr (.exit _) => .exit s (g.ctx.getS 3)
      | .instr i =>
        match prologueInstr i { s with cur := gi } with
        | some (.next t) =>
          let t := t.servePrologue gi
          (match t.groups[gi]? with
           | some h =>
             match h.status with
             | .running => if prologueStays i && h.ctx.pc == g.ctx.pc then .wait else prologueLoop gi n t
             | .priWait _ => .wait
             | _ => .bad s
           | none => .bad s)
        | _ => .bad s

/-- A core whose caches and registers the Taproot core has to itself. -/
def State.bareCore (s : State) : State :=
  { s.modCore 0 (fun c => { c with l1 := [], tlb := [], pfLines := [], pfVault := [] }) with l2tlb := s.l2tlb.set 0 [] }

/-- The machine after a prologue run: memory and what lies beyond the cores are as the run left them (log 42). -/
def State.afterPrologue (s t : State) : State :=
  { t with cores := s.cores, l2tlb := s.l2tlb, groups := s.groups, events := s.events, cur := s.cur }

/-- Runs one iteration of a prologue on the Taproot core. -/
def State.runPrologue (s : State) (job : Nat) (p : Prologue) : PrologueEnd :=
  let g := Group.start .team job noTeam noTeam 0 ⟨0, 0, 0, 128⟩ 8 0 0 p.addr
  let x := ((g.ctx.setS 0 p.arg).setS 1 p.params).setS 2 (BitVec.ofNat 64 p.iter)
  let g : Group := { g with ctx := x, status := .running, hasSlot := true }
  let b := s.bareCore
  match prologueLoop s.groups.length 4096 { b with groups := s.groups ++ [g] } with
  | .exit t v => .exit (s.afterPrologue t) v
  | .bad t => .bad (s.afterPrologue t)
  | .wait => .wait

/-- A prologue of a slot is changed, or removed. -/
def State.setPrologue (s : State) (sl : Nat) (p : Prologue) (q : Option Prologue) : State :=
  s.modSlot sl fun x => { x with prologues := x.prologues.filterMap fun r => if r == p then q else some r }

/-- A prologue's packet ends, with the statuses of what it did beyond its launches. -/
def State.endPrologue (s : State) (sl : Nat) (p : Prologue) (more : List (Option DoneStatus)) : State :=
  let s := ((s.setPrologue sl p none).nodeEnd p.graph.1 p.graph.2 more).startNodes p.graph.1
  (s.settle).settleSlot sl

/-- The record in which the outcome of a node's launch, or of the block's, is written (R88). -/
def State.prologueRecord (s : State) (p : Prologue) (own : DWord) : DWord :=
  if p.isNode then ((s.graphs[p.graph.1]?).bind fun g => g.nodes[p.graph.2]?).elim 0 (·.record) else own

/-- The priority of a prologue's launch: a graph's replaces 0 (R88). -/
def State.prologuePrio (s : State) (p : Prologue) (own : Nat) : Nat :=
  if own == 0 then (s.graphs[p.graph.1]?).elim 0 (·.prio) else own

/-- The words of the parameter block. -/
def State.paramWords (s : State) (job : Nat) (va : DWord) : Dev (Nat → Word) :=
  (s.readRun job 2 va 64).bind fun bs => .ok fun i => BitVec.ofNat 32 (leNat bs / 2 ^ (32 * i))

/-- The packet ends without a launch, and the block's record is written REJECTED. -/
def State.rejectPrologue (s : State) (sl : Nat) (job : Nat) (p : Prologue) : State :=
  let own := match s.paramWords job p.params with | .ok w => (launchBody w).record | _ => 0
  let s := (s.writeRecord job (s.prologueRecord p own) .rejected 0).getD s
  s.endPrologue sl p [some .rejected]

/-- The launch of an iteration: the packet ends with it, or the prologue runs again once it is complete. -/
def State.prologueLaunch (s : State) (sl : Nat) (job : Nat) (p : Prologue) (again : Bool) : Option State :=
  match s.paramWords job p.params with
  | .wait => none
  | .fail _ _ => some (s.rejectPrologue sl job p)
  | .ok w =>
    let b := launchBody w
    if launchFault w != 0 then some (s.rejectPrologue sl job p)
    else
      let b := { b with record := s.prologueRecord p b.record, prio := s.prologuePrio p b.prio }
      let src := s.slotSrc sl (some p.graph)
      let src := { src with phase := (s.graphs[p.graph.1]?).bind (·.phase) }
      match s.startLaunch b src with
      | .wait => none
      | .fail _ _ => some (s.rejectPrologue sl job p)
      | .ok (s, l) =>
        let s := s.modSlot sl fun x => { x.addTo p.at_ [l] with launches := x.launches ++ [l] }
        if again then some (s.setPrologue sl p (some { p with iter := p.iter + 1, waits := some l }))
        else some (s.endPrologue sl p [])

/-- The first prologue of a slot that waits for no launch. -/
def State.duePrologue (s : State) (x : Slot) : Option Prologue :=
  x.prologues.find? fun p => match p.waits.bind fun l => s.launches[l]? with | some l => l.complete | none => true

/-- PROLOGUE_RUN (R91). -/
def execPrologueRun (sl : Nat) (s : State) : Host.Outcome State Fault Refusal :=
  let x := s.slot sl
  match s.duePrologue x with
  | none => .next s
  | some p =>
    .next (match s.runPrologue x.job p with
      | .wait => s
      | .bad t => t.rejectPrologue sl x.job p
      | .exit t v =>
        if v == 2 then t.endPrologue sl p []
        else if v == 0 || v == 1 then (t.prologueLaunch sl x.job p (v == 1 && p.iter < 65535)).getD s
        else t.rejectPrologue sl x.job p)

end Sys2Proof.Machine
end

