-- ==== Sys2Proof/Machine/Streams.lean ====
section
/-! DEFINITION. The stream engines: layout records, boxes, and the entries of their queues (R243 to R249, R326, R327, R504, R505). -/

namespace Sys2Proof.Machine

/-! ## An engine's accesses -/

/-- The physical address an engine's access reaches; it waits where the line is held, its slice is on the move or the way to a peer is down (R38, R306, R506). -/
def State.engXlate (s : State) (core job : Nat) (va : DWord) (a : Access) : Dev Nat :=
  match s.xlate core job va a false with
  | .fault c => .fail c va
  | .miss => .fail .xlate va
  | .pri => .wait
  | .ok pa _ =>
    if s.peerRefused job pa then .fail .perm va
    else if s.edgeWaits job pa then .wait
    else .ok pa

/-- A read of `n` bytes at an address aligned to `n`. -/
def State.engRead (s : State) (core job : Nat) (va : DWord) (n : Nat) : Dev Nat :=
  if va.toNat % n != 0 then .fail .align va
  else (s.engXlate core job va .read).bind fun pa =>
    if s.poisoned pa n then .fail .eccUncorrected va
    else if deniedPa pa then .ok 0
    else .ok (s.devBytes job pa n)

/-- A write of `n` bytes at an address aligned to `n`. -/
def State.engWrite (s : State) (core job : Nat) (va : DWord) (n v : Nat) : Dev State :=
  if va.toNat % n != 0 then .fail .align va
  else (s.engXlate core job va .write).bind fun pa =>
    if deniedPa pa then .ok (s.countDenied pa 0) else .ok ((s.sendAt pa 1).pokeFor job pa (leBytes n v))

/-! ## Layout records (R244) -/

structure Layout where
  base : DWord
  format : Nat
  kind : Nat
  rank : Nat
  swizzled : Bool
  dims : List Nat
  strides : List Nat
  deriving DecidableEq, Repr

/-- Bits of an element. -/
def Layout.width (l : Layout) : Nat :=
  match l.kind with
  | 0 => 16 | 1 => 16 | 2 => 8 | 3 => 8 | 4 => 6 | 5 => 6 | 6 => 4 | 7 => 32 | 8 => 8 | 9 => 32 | _ => 4

/-- The storage formats that hold an element kind (R244). -/
def kindStored (format kind : Nat) : Bool :=
  match format with
  | 0 => kind ≤ 3 || (7 ≤ kind && kind ≤ 9)
  | 1 => kind ≤ 3 || (7 ≤ kind && kind ≤ 9)
  | 2 => kind ≤ 6
  | 3 => kind == 4 || kind == 5
  | 4 => kind == 6 || kind == 10
  | _ => false

/-- A layout record read from its 64 bytes; none where it is malformed. -/
def layoutOf (v : Nat) : Option Layout :=
  let f (off n : Nat) : Nat := recField v off n
  let l : Layout := ⟨BitVec.ofNat 64 (f 0 8), f 8 1, f 9 1, f 10 1, f 11 1 == 0, (List.range 5).map fun i => f (12 + 4 * i) 4,
    (List.range 4).map fun i => f (32 + 8 * i) 8⟩
  if kindStored l.format l.kind && 1 ≤ l.rank && l.rank ≤ 5 && f 11 1 ≤ 1 && ((l.format != 1 && l.format != 2) || l.rank == 2) &&
      (l.format != 2 || (l.dims.getD 0 0 % 128 == 0 && l.dims.getD 1 0 % 32 == 0))
  then some l else none

/-- The element lies within the tensor. -/
def Layout.has (l : Layout) (x : List Nat) : Bool := (List.range l.rank).all fun i => x.getD i 0 < l.dims.getD i 0

/-- The byte address of an element and its first bit there. -/
def Layout.place (l : Layout) (x : List Nat) : DWord × Nat :=
  let x0 := x.getD 0 0
  let rows := (List.range 4).foldl (fun a i => a + x.getD (i + 1) 0 * l.strides.getD i 0) 0
  let at_ (n : Nat) : DWord := l.base + BitVec.ofNat 64 n
  match l.format with
  | 1 =>
    let (e, x1) := (l.width / 8, x.getD 1 0)
    (at_ (x1 / 64 * l.strides.getD 0 0 + x0 / 64 * 4096 * e + (x1 % 64 * 64 + x0 % 64) * e), 0)
  | 0 => (at_ (x0 * (l.width / 8) + rows), 0)
  | _ => (at_ (rows + x0 * l.width / 8), x0 * l.width % 8)

/-- Reads an element: 0 outside the tensor. -/
def State.readElem (s : State) (core job : Nat) (l : Layout) (x : List Nat) : Dev Nat :=
  if !l.has x then .ok 0
  else
    let (va, bit) := l.place x
    if l.format ≤ 1 then s.engRead core job va (l.width / 8)
    else
      (s.engRead core job va 1).bind fun a =>
        if bit + l.width ≤ 8 then .ok (a / 2 ^ bit % 2 ^ l.width)
        else (s.engRead core job (va + 1) 1).bind fun b => .ok ((a + 256 * b) / 2 ^ bit % 2 ^ l.width)

/-- Writes an element: nothing outside the tensor. -/
def State.writeElem (s : State) (core job : Nat) (l : Layout) (x : List Nat) (v : Nat) : Dev State :=
  if !l.has x then .ok s
  else
    let (va, bit) := l.place x
    if l.format ≤ 1 then s.engWrite core job va (l.width / 8) v
    else
      let n := if bit + l.width ≤ 8 then 1 else 2
      let put (old : Nat) : Nat := old - old / 2 ^ bit % 2 ^ l.width * 2 ^ bit + v % 2 ^ l.width * 2 ^ bit
      (s.engRead core job va 1).bind fun a =>
        (if n == 1 then .ok 0 else s.engRead core job (va + 1) 1).bind fun b =>
          let w := put (a + 256 * b)
          (s.engWrite core job va 1 w).bind fun s => if n == 1 then .ok s else s.engWrite core job (va + 1) 1 (w / 256)

/-! ## Boxes (R245) -/

/-- A box: start and extent of each dimension. -/
structure Box where
  starts : List Nat
  exts : List Nat
  deriving DecidableEq, Repr

/-- The box that s registers give (R246). -/
def boxOf (rank : Nat) (regs : List DWord) : Box :=
  ⟨(List.range rank).map fun i => (regs.getD i 0).toNat % 2 ^ 32, (List.range rank).map fun i => (regs.getD i 0).toNat / 2 ^ 32⟩

/-- The box's rows. -/
def Box.rows (b : Box) : Nat := b.exts.tail.foldl (· * ·) 1
def Box.e0 (b : Box) : Nat := b.exts.getD 0 0

/-- Every extent is at least 1, and no dimension ends past 2^32. -/
def Box.ok (b : Box) : Bool := (b.starts.zip b.exts).all fun p => 1 ≤ p.2 && p.1 + p.2 ≤ 2 ^ 32

/-- Element `j` of row `r` of the box, as coordinates of the tensor. -/
def Box.coord (b : Box) (r j : Nat) : List Nat :=
  let rec go : List Nat → List Nat → Nat → List Nat
    | s :: ss, e :: es, r => (s + r % e) :: go ss es (r / e)
    | _, _, _ => []
  (b.starts.getD 0 0 + j) :: go b.starts.tail b.exts.tail r

/-- Bytes of a row of `n` elements: FP6 packs 16 in 12 bytes, 4-bit kinds two in a byte. -/
def Layout.rowBytes (l : Layout) (n : Nat) : Nat :=
  if l.width == 6 then (n + 15) / 16 * 12 else if l.width == 4 then (n + 1) / 2 else n * (l.width / 8)

/-- The box is within R245 and R327 for a place in scratchpad of a size. -/
def boxFits (l : Layout) (b : Box) (off size : Nat) : Bool :=
  b.ok && l.rowBytes b.e0 ≤ 128 && off % 128 == 0 && off + 128 * b.rows ≤ size

/-- A box of a ZMASK tensor is of whole strips and chunks (R327). -/
def zBoxOk (b : Box) : Bool :=
  b.starts.getD 0 0 % 128 == 0 && b.e0 == 128 && b.starts.getD 1 0 % 32 == 0 && b.exts.getD 1 0 % 32 == 0

/-- What moving a box, or part of it, did. -/
inductive Moved where
  | ok (s : State)
  | failed (s : State) (c : Cause) (va : DWord)
  | wait

/-- Goes on with what a Dev gives. -/
def Moved.of (s : State) : Dev State → Moved
  | .ok s => .ok s
  | .fail c va => .failed s c va
  | .wait => .wait

/-- The elements of a row of the box as one number. -/
def State.readRow (s : State) (core job : Nat) (l : Layout) (b : Box) (r : Nat) : Nat → Dev Nat
  | 0 => .ok 0
  | n + 1 => (s.readRow core job l b r n).bind fun v => (s.readElem core job l (b.coord r n)).bind fun x => .ok (v + x * 2 ^ (l.width * n))

/-- The core array with a canonical row of 128 bytes (R245). -/
def Core.putRow (c : Core) (swizzled : Bool) (base off v : Nat) : Core :=
  if swizzled then c.setPanelRow base off v else c.arraySet (base + off) (leBytes 128 v)

def Core.getRow (c : Core) (core : Nat) (swizzled : Bool) (base off : Nat) : Nat :=
  if swizzled then c.panelRow core base off else leNat (c.arrayBytes core (base + off) 128)

/-- Rows 0 to `n - 1` of a box into scratchpad, each as `rd` gives it. -/
def State.fillRows (s : State) (core base off : Nat) (swizzled : Bool) (rd : Nat → Dev Nat) : Nat → Moved
  | 0 => .ok s
  | n + 1 =>
    match s.fillRows core base off swizzled rd n with
    | .ok s =>
      (match rd n with
       | .ok v => .ok (s.modCore core fun c => c.putRow swizzled base (off + 128 * n) v)
       | .fail c va => .failed s c va
       | .wait => .wait)
    | r => r

/-- Elements 0 to `n - 1` of a row out to the tensor. -/
def State.drainRow (s : State) (core job : Nat) (l : Layout) (b : Box) (r v : Nat) : Nat → Moved
  | 0 => .ok s
  | n + 1 =>
    match s.drainRow core job l b r v n with
    | .ok s => Moved.of s (s.writeElem core job l (b.coord r n) (v / 2 ^ (l.width * n) % 2 ^ l.width))
    | r => r

/-- Rows 0 to `n - 1` of a box out of scratchpad. -/
def State.drainRows (s : State) (core job base off : Nat) (l : Layout) (b : Box) : Nat → Moved
  | 0 => .ok s
  | n + 1 =>
    match s.drainRows core job base off l b n with
    | .ok s => s.drainRow core job l b n ((s.core core).getRow core l.swizzled base (off + 128 * n)) b.e0
    | r => r

/-! ## ZMASK (R326, R327) -/

/-- A group of a ZMASK block: its mask and its stored bits. -/
abbrev ZGroup := Nat × Nat

/-- 4-byte words of a group's stored elements. -/
def zWords (w mask : Nat) : Nat := (popCount 32 mask * w + 31) / 32

/-- The offset after `n` groups. -/
def zSkip (rd : Nat → Dev Nat) (w : Nat) : Nat → Nat → Dev Nat
  | off, 0 => .ok off
  | off, n + 1 => (rd off).bind fun mask => zSkip rd w (off + 4 + 4 * zWords w mask) n

/-- `n` groups from an offset on. -/
def zRead (rd : Nat → Dev Nat) (w : Nat) : Nat → Nat → Dev (List ZGroup)
  | _, 0 => .ok []
  | off, n + 1 =>
    (rd off).bind fun mask => (readWords rd (off + 4) (zWords w mask)).bind fun bits =>
      (zRead rd w (off + 4 + 4 * zWords w mask) n).bind fun l => .ok ((mask, bits) :: l)

/-- The bytes of a group. -/
def zBytes (w : Nat) (g : ZGroup) : List (BitVec 8) := leBytes 4 g.1 ++ leBytes (4 * zWords w g.1) g.2

/-- The group of 32 elements: +0 and −0 are left out (R327). -/
def zPack (kind w : Nat) (l : List Nat) : ZGroup :=
  let out (x : Nat) : Bool := x == 0 || (kind ≤ 7 && x == 2 ^ (w - 1))
  let kept := l.zipIdx.filter fun p => !out p.1
  (kept.foldl (fun m p => m + 2 ^ p.2) 0, kept.zipIdx.foldl (fun v p => v + p.1.1 * 2 ^ (w * p.2)) 0)

/-- The groups that a box of a ZMASK tensor covers; those beyond the tensor hold no stored element. -/
def State.zBox (s : State) (core job : Nat) (l : Layout) (b : Box) : Dev (List ZGroup) :=
  let (c0, n) := (b.starts.getD 1 0 / 32, b.exts.getD 1 0 / 32)
  let have_ := if b.starts.getD 0 0 ≥ l.dims.getD 0 0 then 0 else min n (l.dims.getD 1 0 / 32 - c0)
  let strip := l.base + BitVec.ofNat 64 (b.starts.getD 0 0 / 128 * l.strides.getD 0 0)
  let rd (off : Nat) : Dev Nat := s.engRead core job (strip + BitVec.ofNat 64 off) 4
  if have_ == 0 then .ok (List.replicate (128 * n) (0, 0))
  else
    (zSkip rd l.width 0 (128 * c0)).bind fun off =>
      (zRead rd l.width off (128 * have_)).bind fun g => .ok (g ++ List.replicate (128 * (n - have_)) (0, 0))

/-- Row `r` of the box that groups cover, as one number. -/
def zRow (w : Nat) (g : List ZGroup) (r : Nat) : Nat :=
  packBits w 128 fun j =>
    let (mask, bits) := g.getD (128 * (r / 32) + j) (0, 0)
    (zElems w mask bits 0 32).getD (r % 32) 0

/-- Every element of a box by rows, padded to 128 columns and whole chunks (R327). -/
def State.boxElems (s : State) (core job : Nat) (l : Layout) (b : Box) : Nat → Dev (List Nat)
  | 0 => .ok []
  | n + 1 => (s.boxElems core job l b n).bind fun rs => (s.readRow core job l b n b.e0).bind fun v => .ok (rs ++ [v])

/-- The groups of a compressed box. -/
def zCompress (l : Layout) (rows : List Nat) : List ZGroup :=
  (List.range ((rows.length + 31) / 32)).flatMap fun c =>
    (List.range 128).map fun j =>
      zPack l.kind l.width ((List.range 32).map fun m => (rows.getD (32 * c + m) 0) / 2 ^ (l.width * j) % 2 ^ l.width)

/-! ## The entries -/

/-- Where the scratchpad of an entry's team lies, and its size. -/
def State.entryScratch (s : State) (e : SqEntry) : Nat × Nat :=
  match s.teams[e.team]? with | some t => (t.scrBase * 65536, t.scrLen * 65536) | none => (0, 0)

/-- The layout record of an entry; none where it is malformed. -/
def State.entryLayout (s : State) (core : Nat) (e : SqEntry) : Dev (Option Layout) :=
  if e.record.toNat % 64 != 0 then .fail .align e.record
  else ((List.range 16).foldl (fun (r : Dev Nat) i =>
    r.bind fun v => (s.engRead core e.job (e.record + BitVec.ofNat 64 (4 * i)) 4).bind fun w => .ok (v + w * 2 ^ (32 * i))) (.ok 0)).bind
      fun v => .ok (layoutOf v)

/-- Moves a box into scratchpad. -/
def State.fillBox (s : State) (core : Nat) (e : SqEntry) (l : Layout) (b : Box) (off : DWord) : Moved :=
  let (base, size) := s.entryScratch e
  if !boxFits l b off.toNat size || (l.format == 2 && !zBoxOk b) then .failed s .illegalOperand off
  else if l.format == 2 then
    match s.zBox core e.job l b with
    | .ok g => s.fillRows core base off.toNat l.swizzled (fun r => .ok (zRow l.width g r)) b.rows
    | .fail c va => .failed s c va
    | .wait => .wait
  else s.fillRows core base off.toNat l.swizzled (fun r => s.readRow core e.job l b r b.e0) b.rows

/-- Moves a box out of scratchpad. -/
def State.drainBox (s : State) (core : Nat) (e : SqEntry) (l : Layout) (b : Box) (off : DWord) : Moved :=
  let (base, size) := s.entryScratch e
  if !boxFits l b off.toNat size || l.format == 2 then .failed s .illegalOperand off
  else s.drainRows core e.job base off.toNat l b b.rows

/-- Writes a box into the weight buffer (R246, R327). -/
def State.weightBox (s : State) (core : Nat) (e : SqEntry) (l : Layout) (b : Box) (off : DWord) : Moved :=
  if !b.ok || b.e0 > 128 || off.toNat + 512 * ((b.rows + 31) / 32) > 524288 || (l.format == 2 && !zBoxOk b) then .failed s .illegalOperand off
  else
    let groups := if l.format == 2 then s.zBox core e.job l b
      else (s.boxElems core e.job l b b.rows).bind fun rows => Dev.ok (zCompress l rows)
    match groups with
    | .ok g =>
      let bs := g.flatMap (zBytes l.width)
      if off.toNat + bs.length > 524288 then .failed s .illegalOperand off
      else .ok (s.modCore core fun c => { c with weight := SMap.setList c.weight off.toNat bs })
    | .fail c va => .failed s c va
    | .wait => .wait

/-- Row `i` of a gather: the row of the tensor that the index names (R247). -/
def State.gatherRow (s : State) (core : Nat) (e : SqEntry) (l : Layout) (i : Nat) : Dev Nat :=
  (s.engRead core e.job (e.args.getD 1 0 + BitVec.ofNat 64 (4 * i)) 4).bind fun x =>
    if x ≥ l.dims.getD 1 0 then .ok 0 else s.readRow core e.job l ⟨[0, x], [l.dims.getD 0 0, 1]⟩ 0 (l.dims.getD 0 0)

/-- The move of an entry that is one box or a gather. -/
def State.moveEntry (s : State) (core : Nat) (e : SqEntry) : Moved :=
  let off := e.args.getD 0 0
  match s.entryLayout core e with
  | .fail c va => .failed s c va
  | .wait => .wait
  | .ok none => .failed s .illegalOperand 0
  | .ok (some l) =>
    match e.kind with
    | .copy dir =>
      let b := boxOf l.rank e.args.tail
      (match dir with
       | 0 => s.fillBox core e l b off
       | 1 => s.drainBox core e l b off
       | _ => s.weightBox core e l b off)
    | .gather =>
      let b : Box := ⟨[0, 0], [l.dims.getD 0 0, (e.args.getD 2 0).toNat]⟩
      let (base, size) := s.entryScratch e
      if l.rank != 2 || l.format == 2 || !boxFits l b off.toNat size then .failed s .illegalOperand off
      else s.fillRows core base off.toNat l.swizzled (s.gatherRow core e l) b.rows
    | _ => .ok s

/-- The move of box `n` of a ring. -/
def State.moveBox (s : State) (core : Nat) (e : SqEntry) (drain : Bool) (m n : Nat) : Moved :=
  let off := e.args.getD 0 0 + BitVec.ofNat 64 (n % m) * e.args.getD 1 0
  match s.entryLayout core e with
  | .fail c va => .failed s c va
  | .wait => .wait
  | .ok none => .failed s .illegalOperand 0
  | .ok (some l) =>
    let b := boxOf l.rank (e.args.drop 3)
    let last := l.rank - 1
    let b := { b with starts := b.starts.set last (b.starts.getD last 0 + n * b.exts.getD last 0) }
    if drain then s.drainBox core e l b off else s.fillBox core e l b off

/-- A queue's first error for a producer group is kept until it is told (R505). A malformed record has no address. -/
def State.entryError (s : State) (core q : Nat) (e : SqEntry) (c : Cause) (va : DWord) (write : Bool) : State :=
  let t : TrapInfo := { cause := c, code := 0, pc := e.pc, addr := if c == .illegalOperand && va == 0 && (s.entryLayout core e matches .ok none) then none else some va,
                        lanes := 0, write := write, fetch := false, deferred := true, done := 0, replies := [], iword := e.iword, oword := e.oword,
                        reqAddr := [], reqData := [] }
  s.modCore core fun k =>
    let l := k.sqErr[Fin.ofNat 2 q]
    if (l.lookup e.grp).isSome then k else { k with sqErr := k.sqErr.set (Fin.ofNat 2 q) ((e.grp, t) :: l) }

/-- The physical addresses of a box's elements, one of each line. A compressed box counts by its first line (log 11). -/
def State.boxPas (s : State) (core job : Nat) (l : Layout) (b : Box) : List Nat :=
  let at_ (x : List Nat) : List Nat := if !l.has x then [] else match s.xlate core job (l.place x).1 .read false with | .ok pa _ => [pa / 128] | _ => []
  let all := if l.format == 2 then at_ b.starts else (List.range b.rows).flatMap fun r => (List.range b.e0).flatMap fun j => at_ (b.coord r j)
  all.eraseDups.map (· * 128)

/-- The addresses that an entry's box reaches. -/
def State.entryPas (s : State) (core : Nat) (e : SqEntry) : List Nat :=
  match s.entryLayout core e with
  | .ok (some l) =>
    (match e.kind with
     | .copy _ => s.boxPas core e.job l (boxOf l.rank e.args.tail)
     | .gather => (List.range (e.args.getD 2 0).toNat).flatMap fun i =>
         match s.engRead core e.job (e.args.getD 1 0 + BitVec.ofNat 64 (4 * i)) 4 with
         | .ok x => s.boxPas core e.job l ⟨[0, x], [l.dims.getD 0 0, 1]⟩
         | _ => []
     | .ring _ _ _ _ =>
       let (b, last) := (boxOf l.rank (e.args.drop 3), l.rank - 1)
       s.boxPas core e.job l { b with starts := b.starts.set last (b.starts.getD last 0 + e.box * b.exts.getD last 0) }
     | .fence _ _ => [])
  | _ => []

/-- The engine exchanges the messages of an entry with its core and with the homes of what it moves (R290). -/
def State.engineStamp (s : State) (core q : Nat) (e : SqEntry) : State :=
  ((s.entryPas core e).foldl (fun s pa => s.exchange (.engine core q) pa) (s.tell (.core core) (.engine core q))).tell (.engine core q) (.core core)

/-- The head of a queue leaves, and the next entry begins. -/
def State.popEntry (s : State) (core q : Nat) : State :=
  (s.modCore core fun c => { c with sq := c.sq.set (Fin.ofNat 2 q) (c.sq[Fin.ofNat 2 q].drop 1) }).beginHead core q

/-- The head of a queue is changed. -/
def State.setHead (s : State) (core q : Nat) (e : SqEntry) : State :=
  s.modCore core fun c => { c with sq := c.sq.set (Fin.ofNat 2 q) (e :: c.sq[Fin.ofNat 2 q].drop 1) }

/-- The entry's team has been killed: the entry makes no arrival (R483). -/
def State.entryDead (s : State) (e : SqEntry) : Bool :=
  match s.teams[e.team]? with
  | some t => match s.launches[t.launch]? with | some l => l.cancelled | none => false
  | none => true

/-- The same fence stands at the head of every queue it names (R249). -/
def State.fenceReady (s : State) (core id qs : Nat) : Bool :=
  (List.range 2).all fun q => !qs.testBit q || match ((s.core core).sq[Fin.ofNat 2 q]).head? with
    | some e => e.kind == .fence id qs
    | none => false

/-- The entry at the head of a queue. -/
def State.headEntry (s : State) (core q : Nat) : Option SqEntry := ((s.core core).sq[Fin.ofNat 2 q]).head?

/-- The entry's last write is performed: it arrives and leaves (R246, R257). -/
def State.endEntry (s : State) (core q : Nat) (e : SqEntry) : State := ((s.teamArrive e.team e.nb).engineStamp core q e).popEntry core q

/-- A release with STRM that the producer group issued before the entry has not been performed (R286). -/
def State.entryWaits (s : State) (e : SqEntry) : Bool := match s.groups[e.grp]? with | some g => e.after.any g.strmPending | none => false

/-- STREAM_ENTRY_COMPLETE (R246, R247, R249). -/
def execStreamEntryComplete (core q : Nat) (s : State) : Host.Outcome State Fault Refusal :=
  match s.headEntry core q with
  | none => .next s
  | some e =>
    if s.entryDead e then .next (s.popEntry core q)
    else
      if s.entryWaits e then .next s
      else
      match e.kind with
      | .fence id qs =>
        .next (if s.fenceReady core id qs then (List.range 2).foldl (fun s k => if qs.testBit k then s.popEntry core k else s) s else s)
      | .ring _ _ _ _ => .next s
      | .copy d =>
        (match s.moveEntry core e with
         | .ok s => .next (s.endEntry core q e)
         | .failed t c va => .next ((t.entryError core q e c va (d == 1)).endEntry core q e)
         | .wait => .next s)
      | .gather =>
        (match s.moveEntry core e with
         | .ok s => .next (s.endEntry core q e)
         | .failed t c va => .next ((t.entryError core q e c va false).endEntry core q e)
         | .wait => .next s)

/-- Flips of the barrier that a ring's next box waits for (R248). -/
def ringNeeds (drain : Bool) (m n : Nat) : Nat := if drain then n + 1 else if n ≥ m then n - m + 1 else 0

/-- The ring's wait before its next box is over. -/
def State.ringReady (s : State) (e : SqEntry) (drain : Bool) (m full empty : Nat) : Bool :=
  match s.teams[e.team]? with
  | some t => (t.bars[Fin.ofNat 16 (if drain then full else empty)]).flips - e.began.getD 0 ≥ ringNeeds drain m e.box
  | none => true

/-- The ring has moved a box, and completes after its last. -/
def State.ringGoesOn (s : State) (core q : Nat) (e : SqEntry) : State :=
  let s := (s.teamArrive e.team e.nb).engineStamp core q e
  if e.box + 1 ≥ (e.args.getD 2 0).toNat then s.popEntry core q else s.setHead core q { e with box := e.box + 1 }

/-- One box of the ring at the head of a queue; a ring in error goes on without moving data (R504). -/
def ringBox (side : Bool) (core q : Nat) (s : State) : State :=
  match s.headEntry core q with
  | none => s
  | some e =>
    match e.kind with
    | .ring drain m full empty =>
      if drain != side then s
      else if s.entryDead e then s.popEntry core q
      else if s.entryWaits e || !s.ringReady e drain m full empty then s
      else if e.err then s.ringGoesOn core q e
      else
        (match s.moveBox core e drain m e.box with
         | .ok s => s.ringGoesOn core q e
         | .failed t c va => (t.entryError core q e c va drain).ringGoesOn core q { e with err := true }
         | .wait => s)
    | _ => s

/-- STREAM_FILL_BOX (R248). -/
def execStreamFillBox (core q : Nat) (s : State) : Host.Outcome State Fault Refusal := .next (ringBox false core q s)

/-- STREAM_DRAIN_BOX (R248). -/
def execStreamDrainBox (core q : Nat) (s : State) : Host.Outcome State Fault Refusal := .next (ringBox true core q s)

end Sys2Proof.Machine
end

