-- ==== Sys2Proof/Machine/Whorls.lean ====
section
/-! DEFINITION. Retiring tile operations, and the Whorl units: bins, tiles and networks (R328, R341, R344 to R348, R498, R502). -/

namespace Sys2Proof.Machine

/-- TILE_OPERATION_RETIRE (R328). -/
def execTileOperationRetire (core tile : Nat) (s : State) : Host.Outcome State Fault Refusal := .next (retireTile core tile s)

/-- A stalled fetch may retry: its page no longer misses (R498). -/
def State.fetchReady (s : State) (core job : Nat) (va : DWord) : Bool :=
  match s.xlate core job va .read true with
  | .miss => false
  | .pri => false
  | _ => true

/-- A_FETCH_RESUME (R498). -/
def execAFetchResume (core tile : Nat) (s : State) : Host.Outcome State Fault Refusal :=
  match s.tileQueue core tile with
  | o :: rest =>
    .next (match o.stalled with
      | some va =>
        if s.fetchReady core o.job va then
          s.modCore core fun c => { c with tileQ := c.tileQ.set (Fin.ofNat 16 tile) ({ o with stalled := none } :: rest) }
        else s
      | none => s)
  | [] => .next s

/-! ## Bins and tiles (R344) -/

def whorlIx (p : Nat) : Fin 32 := Fin.ofNat 32 p
def State.modWhorl (s : State) (p : Nat) (f : Whorl → Whorl) : State := { s with whorls := s.whorls.set (whorlIx p) (f s.whorls[whorlIx p]) }

/-- A row enters its network's bin, or a free one; none where there is none. A full bin forms a tile. -/
def Whorl.enter (w : Whorl) (job : Nat) (h : DWord) (r : WRow) : Option Whorl :=
  let same (b : WBin) : Bool := b.job == job && b.handle == h
  match w.bins.find? same with
  | some b =>
    let b := { b with rows := b.rows ++ [r] }
    if b.rows.length ≥ 256 then some { w with bins := w.bins.filter fun x => !same x, tiles := w.tiles ++ [b] }
    else some { w with bins := w.bins.map fun x => if same x then b else x }
  | none => if w.bins.length ≥ 16 then none else some { w with bins := w.bins ++ [⟨job, h, [r]⟩] }

/-- Rows enter in order until one finds no bin: the unit, and the rows that wait. -/
def Whorl.enterAll (job : Nat) (h : DWord) : Whorl → List WRow → Whorl × List WRow
  | w, [] => (w, [])
  | w, r :: l =>
    match w.enter job h r with
    | some w => Whorl.enterAll job h w l
    | none => (w, r :: l)

/-- The queues in which a tile's layer operations stand: physical tiles 14 and 15 of both arrays (R328, R346). -/
def layerQueues (pair : Nat) : List (Nat × Nat) := [(2 * pair, 14), (2 * pair, 15), (2 * pair + 1, 14), (2 * pair + 1, 15)]

/-- A layer operation, which belongs to no team. -/
def layerOp : TileOp := ⟨.layer, nobody, noTeam, 0, 0, none, 0⟩

/-- `n` tiles have formed: their layer operations enter the queues. -/
def State.formTiles (s : State) (pair n : Nat) : State :=
  (List.range n).foldl (fun s _ => (layerQueues pair).foldl (fun s q => s.pushTile q.1 q.2 layerOp) s) s

/-- The oldest tile's operations have come to the front of their queues. -/
def State.layersDue (s : State) (pair : Nat) : Bool :=
  (layerQueues pair).all fun q => match s.tileQueue q.1 q.2 with | o :: _ => o.kind == .layer | [] => false

/-- They retire. -/
def State.popLayers (s : State) (pair : Nat) : State := (layerQueues pair).foldl (fun s q => s.popTile q.1 q.2 layerOp none) s

/-- WHORL_REQUEST_ARRIVAL (R344): the oldest NEVAL's lanes enter; later NEVALs wait behind those that find no bin. -/
def execWhorlRequestArrival (pair : Nat) (s : State) : Host.Outcome State Fault Refusal :=
  let w := s.whorls[whorlIx pair]
  .next (match w.queue with
    | [] => s
    | q :: rest =>
      let (v, left) := Whorl.enterAll q.job q.handle w q.rows
      (s.modWhorl pair fun _ => { v with queue := if left.isEmpty then rest else { q with rows := left } :: rest }).formTiles pair
        (v.tiles.length - w.tiles.length))

/-- WHORL_IDLE_TILE_FORM (R344). -/
def execWhorlIdleTileForm (pair bin : Nat) (s : State) : Host.Outcome State Fault Refusal :=
  .next (match (s.whorls[whorlIx pair]).bins[bin]? with
    | some b => (s.modWhorl pair fun w => { w with bins := w.bins.eraseIdx bin, tiles := w.tiles ++ [b] }).formTiles pair 1
    | none => s)

/-! ## Networks (R341, R345) -/

/-- A layer: its columns as chunks of 32 weights, biases and activation; the weight kind. -/
structure NetLayer where
  kind : Nat
  chunks : Nat
  groups : List ZGroup
  bias : List Nat
  act : Nat
  width : Nat
  deriving DecidableEq, Repr

/-- A network: its input width and layers. -/
structure Network where
  n0 : Nat
  layers : List NetLayer
  deriving DecidableEq, Repr

/-- What reading a network gives: none where the descriptor breaks R341. -/
abbrev NetRead := Dev (Option Network)

/-- The Whorl unit's read of a 4-byte word, through the leader core's TLBs (R345). -/
def State.netWord (s : State) (pair job : Nat) (va : DWord) : Dev Nat := s.engRead (2 * pair) job va 4

/-- `n` words from an address. -/
def State.netWords (s : State) (pair job : Nat) (va : DWord) : Nat → Dev (List Nat)
  | 0 => .ok []
  | n + 1 => (s.netWord pair job va).bind fun v => (s.netWords pair job (va + 4) n).bind fun l => .ok (v :: l)

/-- Groups of a weight block hold no element outside `n` rows and `m` columns (R341). -/
def groupsInside (n m : Nat) (g : List ZGroup) : Bool :=
  g.zipIdx.all fun p =>
    let (c, j) := (p.2 / 128, p.2 % 128)
    p.1.1 == 0 || (j < m && p.1.1 < 2 ^ min 32 (n - 32 * c))

/-- Reads the `n` groups of a block, no byte at or beyond its size; none where they would extend past it. -/
def boundedGroups (rd : Nat → Dev Nat) (w size : Nat) : Nat → Nat → Dev (Option (List ZGroup))
  | _, 0 => .ok (some [])
  | off, n + 1 =>
    if off + 4 > size then .ok none
    else
      (rd off).bind fun mask =>
        let k := zWords w mask
        if off + 4 + 4 * k > size then .ok none
        else
          (readWords rd (off + 4) k).bind fun bits =>
            (boundedGroups rd w size (off + 4 + 4 * k) n).bind fun r => .ok (r.map fun l => (mask, bits) :: l)

/-- Layer `l` of a network whose input is `n` wide; `last` says that it is the last one. -/
def State.readLayer (s : State) (pair job : Nat) (rec_ : DWord) (n : Nat) (last : Bool) : Dev (Option NetLayer) :=
  (s.netWords pair job rec_ 8).bind fun r =>
    let f (off k : Nat) : Nat := recField (leNat (r.flatMap (leBytes 4))) off k
    let (wa, ba, m, act, kind, size) := (f 0 8, f 8 8, f 16 1, f 17 1, f 18 1, f 24 4)
    let widthOk := if last then 4 ≤ m && m ≤ 64 else 1 ≤ m && m ≤ 128
    if !widthOk || act > 4 || !(kind == 0 || kind == 2 || kind == 6) || f 19 5 != 0 || f 28 4 != 0 || wa % 4 != 0 || ba % 4 != 0 then .ok none
    else
      let c := (n + 31) / 32
      (boundedGroups (fun off => s.netWord pair job (BitVec.ofNat 64 (wa + off))) (kindFmt kind).width size 0 (128 * c)).bind fun g =>
        match g with
        | none => .ok none
        | some g =>
          if !groupsInside n m g then .ok none
          else
            (if ba == 0 then .ok (List.replicate m 0) else s.netWords pair job (BitVec.ofNat 64 ba) m).bind fun b =>
              .ok (some ⟨kind, c, g, b, act, m⟩)

/-- The layers of a network from a record on: `k` are left. -/
def State.readLayers (s : State) (pair job : Nat) (rec_ : DWord) (n : Nat) : Nat → Dev (Option (List NetLayer))
  | 0 => .ok (some [])
  | k + 1 =>
    (s.readLayer pair job rec_ n (k == 0)).bind fun l =>
      match l with
      | none => .ok none
      | some l => (s.readLayers pair job (rec_ + 32) l.width k).bind fun r => .ok (r.map fun t => l :: t)

/-- Reads a network (R341). -/
def State.readNetwork (s : State) (pair job : Nat) (h : DWord) : NetRead :=
  (s.netWords pair job h 8).bind fun w =>
    let v := leNat (w.flatMap (leBytes 4))
    let (count, n0) := (recField v 0 1, recField v 1 1)
    if count == 0 || count > 6 || n0 < 8 || n0 > 64 || v / 65536 != 0 then .ok none
    else (s.readLayers pair job (h + 32) n0 count).bind fun l => .ok (l.map fun l => ⟨n0, l⟩)

/-! ## Evaluation (R346) -/

/-- 1.0 in binary16. -/
def one16 : Nat := 0x3C00

/-- 1 ÷ (1 + e^−x) rounded to binary16; beyond 64 either way it is 1 or +0 once rounded. -/
def sigmoid16 (x : Dy) : Nat :=
  if (Dy.ofInt 64).lt x then one16
  else if x.lt (Dy.ofInt (-64)) then 0
  else
    let e := expDy x.fx
    let d := (Dy.ofInt 1).add e
    ratioRes .b16 false e.i.natAbs e.e d.i.natAbs d.e

/-- tanh x rounded to binary16, for x other than 0. -/
def tanh16 (x : Dy) : Nat :=
  if (Dy.ofInt 32).lt x then one16
  else if x.lt (Dy.ofInt (-32)) then one16 + Fmt.b16.signBit true
  else
    let e := expDy (x.add x).fx
    let (a, b) := (e.sub (Dy.ofInt 1), e.add (Dy.ofInt 1))
    ratioRes .b16 (a.i < 0) a.i.natAbs a.e b.i.natAbs b.e

/-- The binary16 value of a layer's output (R346). -/
def activation (act acc : Nat) : Nat :=
  let f := Fmt.b16
  match Fmt.b32.num acc with
  | .nan _ => f.nan
  | .inf neg =>
    (match act with
     | 1 => if neg then 0 else f.inf
     | 3 => if neg then 0 else one16
     | 4 => f.signBit neg + one16
     | _ => f.signBit neg + f.inf)
  | .fin neg m e =>
    let x : Num := .fin neg m e
    let d : Dy := ⟨signed neg m, e⟩
    (match act with
     | 0 => rne f x
     | 1 => if neg || m == 0 then 0 else rne f x
     | 2 => if neg then rne f (.fin neg m (e - 4)) else rne f x
     | 3 => sigmoid16 d
     | _ => if m == 0 then f.signBit neg else tanh16 d)

/-- One layer on a row. -/
def NetLayer.apply (l : NetLayer) (x : List Nat) : List Nat :=
  (List.range l.width).map fun j =>
    activation l.act (chunkChain .b16 (kindFmt l.kind) (fun k => x.getD k 0)
      (fun c => let (mask, bits) := l.groups.getD (128 * c + j) (0, 0); zElems (kindFmt l.kind).width mask bits 0 32) 0 l.chunks (l.bias.getD j 0))

/-- The network on a row. -/
def Network.eval (n : Network) (x : List Nat) : List Nat := n.layers.foldl (fun x l => l.apply x) x

/-- The width of the network's result. -/
def Network.outWidth (n : Network) : Nat := (n.layers.getLast?.map (·.width)).getD 0

/-! ## Returning a tile (R347, R348, R502) -/

/-- The words of a row's outputs: element 1 of the last is +0 where their number is odd (R342). -/
def rowWords (y : List Nat) : List Word := (List.range ((y.length + 1) / 2)).map fun i => BitVec.ofNat 32 (y.getD (2 * i) 0 + 65536 * y.getD (2 * i + 1) 0)

/-- The request in a group's slot has settled. -/
def State.slotSettled (s : State) (gi slot : Nat) : Option Pend := (s.groups[gi]?).bind fun g => (g.pend slot).bind fun p => if p.settled then some p else none

/-- One row's answer; the NEVAL's batch counts it once its last row is answered (R332, R333). -/
def State.answerRow (s : State) (h : DWord) (r : WRow) (y : Option (List Nat)) : State :=
  let before := s.slotSettled r.grp r.slot
  let s := s.answer r.grp r.slot r.lane (match y with | some l => .ok (rowWords l) | none => .error (.whorlLane, h))
  match before, s.slotSettled r.grp r.slot with
  | none, some p => s.modGroup r.grp fun g => g.batchDone r.batch (!p.causes.isEmpty)
  | _, _ => s

/-- The rows of a tile are answered, each as `f` gives it. -/
def State.answerRows (s : State) (t : WBin) (f : WRow → Option (List Nat)) : State :=
  t.rows.foldl (fun s r => s.answerRow t.handle r (f r)) s

/-- What a network gives a row: nothing where the widths differ (R348). -/
def Network.row (n : Network) (r : WRow) : Option (List Nat) :=
  if n.n0 != r.nin || n.outWidth != r.nout then none else some (n.eval r.inputs)

/-- The state without the oldest tile of the pair, its layer operations retired. -/
def State.popWhorl (s : State) (pair : Nat) : State := (s.modWhorl pair fun w => { w with tiles := w.tiles.drop 1 }).popLayers pair

/-- WHORL_TILE_RETURN (R346): the oldest tile of the pair, once its layer operations are due in their queues. -/
def execWhorlTileReturn (pair : Nat) (s : State) : Host.Outcome State Fault Refusal :=
  match (s.whorls[whorlIx pair]).tiles with
  | [] => .next s
  | t :: _ =>
    if !s.layersDue pair then .next s
    else
    match s.readNetwork pair t.job t.handle with
    | .wait => .next s
    | .fail _ va => .next (((s.popWhorl pair).answerRows t fun _ => none).postError t.job 3 va)
    | .ok none => .next ((s.popWhorl pair).answerRows t fun _ => none)
    | .ok (some n) => .next ((s.popWhorl pair).answerRows t n.row)

end Sys2Proof.Machine
end

