-- ==== Sys2Proof/Machine/Peers.lean ====
section
/-! DEFINITION. Collectives, Brual messages and links, and the host's accesses (R254, R289, R406, R407, R416 to R420, R424, R506 to
R510). -/

namespace Sys2Proof.Machine

/-! ## Collectives (R254, R420, R508, R509) -/

/-- One step of a collective on an element. -/
def credStep (op ty a b : Nat) : Nat :=
  match op, ty with
  | 0, 0 => addF .b32 a b
  | 0, 1 => addF .bf16 a b
  | 0, _ => (a + b) % 2 ^ 32
  | o, 0 => (fminmax .b32 (o == 1) false a b).bits
  | o, 1 => (fminmax .bf16 (o == 1) false a b).bits
  | o, _ => if (asInt 4 a < asInt 4 b) == (o == 1) then a else b

/-- Vectors combined in order. -/
def credFold (op ty : Nat) : List (List Word) → List Word
  | [] => []
  | v :: l => l.foldl (fun a b => (a.zip b).map fun p => BitVec.ofNat 32 (credStep op ty p.1.toNat p.2.toNat)) v

/-- The vector of a device: its contributions in ascending order of core and group, then its children's in ascending device number. Log 55:
two groups of one core with the same number, in two teams or spawned, stand in the order in which they were admitted. -/
def CollEntry.combined (e : CollEntry) : List Word :=
  let (op, ty) := e.op.getD (0, 0)
  credFold op ty ((sortBy (fun c => (c.core * 256 + c.group) * 2 ^ 64 + c.grp) e.contribs).map (·.vals) ++ (sortBy (·.1) e.fromChildren).map (·.2))

/-- The bytes of a vector of elements. -/
def credVector (ty : Nat) (v : List Word) : List (BitVec 8) := v.flatMap fun x => leBytes (credBytes ty) x.toNat

/-- Writes the result and the status word of one participant. A vector that cannot be written is dropped, and the status is DONE all the
same (log 55). -/
def State.credDeliver (s : State) (ty : Nat) (v : List Word) (c : Contribution) : State :=
  (s.devPut c.job c.dest (credVector ty v)).credStatus c 1

/-- The entry is ready for its next instance. -/
def CollEntry.fresh (e : CollEntry) : CollEntry := { e with op := none, contribs := [], fromChildren := [], sent := false, aborted := false, late := 0 }

def State.modColl (s : State) (ident : Nat) (f : CollEntry → CollEntry) : State :=
  { s with colls := s.colls.map fun e => if e.ident == ident then f e else e }

/-- The final vector reaches a device: its participants' destinations are written, and its children told. -/
def State.credFinal (s : State) (e : CollEntry) (v : List Word) : State :=
  let ty := (e.op.getD (0, 0)).2
  let s := e.fromChildren.foldl (fun s c => s.sendTo c.1 4) s
  (e.contribs.foldl (fun s c => s.credDeliver ty v c) s).modColl e.ident CollEntry.fresh

/-- A contributor's team is pre-empted, and the instance waits (R508). -/
def State.credHeld (s : State) (e : CollEntry) : Bool :=
  e.contribs.any fun c => match (s.groups[c.grp]?).bind fun g => s.teams[g.team]? with | some t => t.preempt || t.saved || t.resuming | none => false

/-- A contributing job has faulted or been cancelled (R508). -/
def State.credBroken (s : State) (e : CollEntry) : Bool :=
  e.contribs.any fun c =>
    (match s.jobs[c.job]? with | some j => !j.live | none => false) ||
      match (s.groups[c.grp]?).bind fun g => s.launches[g.launch]? with | some l => l.faulted || l.cancelled | none => false

/-- Every expected contributor of an aborted instance has contributed or its launch is complete (R509): no launch of the jobs that
contributed runs. -/
def State.credSettled (s : State) (e : CollEntry) : Bool :=
  s.launches.all fun l => l.complete || !(e.contribs.isEmpty || e.contribs.any fun c => c.job == l.job)

/-- COLLECTIVE_COMBINE (R420). -/
def execCollectiveCombine (ident : Nat) (s : State) : Host.Outcome State Fault Refusal :=
  match s.colls.find? fun e => e.ident == ident with
  | none => .next s
  | some e =>
    .next (if e.aborted then (if s.credSettled e then s.modColl ident CollEntry.fresh else s)
      else if s.credBroken e then s.abortColl ident
      else if e.sent || s.credHeld e || e.contribs.length < e.locals || e.fromChildren.length < e.children ||
          (e.contribs.isEmpty && e.fromChildren.isEmpty) then s
      else if e.parent == 0xFFFF then s.credFinal e e.combined
      else (s.sendTo e.parent 4).modColl ident fun e => { e with sent := true })

/-- A collective message from a device. -/
def State.credMessage (s : State) (src ident op ty : Nat) (vals : List Word) (fromParent : Bool) : State :=
  match s.colls.find? fun e => e.ident == ident with
  | none => s
  | some e =>
    if e.aborted then s
    else if vals.isEmpty then s.abortColl ident
    else if fromParent then (if e.sent && e.parent == src then s.credFinal e vals else s)
    else if e.op.isSome && e.op != some (op, ty) then s.abortColl ident
    else if e.fromChildren.any fun c => c.1 == src then s
    else s.modColl ident fun e => { e with op := some (op, ty), fromChildren := e.fromChildren ++ [(src, vals)] }

/-! ## Messages from peers (R416 to R419) -/

/-- The physical address here of an offset in this device's peer aperture (R416). -/
def State.peerLocal (s : State) (off : Nat) : Option Nat :=
  let pa := if off < 0x10000000000 then off else 0x1000000000000 + (off - 0x10000000000)
  match target s.gddrTop pa with
  | .gddr => if off < 0x10000000000 then some pa else none
  | .direct _ => if off < 0x10000000000 then none else some pa
  | _ => none

/-- The job that a link number names. -/
def State.linkJob (s : State) (link : Nat) : Option Nat := s.jobs.findIdx? fun j => j.live && j.link == link

/-- What a peer's request reaches: none where it is refused (R417). -/
def State.peerReach (s : State) (src link off n : Nat) : Option Nat :=
  (s.peerLocal off).bind fun pa =>
    if Config.peerExports src link (pa / 65536) && Config.peerExports src link ((pa + n - 1) / 65536) then some pa else none

/-- A peer's request reaches secure memory from the non-secure world (R510). -/
def State.peerBarred (s : State) (src pa : Nat) : Bool := s.secureAt pa && (s.portTo src true).isNone

/-- A message is applied (R417, R419): none where it must wait for a line. -/
def State.applyMessage (s : State) (src : Nat) (stamp : BitVec 48) : PeerMessage → Option State
  | .read link off len =>
    let s := s.sendTo src 0
    match s.peerReach src link off len with
    | some pa => some (if s.peerBarred src pa then s.countDenied pa (2 ^ 31 + src) else s)
    | none => some s
  | .write link off data =>
    match s.peerReach src link off data.length with
    | some pa =>
      if s.peerBarred src pa then some (s.countDenied pa (2 ^ 31 + src)) else if s.locked pa || s.isStalled pa then none else some (s.poke pa data)
    | none => some s
  | .atomic link off aop bytes op1 cmp =>
    match s.peerReach src link off bytes, s.linkJob link with
    | some pa, some j =>
      if s.peerBarred src pa then some ((s.countDenied pa (2 ^ 31 + src)).sendTo src 2)
      else
        let r : AtomReq := { grp := none, slot := 0, lane := 0, job := j, core := 0, rslot := 0, logged := false, va := 0, pa := pa, edge := some .brual,
                             op := aop.toNat, bytes := bytes, op1 := op1.toNat % 2 ^ (8 * bytes), cmp := cmp.toNat % 2 ^ (8 * bytes), reassoc := false, stamp := stamp }
        some (({ s with atomics := s.atomics ++ [r] } : State).sendTo src 2)
    | _, _ => some (s.sendTo src 2)
  | .callm link base method bytes arg core slot lane post pair =>
    match s.linkJob link with
    | none => some (s.sendTo src 3)
    | some j =>
      match s.devXlate j base .write with
      | .ok pa =>
        if Config.peerExports src link (pa / 65536) && (match target s.gddrTop pa with | .gddr => true | .direct _ => true | _ => false) then
          let ident := 2 ^ 31 + 2 ^ 23 * (src % 256) + 2 ^ 21 * post.toNat + 2 ^ 15 * (core % 64) + 2 ^ 8 * (slot % 128) + lane % 256
          let r : MethodReq := { job := j, base := base, method := method, bytes := bytes, arg := arg, ident := BitVec.ofNat 32 ident, post := post,
                                 pair := pair, src := .peer src, pa := pa, order := 0, stamp := stamp, core := 0, rslot := 0, logged := false }
          some { s with methods := s.methods ++ [r] }
        else some (s.sendTo src 3)
      | .wait => none
      | .fail _ _ => some (s.sendTo src 3)
  | .collective ident op ty vals fromParent => some (s.credMessage src ident op ty vals fromParent)

/-- The class of a message (R418). -/
def classOf : PeerMessage → Nat
  | .read .. => 0 | .write .. => 1 | .atomic .. => 2 | .callm .. => 3 | .collective .. => 4

/-- The incoming stream of a device and class, as it stands. -/
def State.inStream (s : State) (dev cls : Nat) : InStream := (s.inStreams.find? fun x => x.dev == dev && x.cls == cls).getD ⟨dev, cls, 0, []⟩

def State.setStream (s : State) (x : InStream) : State :=
  { s with inStreams := x :: s.inStreams.filter fun y => !(y.dev == x.dev && y.cls == x.cls) }

/-- Applies the messages of a stream that are next in sequence; `n` bounds them. -/
def State.drainStream (s : State) (dev cls : Nat) : Nat → State
  | 0 => s
  | n + 1 =>
    let x := s.inStream dev cls
    match x.ahead.lookup x.next with
    | none => s
    | some m =>
      match s.applyMessage dev s.sys.hostStamp m with
      | none => s
      | some s => (s.setStream { x with next := (x.next + 1) % 2 ^ 32, ahead := x.ahead.filter fun a => a.1 != x.next }).drainStream dev cls n

/-- A stream goes on as far as it can; its next message waits where a line is held. -/
def State.pumpStream (s : State) (dev cls : Nat) : State :=
  let s := (s.taken (.stream dev cls)).drainStream dev cls ((s.inStream dev cls).ahead.length)
  let x := s.inStream dev cls
  if (x.ahead.lookup x.next).isSome then s.later (.stream dev cls) else s

/-- A message's tag was good on the ports to its device (R507), which hear the stamp that the peer sent, a free value (R290, log 18). -/
def State.portsHeard (s : State) (dev : Nat) : State :=
  let (r, s) := s.take
  { s with ports := s.ports.map fun p => if p.peer == some dev then { p with fails := 0, stamp := stampMax p.stamp (BitVec.ofNat 48 r) } else p }

/-- PEER_MESSAGE_RECEIVE (R418): a message already applied is discarded, one ahead of a missing sequence waits. -/
def execPeerMessageReceive (src seq : Nat) (msg : PeerMessage) (s : State) : Host.Outcome State Fault Refusal :=
  let x := s.inStream src (classOf msg)
  if !(s.ports.toList.any fun p => p.peer == some src) then .next s
  else
    let s := s.portsHeard src
    if (seq + 2 ^ 32 - x.next) % 2 ^ 32 ≥ 2 ^ 31 then .next s
    else
      let s := s.setStream { x with ahead := if (x.ahead.lookup seq).isSome then x.ahead else x.ahead ++ [(seq, msg)] }
      .next (s.pumpStream src (classOf msg))

/-! ## Links (R418, R424, R506, R507) -/

def portIx (p : Nat) : Fin 16 := Fin.ofNat 16 p
def State.modPort (s : State) (p : Nat) (f : Port → Port) : State := { s with ports := s.ports.set (portIx p) (f s.ports[portIx p]) }

/-- PEER_LINK_LOSS (R418): its messages go out on another port. -/
def execPeerLinkLoss (port : Nat) (s : State) : Host.Outcome State Fault Refusal := .next (s.modPort port fun p => { p with peer := none, fails := 0 })

/-- A collective instance has a participant on a device: its parent, a child heard from, or a child of which nothing is known yet
(log 18). -/
def CollEntry.involves (e : CollEntry) (dev draw : Nat) : Bool :=
  e.links.contains dev || (e.fromChildren.length < e.children && draw % 2 == 0)

/-- PEER_DESTINATION_TIMEOUT (R506): what waits for the device finds it lost and fails with PERM. -/
def execPeerDestinationTimeout (dev : Nat) (s : State) : Host.Outcome State Fault Refusal :=
  if (s.ports.toList.any fun p => p.peer == some dev) || s.lost.contains dev then .next s
  else
    let s : State := { s with lost := dev :: s.lost }
    let s := s.colls.foldl (fun s e =>
      let (r, s) := s.take
      if e.involves dev r && !(e.contribs.isEmpty && e.fromChildren.isEmpty) then s.abortColl e.ident else s) s
    .next (s.post { fn := 0, code := 0x84, status := 0, tag := 4, job := 0, data := BitVec.ofNat 64 (dev % 256) })

/-- GCM_TAG_FAILURE (R424, R507). -/
def execGcmTagFailure (port : Nat) (s : State) : Host.Outcome State Fault Refusal :=
  .next (s.modPort port fun p =>
    if p.peer.isNone || !p.secure then p else if p.fails ≥ 15 then { p with peer := none, fails := 0 } else { p with fails := p.fails + 1 })

/-- BRUAL_LINK_TRAINING (R418, R424): the streams of a device that no port reached restart at 0. The world of an idle port is
firmware's choice (log 1). -/
def execBrualLinkTraining (port dev : Nat) (s : State) : Host.Outcome State Fault Refusal :=
  let fresh := !(s.ports.toList.any fun p => p.peer == some dev)
  let s : State := if fresh then { s with
      outSeq := s.outSeq.filter fun o => o.1 != dev
      inStreams := s.inStreams.filter fun x => x.dev != dev } else s
  let (r, s) := s.take
  .next (({ s with lost := s.lost.filter (· != dev) } : State).modPort port fun p =>
    { p with peer := some dev, fails := 0, secure := if p.peer.isNone then r % 2 == 1 else p.secure })

/-! ## The host (R288, R406, R407) -/

/-- The home answers a snoop once no combiner holds the line; what it holds is what memory holds, so nothing else changes. -/
def State.snooped (s : State) (pa : Nat) : State :=
  if target s.gddrTop pa != .host then s
  else if s.locked pa then s.later (.snoop pa)
  else
    let s := (s.taken (.snoop pa)).colReceives (s.homeCol pa) s.sys.hostStamp
    { s with sys := { s.sys with hostStamp := stampMax s.sys.hostStamp (s.column (s.homeCol pa)).stamp } }

/-- HOST_SNOOP (R406). -/
def execHostSnoop (pa : Nat) (s : State) : Host.Outcome State Fault Refusal := .next (s.snooped pa)

/-- The host may reach an address: device memory that it sees, or memory of its own. -/
def State.hostReaches (s : State) (pa : Nat) : Bool := match target s.gddrTop pa with | .gddr => true | .host => true | _ => false

/-- Bytes that an access of the host touches; a plain read is of one. -/
def hostOpBytes : HostOp → Nat
  | .read => 1
  | .write l => l.length
  | .fetchAdd w _ => if w then 8 else 4
  | .swap w _ => if w then 8 else 4
  | .cas w _ _ => if w then 8 else 4

/-- What it stores over the old value; an AtomicOp acts at its natural alignment (R404; log 43). -/
def hostOpStores (pa old : Nat) (op : HostOp) : Option (List (BitVec 8)) :=
  let n := hostOpBytes op
  let new (v : Nat) : Option (List (BitVec 8)) := if pa % n == 0 then some (leBytes n v) else none
  match op with
  | .read => none
  | .write l => some l
  | .fetchAdd _ v => new (old + v.toNat)
  | .swap _ v => new v.toNat
  | .cas _ cmp v => if old == cmp.toNat % 2 ^ (8 * n) then new v.toNat else none

/-- An access of the host is performed at the point of coherence (R288, R407); one to secure memory is not (R510). The host's writes to its
own memory are the same (log 43). -/
def State.hostPerform (s : State) (pa : Nat) (op : HostOp) : State :=
  let n := hostOpBytes op
  if !(s.hostReaches pa && s.hostReaches (pa + n - 1)) then s
  else if s.secureAt pa || s.secureAt (pa + n - 1) then s.countDenied pa (2 ^ 30)
  else match hostOpStores pa (memNat s.mem pa n) op with
    | some l => s.poke pa l
    | none => s

/-- Its line is held by a combiner, or its slice is on the move (R38, R306). -/
def State.hostWaits (s : State) (pa : Nat) (op : HostOp) : Bool :=
  let at_ (a : Nat) : Bool := s.locked a || (target s.gddrTop a == .gddr && s.isStalled a)
  s.hostReaches pa && (at_ pa || at_ (pa + hostOpBytes op - 1))

def Waiting.isAccess : Waiting → Bool
  | .access _ _ => true
  | _ => false

/-- The host's accesses are performed in the order in which its interface delivers them (R288). -/
def State.hostAccess (s : State) (pa : Nat) (op : HostOp) : State :=
  if s.sys.journal.any Waiting.isAccess || s.hostWaits pa op then
    { s with sys := { s.sys with journal := s.sys.journal ++ [.access pa op] } }
  else s.hostPerform pa op

/-- The first of those that wait is tried again. -/
def State.hostRetry (s : State) (pa : Nat) (op : HostOp) : State :=
  if s.sys.journal.find? Waiting.isAccess == some (.access pa op) && !s.hostWaits pa op then (s.taken (.access pa op)).hostPerform pa op else s

/-- HOST_MEMORY_ACCESS (R404, R407, R510). -/
def execHostMemoryAccess (pa : Nat) (op : HostOp) (s : State) : Host.Outcome State Fault Refusal := .next (s.hostAccess pa op)

end Sys2Proof.Machine
end

