-- ==== Sys2Proof/Machine/Canopy.lean ====
section
/-! DEFINITION. Page walks, the host's translations, invalidation, the slice map, column power and the patrol scrubber (R37 to R39,
R264, R265, R409, R491, R494). -/

namespace Sys2Proof.Machine

/-! ## Translations (R263 to R265, R409) -/

/-- PAGE_WALK (R263, R264): a leaf that passes is held in the pair's L2 TLB; a failed walk leaves nothing. -/
def execPageWalk (job pair : Nat) (va : DWord) (s : State) : Host.Outcome State Fault Refusal :=
  match s.walkLeaf job va with
  | none => .next s
  | some l =>
    .next (match s.xlateWith job va .read false (some l) with
      | .ok _ _ =>
        let pages := 2 ^ (l.bits - 16)
        let (r, s) := s.take
        let k : Fin 32 := Fin.ofNat 32 pair
        { s with l2tlb := s.l2tlb.set k (tlbAdd s.l2tlb[k] 8192 r ⟨job, pageOf va / pages * pages, pages, l.e⟩) }
      | _ => s)

/-- Groups that wait for a PRI response on a page go on. -/
def State.priDone (s : State) (job page : Nat) : State :=
  { s with groups := s.groups.map fun g =>
      match g.status with
      | .priWait va => if g.job == job && pageOf va == page then { g with status := .running } else g
      | _ => g }

/-- A translation that the host gives (R409): cacheable and resident, not secure, no park-on-miss. Its place in host memory, and
whether it may be read, written and executed, are the host's. -/
def hostLeaf (place perm : Nat) : DWord :=
  BitVec.ofNat 64 (0x8000000000000 + place % 2 ^ 34 * 65536 + 0xB1 + perm % 4 * 2 + (if perm / 4 % 4 == 3 then 2 ^ 52 else 0))

/-- PRI_RESPONSE (R409). -/
def execPriResponse (job : Nat) (va : DWord) (success : Bool) (s : State) : Host.Outcome State Fault Refusal :=
  match s.jobs[job]? with
  | none => .next s
  | some j =>
    if !j.live || !j.hostShared || !canonical va then .next s
    else
      let page := pageOf va
      let others := s.priRefused.filter (· != (job, page))
      if success then
        let (a, s) := s.take
        let (b, s) := s.take
        let mine (e : TlbEntry) : Bool := e.job == job && e.page == page
        .next (({ s with priRefused := others, ats := ⟨job, page, 1, hostLeaf a b⟩ :: s.ats.filter fun e => !mine e } : State).priDone job page)
      else .next (({ s with priRefused := (job, page) :: others } : State).priDone job page)

/-- A leaf that covers one of `n` pages of a job from `lo`. -/
def TlbEntry.inRange (e : TlbEntry) (job lo n : Nat) : Bool := e.job == job && e.page < lo + n && lo < e.page + e.pages

/-- The group's private region lies partly in the pages (R238). -/
def Group.privateIn (g : Group) (job lo n : Nat) : Bool :=
  g.job == job && g.privLimit != 0 && match g.area with | some a => pageOf a < lo + n && lo ≤ pageOf (a + BitVec.ofNat 64 (256 * g.privLimit - 1)) | none => false

/-- Every TLB drops the pages (R265); private stores made through them reach memory. -/
def State.dropPages (s : State) (job lo n : Nat) : State :=
  let keep (l : List TlbEntry) : List TlbEntry := l.filter fun e => !e.inRange job lo n
  let s := s.groups.zipIdx.foldl (fun s p => if p.1.privateIn job lo n then s.flushPrivate p.1.core p.2 else s) s
  { s with cores := s.cores.map fun c => { c with tlb := keep c.tlb }, l2tlb := s.l2tlb.map keep }

/-- An access translated through the pages has not been performed (R265): an atomic or method request on its way or at its object, or a
store held in a replay region. -/
def State.rangeBusy (s : State) (job lo n : Nat) : Bool :=
  let hit (va : DWord) : Bool := lo ≤ pageOf va && pageOf va < lo + n
  let req (r : MethodReq) : Bool := r.job == job && hit r.base
  s.atomics.any (fun a => a.grp.isSome && a.job == job && hit a.va) || s.methods.any req ||
    s.objects.any (fun o => o.pending.any req || match o.running with | some (_, b) => b.any req | none => false) ||
    s.groups.any fun g => g.job == job && match g.gfx with
      | some x => x.held.any fun h => match h with | .store _ _ _ va => hit va | _ => false
      | none => false

/-- An ATS invalidation completes (R409). -/
def State.atsDone (s : State) (job : Nat) (va : DWord) (pages : Nat) : State :=
  if s.rangeBusy job (pageOf va) pages then s.later (.ats job va pages) else s.taken (.ats job va pages)

/-- ATS_INVALIDATION (R409). -/
def execAtsInvalidation (job : Nat) (va : DWord) (pages : Nat) (s : State) : Host.Outcome State Fault Refusal :=
  let s := s.dropPages job (pageOf va) pages
  .next (({ s with ats := s.ats.filter fun e => !e.inRange job (pageOf va) pages } : State).atsDone job va pages)

/-! ## The slice map and column power (R31, R37, R38) -/

/-- An object with requests pending or a combiner running is homed on the slice. -/
def State.sliceBusy (s : State) (slice : Nat) : Bool :=
  s.objects.any fun o => sliceIx o.pa == slice && (match target s.gddrTop o.pa with | .direct _ => false | _ => true)

/-- An entry is written once its old home holds nothing, and its stall bit is cleared (R38 steps 2 to 4). What the old home caches
is what memory holds. -/
def State.remapDone (s : State) (slice vault : Nat) : State :=
  if s.sliceBusy slice || s.mapFixed then s
  else
    let s := s.taken (.remap slice vault)
    { s with
      stalled := s.stalled &&& ~~~(1#512 <<< slice)
      sliceMap := if s.vaultFit vault then s.sliceMap.set (Fin.ofNat 512 slice) vault else s.sliceMap }

/-- SLICE_MAP_REMAP (R38): only to a CACHE vault in a powered column (R31), and while no job records or replays (R313). -/
def execSliceMapRemap (slice vault : Nat) (s : State) : Host.Outcome State Fault Refusal :=
  .next (if slice < 512 && vault < 512 && s.vaultFit vault && !s.mapFixed then (s.startRemap slice vault).remapDone slice vault else s)

/-- Every vault of the column holds the CACHE role, eight others remain, and no job records or replays (R31, R37, R313). -/
def State.mayPowerOff (s : State) (col : Nat) : Bool :=
  col < 64 && !s.mapFixed && (List.range 8).all (fun k => !s.promised (8 * col + k)) && (s.column col).on && (List.range 8).all (fun k => !s.direct.getLsbD (8 * col + k)) &&
    ((List.range 512).filter fun v => s.vaultFit v && v / 8 != col).length ≥ 8

def State.setPower (s : State) (b : Block) (p : PowerState) : State :=
  let l := s.power.filter fun x => x.1 != b
  { s with power := if p == .c0 then l else (b, p) :: l }

/-- The column is powered off once no entry points into it. -/
def State.columnOffDone (s : State) (col : Nat) : State :=
  if s.sliceMap.any fun v => v / 8 == col then s
  else ((s.taken (.columnOff col)).modColumn col fun c => { c with on := false }).setPower (.column col) .c3

/-- COLUMN_POWER_OFF (R37, R38): its entries move away first. -/
def execColumnPowerOff (col : Nat) (s : State) : Host.Outcome State Fault Refusal :=
  .next (if s.mayPowerOff col then ((s.later (.columnOff col)).retarget).columnOffDone col else s)

/-- COLUMN_POWER_ON (R38): its entries move back. No job records or replays (R313). -/
def State.columnOn (s : State) (col : Nat) : State :=
  if col < 64 && !s.mapFixed then (((s.taken (.columnOff col)).modColumn col fun c => { c with on := true }).setPower (.column col) .c0).retarget else s

def execColumnPowerOn (col : Nat) (s : State) : Host.Outcome State Fault Refusal := .next (s.columnOn col)

/-! ## The patrol scrubber (R490, R491, R493, R494) -/

/-- Counts a corrected error of a line: in the Canopy, or where the line lies in GDDR-7 perhaps there, at a position the manual does not
give (log 21). -/
def State.countLine (s : State) (pa : Nat) (ue : Bool) : State :=
  let (r, s) := s.take
  let up (v : DWord) (b : Bool) : DWord := if b then v + 1 else v
  if target s.gddrTop pa == .gddr && r % 2 == 0 then
    let k : Fin 24 := Fin.ofNat 24 (r / 2)
    { s with sys := { s.sys with ceG7 := s.sys.ceG7.set k (up s.sys.ceG7[k] !ue), ueG7 := s.sys.ueG7.set k (up s.sys.ueG7[k] ue) } }
  else s.modColumn (s.homeCol pa) fun c => { c with ce := up c.ce !ue, ue := up c.ue ue }

/-- A line is poisoned (R491). -/
def State.poisonLine (s : State) (line : Nat) : State := if s.poison.contains line then s else { s with poison := s.poison ++ [line] }

/-- PATROL_SCRUB (R494): no group is trapped. An uncorrectable line raises an event of kind 6 (R490). -/
def execPatrolScrub (line : Nat) (found : Scrub) (s : State) : Host.Outcome State Fault Refusal :=
  let pa := 128 * line
  match target s.gddrTop pa with
  | .none => .next s
  | .reg => .next s
  | _ =>
    match found with
    | .clean => .next s
    | .corrected => .next (s.countLine pa false)
    | .uncorrectable =>
      .next (((s.countLine pa true).poisonLine line).post
        { fn := 0, code := 0x84, status := 0, tag := 6, job := 0, data := BitVec.ofNat 64 pa })

end Sys2Proof.Machine
end

