-- ==== Sys2Proof/Machine/Mailbox.lean ====
section
/-! DEFINITION. The firmware mailbox: registers, requests and events (R408 to R413, R515), and the notify aperture (R414, R415). -/

namespace Sys2Proof.Machine

def fnIx (f : Nat) : Fin 33 := Fin.ofNat 33 f
def State.fn (s : State) (f : Nat) : Fn := s.sys.fns[fnIx f]
def State.modFn (s : State) (f : Nat) (g : Fn → Fn) : State := { s with sys := { s.sys with fns := s.sys.fns.set (fnIx f) (g (s.fn f)) } }

/-- The physical address of a host physical address, and the bytes there (R405). -/
def hostPa (a : Nat) : Nat := 0x8000000000000 + a % 2 ^ 50
def State.hostBytes (s : State) (a n : Nat) : List (BitVec 8) := SMap.getList s.mem (hostPa a) n

/-! ## Rings (R410, R412) -/

/-- A ring has a size and place of R410. -/
def ringOk (base size : DWord) : Bool :=
  4096 ≤ size.toNat && size.toNat ≤ 1048576 && size.toNat == 2 ^ Nat.log2 size.toNat && base.toNat % 4096 == 0 && base.toNat + size.toNat ≤ 2 ^ 50

/-- The event ring has room for `n` more events. -/
def Fn.room (x : Fn) (n : Nat) : Bool :=
  let (_, _, base, size) := x.latched
  ringOk base size && (x.evwrite - x.evread).toNat + 32 * n ≤ size.toNat

/-- The bytes of an event (R412). -/
def eventBytes (e : HostEvent) (stamp : BitVec 48) : List (BitVec 8) :=
  leBytes 2 e.code ++ leBytes 2 e.status ++ leBytes 4 e.tag ++ leBytes 8 e.job ++ leBytes 8 e.data.toNat ++ leBytes 8 stamp.toNat

/-- Firmware writes the oldest event of a function to its ring, unless the ring is full (R412). -/
def State.flushEvent (s : State) (f : Nat) : State :=
  match s.events.find? fun e => e.fn == f with
  | none => s
  | some e =>
    if !((s.fn f).room 1) then s
    else
      let x := s.fn f
      let (_, _, base, size) := x.latched
      let stamp := stampUp s.sys.fwStamp
      let s := s.poke (hostPa (base.toNat + x.evwrite.toNat % size.toNat)) (eventBytes e stamp)
      ({ s with events := s.events.eraseP (fun q => q.fn == f), sys := { s.sys with fwStamp := stamp } } : State).modFn f fun x =>
        { x with evwrite := x.evwrite + 32 }

/-- The function whose request an entry of the journal is. -/
def Waiting.requestOf : Waiting → Option Nat
  | .invalidate h _ _ | .create h _ | .unregister h _ | .cancel h | .register h _ => some h.fn
  | _ => none

/-- The next request of a function may be performed: firmware runs, the one before it is complete, the request ring holds one, and the event
ring has room for what is posted already and for its completion (R411, R412). -/
def State.canServe (s : State) (f : Nat) : Bool :=
  let x := s.fn f
  let (base, size, _, _) := x.latched
  s.sys.fwState == 1 && s.sys.dev == .d0 && f < 33 && ringOk base size && !s.sys.journal.any (fun w => w.requestOf == some f) && x.rqread.toNat < x.rqwrite.toNat &&
    x.room ((s.events.filter fun e => e.fn == f).length + 1)

/-- Performs the request that stands next in its function's ring, and passes it. One that cannot be performed yet stays. -/
def runRequest (h : Request) (s : State) (f : State → Option State) : Host.Outcome State Fault Refusal :=
  if s.canServe h.fn then
    match f s with
    | some t => .next (t.modFn h.fn fun x => { x with rqread := x.rqread + 128 })
    | none => .next s
  else .next s

/-- The completion event of a request: DONE or REJECTED (R411, R412). -/
def State.accept (s : State) (h : Request) : State := s.postDone h.fn h.tag h.job 0
def State.reject (s : State) (h : Request) : State := s.postDone h.fn h.tag h.job 4

/-- The live job that a request names, if its function created it (R408). -/
def State.ownJob (s : State) (h : Request) : Option Job := (s.jobs[h.job]?).bind fun j => if j.live && j.fn == h.fn then some j else none

/-- A request about a job: rejected where the function did not create it. -/
def jobRequest (h : Request) (s : State) (f : State → Job → Option State) : Host.Outcome State Fault Refusal :=
  runRequest h s fun s => match s.ownJob h with | some j => f s j | none => some (s.reject h)

/-! ## Jobs (R30, R58, R61, R408, R411) -/

/-- The function may create a job of this world (R408). -/
def Fn.mayCreate (x : Fn) (f : Nat) (secure : Bool) : Bool := !secure || (x.ide && (f == 0 || x.run))

/-- Every operand of CREATE_JOB is within its range: the table aligned as R261 and R295 say, and the vaults free, powered and few enough
(R30, R31). -/
def State.jobFits (s : State) (x : JobOperands) : Bool :=
  4 ≤ x.objM && x.objM ≤ 20 && x.objTable.toNat % 2 ^ (x.objM + 5) == 0 &&
    (x.hostShared || (x.root.toNat % 2097152 == 0 && x.root.toNat < 2 ^ 52)) &&
    (x.vaultMap == 0 || ((List.range 512).all (fun v => !x.vaultMap.getLsbD v || s.vaultFit v) &&
      8 ≤ ((List.range 512).filter fun v => s.vaultFit v && !x.vaultMap.getLsbD v).length))

/-- The job stands, with a key of its own (R423), and its number returns in the event. -/
def State.addJob (s : State) (h : Request) (x : JobOperands) : State :=
  let j : Job := { live := true, fn := h.fn, root := x.root, handler := x.handler, objTable := x.objTable, objM := x.objM, secure := x.secure,
                   hostShared := x.hostShared, control := x.control, coreMask := x.coreMask, vaultMap := x.vaultMap, link := x.link,
                   launchSeq := 0, destroy := none, log := .off, placed := 0, placeStop := false, markStop := false, colStop := 0,
                   key := Config.fresh s.free, measured := [] }
  ({ s with jobs := s.jobs ++ [j], free := s.free + 1 } : State).postDone h.fn h.tag s.jobs.length 0

/-- A job is created once no entry of the slice map points at its vaults, which then take the DIRECT role (R30). -/
def State.createDone (s : State) (h : Request) (x : JobOperands) : State :=
  if s.sliceMap.any fun v => x.vaultMap.getLsbD v then s
  else
    let s := s.taken (.create h x)
    ({ s with
      direct := s.direct ||| x.vaultMap
      sys := { s.sys with secVaults := if x.secure then s.sys.secVaults ||| x.vaultMap else s.sys.secVaults } } : State).addJob h x

/-- Begins to create a job: the lines of its vaults are written back and their slices move away. None while the slice map is fixed (R313). -/
def State.createJob (s : State) (h : Request) (x : JobOperands) : Option State :=
  if h.job != 0 || !(s.fn h.fn).mayCreate h.fn x.secure || !s.jobFits x then some (s.reject h)
  else if x.vaultMap == 0 then some (s.addJob h x)
  else if s.mapFixed then none
  else some ((s.later (.create h x)).retarget.createDone h x)

/-- CREATE_JOB (R408, R411). -/
def execCreateJob (h : Request) (x : JobOperands) (s : State) : Host.Outcome State Fault Refusal :=
  runRequest h s fun s => s.createJob h x

/-- DESTROY_JOB (R58, R411): the completion comes with the job's. -/
def execDestroyJob (h : Request) (s : State) : Host.Outcome State Fault Refusal :=
  jobRequest h s fun s j =>
    some (if j.destroy.isSome then s.reject h else (s.modJob h.job fun j => { j with destroy := some h.tag }).settle)

/-- What a CANCEL_JOB cancelled is complete. -/
def State.cancelled (s : State) (job : Nat) : Bool :=
  s.launches.all (fun l => l.job != job || !l.cancelled || l.complete) && s.graphs.all (fun g => g.job != job || !g.cancelled || g.status.isSome) &&
    s.phases.all fun p => p.job != job || !p.cancelled || p.status.isSome

def State.cancelDone (s : State) (h : Request) : State := if s.cancelled h.job then (s.taken (.cancel h)).accept h else s

/-- CANCEL_JOB (R61, R411). -/
def execCancelJob (h : Request) (s : State) : Host.Outcome State Fault Refusal :=
  jobRequest h s fun s _ => some (((s.cancelJobWork h.job).later (.cancel h)).cancelDone h)

/-! ## Queues (R411, R515) -/

/-- Passes that a queue of this QCB left open end without a resolve. -/
def State.endPasses (s : State) (job : Nat) (qcb : DWord) : State :=
  { s with passes := s.passes.map fun p =>
      if p.live && p.job == job && (match s.queues[p.queue]? with | some q => q.qcb == qcb && !q.live | none => false) then { p with live := false } else p }

/-- The registration is complete once the generation word is even again (R77). -/
def State.registerDone (s : State) (h : Request) (qcb : DWord) : State :=
  if s.sys.journal.any (Waiting.updates h.job qcb) then s else (s.taken (.register h qcb)).accept h

/-- REGISTER_QUEUE (R411, R515): the QCB becomes ENABLED. Phases already counted stay counted (R97, log 24). -/
def State.registerQueue (s : State) (h : Request) (qcb : DWord) (wake : Nat) : Option State :=
  if qcb.toNat % 64 != 0 || wake > 8127 || s.queues.any (fun q => q.live && q.job == h.job && q.qcb == qcb) then some (s.reject h)
  else
    let before := s.queues.filter fun q => q.job == h.job && q.qcb == qcb
    match s.devRead h.job (qcb + 56) 8 with
    | .wait => none
    | .fail _ _ => some (s.reject h)
    | .ok g =>
      let q : Queue := { live := true, qcb := qcb, job := h.job, wake := wake, passCount := 0, phases := (before.getLast?).elim 0 (·.phases),
                         pass := none, gen := some (g / 2 * 2), lastBind := 0 }
      let s := s.endPasses h.job qcb
      some ((({ s with queues := s.queues ++ [q] } : State).setQcbState q 1).later (.register h qcb))

def execRegisterQueue (h : Request) (qcb : DWord) (wake : Nat) (s : State) : Host.Outcome State Fault Refusal :=
  jobRequest h s fun s _ => s.registerQueue h qcb wake

/-- The queue leaves once no slot holds it (R79). -/
def State.unregisterDone (s : State) (h : Request) (qcb : DWord) : State :=
  match s.queues.findIdx? fun q => q.live && q.job == h.job && q.qcb == qcb with
  | none => (s.taken (.unregister h qcb)).accept h
  | some qi => if s.unbound qi && !s.sys.journal.any (Waiting.updates h.job qcb) then ((s.modQueue qi fun q => { q with live := false }).taken (.unregister h qcb)).accept h else s

/-- UNREGISTER_QUEUE (R411): a slot that holds the queue is asked for its release. -/
def State.unregisterQueue (s : State) (h : Request) (qcb : DWord) : State :=
  match s.queues.findIdx? fun q => q.live && q.job == h.job && q.qcb == qcb with
  | none => s.reject h
  | some qi =>
    let s : State := { s with slots := s.slots.map fun x => if x.bound && x.queue == qi then { x with release := true } else x }
    (s.later (.unregister h qcb)).unregisterDone h qcb

def execUnregisterQueue (h : Request) (qcb : DWord) (s : State) : Host.Outcome State Fault Refusal :=
  jobRequest h s fun s _ => some (s.unregisterQueue h qcb)

/-! ## Pages (R265, R377, R413, R498) -/

/-- INVALIDATE completes when R265 holds. -/
def State.invalidateDone (s : State) (h : Request) (va : DWord) (pages : Nat) : State :=
  if s.rangeBusy h.job (pageOf va) pages then s else (s.taken (.invalidate h va pages)).accept h

/-- INVALIDATE (R265, R411). -/
def execInvalidate (h : Request) (va : DWord) (pages : Nat) (s : State) : Host.Outcome State Fault Refusal :=
  jobRequest h s fun s _ =>
    some (if va.toNat % 65536 != 0 then s.reject h
      else ((s.dropPages h.job (pageOf va) pages).later (.invalidate h va pages)).invalidateDone h va pages)

/-- Tile operations whose A fetch stalled on a page that is refused end in error (R498, R499). -/
def State.refuseFetch (s : State) (job page core tile : Nat) : State :=
  match s.tileQueue core tile with
  | [] => s
  | o :: _ =>
    match o.stalled with
    | some va => if o.job == job && pageOf va == page then (s.loseTile core tile false).popTile core tile o (some va) else s
    | none => s

def State.refuseFetches (s : State) (job page : Nat) : State :=
  (List.range 1024).foldl (fun s k => s.refuseFetch job page (k / 16) (k % 16)) s

/-- RESIDENT (R413): groups parked on the page go on; where the host refuses it, they meet XLATE (R377). -/
def execResident (h : Request) (va : DWord) (refused : Nat) (s : State) : Host.Outcome State Fault Refusal :=
  jobRequest h s fun s _ =>
    some (if va.toNat % 65536 != 0 || !canonical va || refused > 1 then s.reject h
      else
        let s := s.unpark h.job (pageOf va) (refused == 1)
        (if refused == 1 then s.refuseFetches h.job (pageOf va) else s).accept h)

/-! ## Collectives, identity, debug and flash (R420, R426 to R430, R520, R521) -/

/-- COLLECTIVE (R420): it writes one of 256 entries. -/
def execCollective (h : Request) (x : CollectiveOperands) (s : State) : Host.Outcome State Fault Refusal :=
  runRequest h s fun s =>
    let others := s.colls.filter fun e => e.ident != x.ident
    some (if x.ident ≥ 65536 || x.locals > 4096 || x.children > 15 || x.port ≥ 16 || !(x.parent < 256 || x.parent == 0xFFFF) ||
        others.length ≥ 256 then s.reject h
      else
        ({ s with colls := { ident := x.ident, locals := x.locals, parent := x.parent, port := x.port, children := x.children, op := none, contribs := [],
                             fromChildren := [], sent := false, aborted := false, late := 0 } :: others } : State).accept h)

/-- ATTEST (R429, R430): the alias key signs at most 1024 reports. -/
def execAttest (h : Request) (nonce : List (BitVec 8)) (addr : DWord) (s : State) : Host.Outcome State Fault Refusal :=
  runRequest h s fun s =>
    some (if nonce.length != 32 || addr.toNat ≥ 2 ^ 50 || !s.sys.aliasKey || s.sys.signed ≥ 1024 then s.reject h
      else
        let draw := s.free
        let s : State := { s with free := s.free + 1, sys := { s.sys with signed := s.sys.signed + 1 } }
        (s.poke (hostPa addr.toNat) (Config.report nonce draw)).accept h)

/-- DEBUG_AUTH (R426, R521). -/
def execDebugAuth (h : Request) (addr : DWord) (len : Nat) (s : State) : Host.Outcome State Fault Refusal :=
  runRequest h s fun s =>
    some (if addr.toNat + len ≤ 2 ^ 50 && s.sys.debugRejects < 8 && Config.certOk (s.hostBytes addr.toNat len) then
        ({ s with sys := { s.sys with debug := .sAuthorised } } : State).accept h
      else ({ s with sys := { s.sys with debugRejects := s.sys.debugRejects + 1 } } : State).reject h)

/-- The image at a host address, as the ROM and firmware see it (R427). -/
def State.imageAt (s : State) (addr len : Nat) : Image :=
  let b := s.hostBytes addr len
  { signed := Config.imageSigned b, version := Config.imageVersion b, len := len }

/-- Why an image fails: the codes of RCVSTATUS.REASON, 0 where it verifies (R427, R519). -/
def Sys.imageFault (y : Sys) (i : Image) : Nat :=
  if i.len > 4194304 then 4 else if !i.signed then 1 else if i.version < fieldAt y.pkgfuse 63 48 then 2 else 0

/-- FLASH_UPDATE (R428, R520): an image that fails leaves flash as it is. -/
def execFlashUpdate (h : Request) (addr : DWord) (len : Nat) (s : State) : Host.Outcome State Fault Refusal :=
  runRequest h s fun s =>
    let i := s.imageAt addr.toNat len
    some (if len == 0 || addr.toNat + len > 2 ^ 50 || s.sys.imageFault i != 0 then s.reject h
      else ({ s with sys := { s.sys with flash := i } } : State).accept h)

/-! ## The request ring (R411) -/

/-- Firmware performs the request at a function's RQREAD: its record in host memory. A code that R411 does not list completes REJECTED. -/
def State.serveRing (s : State) (f : Nat) : Host.Outcome State Fault Refusal :=
  let x := s.fn f
  let (base, size, _, _) := x.latched
  let v := memNat s.mem (hostPa (base.toNat + x.rqread.toNat % size.toNat)) 128
  let d (off n : Nat) : DWord := BitVec.ofNat 64 (recField v off n)
  let h : Request := { tag := BitVec.ofNat 32 (recField v 4 4), job := recField v 8 4, fn := f }
  match recField v 0 2 with
  | 1 =>
    if recField v 41 7 / 4 != 0 then runRequest h s fun s => some (s.reject h)
    else
      execCreateJob h { root := d 16 8, handler := d 24 8, objTable := d 32 8, objM := recField v 40 1, secure := recField v 41 1 % 2 == 1,
                        hostShared := recField v 41 1 / 2 % 2 == 1, control := d 48 8, coreMask := d 56 8,
                        vaultMap := BitVec.ofNat 512 (memNat s.mem (hostPa (recField v 64 8)) 64), link := recField v 72 4 } s
  | 2 => execDestroyJob h s
  | 3 => execCancelJob h s
  | 4 => execRegisterQueue h (d 16 8) (recField v 24 4) s
  | 5 => execUnregisterQueue h (d 16 8) s
  | 6 => execInvalidate h (d 16 8) (recField v 24 8) s
  | 7 => execResident h (d 16 8) (recField v 24 1) s
  | 8 => execCollective h { ident := recField v 16 2, locals := recField v 18 2, parent := recField v 20 2, port := recField v 22 1,
                            children := recField v 23 1 } s
  | 9 => execAttest h (leBytes 32 (recField v 16 32)) (d 48 8) s
  | 10 => execDebugAuth h (d 16 8) (recField v 24 4) s
  | 11 => execFlashUpdate h (d 16 8) (recField v 24 4) s
  | _ => runRequest h s fun s => some (s.reject h)

/-! ## The notify aperture (R82, R83, R414, R415) -/

/-- The front end of a slot reads again what a write to its queue's wake register makes it read. -/
def State.wakeSlot (s : State) (sl : Nat) : State := (s.rereadWrite sl).recheck sl

/-- A queue's wake register is written: bound, its slot reads again; unbound, its condition is evaluated and a bind round is due. -/
def State.wakeQueue (s : State) (qi : Nat) : State :=
  match (List.range 64).find? fun i => (s.slot i).bound && (s.slot i).queue == qi with
  | some sl => s.wakeSlot sl
  | none =>
    if s.unbound qi then ({ s with agenda := s.agenda ++ [.bindRound] } : State).evalParked qi else s

/-- A write to a wake register acts (R414). -/
def State.wakeNow (s : State) (reg : Nat) : State :=
  if reg < 64 then s.wakeSlot reg
  else ((List.range s.queues.length).filter fun qi => (s.queues[qi]?).any fun q => q.live && q.wake == reg - 64).foldl State.wakeQueue s

/-- WAKE_REGISTER_WRITE (R414, R415): captured while the device is in D3hot. -/
def execWakeRegisterWrite (reg : Nat) (s : State) : Host.Outcome State Fault Refusal :=
  if reg ≥ 8192 || s.sys.low then .next s
  else
    match s.sys.dev with
    | .d0 => .next (s.wakeNow reg)
    | .d3hot =>
      .next { s with sys := if s.sys.wakeBuf.length < 64 then { s.sys with wakeBuf := s.sys.wakeBuf ++ [reg] } else { s.sys with wakeOvf := true } }
    | .d3cold => .next s

/-- Every parked queue's condition is evaluated, and every bound queue's write offset is read again (R415, R517). -/
def State.rescan (s : State) : State := (List.range 64).foldl State.rereadWrite ((List.range s.queues.length).foldl State.evalParked s)

/-- WAKE_BUFFER_REPLAY (R415): the blocks that kept their arrays run again. -/
def execWakeBufferReplay (s : State) : Host.Outcome State Fault Refusal :=
  if s.sys.dev == .d3cold || s.sys.low then .next s
  else
    let (buf, ovf) := (s.sys.wakeBuf, s.sys.wakeOvf)
    let s : State := { s with
      power := if s.sys.dev == .d3hot then s.power.filter (fun p => p.2 == .c3) else s.power
      sys := { s.sys with dev := .d0, wakeBuf := [], wakeOvf := false } }
    let s := buf.foldl State.wakeNow s
    .next (if ovf then s.rescan else s)

/-! ## Registers (R7, R269, R410, R437, R439, R441, R519) -/

/-- PFCTL_CLEAR (R269). -/
def execPfctlClear (core : Nat) (v : DWord) (s : State) : Host.Outcome State Fault Refusal := .next (if core < 64 then pfctlSet s core v.toNat else s)

/-- THERMSTAT_WRITE (R439). -/
def execThermstatWrite (v : DWord) (s : State) : Host.Outcome State Fault Refusal := .next (thermstatSet s v.toNat)

/-- PWRCTL_WRITE (R437). -/
def execPwrctlWrite (v : DWord) (s : State) : Host.Outcome State Fault Refusal := .next (pwrctlSet s v.toNat)

/-- The host reaches BAR0 of a function: the link is up, and in recovery only physical function 0 answers (R428, R440). -/
def State.barOpen (s : State) (f : Nat) : Bool := s.sys.link && !s.sys.low && f < 33 && (s.sys.fwState != 2 || f == 0)

/-- REGISTER_WRITE (R7, R410, R441): read-only registers ignore it, and so do those that firmware has latched. -/
def execRegisterWrite (f : Nat) (reg : PlainReg) (v : DWord) (s : State) : Host.Outcome State Fault Refusal :=
  if !s.barOpen f then .next s
  else
    let open_ := s.sys.bring != .up
    match reg with
    | .rqbase => .next (if open_ then s.modFn f fun x => { x with rqbase := v } else s)
    | .rqsize => .next (if open_ then s.modFn f fun x => { x with rqsize := v } else s)
    | .evbase => .next (if open_ then s.modFn f fun x => { x with evbase := v } else s)
    | .evsize => .next (if open_ then s.modFn f fun x => { x with evsize := v } else s)
    | .rqwrite => .next (s.modFn f fun x => { x with rqwrite := v })
    | .evread => .next (s.modFn f fun x => { x with evread := v })
    | .rcvaddr => .next (if f == 0 then { s with sys := { s.sys with rcvaddr := v } } else s)
    | .rcvlen => .next (if f == 0 then { s with sys := { s.sys with rcvlen := v } } else s)
    | .rqread => .next s
    | .evwrite => .next s
    | .fwstatus => .next s
    | .rcvstatus => .next s
    | .pkgstrap => .next s
    | .pkgfuse => .next s

end Sys2Proof.Machine
end

