-- ==== Sys2Proof/Machine/Package.lean ====
section
/-! DEFINITION. Reset and bring-up, recovery, power, temperature, the watchdog and debug (R421 to R442, R512 to R525). -/

namespace Sys2Proof.Machine

/-- An error event that concerns no job goes to physical function 0 (R485, R512, log 16). -/
def State.postPart (s : State) (kind : Nat) (data : DWord) : State :=
  s.post { fn := 0, code := 0x84, status := 0, tag := kind, job := 0, data := data }

/-! ## Resets (R422, R426, R432, R442) -/

/-- Cold reset: what lies in fuses, straps, the antifuse counter, flash and host memory stays. -/
def State.coldReset (s : State) : State :=
  { State.reset with
    mem := s.mem.filter fun (p : Nat × BitVec 8) => target s.gddrTop p.1 == .host
    gddrTop := s.gddrTop, agenda := s.agenda, free := s.free
    sys := { Sys.reset with strap := s.sys.strap, fuse := s.sys.fuse, antifuse := s.sys.antifuse, flash := s.sys.flash } }

/-- RESET_N_FALL (R432). -/
def execResetNFall (s : State) : Host.Outcome State Fault Refusal := .next s.coldReset

/-- RAIL_FAULT (R432): as though RESET_N had fallen. -/
def execRailFault (s : State) : Host.Outcome State Fault Refusal := .next (if s.sys.low then s else s.coldReset)

/-- D3COLD_ENTRY (R426): secure state, keys and debug authorisation are lost; the always-on domain keeps the wake buffer and the
antifuse counter (R431). -/
def execD3coldEntry (s : State) : Host.Outcome State Fault Refusal :=
  if s.sys.low then .next s
  else
    let t := s.coldReset
    .next { t with sys := { t.sys with dev := .d3cold, wakeBuf := s.sys.wakeBuf, wakeOvf := s.sys.wakeOvf } }

/-- Every job of every function is cancelled (R442, R518, R522). -/
def State.cancelAll (s : State) : State := (List.range s.jobs.length).foldl State.cancelJobWork s

/-- The groups that a cancel has doomed end now. -/
def State.killDoomed (s : State) : State :=
  (List.range s.groups.length).foldl (fun s gi => match s.groups[gi]? with | some g => if s.doomed g then s.killGroup gi else s | none => s) s

/-- A core's arrays are zeroed. -/
def Core.zeroed (c : Core) : Core :=
  { c with array := [], granEpoch := [], tiles := [], tileEpoch := [], weight := [], l1 := [], pfLines := [], pfVault := [] }

/-- The secure state of every block is zeroed (R422, R426). -/
def State.zeroSecure (s : State) : State :=
  { s with
    cores := s.cores.map fun c => if c.secure then c.zeroed else c
    mem := s.mem.filter fun (p : Nat × BitVec 8) => match target s.gddrTop p.1 with | .direct v => !s.sys.secVaults.getLsbD v | _ => true }

/-- PERST_N (R442): functions return to their reset state, and step 6 follows once more. -/
def execPerstN (s : State) : Host.Outcome State Fault Refusal :=
  if s.sys.low then .next s
  else
    let s := s.cancelAll.killDoomed.settle.zeroSecure
    let up := s.sys.fwState == 1 || s.sys.bring == .up
    .next { s with sys := { s.sys with
      link := false
      fns := Vector.replicate 33 Fn.reset
      fwState := if up && s.sys.fwState != 3 then 0 else s.sys.fwState
      bring := if s.sys.bring == .up then .due else s.sys.bring } }

/-! ## Bring-up (R427 to R429, R434, R435, R440, R441, R518 to R520) -/

/-- Bring-up or operation halts: STATE 3 (R520). -/
def State.haltAt (s : State) (reason : Nat) : State := { s with sys := { s.sys with fwState := 3, rcvreason := reason } }

/-- Recovery mode: STATE 2 (R428, R519). -/
def State.recovery (s : State) (reason : Nat) : State := { s with sys := { s.sys with fwState := 2, rcvreason := reason } }

/-- The installed capacity in GiB that straps name (R434). -/
def installed (strap : Nat) : Nat := (match fieldAt strap 7 6 with | 0 => 96 | 1 => 144 | _ => 192) * (if strap.testBit 5 then 2 else 1)

/-- The ROM advances the antifuse counter and derives an alias key, while the identity key has a leaf (R429). -/
def Sys.deriveKey (y : Sys) : Sys :=
  if y.antifuse < 2 ^ 20 then { y with antifuse := y.antifuse + 1, aliasKey := true, signed := 0, idexh := false }
  else { y with aliasKey := false, idexh := true }

/-- The ceiling of the core clock (R438). -/
def Sys.ceiling (y : Sys) : Nat := max 12 (min (profileClock y.profile) (fieldAt y.pkgfuse 47 40))

/-- Steps 4 and 5 (R440): training, zeros over GDDR-7 and the Canopy, every vault in the CACHE role. Whether training agrees with the
straps is a free value; the regions, the debug state and the first clock are firmware's (log 1, log 14). -/
def State.bringUp (s : State) : State :=
  let (r, s) := s.take
  if r % 2 == 1 then s.haltAt 7
  else
    let (c, s) := s.take
    let k := s.free
    { s with
      free := s.free + 64
      cores := Vector.ofFn fun i : Fin 64 => { s.cores[i] with mainLen := 16 + Config.fresh (k + i) % 81 }
      gddrTop := installed s.sys.pkgstrap * 2 ^ 26 * 15
      mem := s.mem.filter fun (p : Nat × BitVec 8) => target s.gddrTop p.1 == .host
      poison := [], keyed := [], direct := 0, stalled := 0
      sliceMap := Vector.ofFn fun k : Fin 512 => k.val
      sys := { s.sys with
        secVaults := 0
        regions := ((List.range 64).map Config.secureRegion).filter fun r => r.1 ≤ r.2
        debug := if Config.debugEnabled then .nEnabled else .off
        clock := 12 + c % (s.sys.ceiling - 11)
        bring := .due } }

/-- An image that verifies runs: step 3 ends, and steps 4 and 5 follow. -/
def State.runImage (s : State) (i : Image) : State :=
  ({ s with sys := { s.sys.deriveKey with running := i, secver := i.version % 65536, fwState := 0, rcvreason := 0 } } : State).bringUp

/-- Step 3: the image in flash, or recovery mode. -/
def State.bootFlash (s : State) : State :=
  if s.sys.pkgstrap.testBit 4 then s.recovery 6
  else
    let (r, s) := s.take
    if r % 2 == 1 then s.recovery 3
    else
      let e := s.sys.imageFault s.sys.flash
      if e != 0 then s.recovery e else s.runImage s.sys.flash

/-- Steps 1 to 5. Whether each service core passes its self-test is a free value. -/
def State.boot (s : State) : State :=
  let s : State := { s with sys := { s.sys with low := false, dev := .d0, profile := fieldAt s.sys.pkgstrap 3 2 } }
  if fieldAt s.sys.pkgstrap 7 6 == 3 || fieldAt s.sys.pkgstrap 1 0 == 3 then s.haltAt 7
  else
    let (a, s) := s.take
    let (b, s) := s.take
    if a % 2 == 0 then s.bootFlash
    else if s.sys.pkgfuse.testBit 25 && b % 2 == 0 then ({ s with sys := { s.sys with spare := true } } : State).bootFlash
    else s.haltAt 8

/-- RESET_N_RISE (R440). -/
def execResetNRise (s : State) : Host.Outcome State Fault Refusal := .next (if s.sys.low then s.boot else s)

/-- Step 6 (R440, R441): the ring registers are latched, and STATE reads 1. -/
def State.latchRings (s : State) : State :=
  if s.sys.bring != .due || s.sys.fwState != 0 then s
  else
    { s with sys := { s.sys with
        fns := s.sys.fns.map fun x => { x with latched := (x.rqbase, x.rqsize, x.evbase, x.evsize) }
        bring := .up, fwState := 1 } }

/-- PCIE_LINK_UP (R440). Whether the host enables CXL.cache (R405) is its choice. -/
def execPcieLinkUp (s : State) : Host.Outcome State Fault Refusal :=
  if s.sys.low then .next s
  else
    let (r, s) := s.take
    .next { s with sys := { s.sys with link := true, cxlCache := r % 2 == 1 } }

/-- RCVCTL_GO (R519, R520). -/
def execRcvctlGo (v : DWord) (s : State) : Host.Outcome State Fault Refusal :=
  .next (if s.barOpen 0 && v.getLsbD 0 && s.sys.fwState == 2 && !s.sys.rcvbusy then { s with sys := { s.sys with rcvbusy := true } } else s)

/-- RECOVERY_FETCH_DONE (R428, R519, R520): flash is not written. Whether the host's memory answers is a free value. -/
def execRecoveryFetchDone (s : State) : Host.Outcome State Fault Refusal :=
  if !s.sys.rcvbusy || s.sys.fwState != 2 then .next s
  else
    let (r, s) := s.take
    let s : State := { s with sys := { s.sys with rcvbusy := false } }
    let (addr, len) := (s.sys.rcvaddr.toNat, s.sys.rcvlen.toNat)
    if len > 4194304 then .next (s.recovery 4)
    else if !s.sys.link || addr + len > 2 ^ 50 || r % 2 == 1 then .next (s.recovery 5)
    else
      let i := s.imageAt addr len
      .next (if s.sys.imageFault i != 0 then s.recovery (s.sys.imageFault i) else s.runImage i)

/-! ## Power (R425, R426, R436 to R438, R524) -/

def allBlocks : List Block :=
  (List.range 64).map Block.core ++ (List.range 32).map Block.whorl ++ (List.range 64).map Block.column ++ (List.range 16).map Block.port

/-- The power state of a block. -/
def State.powerOf (s : State) (b : Block) : PowerState := (s.power.lookup b).getD .c0

/-- A group of the core is halted (R426). -/
def State.haltedOn (s : State) (core : Nat) : Bool := s.groups.any fun g => g.core == core && g.status == .halted

/-- The device enters D3hot once no core has a halted group (R425, R426) and no job records or replays (R313; log 54). -/
def State.d3hotDone (s : State) : State :=
  if s.mapFixed || s.groups.any fun g => g.status == .halted then s
  else
    let s := s.taken .d3hot
    { s with
      power := allBlocks.map fun b => (b, if s.powerOf b == .c3 then .c3 else .c2)
      sys := { s.sys with dev := .d3hot } }

/-- D3HOT_ENTRY (R425, R426). -/
def execD3hotEntry (s : State) : Host.Outcome State Fault Refusal :=
  .next (if s.sys.low || s.sys.dev != .d0 then s else (s.later .d3hot).d3hotDone)

/-- A block changes its power state when it may (R37, R426): no halted group in C2 or C3, no group at all in C3, and for a column no job that
records or replays (R313). -/
def State.powerDone (s : State) (b : Block) (p : PowerState) : State :=
  match b with
  | .core c =>
    let gated := p == .c2 || p == .c3
    if (gated && s.haltedOn c) || (p == .c3 && s.groups.any fun g => g.core == c && g.living) then s
    else
      let s := (s.taken (.power b p)).setPower b p
      if p == .c3 then s.modCore c fun c => { c.zeroed with weightJob := none } else s
  | .column c =>
    if s.mapFixed then s
    else
    let s := s.taken (.power b p)
    if p == .c3 then (if s.mayPowerOff c then ((s.later (.columnOff c)).retarget).columnOffDone c else s)
    else if s.powerOf b == .c3 then (s.columnOn c).setPower b p
    else s.setPower b p
  | _ => (s.taken (.power b p)).setPower b p

/-- BLOCK_POWER_STATE_CHANGE (R425, R426). -/
def execBlockPowerStateChange (b : Block) (p : PowerState) (s : State) : Host.Outcome State Fault Refusal :=
  .next (if s.sys.low || s.sys.dev != .d0 || !allBlocks.contains b then s else (s.later (.power b p)).powerDone b p)

/-- POWER_LIMIT_EVAL (R437, R438): the clock that firmware finds within the limit is a free value, below the present one where the power
exceeds the limit and not below it otherwise; temperature may hold it lower (R439). -/
def execPowerLimitEval (watts : Nat) (s : State) : Host.Outcome State Fault Refusal :=
  if s.sys.fwState != 1 then .next s
  else
    let (r, s) := s.take
    let y := s.sys
    let above := watts > y.wattLimit
    let want := if above then 12 + r % (max 1 (y.clock - 12)) else y.clock + r % (y.ceiling + 1 - min y.clock y.ceiling)
    .next { s with sys := { y with
      pwrnow := watts
      clock := max 12 (min want (min y.ceiling y.cap))
      overMs := if above && y.clock == 12 then y.overMs + 1 else 0
      overPosted := y.overPosted && watts ≥ y.wattLimit } }

/-- POWER_LIMIT_NOT_MET (R524): once, until the power has fallen below the limit. -/
def execPowerLimitNotMet (watts : Nat) (s : State) : Host.Outcome State Fault Refusal :=
  let y := s.sys
  .next (if y.fwState == 1 && y.overMs ≥ 10 && y.clock == 12 && watts > y.wattLimit && !y.overPosted then
      ({ s with sys := { y with overPosted := true } } : State).postPart 10 (BitVec.ofNat 64 watts)
    else s)

/-! ## Temperature (R439, R522 to R525) -/

/-- A throttle point is exceeded (R439). -/
def tooWarm (core canopy : Nat) : Bool := core > 95 || canopy > 90

/-- THERMAL_THROTTLE_STEP (R439). -/
def execThermalThrottleStep (core canopy : Nat) (s : State) : Host.Outcome State Fault Refusal :=
  let y := { s.sys with coremax := core, cnpmax := canopy, throtnow := tooWarm core canopy }
  let z := if tooWarm core canopy && y.clock > 12 then { y with clock := y.clock - 1, cap := y.clock - 1, throt := true } else y
  .next { s with sys := z }

/-- The critical action (R522). -/
def State.critical (s : State) (celsius : Nat) (canopy : Bool) : State :=
  let y := if canopy then { s.sys with cnpmax := celsius } else { s.sys with coremax := celsius }
  ({ s with sys := { y with clock := 12, cap := 12, crit := true, throtnow := true } } : State).postPart 9
    (BitVec.ofNat 64 (celsius % 256 + 256 * canopy.toNat))

/-- THERMAL_CRITICAL (R522). -/
def execThermalCritical (celsius : Nat) (canopy : Bool) (s : State) : Host.Outcome State Fault Refusal :=
  .next (if celsius ≥ 105 && !s.sys.low && !s.sys.tripped then s.critical celsius canopy else s)

/-- PMBUS_FAULT (R524): as a reading of 105 °C. -/
def execPmbusFault (s : State) : Host.Outcome State Fault Refusal := .next (if s.sys.low || s.sys.tripped then s else s.critical 105 false)

/-- THERMAL_CRITICAL_TIMEOUT (R522, R525): every job is cancelled, and the work cores go to C3 and stay there. -/
def execThermalCriticalTimeout (s : State) : Host.Outcome State Fault Refusal :=
  if s.sys.low || s.sys.tripped || !(s.sys.coremax ≥ 105 || s.sys.cnpmax ≥ 105) then .next s
  else
    let s := s.cancelAll
    let s : State := { s with sys := { s.sys with held := true } }
    .next ((List.range 64).foldl (fun s c => (s.later (.power (.core c) .c3)).powerDone (.core c) .c3) s)

/-- THERMAL_RECOVERY (R439, R522): both readings 5 °C below their throttle points let the clock rise; below 90 °C the cores return. -/
def execThermalRecovery (core canopy : Nat) (s : State) : Host.Outcome State Fault Refusal :=
  if s.sys.low || s.sys.tripped then .next s
  else
    let y := { s.sys with coremax := core, cnpmax := canopy, throtnow := tooWarm core canopy }
    let s : State := { s with sys := if core ≤ 90 && canopy ≤ 85 then { y with cap := 36 } else y }
    .next (if s.sys.held && core < 90 && canopy < 90 then
        let back (b : Block) : Bool := match b with | .core _ => true | _ => false
        { s with
          power := s.power.filter fun p => !(back p.1 && p.2 == .c3)
          sys := { s.sys with held := false, journal := s.sys.journal.filter fun w => match w with | .power b .c3 => !back b | _ => true } }
      else s)

/-- THERMAL_TRIP (R523): core and Canopy power are gone, and the work with them. -/
def execThermalTrip (celsius : Nat) (canopy : Bool) (s : State) : Host.Outcome State Fault Refusal :=
  if celsius < 115 || s.sys.low || s.sys.tripped then .next s
  else
    let y := if canopy then { s.sys with cnpmax := celsius } else { s.sys with coremax := celsius }
    .next (({ s with
      groups := s.groups.map fun g => { g with status := .gone, hasSlot := false }
      cores := s.cores.map Core.zeroed
      atomics := [], methods := [], objects := []
      power := allBlocks.filterMap fun b => match b with | .port _ => none | b => some (b, .c3)
      sys := { y with tripped := true, fwState := 3, throtnow := true, journal := [] } } : State).postPart 9
        (BitVec.ofNat 64 (celsius % 256 + 256 * canopy.toNat)))

/-! ## The watchdog and the spare core (R516 to R518) -/

/-- An odd generation word goes back to the even one before it (R517). -/
def State.rollBack (s : State) (q : Queue) : State :=
  match s.devRead q.job (q.qcb + 56) 8 with
  | .ok g => if q.live && g % 2 == 1 then (match s.devWrite q.job (q.qcb + 56) (leBytes 8 (g - 1)) with | .ok s => s | _ => s) else s
  | _ => s

/-- An update begun is made afresh. -/
def Waiting.afresh : Waiting → Waiting
  | .update job qcb fields _ => .update job qcb fields 0
  | w => w

/-- Firmware recovers its state on a restart (R517): the journal stands as it was, and updates of QCBs begin again. -/
def State.recoverState (s : State) : State :=
  let s := s.queues.foldl State.rollBack s
  ({ s with sys := { s.sys with journal := s.sys.journal.map Waiting.afresh } } : State).rescan

/-- The spare core takes the role (R518), or the part halts. -/
def State.takeover (s : State) : State :=
  if s.sys.spare || !s.sys.pkgfuse.testBit 25 then s.haltAt 8
  else
    let s := s.cancelAll
    let s : State := { s with sys := { s.sys with spare := true, expiries := 0 } }
    let e := s.sys.imageFault s.sys.flash
    if e != 0 then s.recovery e
    else
      ({ s with sys := { s.sys with fwState := 1, running := s.sys.flash, secver := s.sys.flash.version % 65536 } } : State).postPart 11 0

/-- Firmware has passed step 6, and has not halted or entered recovery since. -/
def Sys.working (y : Sys) : Bool := !y.low && y.dev == .d0 && y.bring == .up && y.fwState ≤ 1

/-- SPARE_TAKEOVER (R518). -/
def execSpareTakeover (s : State) : Host.Outcome State Fault Refusal := .next (if s.sys.working then s.takeover else s)

/-- WATCHDOG_EXPIRY (R516 to R518): whether firmware reaches STATE 1 again is a free value. Where it does not, the watchdog expires
again. -/
def execWatchdogExpiry (s : State) : Host.Outcome State Fault Refusal :=
  if !s.sys.working then .next s
  else
    let (r, s) := s.take
    let n := s.sys.expiries + 1
    let s : State := { s with sys := { s.sys with restarts := s.sys.restarts + 1 } }
    if n ≥ 4 then .next s.takeover
    else if r % 2 == 0 then
      .next ((({ s with sys := { s.sys with fwState := 1, expiries := 0 } } : State).recoverState).postPart 8 (BitVec.ofNat 64 s.sys.restarts))
    else .next { s with sys := { s.sys with fwState := 0, expiries := n }, agenda := .watchdogExpiry :: s.agenda }

/-! ## Worlds and debug (R408, R421, R425, R521) -/

/-- TDI_IDE_STATE_CHANGE (R408, R421). -/
def execTdiIdeStateChange (f : Nat) (run ide : Bool) (s : State) : Host.Outcome State Fault Refusal :=
  .next (if f < 33 then s.modFn f fun x => { x with run := run, ide := ide } else s)

/-- The world of a block. -/
def State.secureBlock (s : State) : Block → Bool
  | .core c => (s.core c).secure
  | .port p => (s.ports[portIx p]).secure
  | b => s.secBlocks.contains b

/-- Where a block's registers lie (R269, R493): a core's performance page and, from 0x1000, its error page; none where the manual names no
register (log 16). -/
def blockReg (b : Block) (reg : Nat) : Option Nat :=
  match b with
  | .core c => if reg < 0x1000 then some (0xF000001000000 + c % 64 * 0x1000 + reg) else if reg < 0x2000 then some (0xF000002000000 + c % 64 * 0x1000 + reg % 0x1000) else none
  | .column c => if reg < 0x1000 then some (0xF000003000000 + c % 64 * 0x1000 + reg) else none
  | _ => none

/-- The debugger is answered. -/
def State.debugSay (s : State) (st : DebugStatus) (v : DWord) : State := { s with sys := { s.sys with debugReply := (st, v) } }

/-- What a write of a core's debug controls does beside: the manual gives their effect, not their place (R229, log 16). -/
def State.debugCore (s : State) (core : Nat) : State :=
  let (r, s) := s.take
  match r % 4 with
  | 1 => s.modCore core fun c => { c with debugArmed := true }
  | 2 => s.modCore core fun c => { c with debugArmed := false }
  | 3 => { s with groups := s.groups.map fun g => if g.core == core && g.status == .halted then { g with status := .running } else g }
  | _ => s

/-- A debug access that is performed: the block is woken. -/
def State.debugPerform (s : State) (b : Block) (reg : Nat) (data : Option DWord) : State :=
  let s := s.setPower b .c0
  match data, blockReg b reg with
  | none, some pa => s.debugSay .done (BitVec.ofNat 64 (s.regRead (pa / 8 * 8)))
  | none, none => let (r, s) := s.take; s.debugSay .done (BitVec.ofNat 64 r)
  | some v, a =>
    let s := match a with | some pa => s.regWrite (pa / 8 * 8) v.toNat (2 ^ 64 - 1) | none => s
    let s := match b with | .core c => s.debugCore c | _ => s
    s.debugSay .done 0

/-- DEBUG_ACCESS (R425, R521). -/
def execDebugAccess (b : Block) (reg : Nat) (data : Option DWord) (s : State) : Host.Outcome State Fault Refusal :=
  if s.sys.low || s.sys.dev == .d3cold || !allBlocks.contains b then .next s
  else if s.sys.dev == .d3hot then .next (s.debugSay .asleep 0)
  else
    match s.sys.debug with
    | .off => .next (s.debugSay .disabled 0)
    | .nEnabled =>
      if s.secureBlock b then .next ((s.countDenied ((blockReg b reg).getD 0) (2 ^ 29)).debugSay .noauth 0)
      else if s.powerOf b == .c3 then .next (s.debugSay .off 0)
      else .next (s.debugPerform b reg data)
    | .sAuthorised => if s.powerOf b == .c3 then .next (s.debugSay .off 0) else .next (s.debugPerform b reg data)

end Sys2Proof.Machine
end

