-- ==== Sys2Proof/Machine/VecImm.lean ====
section
/-! DEFINITION. The immediate instructions (R154, R210, R211). -/

namespace Sys2Proof.Machine

/-- A VI instruction of one 32-bit source on the X pipe. -/
def runImm (i : Instr) (x : VI) (f : Word → Word) (s : State) : Host.Outcome State Fault Refusal :=
  runVec i ⟨[⟨x.a, false⟩], x.d.toNat, x.w, false, .x⟩ (fun g t => res32 (f (lo32 (g.read .int false x.a t)))) s

/-- A constant written to D. -/
def runConst (i : Instr) (x : VI) (k : Word) (s : State) : Host.Outcome State Fault Refusal :=
  runVec i ⟨[], x.d.toNat, x.w, false, .x⟩ (fun _ _ => res32 k) s

/-- FADDW and FMULW: rounding, flushing and flags as FADD and FMUL with mod 0 and S = 0 (R210). -/
def runFloatImm (i : Instr) (x : VI) (k : Word) (op : FOp) (s : State) : Host.Outcome State Fault Refusal :=
  runVec i ⟨[⟨x.a, false⟩], x.d.toNat, x.w, false, .v⟩ (fun g t => fOp32 op g.fpmode 0 false (lo32 (g.read .f32 false x.a t)) k) s

/-- The sign-extended immediate. -/
def imm32 (x : VI) : Word := x.imm.signExtend 32
/-- A shift count, imm12[4:0]. -/
def immCount (x : VI) : Word := (x.imm.extractLsb' 0 5).setWidth 32

def execIaddi (x : VI) (s : State) := runImm (.iaddi x) x (· + imm32 x) s
def execAndi (x : VI) (s : State) := runImm (.andi x) x (· &&& imm32 x) s
def execOri (x : VI) (s : State) := runImm (.ori x) x (· ||| imm32 x) s
def execXori (x : VI) (s : State) := runImm (.xori x) x (· ^^^ imm32 x) s
def execShli (x : VI) (s : State) := runImm (.shli x) x (· <<< immCount x) s
def execShri (x : VI) (s : State) := runImm (.shri x) x (· >>> immCount x) s
def execSari (x : VI) (s : State) := runImm (.sari x) x (fun a => a.sshiftRight (immCount x).toNat) s
def execImuli (x : VI) (s : State) := runImm (.imuli x) x (· * imm32 x) s

/-- ICMPI compares A with the sign-extended 9-bit value (R211). -/
def execIcmpi (x : VI) (s : State) :=
  runPred (.icmpi x) [⟨x.a, false⟩] (fun g => g.writePred x.d x.w fun t =>
    icond (x.imm.extractLsb' 9 3).toNat (lo32 (g.read .int false x.a t)).toInt (x.imm.extractLsb' 0 9).toInt) s

def execMovi (x : VI) (s : State) := runConst (.movi x) x (imm32 x) s
def execMovw (x : VI) (k : Word) (s : State) := runConst (.movw x k) x k s

/-- LEAI: a 64-bit source and result (R210). -/
def execLeai (x : VI) (s : State) :=
  runVec (.leai x) ⟨[⟨x.a, true⟩], x.d.toNat, x.w, true, .x⟩ (fun g t => res64 (g.read .int true x.a t + x.imm.signExtend 64)) s

def execFaddw (x : VI) (k : Word) (s : State) := runFloatImm (.faddw x k) x k .add s
def execFmulw (x : VI) (k : Word) (s : State) := runFloatImm (.fmulw x k) x k .mul s
def execIaddw (x : VI) (k : Word) (s : State) := runImm (.iaddw x k) x (· + k) s

end Sys2Proof.Machine
end

