-- ==== Sys2Proof/Machine/VecThree.lean ====
section
/-! DEFINITION. The three-source instructions (R176 to R183) and the 16-bit forms (R138, R175). -/

namespace Sys2Proof.Machine

/-- A V3 instruction whose function takes three operands of one type. -/
def runV3 (i : Instr) (x : V3) (c : Consts) (wide : Bool) (p : Pipe) (f : Ctx → DWord → DWord → DWord → LaneRes) (s : State) :
    Host.Outcome State Fault Refusal :=
  runVec i ⟨[⟨x.a, wide⟩, ⟨x.b, wide⟩, ⟨x.c, wide⟩], x.d.toNat, x.w, wide, p⟩
    (fun ctx t => f ctx (ctx.read c wide x.a t) (ctx.read c wide x.b t) (ctx.read c wide x.c t)) s

/-- A three-source function of 32-bit operands. -/
def w3 (f : Ctx → Word → Word → Word → LaneRes) : Ctx → DWord → DWord → DWord → LaneRes := fun x a b c => f x (lo32 a) (lo32 b) (lo32 c)

/-- The variant bit of R173. -/
def variantBit (x : V3) : Bool := x.b.toNat < x.a.toNat

def execFma32 (x : V3) (s : State) := runV3 (.fma32 x) x .f32 false .v (w3 fun g a b c => fFma32 g.fpmode a b c) s
def execFma64 (x : V3) (s : State) := runV3 (.fma64 x) x .f64 true .v (fun g a b c => fFma64 g.fpmode a b c) s
def execFmah2 (x : V3) (s : State) := runV3 (.fmah2 x) x .f16 false .v (w3 fun g a b c => fFmah2 g.fpmode a b c) s
def execFmab2 (x : V3) (s : State) := runV3 (.fmab2 x) x .bf16 false .v (w3 fun g a b c => fFmab2 g.fpmode a b c) s
def execMuladd (x : V3) (s : State) := runV3 (.muladd x) x .int false .x (w3 fun _ a b c => res32 (fMuladd a b c)) s
def execMuladdh (x : V3) (s : State) := runV3 (.muladdh x) x .int false .x (w3 fun _ a b c => res32 (fMuladdh (variantBit x) a b c)) s

/-- CHOOSE reads both sources in every thread (R180). -/
def execChoose (x : ChooseArgs) (s : State) :=
  runVec (.choose x) ⟨[⟨x.a, false⟩, ⟨x.b, false⟩], x.d.toNat, x.w, false, .x⟩
    (fun g t => ⟨if g.pred x.p t then g.read .int false x.a t else g.read .int false x.b t, 0⟩) s

def execBitins (x : V3) (s : State) := runV3 (.bitins x) x .int false .x (w3 fun _ a b c => res32 (fBitins a b c)) s
def execShrcat (x : V3) (s : State) := runV3 (.shrcat x) x .int false .x (w3 fun _ a b c => res32 (fShrcat a b c)) s

/-- Dot products read packed sources and a 32-bit addend, whose constants have the addend's type (R141, R176). -/
def runDot (i : Instr) (x : V3) (c ca : Consts) (f : Ctx → Word → Word → Word → LaneRes) (s : State) :=
  runVec i ⟨[⟨x.a, false⟩, ⟨x.b, false⟩, ⟨x.c, false⟩], x.d.toNat, x.w, false, .x⟩
    (fun g t => f g (lo32 (g.read c false x.a t)) (lo32 (g.read c false x.b t)) (lo32 (g.read ca false x.c t))) s

def execDp4s8 (x : V3) (s : State) := runDot (.dp4s8 x) x .i8 .int (fun _ a b c => res32 (dotInt 8 4 true (variantBit x) a b c)) s
def execDp4u8 (x : V3) (s : State) := runDot (.dp4u8 x) x .i8 .int (fun _ a b c => res32 (dotInt 8 4 false (variantBit x) a b c)) s
def execDp8s4 (x : V3) (s : State) := runDot (.dp8s4 x) x .i4 .int (fun _ a b c => res32 (dotInt 4 8 true (variantBit x) a b c)) s
def execDp4e4 (x : V3) (s : State) := runDot (.dp4e4 x) x .e4m3 .f32 (fun g a b c => dotFloat .e4m3 4 g.fpmode a b c) s
def execDp4e5 (x : V3) (s : State) := runDot (.dp4e5 x) x .e5m2 .f32 (fun g a b c => dotFloat .e5m2 4 g.fpmode a b c) s
def execDp8f4 (x : V3) (s : State) := runDot (.dp8f4 x) x .e2m1 .f32 (fun g a b c => dotFloat .e2m1 8 g.fpmode a b c) s
def execDp2h (x : V3) (s : State) := runDot (.dp2h x) x .f16 .f32 (fun g a b c => dotFloat .b16 2 g.fpmode a b c) s

/-! ## The 16-bit forms: D := D op S (R138) -/

/-- A 16-bit form. MOV does not read D for its value (R185). -/
def runH16 (i : Instr) (x : H16) (c : Consts) (p : Pipe) (f : Ctx → Word → Word → LaneRes) (s : State) :=
  let fs : SrcField := BitVec.ofNat 6 (x.s.toNat + 32 * x.u.toNat)
  let fd : SrcField := BitVec.ofNat 6 x.d.toNat
  runVec i ⟨[⟨fd, false⟩, ⟨fs, false⟩], x.d.toNat, x.w, false, p⟩
    (fun g t => f g (lo32 (g.read c false fd t)) (lo32 (g.read c false fs t))) s

/-- The canonical NOP reads nothing and writes no entry and no latch (R138, R144). -/
def execNop (s : State) := runInstr .nop {} s fun s _ _ => .done s

def execMov16 (x : H16) (s : State) := runH16 (.mov16 x) x .int .x (fun _ _ b => res32 b) s
def execIadd16 (x : H16) (s : State) := runH16 (.iadd16 x) x .int .x (fun _ a b => res32 (fIadd false false a b)) s
def execIsub16 (x : H16) (s : State) := runH16 (.isub16 x) x .int .x (fun _ a b => res32 (fIsub false false a b)) s
def execImul16 (x : H16) (s : State) := runH16 (.imul16 x) x .int .x (fun _ a b => res32 (a * b)) s
def execAnd16 (x : H16) (s : State) := runH16 (.and16 x) x .int .x (fun _ a b => res32 (a &&& b)) s
def execOr16 (x : H16) (s : State) := runH16 (.or16 x) x .int .x (fun _ a b => res32 (a ||| b)) s
def execXor16 (x : H16) (s : State) := runH16 (.xor16 x) x .int .x (fun _ a b => res32 (a ^^^ b)) s
def execShl16 (x : H16) (s : State) := runH16 (.shl16 x) x .int .x (fun _ a b => res64 (fShl false (a.setWidth 64) b)) s
def execShr16 (x : H16) (s : State) := runH16 (.shr16 x) x .int .x (fun _ a b => res64 (fShr false (a.setWidth 64) b)) s
def execSar16 (x : H16) (s : State) := runH16 (.sar16 x) x .int .x (fun _ a b => res64 (fSar false (a.setWidth 64) b)) s
def execFadd16 (x : H16) (s : State) := runH16 (.fadd16 x) x .f32 .v (fun g a b => fOp32 .add g.fpmode 0 false a b) s
def execFsub16 (x : H16) (s : State) := runH16 (.fsub16 x) x .f32 .v (fun g a b => fOp32 .sub g.fpmode 0 false a b) s
def execFmul16 (x : H16) (s : State) := runH16 (.fmul16 x) x .f32 .v (fun g a b => fOp32 .mul g.fpmode 0 false a b) s
def execFmin16 (x : H16) (s : State) := runH16 (.fmin16 x) x .f32 .v (fun g a b => fOp32 .min g.fpmode 0 false a b) s
def execFmax16 (x : H16) (s : State) := runH16 (.fmax16 x) x .f32 .v (fun g a b => fOp32 .max g.fpmode 0 false a b) s
def execImin16 (x : H16) (s : State) := runH16 (.imin16 x) x .int .x (fun _ a b => res32 (fImin true a b)) s

end Sys2Proof.Machine
end

