-- ==== Sys2Proof/Machine/Dispatch.lean ====
section
/-! DEFINITION. The dispatch: one arm for each constructor of Instr. -/

namespace Sys2Proof.Machine

def exec (i : Instr) (s : State) : Host.Outcome State Fault Refusal :=
  match i with
  | .nop => Sys2Proof.Machine.execNop s
  | .mov16 x => Sys2Proof.Machine.execMov16 x s
  | .iadd16 x => Sys2Proof.Machine.execIadd16 x s
  | .isub16 x => Sys2Proof.Machine.execIsub16 x s
  | .imul16 x => Sys2Proof.Machine.execImul16 x s
  | .and16 x => Sys2Proof.Machine.execAnd16 x s
  | .or16 x => Sys2Proof.Machine.execOr16 x s
  | .xor16 x => Sys2Proof.Machine.execXor16 x s
  | .shl16 x => Sys2Proof.Machine.execShl16 x s
  | .shr16 x => Sys2Proof.Machine.execShr16 x s
  | .sar16 x => Sys2Proof.Machine.execSar16 x s
  | .fadd16 x => Sys2Proof.Machine.execFadd16 x s
  | .fsub16 x => Sys2Proof.Machine.execFsub16 x s
  | .fmul16 x => Sys2Proof.Machine.execFmul16 x s
  | .fmin16 x => Sys2Proof.Machine.execFmin16 x s
  | .fmax16 x => Sys2Proof.Machine.execFmax16 x s
  | .imin16 x => Sys2Proof.Machine.execImin16 x s
  | .fma32 x => Sys2Proof.Machine.execFma32 x s
  | .fma64 x => Sys2Proof.Machine.execFma64 x s
  | .fmah2 x => Sys2Proof.Machine.execFmah2 x s
  | .fmab2 x => Sys2Proof.Machine.execFmab2 x s
  | .muladd x => Sys2Proof.Machine.execMuladd x s
  | .muladdh x => Sys2Proof.Machine.execMuladdh x s
  | .choose x => Sys2Proof.Machine.execChoose x s
  | .bitins x => Sys2Proof.Machine.execBitins x s
  | .shrcat x => Sys2Proof.Machine.execShrcat x s
  | .dp4s8 x => Sys2Proof.Machine.execDp4s8 x s
  | .dp4u8 x => Sys2Proof.Machine.execDp4u8 x s
  | .dp8s4 x => Sys2Proof.Machine.execDp8s4 x s
  | .dp4e4 x => Sys2Proof.Machine.execDp4e4 x s
  | .dp4e5 x => Sys2Proof.Machine.execDp4e5 x s
  | .dp8f4 x => Sys2Proof.Machine.execDp8f4 x s
  | .dp2h x => Sys2Proof.Machine.execDp2h x s
  | .mov x => Sys2Proof.Machine.execMov x s
  | .iadd x => Sys2Proof.Machine.execIadd x s
  | .isub x => Sys2Proof.Machine.execIsub x s
  | .imul x => Sys2Proof.Machine.execImul x s
  | .imulhi x => Sys2Proof.Machine.execImulhi x s
  | .imin x => Sys2Proof.Machine.execImin x s
  | .imax x => Sys2Proof.Machine.execImax x s
  | .iabs x => Sys2Proof.Machine.execIabs x s
  | .and x => Sys2Proof.Machine.execAnd x s
  | .or x => Sys2Proof.Machine.execOr x s
  | .xor x => Sys2Proof.Machine.execXor x s
  | .andn x => Sys2Proof.Machine.execAndn x s
  | .shl x => Sys2Proof.Machine.execShl x s
  | .shr x => Sys2Proof.Machine.execShr x s
  | .sar x => Sys2Proof.Machine.execSar x s
  | .rot x => Sys2Proof.Machine.execRot x s
  | .popc x => Sys2Proof.Machine.execPopc x s
  | .clz x => Sys2Proof.Machine.execClz x s
  | .brev x => Sys2Proof.Machine.execBrev x s
  | .bfx x => Sys2Proof.Machine.execBfx x s
  | .lea x => Sys2Proof.Machine.execLea x s
  | .iadd64 x => Sys2Proof.Machine.execIadd64 x s
  | .icmp x => Sys2Proof.Machine.execIcmp x s
  | .pmov x => Sys2Proof.Machine.execPmov x s
  | .fadd x => Sys2Proof.Machine.execFadd x s
  | .fsub x => Sys2Proof.Machine.execFsub x s
  | .fmul x => Sys2Proof.Machine.execFmul x s
  | .fmin x => Sys2Proof.Machine.execFmin x s
  | .fmax x => Sys2Proof.Machine.execFmax x s
  | .fcmp x => Sys2Proof.Machine.execFcmp x s
  | .fclass x => Sys2Proof.Machine.execFclass x s
  | .fint x => Sys2Proof.Machine.execFint x s
  | .frcp x => Sys2Proof.Machine.execFrcp x s
  | .frsq x => Sys2Proof.Machine.execFrsq x s
  | .fsqrt x => Sys2Proof.Machine.execFsqrt x s
  | .fexp2 x => Sys2Proof.Machine.execFexp2 x s
  | .flog2 x => Sys2Proof.Machine.execFlog2 x s
  | .fsin x => Sys2Proof.Machine.execFsin x s
  | .fcos x => Sys2Proof.Machine.execFcos x s
  | .dadd x => Sys2Proof.Machine.execDadd x s
  | .dmul x => Sys2Proof.Machine.execDmul x s
  | .dmin x => Sys2Proof.Machine.execDmin x s
  | .dmax x => Sys2Proof.Machine.execDmax x s
  | .dcmp x => Sys2Proof.Machine.execDcmp x s
  | .drcp x => Sys2Proof.Machine.execDrcp x s
  | .dsqrt x => Sys2Proof.Machine.execDsqrt x s
  | .hadd2 x => Sys2Proof.Machine.execHadd2 x s
  | .hmul2 x => Sys2Proof.Machine.execHmul2 x s
  | .badd2 x => Sys2Proof.Machine.execBadd2 x s
  | .bmul2 x => Sys2Proof.Machine.execBmul2 x s
  | .cvt x => Sys2Proof.Machine.execCvt x s
  | .pack x => Sys2Proof.Machine.execPack x s
  | .unpack x => Sys2Proof.Machine.execUnpack x s
  | .xlane x => Sys2Proof.Machine.execXlane x s
  | .poll x => Sys2Proof.Machine.execPoll x s
  | .scan x => Sys2Proof.Machine.execScan x s
  | .lred x => Sys2Proof.Machine.execLred x s
  | .movx x => Sys2Proof.Machine.execMovx x s
  | .stx x => Sys2Proof.Machine.execStx x s
  | .pcomb x => Sys2Proof.Machine.execPcomb x s
  | .hmin2 x => Sys2Proof.Machine.execHmin2 x s
  | .hmax2 x => Sys2Proof.Machine.execHmax2 x s
  | .hcmp2 x => Sys2Proof.Machine.execHcmp2 x s
  | .iaddi x => Sys2Proof.Machine.execIaddi x s
  | .andi x => Sys2Proof.Machine.execAndi x s
  | .ori x => Sys2Proof.Machine.execOri x s
  | .xori x => Sys2Proof.Machine.execXori x s
  | .shli x => Sys2Proof.Machine.execShli x s
  | .shri x => Sys2Proof.Machine.execShri x s
  | .sari x => Sys2Proof.Machine.execSari x s
  | .imuli x => Sys2Proof.Machine.execImuli x s
  | .icmpi x => Sys2Proof.Machine.execIcmpi x s
  | .movi x => Sys2Proof.Machine.execMovi x s
  | .movw x k => Sys2Proof.Machine.execMovw x k s
  | .leai x => Sys2Proof.Machine.execLeai x s
  | .faddw x k => Sys2Proof.Machine.execFaddw x k s
  | .fmulw x k => Sys2Proof.Machine.execFmulw x k s
  | .iaddw x k => Sys2Proof.Machine.execIaddw x k s
  | .ld8 x => Sys2Proof.Machine.execLd8 x s
  | .ld8s x => Sys2Proof.Machine.execLd8s x s
  | .ld16 x => Sys2Proof.Machine.execLd16 x s
  | .ld16s x => Sys2Proof.Machine.execLd16s x s
  | .ld32 x => Sys2Proof.Machine.execLd32 x s
  | .ld64 x => Sys2Proof.Machine.execLd64 x s
  | .ld128 x => Sys2Proof.Machine.execLd128 x s
  | .st8 x => Sys2Proof.Machine.execSt8 x s
  | .st16 x => Sys2Proof.Machine.execSt16 x s
  | .st32 x => Sys2Proof.Machine.execSt32 x s
  | .st64 x => Sys2Proof.Machine.execSt64 x s
  | .st128 x => Sys2Proof.Machine.execSt128 x s
  | .lda x o => Sys2Proof.Machine.execLda x o s
  | .stl x o => Sys2Proof.Machine.execStl x o s
  | .atom x o => Sys2Proof.Machine.execAtom x o s
  | .red x o => Sys2Proof.Machine.execRed x o s
  | .callm x o => Sys2Proof.Machine.execCallm x o s
  | .postm x o => Sys2Proof.Machine.execPostm x o s
  | .lds x => Sys2Proof.Machine.execLds x s
  | .sts x => Sys2Proof.Machine.execSts x s
  | .atoms x o => Sys2Proof.Machine.execAtoms x o s
  | .ldp x => Sys2Proof.Machine.execLdp x s
  | .stp x => Sys2Proof.Machine.execStp x s
  | .ldpk x => Sys2Proof.Machine.execLdpk x s
  | .pref x => Sys2Proof.Machine.execPref x s
  | .fence x o => Sys2Proof.Machine.execFence x o s
  | .smov x => Sys2Proof.Machine.execSmov x s
  | .sadd x => Sys2Proof.Machine.execSadd x s
  | .ssub x => Sys2Proof.Machine.execSsub x s
  | .smul x => Sys2Proof.Machine.execSmul x s
  | .smulhi x => Sys2Proof.Machine.execSmulhi x s
  | .sand x => Sys2Proof.Machine.execSand x s
  | .sor x => Sys2Proof.Machine.execSor x s
  | .sxor x => Sys2Proof.Machine.execSxor x s
  | .sshl x => Sys2Proof.Machine.execSshl x s
  | .sshr x => Sys2Proof.Machine.execSshr x s
  | .ssar x => Sys2Proof.Machine.execSsar x s
  | .smin x => Sys2Proof.Machine.execSmin x s
  | .smax x => Sys2Proof.Machine.execSmax x s
  | .scmp x => Sys2Proof.Machine.execScmp x s
  | .ssel x => Sys2Proof.Machine.execSsel x s
  | .smovw x k => Sys2Proof.Machine.execSmovw x k s
  | .smovd x k => Sys2Proof.Machine.execSmovd x k s
  | .saddw x k => Sys2Proof.Machine.execSaddw x k s
  | .sld x => Sys2Proof.Machine.execSld x s
  | .sst x => Sys2Proof.Machine.execSst x s
  | .slda x o => Sys2Proof.Machine.execSlda x o s
  | .sstl x o => Sys2Proof.Machine.execSstl x o s
  | .satom x o => Sys2Proof.Machine.execSatom x o s
  | .sread x => Sys2Proof.Machine.execSread x s
  | .swrite x => Sys2Proof.Machine.execSwrite x s
  | .rdlane x => Sys2Proof.Machine.execRdlane x s
  | .bcast x => Sys2Proof.Machine.execBcast x s
  | .sfadd x => Sys2Proof.Machine.execSfadd x s
  | .sfmul x => Sys2Proof.Machine.execSfmul x s
  | .scvt x => Sys2Proof.Machine.execScvt x s
  | .spopc x => Sys2Proof.Machine.execSpopc x s
  | .sclz x => Sys2Proof.Machine.execSclz x s
  | .actmask x => Sys2Proof.Machine.execActmask x s
  | .elect x => Sys2Proof.Machine.execElect x s
  | .sdadd x => Sys2Proof.Machine.execSdadd x s
  | .sdmul x => Sys2Proof.Machine.execSdmul x s
  | .bra sp off => Sys2Proof.Machine.execBra sp off s
  | .brc sp c sense off => Sys2Proof.Machine.execBrc sp c sense off s
  | .brd sp p off joinOff => Sys2Proof.Machine.execBrd sp p off joinOff s
  | .join sp => Sys2Proof.Machine.execJoin sp s
  | .call sp off => Sys2Proof.Machine.execCall sp off s
  | .ret sp => Sys2Proof.Machine.execRet sp s
  | .calli sp k => Sys2Proof.Machine.execCalli sp k s
  | .region sp items => Sys2Proof.Machine.execRegion sp items s
  | .regionu sp items => Sys2Proof.Machine.execRegionu sp items s
  | .exit sp => Sys2Proof.Machine.execExit sp s
  | .yield sp nb off => Sys2Proof.Machine.execYield sp nb off s
  | .barArrive sp nb => Sys2Proof.Machine.execBarArrive sp nb s
  | .barWait sp nb => Sys2Proof.Machine.execBarWait sp nb s
  | .barArrivewait sp nb => Sys2Proof.Machine.execBarArrivewait sp nb s
  | .barinit sp nb count => Sys2Proof.Machine.execBarinit sp nb count s
  | .carve sp nb k => Sys2Proof.Machine.execCarve sp nb k s
  | .ixset sp ix base len => Sys2Proof.Machine.execIxset sp ix base len s
  | .spawn sp k entry => Sys2Proof.Machine.execSpawn sp k entry s
  | .trap sp code => Sys2Proof.Machine.execTrap sp code s
  | .tret sp => Sys2Proof.Machine.execTret sp s
  | .bkpt sp => Sys2Proof.Machine.execBkpt sp s
  | .setfpm sp mode => Sys2Proof.Machine.execSetfpm sp mode s
  | .kill sp p => Sys2Proof.Machine.execKill sp p s
  | .nop32 sp => Sys2Proof.Machine.execNop32 sp s
  | .idemStart sp => Sys2Proof.Machine.execIdemStart sp s
  | .idemCommit sp => Sys2Proof.Machine.execIdemCommit sp s
  | .copy x k => Sys2Proof.Machine.execCopy x k s
  | .copyg x k => Sys2Proof.Machine.execCopyg x k s
  | .sqfence x => Sys2Proof.Machine.execSqfence x s
  | .stream x k => Sys2Proof.Machine.execStream x k s
  | .mma x k => Sys2Proof.Machine.execMma x k s
  | .mbatch x => Sys2Proof.Machine.execMbatch x s
  | .mwait x k => Sys2Proof.Machine.execMwait x k s
  | .mdrain x k => Sys2Proof.Machine.execMdrain x k s
  | .mfill x k => Sys2Proof.Machine.execMfill x k s
  | .mzero x => Sys2Proof.Machine.execMzero x s
  | .neval x k => Sys2Proof.Machine.execNeval x k s
  | .tex x k => Sys2Proof.Machine.execTex x k s
  | .texf x k => Sys2Proof.Machine.execTexf x k s
  | .texq x => Sys2Proof.Machine.execTexq x s
  | .trace x => Sys2Proof.Machine.execTrace x s
  | .flins x => Sys2Proof.Machine.execFlins x s
  | .flres x => Sys2Proof.Machine.execFlres x s
  | .ordent x => Sys2Proof.Machine.execOrdent x s
  | .ordlv x => Sys2Proof.Machine.execOrdlv x s
  | .patch x => Sys2Proof.Machine.execPatch x s
  | .gvtx x k => Sys2Proof.Machine.execGvtx x k s
  | .tkpush x k => Sys2Proof.Machine.execTkpush x k s
  | .tkpop x k => Sys2Proof.Machine.execTkpop x k s
  | .tksteal x k => Sys2Proof.Machine.execTksteal x k s
  | .tkdone x k => Sys2Proof.Machine.execTkdone x k s
  | .xchg x => Sys2Proof.Machine.execXchg x s
  | .cred x k => Sys2Proof.Machine.execCred x k s
  | .rlogDisable x => Sys2Proof.Machine.execRlogDisable x s
  | .rlogRecord x => Sys2Proof.Machine.execRlogRecord x s
  | .rlogReplay x => Sys2Proof.Machine.execRlogReplay x s
  | .rlogMark x => Sys2Proof.Machine.execRlogMark x s
  | .launch sl x => Sys2Proof.Machine.execLaunch sl x s
  | .launch2 sl prologue params arg => Sys2Proof.Machine.execLaunch2 sl prologue params arg s
  | .ib sl addr len => Sys2Proof.Machine.execIb sl addr len s
  | .pred sl c skip => Sys2Proof.Machine.execPred sl c skip s
  | .loop sl body iters => Sys2Proof.Machine.execLoop sl body iters s
  | .wait sl c => Sys2Proof.Machine.execWait sl c s
  | .signal sl addr value op wide mask => Sys2Proof.Machine.execSignal sl addr value op wide mask s
  | .ffence sl => Sys2Proof.Machine.execFfence sl s
  | .graph sl table cancel prio => Sys2Proof.Machine.execGraph sl table cancel prio s
  | .phase sl record cancel => Sys2Proof.Machine.execPhase sl record cancel s
  | .passBegin sl block => Sys2Proof.Machine.execPassBegin sl block s
  | .passNext sl => Sys2Proof.Machine.execPassNext sl s
  | .passEnd sl => Sys2Proof.Machine.execPassEnd sl s
  | .nopp sl => Sys2Proof.Machine.execNopp sl s
  | .waitRecheck sl => Sys2Proof.Machine.execWaitRecheck sl s
  | .writeOffsetReread sl => Sys2Proof.Machine.execWriteOffsetReread sl s
  | .slotRelease sl => Sys2Proof.Machine.execSlotRelease sl s
  | .bindRound => Sys2Proof.Machine.execBindRound s
  | .parkConditionEval q => Sys2Proof.Machine.execParkConditionEval q s
  | .cancelWordWrite u => Sys2Proof.Machine.execCancelWordWrite u s
  | .groupKill g => Sys2Proof.Machine.execGroupKill g s
  | .teamAdmit l => Sys2Proof.Machine.execTeamAdmit l s
  | .slotMaskReserve sl => Sys2Proof.Machine.execSlotMaskReserve sl s
  | .launchComplete l => Sys2Proof.Machine.execLaunchComplete l s
  | .prologueRun sl => Sys2Proof.Machine.execPrologueRun sl s
  | .teamEnd tm => Sys2Proof.Machine.execTeamEnd tm s
  | .groupStorageDrain g => Sys2Proof.Machine.execGroupStorageDrain g s
  | .operandSlotGrant g => Sys2Proof.Machine.execOperandSlotGrant g s
  | .barrierWaitReturn g => Sys2Proof.Machine.execBarrierWaitReturn g s
  | .yieldWake g => Sys2Proof.Machine.execYieldWake g s
  | .xchgPairing g h => Sys2Proof.Machine.execXchgPairing g h s
  | .carveArrival tm => Sys2Proof.Machine.execCarveArrival tm s
  | .splitPhaseResult g slot => Sys2Proof.Machine.execSplitPhaseResult g slot s
  | .trapEntry g => Sys2Proof.Machine.execTrapEntry g s
  | .preemptRequest tm => Sys2Proof.Machine.execPreemptRequest tm s
  | .preemptStop g => Sys2Proof.Machine.execPreemptStop g s
  | .teamContextSave tm => Sys2Proof.Machine.execTeamContextSave tm s
  | .graphicsKill g => Sys2Proof.Machine.execGraphicsKill g s
  | .graphicsReplay g => Sys2Proof.Machine.execGraphicsReplay g s
  | .patchDice core => Sys2Proof.Machine.execPatchDice core s
  | .gridGroupStart core => Sys2Proof.Machine.execGridGroupStart core s
  | .sequenceWrap ps => Sys2Proof.Machine.execSequenceWrap ps s
  | .binFlush ps => Sys2Proof.Machine.execBinFlush ps s
  | .micropolygonSample core => Sys2Proof.Machine.execMicropolygonSample core s
  | .fragmentGroupClose core => Sys2Proof.Machine.execFragmentGroupClose core s
  | .sampleGroupStart core => Sys2Proof.Machine.execSampleGroupStart core s
  | .fragmentListInsertion core => Sys2Proof.Machine.execFragmentListInsertion core s
  | .tileResolve ps tile => Sys2Proof.Machine.execTileResolve ps tile s
  | .pageWalk job pair va => Sys2Proof.Machine.execPageWalk job pair va s
  | .priResponse job va success => Sys2Proof.Machine.execPriResponse job va success s
  | .atsInvalidation job va pages => Sys2Proof.Machine.execAtsInvalidation job va pages s
  | .hostSnoop pa => Sys2Proof.Machine.execHostSnoop pa s
  | .hostMemoryAccess pa op => Sys2Proof.Machine.execHostMemoryAccess pa op s
  | .peerMessageReceive src seq msg => Sys2Proof.Machine.execPeerMessageReceive src seq msg s
  | .peerLinkLoss port => Sys2Proof.Machine.execPeerLinkLoss port s
  | .peerDestinationTimeout dev => Sys2Proof.Machine.execPeerDestinationTimeout dev s
  | .gcmTagFailure port => Sys2Proof.Machine.execGcmTagFailure port s
  | .brualLinkTraining port dev => Sys2Proof.Machine.execBrualLinkTraining port dev s
  | .homeRequestArrival col => Sys2Proof.Machine.execHomeRequestArrival col s
  | .combinerLaunch col => Sys2Proof.Machine.execCombinerLaunch col s
  | .combinerInstructionLimit g => Sys2Proof.Machine.execCombinerInstructionLimit g s
  | .burlAtomicUpdate col => Sys2Proof.Machine.execBurlAtomicUpdate col s
  | .edgeAtomic edge => Sys2Proof.Machine.execEdgeAtomic edge s
  | .sliceMapRemap slice vault => Sys2Proof.Machine.execSliceMapRemap slice vault s
  | .columnPowerOff col => Sys2Proof.Machine.execColumnPowerOff col s
  | .columnPowerOn col => Sys2Proof.Machine.execColumnPowerOn col s
  | .patrolScrub line found => Sys2Proof.Machine.execPatrolScrub line found s
  | .streamEntryComplete core q => Sys2Proof.Machine.execStreamEntryComplete core q s
  | .streamFillBox core q => Sys2Proof.Machine.execStreamFillBox core q s
  | .streamDrainBox core q => Sys2Proof.Machine.execStreamDrainBox core q s
  | .tileOperationRetire core tile => Sys2Proof.Machine.execTileOperationRetire core tile s
  | .aFetchResume core tile => Sys2Proof.Machine.execAFetchResume core tile s
  | .whorlRequestArrival pair => Sys2Proof.Machine.execWhorlRequestArrival pair s
  | .whorlIdleTileForm pair bin => Sys2Proof.Machine.execWhorlIdleTileForm pair bin s
  | .whorlTileReturn pair => Sys2Proof.Machine.execWhorlTileReturn pair s
  | .collectiveCombine ident => Sys2Proof.Machine.execCollectiveCombine ident s
  | .createJob h x => Sys2Proof.Machine.execCreateJob h x s
  | .destroyJob h => Sys2Proof.Machine.execDestroyJob h s
  | .cancelJob h => Sys2Proof.Machine.execCancelJob h s
  | .registerQueue h qcb wake => Sys2Proof.Machine.execRegisterQueue h qcb wake s
  | .unregisterQueue h qcb => Sys2Proof.Machine.execUnregisterQueue h qcb s
  | .invalidate h va pages => Sys2Proof.Machine.execInvalidate h va pages s
  | .resident h va refused => Sys2Proof.Machine.execResident h va refused s
  | .collective h x => Sys2Proof.Machine.execCollective h x s
  | .attest h nonce addr => Sys2Proof.Machine.execAttest h nonce addr s
  | .debugAuth h addr len => Sys2Proof.Machine.execDebugAuth h addr len s
  | .flashUpdate h addr len => Sys2Proof.Machine.execFlashUpdate h addr len s
  | .wakeRegisterWrite reg => Sys2Proof.Machine.execWakeRegisterWrite reg s
  | .wakeBufferReplay => Sys2Proof.Machine.execWakeBufferReplay s
  | .pfctlClear core v => Sys2Proof.Machine.execPfctlClear core v s
  | .thermstatWrite v => Sys2Proof.Machine.execThermstatWrite v s
  | .pwrctlWrite v => Sys2Proof.Machine.execPwrctlWrite v s
  | .rcvctlGo v => Sys2Proof.Machine.execRcvctlGo v s
  | .recoveryFetchDone => Sys2Proof.Machine.execRecoveryFetchDone s
  | .registerWrite fn reg v => Sys2Proof.Machine.execRegisterWrite fn reg v s
  | .debugAccess block reg data => Sys2Proof.Machine.execDebugAccess block reg data s
  | .resetNRise => Sys2Proof.Machine.execResetNRise s
  | .pcieLinkUp => Sys2Proof.Machine.execPcieLinkUp s
  | .railFault => Sys2Proof.Machine.execRailFault s
  | .perstN => Sys2Proof.Machine.execPerstN s
  | .d3coldEntry => Sys2Proof.Machine.execD3coldEntry s
  | .powerLimitEval watts => Sys2Proof.Machine.execPowerLimitEval watts s
  | .powerLimitNotMet watts => Sys2Proof.Machine.execPowerLimitNotMet watts s
  | .pmbusFault => Sys2Proof.Machine.execPmbusFault s
  | .thermalThrottleStep coreC canopyC => Sys2Proof.Machine.execThermalThrottleStep coreC canopyC s
  | .thermalCritical celsius canopy => Sys2Proof.Machine.execThermalCritical celsius canopy s
  | .thermalCriticalTimeout => Sys2Proof.Machine.execThermalCriticalTimeout s
  | .thermalTrip celsius canopy => Sys2Proof.Machine.execThermalTrip celsius canopy s
  | .watchdogExpiry => Sys2Proof.Machine.execWatchdogExpiry s
  | .spareTakeover => Sys2Proof.Machine.execSpareTakeover s
  | .resetNFall => Sys2Proof.Machine.execResetNFall s
  | .d3hotEntry => Sys2Proof.Machine.execD3hotEntry s
  | .blockPowerStateChange block target => Sys2Proof.Machine.execBlockPowerStateChange block target s
  | .tdiIdeStateChange fn run ide => Sys2Proof.Machine.execTdiIdeStateChange fn run ide s
  | .thermalRecovery coreC canopyC => Sys2Proof.Machine.execThermalRecovery coreC canopyC s

end Sys2Proof.Machine
end

