-- ==== Sys2Proof/Machine/Errors.lean ====
section
/-! DEFINITION. Errors that the part's arrays detect (R490, R492, R494, R499 to R502). An error is an act of the machine: it is met where
something reads the array, and when is left free (log 56). -/

namespace Sys2Proof.Machine

/-! ## What an instruction reads -/

/-- The operand-buffer entries that a collective, list, ray, texture or tile instruction, or a combiner's EXIT, reads. -/
def asyReads (g : Group) : Instr → BitVec 16
  | .xchg x => Src.ents ⟨x.a, false⟩
  | .cred x _ => Src.ents ⟨x.a, false⟩
  | .flins x => entRange (selNat x.a) 6
  | .flres x | .ordent x | .ordlv x | .patch x => entRange (selNat x.a) 2
  | .gvtx x k => entRange (selNat x.a) (6 + 2 * fld k 2 0)
  | .tex x k => entRange (selNat x.a) (texInputs k)
  | .texf x k => entRange (selNat x.a) (texfInputs k)
  | .texq x => entRange (selNat x.a) 1
  | .trace x => entRange (selNat x.a) (if x.sub == 2 then 11 else 8)
  | .mfill x k => if fld k 0 0 == 1 then 0 else entRange x.d.toNat (bandEntries (fld k 5 4))
  | .exit _ => if g.kind == .combiner then 3 else 0
  | _ => 0

/-- The main registers that an instruction reads, or the entries that map them (R150). -/
def State.mainReads (s : State) (g : Group) : Instr → BitVec 256
  | .movx x => s.namedMain x
  | .neval _ k => mainRange (g.ctx.ix[Fin.ofNat 4 (fld k 1 0)]).base.toNat ((fld k 9 4 + 2) / 2)
  | .region _ items => BitVec.ofNat 256 ((items.filter fun it => it.load && !regionKeeps g.ctx items it.entry.val).foldl (fun m it => m ||| 2 ^ it.v.toNat) 0)
  | .tret .. => firstLanes g.regs
  | _ => 0

/-- The operand-buffer entries that an instruction reads. -/
def State.entryReads (s : State) (g : Group) (i : Instr) : BitVec 16 :=
  srcEnts (sourcesOf i).1 ||| (sourcesOf i).2 ||| (readsBeside i).1 ||| asyReads g i |||
    match i with
    | .movx _ | .neval _ _ => g.ctx.entriesOf (s.mainReads g i)
    | _ => 0

/-- A group at an instruction that may issue, its context as the instruction finds it. -/
def State.reading (s : State) (gi : Nat) : Option (Group × Instr) :=
  match { s with cur := gi }.issuing with
  | none => none
  | some g =>
    if !s.powered g.core || s.doomed g then none
    else
      match s.fetch g with
      | .instr i =>
        if !wf i || (g.kind == .combiner && combinerDenied i) || (g.inSection && sectionDenied i) then none
        else some ({ g with ctx := g.ctx.begin { latches := srcLatches (sourcesOf i).1 } }, i)
      | _ => none

/-- The instruction traps ECC_UNCORRECTED on an array of its core (R490, R492), which counts it (R493). -/
def State.eccTrap (s : State) (gi : Nat) (g : Group) (i : Instr) (t : TrapInfo) : State :=
  takeTrap ((s.modCore g.core fun c => { c with ueCore := c.ueCore + 1 }).setGroup gi g) gi t (g.after i) (srcLatches (sourcesOf i).1) none

/-! ## Operand buffers, latches, main file and scratchpad -/

/-- A parity error of an entry (R492): a CLEAN one is reloaded; a DIRTY one traps its reader, and the lanes of `m` lose what it held: each
holds a free value. -/
def State.parityError (s : State) (gi e : Nat) (m : LaneMask) : State :=
  match s.reading gi with
  | none => s
  | some (g, i) =>
    if !({ s with cur := gi }.entryReads g i).getLsbD e || !(g.guards { ents := 1#16 <<< e }).isEmpty then s
    else
      match g.ctx.entry e with
      | ⟨some v, .clean, _⟩ =>
        (s.setCtx gi (g.ctx.setEntry e ⟨some v, .clean, g.ctx.mainReg v.toNat⟩)).modCore g.core fun c => { c with peOpb := c.peOpb + 1 }
      | ⟨map, .dirty, val⟩ =>
        let (r, s) := s.take
        let lost := mergeLanes m val fun t => BitVec.ofNat 32 (r / 2 ^ (32 * t))
        s.eccTrap gi { g with ctx := g.ctx.setEntry e ⟨map, .dirty, lost⟩ } i { trapOf i g .eccUncorrected with lanes := m }
      | _ => s

/-- A parity error of a latch: its reader traps, and a retry rebuilds it (R462, R492). -/
def State.latchError (s : State) (gi k : Nat) (m : LaneMask) : State :=
  match s.reading gi with
  | none => s
  | some (g, i) =>
    let u : Uses := { ents := s.entryReads g i }
    if (srcLatches (sourcesOf i).1).contains k && g.ctx.latches[Fin.ofNat 4 k].valid && (g.guards u).isEmpty
    then s.eccTrap gi g i { trapOf i g .eccUncorrected with lanes := m } else s

/-- An error of a 64-bit word of the main file, which holds two lanes of a register (R490). -/
def State.mainError (s : State) (gi word : Nat) : State :=
  match s.reading gi with
  | none => s
  | some (g, i) =>
    let m := { s with cur := gi }.mainReads g i
    let u : Uses := match i with
      | .movx _ | .neval _ _ => { main := m }
      | _ => { all := true }
    if (List.range g.regs).any (fun v => m.getLsbD v && (g.ctx.entryOf v).isNone || m.getLsbD v && u.all) && (g.guards u).isEmpty
    then s.eccTrap gi g i { trapOf i g .eccUncorrected with lanes := 3#256 <<< (2 * (word % 128)) } else s

/-- An error of the 64-bit word of scratchpad that a lane of an LDS or ATOMS reads (R490). -/
def State.scratchError (s : State) (gi lane : Nat) : State :=
  match s.reading gi with
  | none => s
  | some (g, i) =>
    let meet (x : Mem) (n : Nat) (oword : Word) (write : Bool) : State :=
      let lanes := scratchLanes x g
      let met : List (Nat × DWord) := match lanes.lookup lane with
        | some a => lanes.filter fun p => p.2.toNat / 8 ≤ (a.toNat + n - 1) / 8 && a.toNat / 8 ≤ (p.2.toNat + n - 1) / 8
        | none => []
      match met with
      | [] => s
      | p :: _ =>
        if (scratchCause n (s.scratchOf g).2 lanes).isSome || g.acquiring || !(g.guards { ents := s.entryReads g i }).isEmpty then s
        else s.eccTrap gi g i { trapAt i g .eccUncorrected p.2 (maskOf (met.map (·.1))) write with oword := oword }
    match i with
    | .lds x => meet x x.scratchBytes 0 false
    | .atoms x _ => meet x x.scratchBytes (orderWord i) true
    | _ => s

/-- An error of an L1 line (R490): a clean one is fetched again; a dirty private one poisons its memory line, so that the access that next
reads it traps (R491). -/
def State.lineError (s : State) (core k : Nat) : State :=
  match (s.core core).l1[k]? with
  | none => s
  | some l =>
    let t := s.modCore core fun c => c.drop fun e => e.line == l.line && e.owner == l.owner && e.priv == l.priv
    if l.dirty then (t.modCore core fun c => { c with ueCore := c.ueCore + 1 }).poisonLine l.line else t

/-- The pre-emption engine reads an uncorrectable word of a main register that it saves: the team is killed (R472, R490). -/
def State.saveError (s : State) (gi v : Nat) : State :=
  match s.groups[gi]? with
  | none => s
  | some g =>
    let stops := (stopMask g.status).isSome && !g.handler && g.gfx.isNone && !g.unsettled && g.posts.isEmpty && g.dueCause.isNone && v < g.regs
    let asked := match s.teams[g.team]? with | some t => t.live && t.preempt | none => false
    if stops && asked then
      (s.modCore g.core fun c => { c with ueCore := c.ueCore + 1 }).contextFailure g.team (g.context + BitVec.ofNat 64 (1024 * v))
    else s

/-! ## Engines, tiles and the Whorl -/

/-- The entry at the head of a stream queue reads an uncorrectable byte of scratchpad in element `j` of row `n` of its box (R504): what
it has written remains. -/
def State.drainError (s : State) (core q n j : Nat) : State :=
  match s.headEntry core q with
  | none => s
  | some e =>
    let part (l : Layout) (b : Box) (off : DWord) : Option State :=
      let (base, size) := s.entryScratch e
      if !boxFits l b off.toNat size || l.format == 2 || n ≥ b.rows || j ≥ b.e0 then none
      else
        match s.drainRows core e.job base off.toNat l b n with
        | .ok s =>
          (match s.drainRow core e.job l b n ((s.core core).getRow core l.swizzled base (off.toNat + 128 * n)) j with
           | .ok s => some ((s.entryError core q e .eccUncorrected (off + BitVec.ofNat 64 (128 * n + j * l.width / 8)) true).modCore core fun c =>
               { c with ueCore := c.ueCore + 1 })
           | _ => none)
        | _ => none
    if s.entryDead e || s.entryWaits e then s
    else
      match e.kind, s.entryLayout core e with
      | .copy 1, .ok (some l) =>
        (match part l (boxOf l.rank e.args.tail) (e.args.getD 0 0) with
         | some t => t.endEntry core q e
         | none => s)
      | .ring true m full empty, .ok (some l) =>
        let (b, last) := (boxOf l.rank (e.args.drop 3), l.rank - 1)
        let b := { b with starts := b.starts.set last (b.starts.getD last 0 + e.box * b.exts.getD last 0) }
        if e.err || !s.ringReady e true m full empty then s
        else
          (match part l b (e.args.getD 0 0 + BitVec.ofNat 64 (e.box % m) * e.args.getD 1 0) with
           | some t => t.ringGoesOn core q { e with err := true }
           | none => s)
      | _, _ => s

/-- The canonical NaN in binary32 (R111, R501). -/
def nanWord : Word := 0x7FC00000

/-- The tile operation at the front of a queue reads an uncorrectable word (R499 to R501): an MMA, or an MFILL from scratchpad, leaves its
tile undefined; an MDRAIN gives the canonical NaN for the two elements of an accumulator's word, and a free value for what a bad scale
leaves. The operation ends in error. -/
def State.tileError (s : State) (core tile word : Nat) : State :=
  match s.tileQueue core tile with
  | [] => s
  | o :: _ =>
    if o.stalled.isSome || s.slaved core o then s
    else
      let s' := s.modCore core fun c => { c with ueCore := c.ueCore + 1 }
      let offset (a n : Nat) : Option DWord := some (BitVec.ofNat 64 (a + 8 * (word % max 1 n)))
      match o.kind with
      | .mma _ ga ka _ k a b =>
        let at_ := if ga || word % 2 == 0 then offset b 65536 else offset a.toNat (2048 * panels ka k)
        (s'.loseTile core tile false).popTile core tile o at_
      | .fill none fmt _ src => (s'.loseTile core tile false).popTile core tile o (offset src (tileBytes fmt / 8))
      | .drain _ _ _ rs cs _ scale =>
        let n := if rs && cs then 1024 else if rs || cs then 512 else 0
        if n != 0 && word % 2 == 0 then
          let (r, s') := s'.take
          let a := s.teamScratch o.team + (scale + 8 * (word / 2 % (n / 8))) / 8 * 8
          match (s'.modCore core fun c => c.arraySet a (leBytes 8 r)).applyOp core tile o with
          | .ok t => t.popTile core tile o (offset scale (n / 8))
          | _ => s
        else
          match (s'.modCore core fun c => c.tileSet tile (2 * (word / 2 % 8192)) [nanWord, nanWord]).applyOp core tile o with
          | .ok t => t.popTile core tile o (some 0)
          | _ => s
      | _ => s

/-- The oldest tile of a Whorl meets an uncorrectable word (R502): of a weight or a bias, which fails every row, or of one core's physical
tiles 14 and 15, which fails that core's 128 rows. -/
def State.whorlError (s : State) (pair which : Nat) : State :=
  match (s.whorls[whorlIx pair]).tiles with
  | [] => s
  | t :: _ =>
    match s.readNetwork pair t.job t.handle with
    | .ok (some n) =>
      if !s.layersDue pair then s
      else
        let bad := (t.rows.zipIdx.filter fun p => which % 3 == 2 || p.2 / 128 == which % 3).map (·.1)
        let core := if which % 3 == 1 then 2 * pair + 1 else 2 * pair
        ((((s.modCore core fun c => { c with ueCore := c.ueCore + 1 }).popWhorl pair).answerRows t fun r =>
          if bad.contains r then none else n.row r)).postError t.job 3 t.handle
    | _ => s

/-! ## The act -/

/-- A corrected error of a core's array, its accumulator tiles or its weight buffer is counted, and changes no result (R490, R493). -/
def State.corrected (s : State) (core k : Nat) : State :=
  s.modCore core fun c =>
    match k % 3 with
    | 0 => { c with ceCore := c.ceCore + 1 }
    | 1 => { c with ceAcc := c.ceAcc + 1 }
    | _ => { c with ceWb := c.ceWb + 1 }

/-- An uncorrectable clean line of a CACHE slice is fetched again from its backing memory, with its event (R490). -/
def State.refetched (s : State) (line : Nat) : State :=
  match target s.gddrTop (128 * line) with
  | .none => s
  | .reg => s
  | .direct _ => s
  | _ =>
    (s.modColumn (s.homeCol (128 * line)) fun c => { c with ue := c.ue + 1 }).post
      { fn := 0, code := 0x84, status := 0, tag := 6, job := 0, data := BitVec.ofNat 64 (128 * line) }

/-- The lanes that an error names: a free set, never empty. -/
def namedLanes (n : Nat) : LaneMask := if BitVec.ofNat 256 n == 0 then 1 else BitVec.ofNat 256 n

/-- An error, at the array and the place that `n` names. -/
def State.arrayError (s : State) (n : Nat) : Host.Outcome State Fault Refusal :=
  let ng := max 1 s.groups.length
  let (k, n) := (n % 14, n / 14)
  let (gi, x) := (n % ng, n / ng)
  let (core, y) := (n % 64, n / 64)
  match k with
  | 0 => .next (s.corrected core y)
  | 1 => .next (s.parityError gi (x % 16) (namedLanes (x / 16)))
  | 2 => .next (s.latchError gi (x % 4) (namedLanes (x / 4)))
  | 3 => .next (s.mainError gi x)
  | 4 => .next (s.scratchError gi (x % 256))
  | 5 => .next (s.lineError core y)
  | 6 => .next (s.saveError gi x)
  | 7 => .next (s.drainError core (y % 2) (y / 2 % 65536) (y / 131072))
  | 8 => .next (s.tileError core (y % 16) (y / 16))
  | 9 => .next (s.whorlError (n % 32) (n / 32))
  | 10 => execPatrolScrub n .corrected s
  | 11 => execPatrolScrub n .uncorrectable s
  | _ => .next (s.refetched n)

end Sys2Proof.Machine
end

