-- ==== Sys2Proof/Machine/Schedule.lean ====
section
/-! DEFINITION. Which agent takes the next step, and the instruction or event it takes (log 1). The outside world's events stand in
`agenda`; everything the part does of itself is an act of one of its agents, and `turn` or a free value says which. -/

namespace Sys2Proof.Machine

/-! ## Groups -/

/-- One group's step: its next instruction is fetched and run, or the fetch traps (R102, R453). -/
def groupStep (s : State) (gi : Nat) : Host.Outcome State Fault Refusal :=
  match s.groups[gi]? with
  | none => .next s
  | some g =>
    if g.status == .running && g.hasSlot then
      match s.fetch g with
      | .wait => .next s
      | .trap t next => .next (takeTrap (s.modGroup gi fun g => { g with ctx := g.ctx.applyFrees }) gi t next [] none)
      | .instr i => exec i { (s.fetchFill g (instrBytes i)) with cur := gi }
    else .next s

/-- A group's turn: one whose unit is cancelled is killed at its instruction boundary (R61), a combiner at its limit ends in fault
(R495), and none issues on a core that is not in C0 (R425). -/
def groupTurn (s : State) (gi : Nat) : Host.Outcome State Fault Refusal :=
  match s.groups[gi]? with
  | none => .next s
  | some g =>
    if s.doomed g then execGroupKill gi s
    else if g.kind == .combiner && g.icount ≥ 16777216 then execCombinerInstructionLimit gi s
    else if s.powered g.core then groupStep s gi
    else .next s

/-! ## The other agents -/

/-- The front end at a slot looks at its next packet, and begins it (R84). -/
def frontTurn (s : State) (sl : Nat) : Host.Outcome State Fault Refusal :=
  match frontFetch s sl with
  | .idle s => .next s
  | .packet s i => exec i s

/-- Something that waits is tried again; what firmware does waits for firmware (R516). -/
def State.retry (s : State) (w : Waiting) : State :=
  let fw (t : State) : State := if s.sys.fwState == 1 then t else s
  match w with
  | .stream dev cls => s.pumpStream dev cls
  | .snoop pa => s.snooped pa
  | .access pa op => s.hostRetry pa op
  | .write job va bs => s.putRetry job va bs
  | .ats job va pages => s.atsDone job va pages
  | .d3hot => s.d3hotDone
  | .invalidate h va pages => fw (s.invalidateDone h va pages)
  | .remap slice vault => fw (s.remapDone slice vault)
  | .columnOff col => fw (s.columnOffDone col)
  | .power b p => fw (s.powerDone b p)
  | .create h x => fw (s.createDone h x)
  | .unregister h qcb => fw (s.unregisterDone h qcb)
  | .cancel h => fw (s.cancelDone h)
  | .update job qcb _ _ => fw (s.pumpUpdate job qcb)
  | .register h qcb => fw (s.registerDone h qcb)
  | .returns m => fw (s.returnVaults m)

/-- Firmware's own steps (R80, R411, R412, R441): step 6, an event written, a request performed, a bind round. -/
def firmwareTurn (s : State) (n : Nat) : Host.Outcome State Fault Refusal :=
  let f := n / 4 % 33
  match n % 4 with
  | 0 => .next s.latchRings
  | 1 => .next (if s.sys.link && s.sys.fwState == 1 then s.flushEvent f else s)
  | 2 => if s.canServe f then s.serveRing f else .next s
  | _ => execBindRound s

/-- How many kinds of act there are. -/
def acts : Nat := 57

/-- Act `k` of the machine, at the unit that `n` names. -/
def act (k n : Nat) (s : State) : Host.Outcome State Fault Refusal :=
  let ng := max 1 s.groups.length
  let (g, l, tm, ps) := (n % ng, n % max 1 s.launches.length, n % max 1 s.teams.length, n % max 1 s.passes.length)
  let (sl, core, pair) := (n % 64, n % 64, n % 32)
  match k with
  | 0 => groupTurn s g
  | 1 => frontTurn s sl
  | 2 => execWaitRecheck sl s
  | 3 => execWriteOffsetReread sl s
  | 4 => execSlotRelease sl s
  | 5 => execSlotMaskReserve sl s
  | 6 => execPrologueRun sl s
  | 7 => execParkConditionEval (n % max 1 s.queues.length) s
  | 8 => execCancelWordWrite (.launch l) s
  | 9 => execCancelWordWrite (.graph (n % max 1 s.graphs.length)) s
  | 10 => execCancelWordWrite (.phase (n % max 1 s.phases.length)) s
  | 11 => execTeamAdmit l s
  | 12 => execLaunchComplete l s
  | 13 => execTeamEnd tm s
  | 14 => execCarveArrival tm s
  | 15 => execTeamContextSave tm s
  | 16 => execPreemptRequest tm s
  | 17 => execGroupKill g s
  | 18 => execGroupStorageDrain g s
  | 19 => execOperandSlotGrant g s
  | 20 => execBarrierWaitReturn g s
  | 21 => execYieldWake g s
  | 22 => execXchgPairing g (n / ng % ng) s
  | 23 => execSplitPhaseResult g (n / ng % 33) s
  | 24 => execTrapEntry g s
  | 25 => execPreemptStop g s
  | 26 => execGraphicsKill g s
  | 27 => execGraphicsReplay g s
  | 28 => execPatchDice core s
  | 29 => execGridGroupStart core s
  | 30 => execSequenceWrap ps s
  | 31 => execBinFlush ps s
  | 32 => execMicropolygonSample core s
  | 33 => execFragmentGroupClose core s
  | 34 => execSampleGroupStart core s
  | 35 => execFragmentListInsertion core s
  | 36 => execTileResolve ps (n / max 1 s.passes.length % 65536) s
  | 37 => execHomeRequestArrival core s
  | 38 => execCombinerLaunch core s
  | 39 => execBurlAtomicUpdate core s
  | 40 => execEdgeAtomic (match n % 3 with | 0 => .gddr | 1 => .host | _ => .brual) s
  | 41 => execStreamEntryComplete core (n / 64 % 2) s
  | 42 => execStreamFillBox core (n / 64 % 2) s
  | 43 => execStreamDrainBox core (n / 64 % 2) s
  | 44 => execTileOperationRetire core (n / 64 % 16) s
  | 45 => execAFetchResume core (n / 64 % 16) s
  | 46 => execWhorlRequestArrival pair s
  | 47 => execWhorlIdleTileForm pair (n / 32 % 64) s
  | 48 => execWhorlTileReturn pair s
  | 49 => match s.colls[n % max 1 s.colls.length]? with
    | some e => execCollectiveCombine e.ident s
    | none => .next s
  | 50 => firmwareTurn s n
  | 51 => execRecoveryFetchDone s
  | 52 => .next (s.retryFront (n % max 1 s.graphs.length) sl)
  | 53 => .next (s.message n)
  | 54 => s.arrayError n
  | 55 => .next (s.breach n)
  | _ => match s.sys.journal[n % max 1 s.sys.journal.length]? with
    | some w => .next (s.retry w)
    | none => .next s

/-- The part runs: RESET_N is high, the device is in D0 and has its power. -/
def Sys.runs (y : Sys) : Bool := !y.low && y.dev == .d0 && !y.tripped

/-- One act of the machine, where nothing from outside comes first: the act is the one `turn` names, or a free one. After a thermal trip
the Taproot core still writes its event, and then nothing runs (R523). -/
def agentStep (s : State) : Host.Outcome State Fault Refusal :=
  if s.sys.tripped then
    match s.events.find? fun e => s.sys.link && (s.fn e.fn).room 1 with
    | some e => .next (s.flushEvent e.fn)
    | none => .fault .powerOff
  else if !s.sys.runs then .next s
  else
    match s.turn with
    | some n => act (n % acts) (n / acts) { s with turn := none }
    | none => let (n, s) := s.take; act (n % acts) (n / acts) s

/-- A request that the host has sent waits until firmware can perform it (R411, R412). -/
def State.defers (s : State) : Instr → Bool
  | .createJob h _ | .destroyJob h | .cancelJob h | .registerQueue h _ _ | .unregisterQueue h _ | .invalidate h _ _ | .resident h _ _
  | .collective h _ | .attest h _ _ | .debugAuth h _ _ | .flashUpdate h _ _ => !s.canServe h.fn
  | _ => false

/-- What happens in a step: the oldest event of the outside world that does not wait, or an act of the machine's own. -/
def machineAct (s : State) : Host.Outcome State Fault Refusal :=
  match s.agenda.find? fun i => !s.defers i with
  | none => agentStep s
  | some i => exec i { s with agenda := s.agenda.eraseP fun i => !s.defers i }

/-- What the watched words hold after a step is noted (R82, R90). -/
def noticing : Host.Outcome State Fault Refusal → Host.Outcome State Fault Refusal
  | .next t => .next t.notice
  | r => r

/-- One step of the machine: what happens, and what the watched words then hold. -/
def machineStep (s : State) : Host.Outcome State Fault Refusal := noticing (machineAct s)

end Sys2Proof.Machine
end

