-- ==== Sys2Proof/Machine/Step.lean ====
section
/-! DEFINITION. The step of the machine, and the placing of an instruction where the next step fetches it (log 2). -/

namespace Sys2Proof.Machine

def step (s : State) : Host.Outcome State Fault Refusal := machineStep s

/-- The job of `withFetchWord`: one address space whose first 2 MiB are executable and writable. -/
def fetchJob : Job :=
  { live := true, fn := 0, root := 0x200000, handler := 0, objTable := 0, objM := 4, secure := false, hostShared := false, control := 0,
    coreMask := 1, vaultMap := 0, link := 0xFFFFFFFF, launchSeq := 0, destroy := none, log := .off, placed := 0, placeStop := false,
    markStop := false, colStop := 0, key := 0, measured := [] }

/-- The launch of `withFetchWord`: one team of one group. -/
def fetchLaunch (job : Nat) : Launch :=
  { live := true, job := job, id := 0, kernel := { Kernel.none with regs := 8, groups := 1 }, args := 0, dx := 1, dy := 1, dz := 1, record := 0,
    cancel := 0, taskQ := 0, pool := 0, coResident := false, prio := 0, privZ := 16, privBase := 0, queue := none, mask := 1, graph := none,
    phase := none, admitted := 1, left := 1, doneTeams := 0, cancelled := false, faulted := false, rejected := false, complete := false,
    pass := none, recorded := none }

def fetchTeam (job launch : Nat) : Team :=
  { live := true, job := job, launch := launch, index := 0, x := 0, y := 0, z := 0, core := 0, twin := none, scrBase := 0, scrLen := 0, accBase := 0,
    accLen := 0, producer := 0, bars := Vector.replicate 16 ⟨1, 0, 0, 0⟩, nextSpawn := 0, carve := none, carveAt := 0, taskQ := 0, taskHead := 0, taskTail := 0,
    mainLen := 0, preempt := false, saved := false, saveMask := 0, handled := false, resuming := false, savedSq := [], savedTiles := false,
    fault := false, neval := false }

/-- The group of `withFetchWord`, running on core 0 at the address where the instruction stands. -/
def fetchGroup (job launch team : Nat) : Group :=
  { Group.start .team job launch team 0 ⟨0, 0, 0, 128⟩ 8 0 0 0x100000 with status := .running, hasSlot := true }

/-- The memory of `withFetchWord`: the instruction at 0x10_0000, and three table entries that map the first 2 MiB to itself. -/
def fetchMemory (m : SMap 8) (nbits w : Nat) : SMap 8 :=
  SMap.setList (SMap.setList (SMap.setList (SMap.setList m 0x100000 (tableBytes nbits w)) 0x200000 (leBytes 8 0x400001)) 0x400000 (leBytes 8 0x410001))
    0x410000 (leBytes 8 0xB7)

/-- An instruction comes to run as the next step: a launch has put a group at it (log 2). -/
def State.withFetchWord (s : State) (nbits w : Nat) : State :=
  let (j, l, t, g) := (s.jobs.length, s.launches.length, s.teams.length, s.groups.length)
  { s with
    mem := fetchMemory s.mem nbits w
    jobs := s.jobs ++ [fetchJob], launches := s.launches ++ [fetchLaunch j], teams := s.teams ++ [fetchTeam j l]
    groups := s.groups ++ [fetchGroup j l t]
    agenda := [], turn := some (acts * g), power := []
    sys := { s.sys with low := false, dev := .d0, tripped := false, held := false } }

end Sys2Proof.Machine
end

