-- ==== Sys2Proof/Safety/Thread.lean ====
section
/-! DEFINITION. What the statements say of thread instructions: when one may issue, what completing does to its group, and the
function of each instruction, written from the rules (R142 to R145, R170 to R212). -/

namespace Sys2Proof.Spec

open Machine

/-! ## Issuing and completing -/

/-- The instruction may issue and runs for itself: its group is running and holds its slot (R43), it is well formed and not
denied (R305, R385, R453), no scoreboard slot guards what it uses (R149), nothing it reports first is waiting (R454, R505), and
it is not part of a retry or a rebuild run (R461, R462). -/
structure Ready (i : Instr) (u : Uses) (s : State) (g : Group) : Prop where
  here : s.groups[s.cur]? = some g
  running : g.status = .running
  slot : g.hasSlot = true
  formed : wf i = true
  allowed : (g.kind == .combiner && combinerDenied i) = false
  outside : (g.inSection && sectionDenied i) = false
  clear : g.guards u = []
  quiet : (u.eng || (spOf i).isSome) = true → s.engineError g s.cur = none
  answered : (u.rel || u.post || (spOf i).isSome) = true → g.posts = [] ∧ g.deferred = []
  performed : u.rel = true → s.outstanding s.cur = false
  once : g.again = none
  plain : g.rebuild = none

/-- The status in which an instruction leaves its group (R151, R469): a safe point stops a group of a team that is being
pre-empted. -/
def stopAt (i : Instr) (s : State) (g : Group) : Status :=
  match spOf i, s.teams[g.team]? with
  | some m, some t => if t.preempt && !g.handler && (g.kind == .team || g.kind == .spawned) then .stopped m else .running
  | _, _ => .running

/-- The group's record after an instruction: its context aside, only its status at a safe point, the count of a combiner's
instructions and what was left for a retry may differ. -/
structure Passed (i : Instr) (s : State) (g h : Group) : Prop where
  same : h = { g with ctx := h.ctx, status := h.status, icount := h.icount, retry := none, absent := none }
  status : h.status = stopAt i s g
  count : h.icount = g.icount + (if g.kind = .combiner then 1 else 0)

/-- The address after an instruction (R137). -/
def nextPc (i : Instr) (x : Ctx) : DWord := x.pc + BitVec.ofNat 64 (instrBytes i)

/-- An entry made FREE, its map kept (R143). -/
def freed (e : Entry) : Entry := { e with st := .free, val := Lanes.zero }

/-! ## Thread instructions with an entry destination -/

/-- The context after a thread instruction with an entry destination, from the context `x` it found, `f` giving each thread's
result (R142 to R145, R169, R170). -/
structure VecNext (i : Instr) (v : VecOp) (x : Ctx) (f : Nat → LaneRes) (y : Ctx) : Prop where
  pc : y.pc = nextPc i x
  /-- Each active thread has its result in D, the high half of a 64-bit one in D + 1. -/
  low : v.w = true → ∀ t < 256, x.active.getLsbD t = true → (y.entry v.d).at t = ((f t).val).setWidth 32
  high : v.w = true → v.wide = true → ∀ t < 256, x.active.getLsbD t = true →
    (y.entry (v.d + 1)).at t = ((f t).val).extractLsb' 32 32
  /-- A written entry keeps its map, and is DIRTY. -/
  dirty : ∀ e < 16, v.dest.getLsbD e = true → (y.entry e).st = .dirty ∧ (y.entry e).map = (x.entry e).map
  /-- The threads it does not reach keep their values, 0 where the entry was or became FREE. -/
  kept : ∀ e < 16, v.dest.getLsbD e = true → ∀ t < 256, x.active.getLsbD t = false →
    (y.entry e).at t = if (x.pendFree ||| srcFrees v.srcs).getLsbD e then 0 else (x.entry e).at t
  /-- Every other entry is as it was, unless it waited to become FREE, or the instruction is a safe point and freed it. -/
  others : ∀ e < 16, v.dest.getLsbD e = false →
    y.entry e = if x.pendFree.getLsbD e || ((spOf i).isSome && (srcFrees v.srcs).getLsbD e) then freed (x.entry e) else x.entry e
  /-- Its own freeing waits for a reader of its latch. -/
  waiting : spOf i = none → y.pendFree = srcFrees v.srcs &&& ~~~v.dest
  /-- The latch of its pipe holds the whole result, with 0 for inactive threads, and is valid. -/
  latch : spOf i = none → y.latches[Fin.ofNat 4 v.pipe.latch] = ⟨true, Vector.ofFn fun t : Fin 256 => if x.active.getLsbD t then (f t).val else 0⟩
  /-- A V-pipe result moves lt0 into lt3; every other latch is invalid after it. -/
  third : spOf i = none → v.pipe = .v → y.latches[3] = ⟨true, x.latches[0].val⟩
  stale : ∀ k < 4, (spOf i ≠ none ∨ (k ≠ v.pipe.latch ∧ ¬ (v.pipe = .v ∧ k = 3))) → (y.latches[Fin.ofNat 4 k]).valid = false
  /-- FPFLAGS gathers the flags of the active threads (R135). -/
  flags : y.fpflags = x.fpflags ||| (x.laneFlags fun t => (f t).fl).setWidth 64
  /-- Nothing else of the context changes. -/
  frame : y = { x with pc := y.pc, entries := y.entries, latches := y.latches, pendFree := y.pendFree, fpflags := y.fpflags, run := y.run }

/-- The instruction completes in one step, for every state and operands for which it may issue: only its group changes, as
VecNext says. -/
def VecCompletes (i : Instr) (v : VecOp) (f : Ctx → Nat → LaneRes) : Prop :=
  ∀ s g, Ready i (v.usesAt i s) s g → g.ctx.latchesOk v.srcs = true → g.ctx.mappedAll v.dest = true →
    ∃ h, exec i s = .next (s.setGroup s.cur h) ∧ Passed i s g h ∧ VecNext i v (g.ctx.begin v.uses) (f (g.ctx.begin v.uses)) h.ctx

/-- A thread instruction's operands and function. -/
structure LaneSpec where
  op : VecOp
  f : Ctx → Nat → LaneRes

/-- Every instruction of a table completes with the result the table gives. -/
def TableCompletes (table : Instr → Option LaneSpec) : Prop := ∀ i l, table i = some l → VecCompletes i l.op l.f

/-- A 32-bit operand of a thread, constants in the operation's type. -/
def opnd (c : Consts) (x : Ctx) (f : SrcField) (t : Nat) : Word := (x.read c false f t).setWidth 32

/-- A 32-bit result without flags. -/
def word (v : Word) : LaneRes := ⟨v.setWidth 64, 0⟩

def spec2 (x : V2) (c : Consts) (p : Pipe) (f : Ctx → Word → Word → LaneRes) : LaneSpec :=
  ⟨⟨[⟨x.a, false⟩, ⟨x.b, false⟩], x.d.toNat, x.w, false, p⟩, fun g t => f g (opnd c g x.a t) (opnd c g x.b t)⟩
def spec1 (x : V2) (c : Consts) (p : Pipe) (f : Ctx → Word → LaneRes) : LaneSpec :=
  ⟨⟨[⟨x.a, false⟩], x.d.toNat, x.w, false, p⟩, fun g t => f g (opnd c g x.a t)⟩
def wide2 (x : V2) (c : Consts) (p : Pipe) (f : Ctx → DWord → DWord → LaneRes) : LaneSpec :=
  ⟨⟨[⟨x.a, true⟩, ⟨x.b, true⟩], x.d.toNat, x.w, true, p⟩, fun g t => f g (g.read c true x.a t) (g.read c true x.b t)⟩
def wide1 (x : V2) (c : Consts) (p : Pipe) (f : Ctx → DWord → LaneRes) : LaneSpec :=
  ⟨⟨[⟨x.a, true⟩], x.d.toNat, x.w, true, p⟩, fun g t => f g (g.read c true x.a t)⟩

/-! ### Integer arithmetic and logic (R186 to R188, R190) -/

/-- A number held to the range of a 32-bit word, signed or not (R186). -/
def saturate (sgn : Bool) (i : Int) : Word :=
  if sgn then BitVec.ofInt 32 (if i < -2147483648 then -2147483648 else if 2147483647 < i then 2147483647 else i)
  else BitVec.ofInt 32 (if i < 0 then 0 else if 4294967295 < i then 4294967295 else i)

/-- A word as a signed or an unsigned number. -/
def number (sgn : Bool) (a : Word) : Int := if sgn then a.toInt else a.toNat

/-- Bits [63:32] of the exact product (R187). -/
def highHalf (sgn : Bool) (a b : Word) : Word :=
  if sgn then (a.signExtend 64 * b.signExtend 64).extractLsb' 32 32 else (a.setWidth 64 * b.setWidth 64).extractLsb' 32 32

/-- The integer instructions of two 32-bit operands (R186 to R188). -/
def intTable : Instr → Option LaneSpec
  | .iadd x => some (spec2 x .int .x fun _ a b =>
      word (if x.mod = 1 then saturate x.s (number x.s a + number x.s b) else BitVec.ofNat 32 (a.toNat + b.toNat)))
  | .isub x => some (spec2 x .int .x fun _ a b =>
      word (if x.mod = 1 then saturate x.s (number x.s a - number x.s b) else BitVec.ofInt 32 ((a.toNat : Int) - b.toNat)))
  | .imul x => some (spec2 x .int .x fun _ a b => word (BitVec.ofNat 32 (a.toNat * b.toNat)))
  | .imulhi x => some (spec2 x .int .x fun _ a b => word (highHalf x.s a b))
  | .imin x => some (spec2 x .int .x fun _ a b => word (if number x.s b < number x.s a then b else a))
  | .imax x => some (spec2 x .int .x fun _ a b => word (if number x.s a < number x.s b then b else a))
  | .iabs x => some (spec1 x .int .x fun _ a => word (BitVec.ofNat 32 a.toInt.natAbs))
  | .and x => some (spec2 x .int .x fun _ a b => word (a &&& b))
  | .or x => some (spec2 x .int .x fun _ a b => word (a ||| b))
  | .xor x => some (spec2 x .int .x fun _ a b => word (a ^^^ b))
  | .andn x => some (spec2 x .int .x fun _ a b => word (a &&& ~~~b))
  | _ => none

/-- Number of bits of a word that are 1 (R190). -/
def ones (a : Word) : Nat := (List.range 32).countP fun k => a.getLsbD k
/-- Number of leading 0 bits (R190). -/
def zerosAbove (a : Word) : Nat := ((List.range 32).find? fun k => a.getLsbD (31 - k)).getD 32
/-- Bit i moved to bit 31 - i (R190). -/
def mirrored (a : Word) : Word := BitVec.ofNat 32 (((List.range 32).map fun k => if a.getLsbD k then 2 ^ (31 - k) else 0).sum)

/-- The position and width that a control word gives a bit field (R181). -/
def fieldAt (ctl : Word) : Nat := (ctl.extractLsb' 0 5).toNat
def fieldLen (ctl : Word) : Nat := min (ctl.extractLsb' 8 6).toNat (32 - fieldAt ctl)
/-- n ones. -/
def lowOnes (n : Nat) : Word := BitVec.ofNat 32 (2 ^ n - 1)

/-- Counts and bit fields (R190, R191). -/
def bitTable : Instr → Option LaneSpec
  | .popc x => some (spec1 x .int .x fun _ a => word (BitVec.ofNat 32 (ones a)))
  | .clz x => some (spec1 x .int .x fun _ a => word (BitVec.ofNat 32 (zerosAbove a)))
  | .brev x => some (spec1 x .int .x fun _ a => word (mirrored a))
  | .bfx x => some (spec2 x .int .x fun _ a b =>
      let n := fieldLen b
      let f := (a >>> fieldAt b) &&& lowOnes n
      word (if n = 0 then 0 else if x.s && f.getLsbD (n - 1) then f ||| ~~~lowOnes n else f))
  | .bitins x => some ⟨⟨[⟨x.a, false⟩, ⟨x.b, false⟩, ⟨x.c, false⟩], x.d.toNat, x.w, false, .x⟩, fun g t =>
      let ctl := opnd .int g x.c t
      let mask := lowOnes (fieldLen ctl) <<< fieldAt ctl
      word ((opnd .int g x.a t &&& ~~~mask) ||| ((opnd .int g x.b t <<< fieldAt ctl) &&& mask))⟩
  | .shrcat x => some ⟨⟨[⟨x.a, false⟩, ⟨x.b, false⟩, ⟨x.c, false⟩], x.d.toNat, x.w, false, .x⟩, fun g t =>
      word (BitVec.ofNat 32 (((opnd .int g x.b t).toNat * 2 ^ 32 + (opnd .int g x.a t).toNat) / 2 ^ ((opnd .int g x.c t).toNat % 32)))⟩
  | _ => none

/-- A shift or a rotate: A and the result 64 bits wide with mod 1, the count from the low bits of a 32-bit B (R189). -/
def shiftSpec (x : V2) (f32 f64 : Nat → Nat → Int) : LaneSpec :=
  ⟨⟨[⟨x.a, x.mod == 1⟩, ⟨x.b, false⟩], x.d.toNat, x.w, x.mod == 1, .x⟩, fun g t =>
    let b := (opnd .int g x.b t).toNat
    if x.mod = 1 then ⟨BitVec.ofInt 64 (f64 (g.read .int true x.a t).toNat (b % 64)), 0⟩
    else word (BitVec.ofInt 32 (f32 (opnd .int g x.a t).toNat (b % 32)))⟩

/-- A number of w bits read as signed. -/
def signed (w n : Nat) : Int := if 2 ^ (w - 1) ≤ n then (n : Int) - 2 ^ w else n

/-- Shifts, rotate and 64-bit addresses (R189, R192). -/
def shiftTable : Instr → Option LaneSpec
  | .shl x => some (shiftSpec x (fun a k => a * 2 ^ k) (fun a k => a * 2 ^ k))
  | .shr x => some (shiftSpec x (fun a k => (a / 2 ^ k : Nat)) (fun a k => (a / 2 ^ k : Nat)))
  | .sar x => some (shiftSpec x (fun a k => signed 32 a / 2 ^ k) (fun a k => signed 64 a / 2 ^ k))
  | .rot x => some (shiftSpec x (fun a k => (a * 2 ^ k + a / 2 ^ (32 - k) : Nat)) (fun a k => (a * 2 ^ k + a / 2 ^ (64 - k) : Nat)))
  | .lea x => some ⟨⟨[⟨x.a, true⟩, ⟨x.b, false⟩], x.d.toNat, x.w, true, .x⟩, fun g t =>
      ⟨BitVec.ofInt 64 ((g.read .int true x.a t).toNat + number x.s (opnd .int g x.b t) * 2 ^ x.mod.toNat), 0⟩⟩
  | .iadd64 x => some (wide2 x .int .x fun _ a b => ⟨BitVec.ofNat 64 (a.toNat + b.toNat), 0⟩)
  | _ => none

/-! ### Moves, selection and integer multiply-add (R179, R180, R183, R185) -/

/-- The variant bit: the A field is numerically greater than the B field (R173). -/
def variant (x : V3) : Bool := decide (x.b.toNat < x.a.toNat)

def spec3 (x : V3) (c ca : Consts) (p : Pipe) (f : Ctx → Word → Word → Word → LaneRes) : LaneSpec :=
  ⟨⟨[⟨x.a, false⟩, ⟨x.b, false⟩, ⟨x.c, false⟩], x.d.toNat, x.w, false, p⟩,
    fun g t => f g (opnd c g x.a t) (opnd c g x.b t) (opnd ca g x.c t)⟩

/-- Element k of n bits, as a signed or an unsigned number. -/
def element (sgn : Bool) (n k : Nat) (a : Word) : Int := if sgn then signed n (a.toNat / 2 ^ (n * k) % 2 ^ n) else (a.toNat / 2 ^ (n * k) % 2 ^ n : Nat)

/-- The exact sum of products and addend of an integer dot product (R125). -/
def dotSumInt (sgn : Bool) (n : Nat) (ks : List Nat) (a b c : Word) : Int :=
  number sgn c + ((ks.map fun k => element sgn n k a * element sgn n k b).sum)

/-- An integer dot product: wrapping with V = 0, saturating with V = 1 (R183). -/
def dotSpec (x : V3) (c : Consts) (sgn : Bool) (n : Nat) (ks : List Nat) : LaneSpec :=
  spec3 x c .int .x fun _ a b ad =>
    word (if variant x then saturate sgn (dotSumInt sgn n ks a b ad) else BitVec.ofInt 32 (dotSumInt sgn n ks a b ad))

/-- Multiply-add, dot products and selection. -/
def mulTable : Instr → Option LaneSpec
  | .muladd x => some (spec3 x .int .int .x fun _ a b c => word (BitVec.ofNat 32 (a.toNat * b.toNat + c.toNat)))
  | .muladdh x => some (spec3 x .int .int .x fun _ a b c => word (highHalf (!variant x) a b + c))
  | .dp4s8 x => some (dotSpec x .i8 true 8 [0, 1, 2, 3])
  | .dp4u8 x => some (dotSpec x .i8 false 8 [0, 1, 2, 3])
  | .dp8s4 x => some (dotSpec x .i4 true 4 [0, 1, 2, 3, 4, 5, 6, 7])
  | .choose x => some ⟨⟨[⟨x.a, false⟩, ⟨x.b, false⟩], x.d.toNat, x.w, false, .x⟩, fun g t =>
      word (if (g.preds[x.p.p].getLsbD t) ≠ x.p.inv then opnd .int g x.a t else opnd .int g x.b t)⟩
  | .mov x => some ⟨⟨[⟨x.a, false⟩, ⟨x.b, x.mod == 1⟩], x.d.toNat, x.w, x.mod == 1, .x⟩, fun g t =>
      ⟨g.read .int (x.mod == 1) x.b t, 0⟩⟩
  | _ => none

/-! ### The 16-bit forms (R138) -/

/-- D := D op S: the V2 instruction with A = D, B = S with its last-use bit, mod 0, and S = 1 for IMIN alone. -/
def asV2 (x : H16) (s : Bool) : V2 :=
  { sp := none, mod := 0, d := x.d, w := x.w, a := x.d.setWidth 6, b := x.s.setWidth 6 ||| (if x.u then 32 else 0), s := s }

/-- The V2 instruction that a 16-bit form is (R138). -/
def form16 : Instr → Option Instr
  | .mov16 x => some (.mov (asV2 x false))
  | .iadd16 x => some (.iadd (asV2 x false))
  | .isub16 x => some (.isub (asV2 x false))
  | .imul16 x => some (.imul (asV2 x false))
  | .and16 x => some (.and (asV2 x false))
  | .or16 x => some (.or (asV2 x false))
  | .xor16 x => some (.xor (asV2 x false))
  | .shl16 x => some (.shl (asV2 x false))
  | .shr16 x => some (.shr (asV2 x false))
  | .sar16 x => some (.sar (asV2 x false))
  | .fadd16 x => some (.fadd (asV2 x false))
  | .fsub16 x => some (.fsub (asV2 x false))
  | .fmul16 x => some (.fmul (asV2 x false))
  | .fmin16 x => some (.fmin (asV2 x false))
  | .fmax16 x => some (.fmax (asV2 x false))
  | .imin16 x => some (.imin (asV2 x true))
  | _ => none

/-! ### Immediates (R210) -/

/-- imm12 as a signed number. -/
def immInt (x : VI) : Int := x.imm.toInt
/-- A VI instruction of one 32-bit source. -/
def immSpec (x : VI) (f : Word → Word) : LaneSpec :=
  ⟨⟨[⟨x.a, false⟩], x.d.toNat, x.w, false, .x⟩, fun g t => word (f (opnd .int g x.a t))⟩

/-- The integer immediates. -/
def immTable : Instr → Option LaneSpec
  | .iaddi x => some (immSpec x fun a => BitVec.ofInt 32 (a.toNat + immInt x))
  | .andi x => some (immSpec x fun a => a &&& BitVec.ofInt 32 (immInt x))
  | .ori x => some (immSpec x fun a => a ||| BitVec.ofInt 32 (immInt x))
  | .xori x => some (immSpec x fun a => a ^^^ BitVec.ofInt 32 (immInt x))
  | .shli x => some (immSpec x fun a => BitVec.ofNat 32 (a.toNat * 2 ^ (x.imm.toNat % 32)))
  | .shri x => some (immSpec x fun a => BitVec.ofNat 32 (a.toNat / 2 ^ (x.imm.toNat % 32)))
  | .sari x => some (immSpec x fun a => BitVec.ofInt 32 (signed 32 a.toNat / 2 ^ (x.imm.toNat % 32)))
  | .imuli x => some (immSpec x fun a => BitVec.ofInt 32 (a.toNat * immInt x))
  | .movi x => some ⟨⟨[], x.d.toNat, x.w, false, .x⟩, fun _ _ => word (BitVec.ofInt 32 (immInt x))⟩
  | .movw x k => some ⟨⟨[], x.d.toNat, x.w, false, .x⟩, fun _ _ => word k⟩
  | .leai x => some ⟨⟨[⟨x.a, true⟩], x.d.toNat, x.w, true, .x⟩, fun g t =>
      ⟨BitVec.ofInt 64 ((g.read .int true x.a t).toNat + immInt x), 0⟩⟩
  | .iaddw x k => some (immSpec x fun a => BitVec.ofNat 32 (a.toNat + k.toNat))
  | _ => none

/-! ### Floating point (R176 to R178, R183, R194, R195, R197 to R199, R210) -/

/-- The sign modifiers on A (mod bit 1 makes it absolute, bit 0 negates it) and on B (bit 2 negates it), then one operation of a
format under a rounding environment, then the clamp of S (R121, R194). -/
def floatOp (f : Fmt) (op : FEnv → Nat → Nat → FRes) (env : FEnv) (mod : BitVec 3) (sat : Bool) (a b : Nat) : FRes :=
  clampRes f sat (op env (modA f mod a) (modB f mod b))

/-- A result of one number. -/
def num64 (r : FRes) : LaneRes := ⟨BitVec.ofNat 64 r.bits, r.fl⟩
/-- A packed result of two 16-bit elements. -/
def packed (lo hi : FRes) : LaneRes := ⟨BitVec.ofNat 64 (lo.bits + 65536 * hi.bits), lo.fl ||| hi.fl⟩
/-- Element 0 and element 1. -/
def lowHalf (a : Word) : Nat := a.toNat % 65536
def topHalf (a : Word) : Nat := a.toNat / 65536

/-- Rounding and flushing that FPMODE gives binary32 work (R111, R114), binary64 work, and packed 16-bit work, which rounds to
nearest even (R112). -/
def mode32 (g : Ctx) : FEnv := ⟨rmode (g.fpmode.toNat % 4), g.fpmode.getLsbD 2⟩
def mode64 (g : Ctx) : FEnv := ⟨rmode (g.fpmode.toNat % 4), false⟩
def mode16 (g : Ctx) : FEnv := ⟨.rne, g.fpmode.getLsbD 3⟩
def near32 (g : Ctx) : FEnv := ⟨.rne, g.fpmode.getLsbD 2⟩

def float32 (x : V2) (op : FEnv → Nat → Nat → FRes) : LaneSpec :=
  spec2 x .f32 .v fun g a b => num64 (floatOp .b32 op (mode32 g) x.mod x.s a.toNat b.toNat)
def float64 (x : V2) (op : FEnv → Nat → Nat → FRes) : LaneSpec :=
  wide2 x .f64 .v fun g a b => num64 (floatOp .b64 op (mode64 g) x.mod x.s a.toNat b.toNat)
def float16 (x : V2) (c : Consts) (f : Fmt) (op : FEnv → Nat → Nat → FRes) : LaneSpec :=
  spec2 x c .v fun g a b => packed (floatOp f op (mode16 g) x.mod x.s (lowHalf a) (lowHalf b)) (floatOp f op (mode16 g) x.mod x.s (topHalf a) (topHalf b))

/-- Sums, products, minima and maxima (R194, R195). -/
def floatTable : Instr → Option LaneSpec
  | .fadd x => some (float32 x (fadd .b32))
  | .fsub x => some (float32 x (fsub .b32))
  | .fmul x => some (float32 x (fmul .b32))
  | .fmin x => some (float32 x fun e => fminmax .b32 true e.ftz)
  | .fmax x => some (float32 x fun e => fminmax .b32 false e.ftz)
  | .dadd x => some (float64 x (fadd .b64))
  | .dmul x => some (float64 x (fmul .b64))
  | .dmin x => some (float64 x fun e => fminmax .b64 true e.ftz)
  | .dmax x => some (float64 x fun e => fminmax .b64 false e.ftz)
  | .hadd2 x => some (float16 x .f16 .b16 (fadd .b16))
  | .hmul2 x => some (float16 x .f16 .b16 (fmul .b16))
  | .hmin2 x => some (float16 x .f16 .b16 fun e => fminmax .b16 true e.ftz)
  | .hmax2 x => some (float16 x .f16 .b16 fun e => fminmax .b16 false e.ftz)
  | .badd2 x => some (float16 x .bf16 .bf16 (fadd .bf16))
  | .bmul2 x => some (float16 x .bf16 .bf16 (fmul .bf16))
  | .faddw x k => some ⟨⟨[⟨x.a, false⟩], x.d.toNat, x.w, false, .v⟩, fun g t =>
      num64 (floatOp .b32 (fadd .b32) (mode32 g) 0 false (opnd .f32 g x.a t).toNat k.toNat)⟩
  | .fmulw x k => some ⟨⟨[⟨x.a, false⟩], x.d.toNat, x.w, false, .v⟩, fun g t =>
      num64 (floatOp .b32 (fmul .b32) (mode32 g) 0 false (opnd .f32 g x.a t).toNat k.toNat)⟩
  | _ => none

/-- Two fused multiply-adds side by side. -/
def fused16 (f : Fmt) (g : Ctx) (a b c : Word) : LaneRes :=
  packed (ffma f (mode16 g) (lowHalf a) (lowHalf b) (lowHalf c)) (ffma f (mode16 g) (topHalf a) (topHalf b) (topHalf c))

/-- Fused multiply-adds and floating-point dot products (R125, R126, R177, R178, R183). -/
def fusedTable : Instr → Option LaneSpec
  | .fma32 x => some (spec3 x .f32 .f32 .v fun g a b c => num64 (ffma .b32 (mode32 g) a.toNat b.toNat c.toNat))
  | .fma64 x => some ⟨⟨[⟨x.a, true⟩, ⟨x.b, true⟩, ⟨x.c, true⟩], x.d.toNat, x.w, true, .v⟩, fun g t =>
      num64 (ffma .b64 (mode64 g) (g.read .f64 true x.a t).toNat (g.read .f64 true x.b t).toNat (g.read .f64 true x.c t).toNat)⟩
  | .fmah2 x => some (spec3 x .f16 .f16 .v (fused16 .b16))
  | .fmab2 x => some (spec3 x .bf16 .bf16 .v (fused16 .bf16))
  | .dp4e4 x => some (spec3 x .e4m3 .f32 .x fun g a b c => dotFloat .e4m3 4 g.fpmode a b c)
  | .dp4e5 x => some (spec3 x .e5m2 .f32 .x fun g a b c => dotFloat .e5m2 4 g.fpmode a b c)
  | .dp8f4 x => some (spec3 x .e2m1 .f32 .x fun g a b c => dotFloat .e2m1 8 g.fpmode a b c)
  | .dp2h x => some (spec3 x .f16 .f32 .x fun g a b c => dotFloat .b16 2 g.fpmode a b c)
  | _ => none

/-- The operation number of a T-pipe instruction (R153, R199). -/
def trans (x : V2) (op : Nat) : LaneSpec :=
  spec1 x .f32 .t fun g a => num64 (clampRes .b32 x.s (tPipe op (g.fpmode.getLsbD 2) a.toNat))
def transWide (x : V2) (op : Nat) : LaneSpec :=
  wide1 x .f64 .t fun _ a => num64 (clampRes .b64 x.s (tPipe op false a.toNat))

/-- The T pipe (R130 to R132, R199). -/
def transTable : Instr → Option LaneSpec
  | .frcp x => some (trans x 32)
  | .frsq x => some (trans x 33)
  | .fsqrt x => some (trans x 34)
  | .fexp2 x => some (trans x 35)
  | .flog2 x => some (trans x 36)
  | .fsin x => some (trans x 37)
  | .fcos x => some (trans x 38)
  | .drcp x => some (transWide x 44)
  | .dsqrt x => some (transWide x 45)
  | _ => none

/-- Classes, rounding to integers, conversions and packing (R197, R198, R200 to R203). -/
def convertTable : Instr → Option LaneSpec
  | .fclass x => some ⟨⟨[⟨x.a, x.mod == 1⟩], x.d.toNat, x.w, false, .x⟩, fun g t =>
      let (c, f) := match x.mod.toNat with | 0 => (Consts.f32, Fmt.b32) | 1 => (.f64, .b64) | 2 => (.f16, .b16) | _ => (.bf16, .bf16)
      word (BitVec.ofNat 32 (2 ^ fclassBit f ((g.read c (x.mod == 1) x.a t).toNat % 2 ^ f.width)))⟩
  | .fint x => some (spec1 x .f32 .v fun g a =>
      num64 (clampRes .b32 x.s (fintNum .b32 (if x.mod = 4 then rmode (g.fpmode.toNat % 4) else rmode x.mod.toNat) (g.fpmode.getLsbD 2) a.toNat)))
  | .cvt x => some ⟨⟨[⟨x.a, cvtWide x.mod.toNat⟩], x.d.toNat, x.w, cvtWide (x.b.toNat % 16), .x⟩, fun g t =>
      fCvt g.fpmode x.mod.toNat x.b (g.read (cvtConsts x.mod.toNat) (cvtWide x.mod.toNat) x.a t)⟩
  | .pack x => some (spec2 x (if x.mod.toNat ≤ 1 then .f32 else .int) .x fun g a b => fPack g.fpmode x.mod.toNat a b)
  | .unpack x => some (spec1 x (unpackConsts x.mod.toNat) .x fun g a => fUnpack g.fpmode x.mod.toNat x.b a)
  | _ => none

/-! ### Lanes (R204 to R206, R209) -/

/-- The thread whose value XLANE gives thread t (R204). -/
def laneSource (mode t : Nat) (b : Word) : Nat :=
  match mode with
  | 0 => b.toNat % 256
  | 1 => if t < b.toNat then t else t - b.toNat
  | 2 => if 255 < t + b.toNat then t else t + b.toNat
  | _ => Nat.xor t (b.toNat % 256)

/-- The combination of SCAN and LRED over lanes in order, from an accumulator and flags (R206). -/
def combine (op : Nat) (sgn : Bool) (g : Ctx) (val : Nat → Word) (l : List Nat) (acc : Word × FFlags) : Word × FFlags :=
  l.foldl (fun r t => let n := scanStep op sgn g.fpmode r.1 (val t); (n.1, r.2 ||| n.2)) acc

/-- What a SCAN or LRED starts from, and a lane's value. -/
def combineStart (x : V2) : Word × FFlags := (scanIdentity x.mod.toNat x.s, 0)
def combineVal (x : V2) (g : Ctx) (t : Nat) : Word := opnd (if x.mod = 6 then .f32 else .int) g x.a t

/-- XLANE, the votes of POLL that answer a number, SCAN, LRED and PMOV of the predicates to an entry. -/
def laneTable : Instr → Option LaneSpec
  | .xlane x => some ⟨⟨[⟨x.a, false⟩, ⟨x.b, false⟩], x.d.toNat, x.w, false, .x⟩, fun g t =>
      ⟨g.read .int false x.a (laneSource x.mod.toNat t (opnd .int g x.b t)), 0⟩⟩
  | .poll x => if x.mod.toNat ≤ 2 then none else some ⟨⟨[], x.d.toNat, x.w, false, .x⟩, fun g t =>
      let m := g.ballot (predOf x.a)
      word (if x.mod = 3 then m.extractLsb' (32 * (t % 8)) 32 else BitVec.ofNat 32 ((List.range 256).countP fun k => m.getLsbD k))⟩
  | .scan x => some ⟨⟨[⟨x.a, false⟩], x.d.toNat, x.w, false, .x⟩, fun g t =>
      let fl := (combine x.mod.toNat x.s g (combineVal x g) g.lanes (combineStart x)).2
      let upTo (k : Nat) := (combine x.mod.toNat x.s g (combineVal x g) (g.lanes.filter fun u => u < k) (combineStart x)).1
      if g.active.getLsbD t then ⟨(if x.b.getLsbD 0 then upTo t else upTo (t + 1)).setWidth 64, fl⟩ else ⟨0, 0⟩⟩
  | .lred x => some ⟨⟨[⟨x.a, false⟩], x.d.toNat, x.w, false, .x⟩, fun g _ =>
      let r := combine x.mod.toNat x.s g (combineVal x g) g.lanes (combineStart x)
      ⟨r.1.setWidth 64, r.2⟩⟩
  | .pmov x => if x.mod = 0 then some ⟨⟨[], x.d.toNat, x.w, false, .x⟩, fun g t =>
      word (BitVec.ofNat 32 (((List.range 8).map fun k => if (g.preds[Fin.ofNat 8 k]).getLsbD t then 2 ^ k else 0).sum))⟩ else none
  | _ => none

end Sys2Proof.Spec
end

