-- ==== Sys2Proof/Safety/Scalar.lean ====
section
/-! DEFINITION. What the statements say of instructions with predicate destinations, indexed registers and uniform registers, written
from the rules (R171, R172, R193, R196, R205, R207 to R209, R211, R213 to R218). -/

namespace Sys2Proof.Spec

open Machine

/-- What every instruction without a latch result leaves of the entries and latches (R143, R145): entries that waited for freeing, and
those its sources free, are FREE; every latch is invalid. -/
structure Plain (free : BitVec 16) (x y : Ctx) : Prop where
  entries : ∀ e < 16, y.entry e = if (x.pendFree ||| free).getLsbD e then freed (x.entry e) else x.entry e
  latches : ∀ k < 4, (y.latches[Fin.ofNat 4 k]).valid = false
  none : y.pendFree = 0

/-! ## Predicate destinations (R171) -/

/-- The new value of predicate D[2:0] from the old one and the condition, under the combine pair. -/
def mixed (d : BitVec 4) (w old c : Bool) : Bool :=
  if d.getLsbD 3 then old || c else if w then old && c else c

/-- A thread instruction with predicate destinations: its sources, the value of each predicate in each active thread after it, and
its flags. -/
structure PredSpec where
  srcs : List Src
  new : Ctx → Nat → Nat → Bool
  flags : Ctx → FFlags

structure PredNext (i : Instr) (l : PredSpec) (x y : Ctx) : Prop where
  pc : y.pc = nextPc i x
  /-- Active threads have the new value; inactive threads keep their predicates. -/
  preds : ∀ p < 8, ∀ t < 256, (y.preds[Fin.ofNat 8 p]).getLsbD t = if x.active.getLsbD t then l.new x p t else (x.preds[Fin.ofNat 8 p]).getLsbD t
  plain : Plain (srcFrees l.srcs) x y
  flags : y.fpflags = x.fpflags ||| (l.flags x).setWidth 64
  frame : y = { x with pc := y.pc, preds := y.preds, entries := y.entries, latches := y.latches, pendFree := y.pendFree, fpflags := y.fpflags,
                       run := y.run }

/-- What such an instruction waits for. -/
def PredSpec.uses (l : PredSpec) : Uses := { ents := srcEnts l.srcs, latches := srcLatches l.srcs }

def PredCompletes (i : Instr) (l : PredSpec) : Prop :=
  ∀ s g, Ready i l.uses s g → g.ctx.latchesOk l.srcs = true →
    ∃ h, exec i s = .next (s.setGroup s.cur h) ∧ Passed i s g h ∧ PredNext i l (g.ctx.begin l.uses) h.ctx

/-- One predicate written: D[2:0] in each active thread. -/
def onePred (srcs : List Src) (d : BitVec 4) (w : Bool) (c : Ctx → Nat → Bool) (fl : Ctx → FFlags) : PredSpec :=
  ⟨srcs, fun g p t => if p = (d.extractLsb' 0 3).toNat then mixed d w ((g.preds[Fin.ofNat 8 p]).getLsbD t) (c g t) else (g.preds[Fin.ofNat 8 p]).getLsbD t, fl⟩

/-- The conditions of integer compares (R193). -/
def condition (c : Nat) (a b : Int) : Bool :=
  match c with
  | 0 => decide (a = b)
  | 1 => !decide (a = b)
  | 2 => decide (a < b)
  | 3 => decide (a ≤ b)
  | 4 => decide (b < a)
  | _ => decide (b ≤ a)

/-- The value of a predicate field in a thread (R172). -/
def fieldValue (g : Ctx) (f : SrcField) (t : Nat) : Bool := xor ((g.preds[Fin.ofNat 8 (f.extractLsb' 0 3).toNat]).getLsbD t) (f.getLsbD 3)

/-- Flags of the active threads. -/
def gathered (g : Ctx) (f : Nat → FFlags) : FFlags := g.laneFlags f

/-- A floating-point compare of one predicate (R196). -/
def floatCompare (x : V2) (c : Consts) (f : Fmt) (wide : Bool) (ftz : Ctx → Bool) : PredSpec :=
  let r (g : Ctx) (t : Nat) := fcompare f (ftz g) x.mod.toNat (g.read c wide x.a t).toNat (g.read c wide x.b t).toNat
  onePred [⟨x.a, wide⟩, ⟨x.b, wide⟩] x.d x.w (fun g t => (r g t).1) fun g => gathered g fun t => (r g t).2

/-- The compare of element 0 or element 1 (R196). -/
def halfCompare (x : V2) (g : Ctx) (k t : Nat) : Bool × FFlags :=
  fcompare .b16 (g.fpmode.getLsbD 3) x.mod.toNat ((opnd .f16 g x.a t).toNat / 65536 ^ k % 65536) ((opnd .f16 g x.b t).toNat / 65536 ^ k % 65536)

/-- Every instruction with predicate destinations. -/
def predTable : Instr → Option PredSpec
  | .icmp x => some (onePred [⟨x.a, false⟩, ⟨x.b, false⟩] x.d x.w
      (fun g t => condition x.mod.toNat (number x.s (opnd .int g x.a t)) (number x.s (opnd .int g x.b t))) fun _ => 0)
  | .icmpi x => some (onePred [⟨x.a, false⟩] x.d x.w
      (fun g t => condition (x.imm.extractLsb' 9 3).toNat (opnd .int g x.a t).toInt (x.imm.extractLsb' 0 9).toInt) fun _ => 0)
  | .fcmp x => some (floatCompare x .f32 .b32 false fun g => g.fpmode.getLsbD 2)
  | .dcmp x => some (floatCompare x .f64 .b64 true fun _ => false)
  | .hcmp2 x => some ⟨[⟨x.a, false⟩, ⟨x.b, false⟩], fun g p t =>
      let old := (g.preds[Fin.ofNat 8 p]).getLsbD t
      if p = (x.d.extractLsb' 0 3).toNat then mixed x.d x.w old (halfCompare x g 0 t).1
      else if p = (x.d.extractLsb' 0 3).toNat + 1 then mixed x.d x.w old (halfCompare x g 1 t).1
      else old, fun g => gathered g (fun t => (halfCompare x g 0 t).2) ||| gathered g fun t => (halfCompare x g 1 t).2⟩
  | .poll x => if x.mod.toNat ≤ 2 then some (onePred [] x.d x.w (fun g _ =>
      let one (t : Nat) := fieldValue g x.a t
      match x.mod.toNat with
      | 0 => g.lanes.all one
      | 1 => g.lanes.any one
      | _ => g.lanes.all one || g.lanes.all fun t => !one t) fun _ => 0) else none
  | .pcomb x => some (onePred [] x.d x.w (fun g t =>
      match x.mod.toNat with
      | 0 => fieldValue g x.a t && fieldValue g x.b t
      | 1 => fieldValue g x.a t || fieldValue g x.b t
      | 2 => xor (fieldValue g x.a t) (fieldValue g x.b t)
      | _ => fieldValue g x.a t) fun _ => 0)
  | .pmov x => if x.mod = 0 then none else some ⟨[⟨x.a, false⟩], fun g p t => (opnd .int g x.a t).getLsbD p, fun _ => 0⟩
  | _ => none

/-! ## Indexed main registers (R150, R207) -/

/-- A thread's value of main register v: that of the entry that maps it, where one does. -/
def mainAt (x : Ctx) (v t : Nat) : Word :=
  match x.entryOf v with
  | some e => (x.entry e).at t
  | none => (x.mainReg v).at t

/-- A thread's index. -/
def index (g : Ctx) (x : V2) (t : Nat) : Nat := (opnd .int g x.a t).toNat
/-- The window of an instruction's index register. -/
def window (g : Ctx) (x : V2) : IxReg := g.ix[Fin.ofNat 4 x.mod.toNat]

/-- STX's sources. -/
def stxSrcs (x : V2) : List Src := [⟨x.a, false⟩, ⟨x.b, false⟩]
/-- What MOVX and STX wait for. -/
def movxUses (x : V2) (s : State) : Uses :=
  { (⟨[⟨x.a, false⟩], x.d.toNat, x.w, false, .x⟩ : VecOp).usesAt (.movx x) s with main := s.namedMain x }
def stxUses (x : V2) (s : State) : Uses := { ents := srcEnts (stxSrcs x), latches := srcLatches (stxSrcs x), main := s.namedMain x }

/-- After STX: register b + idx of each active thread holds B, and every other register of every thread what it held. -/
structure StxNext (x : V2) (c y : Ctx) : Prop where
  pc : y.pc = nextPc (.stx x) c
  stored : ∀ t < 256, c.active.getLsbD t = true → mainAt y ((window c x).base.toNat + index c x t) t = opnd .int c x.b t
  kept : ∀ v < 256, ∀ t < 256, (c.active.getLsbD t = true → v ≠ (window c x).base.toNat + index c x t) →
    mainAt y v t = match c.entryOf v with
      | some e => if (c.pendFree ||| srcFrees (stxSrcs x)).getLsbD e then 0 else (c.entry e).at t
      | none => (c.mainReg v).at t
  maps : ∀ e < 16, (y.entry e).map = (c.entry e).map
  latches : ∀ k < 4, (y.latches[Fin.ofNat 4 k]).valid = false
  frame : y = { c with pc := y.pc, entries := y.entries, main := y.main, latches := y.latches, pendFree := y.pendFree, run := y.run }

/-! ## Uniform registers (R213, R214) -/

/-- A UNI instruction: the registers it reads and writes, the new value of each uniform register and flag c0 to c3 it writes, and its
flags. -/
structure UniSpec where
  reads : List Nat
  writes : List Nat
  s : Ctx → Nat → Option DWord
  c : Ctx → Nat → Option Bool
  flags : Ctx → FFlags

def UniSpec.uses (l : UniSpec) : Uses := { sregs := sregBits (l.reads ++ l.writes) }

structure UniNext (i : Instr) (l : UniSpec) (x y : Ctx) : Prop where
  pc : y.pc = nextPc i x
  regs : ∀ k < 64, y.getS k = (l.s x k).getD (x.getS k)
  conds : ∀ k < 4, y.getC k = (l.c x k).getD (x.getC k)
  plain : Plain 0 x y
  flags : y.fpflags = x.fpflags ||| (l.flags x).setWidth 64
  frame : y = { x with pc := y.pc, s := y.s, c := y.c, entries := y.entries, latches := y.latches, pendFree := y.pendFree,
                       fpflags := y.fpflags, run := y.run }

def UniCompletes (i : Instr) (l : UniSpec) : Prop :=
  ∀ s g, Ready i l.uses s g → ∃ h, exec i s = .next (s.setGroup s.cur h) ∧ Passed i s g h ∧ UniNext i l (g.ctx.begin l.uses) h.ctx

/-- d := f a b, with the flags of the second component. -/
def uni2 (x : Uni) (f : Ctx → DWord → DWord → DWord × FFlags) : UniSpec :=
  let r (g : Ctx) := f g (g.getS x.a.toNat) (g.getS x.b.toNat)
  ⟨[x.a.toNat, x.b.toNat], [x.d.toNat], fun g k => if k = x.d.toNat then some (r g).1 else none, fun _ _ => none, fun g => (r g).2⟩
def uni1 (x : Uni) (f : Ctx → DWord → DWord × FFlags) : UniSpec :=
  let r (g : Ctx) := f g (g.getS x.a.toNat)
  ⟨[x.a.toNat], [x.d.toNat], fun g k => if k = x.d.toNat then some (r g).1 else none, fun _ _ => none, fun g => (r g).2⟩
def uni0 (x : Uni) (v : DWord) : UniSpec :=
  ⟨[], [x.d.toNat], fun _ k => if k = x.d.toNat then some v else none, fun _ _ => none, fun _ => 0⟩
/-- A function without flags. -/
def pure2 (f : DWord → DWord → DWord) : Ctx → DWord → DWord → DWord × FFlags := fun _ a b => (f a b, 0)
def pure1 (f : DWord → DWord) : Ctx → DWord → DWord × FFlags := fun _ a => (f a, 0)

/-- A 64-bit word as a signed or an unsigned number. -/
def number64 (sgn : Bool) (a : DWord) : Int := if sgn then a.toInt else a.toNat

/-- Bits [127:64] of the exact product. -/
def highHalf64 (sgn : Bool) (a b : DWord) : DWord :=
  if sgn then (a.signExtend 128 * b.signExtend 128).extractLsb' 64 64 else (a.setWidth 128 * b.setWidth 128).extractLsb' 64 64

/-- The conditions of SCMP. -/
def condition64 (m : Nat) (a b : DWord) : Bool :=
  match m with
  | 6 => decide (a.toNat < b.toNat)
  | 7 => decide (b.toNat ≤ a.toNat)
  | m => condition m a.toInt b.toInt

/-- The integer UNI instructions. -/
def uniTable : Instr → Option UniSpec
  | .smov x => some (uni1 x (pure1 fun a => a))
  | .sadd x => some (uni2 x (pure2 fun a b => BitVec.ofNat 64 (a.toNat + b.toNat)))
  | .ssub x => some (uni2 x (pure2 fun a b => BitVec.ofInt 64 ((a.toNat : Int) - b.toNat)))
  | .smul x => some (uni2 x (pure2 fun a b => BitVec.ofNat 64 (a.toNat * b.toNat)))
  | .smulhi x => some (uni2 x (pure2 (highHalf64 (!x.mod.getLsbD 0))))
  | .sand x => some (uni2 x (pure2 fun a b => a &&& b))
  | .sor x => some (uni2 x (pure2 fun a b => a ||| b))
  | .sxor x => some (uni2 x (pure2 fun a b => a ^^^ b))
  | .sshl x => some (uni2 x (pure2 fun a b => BitVec.ofNat 64 (a.toNat * 2 ^ (b.toNat % 64))))
  | .sshr x => some (uni2 x (pure2 fun a b => BitVec.ofNat 64 (a.toNat / 2 ^ (b.toNat % 64))))
  | .ssar x => some (uni2 x (pure2 fun a b => BitVec.ofInt 64 (a.toInt / 2 ^ (b.toNat % 64))))
  | .smin x => some (uni2 x (pure2 fun a b => if number64 (!x.mod.getLsbD 0) b < number64 (!x.mod.getLsbD 0) a then b else a))
  | .smax x => some (uni2 x (pure2 fun a b => if number64 (!x.mod.getLsbD 0) a < number64 (!x.mod.getLsbD 0) b then b else a))
  | .scmp x => some ⟨[x.a.toNat, x.b.toNat], [], fun _ _ => none, fun g k =>
      if k = x.d.toNat then some (condition64 x.mod.toNat (g.getS x.a.toNat) (g.getS x.b.toNat)) else none, fun _ => 0⟩
  | .ssel x => some (uni2 x fun g a b => (if xor (g.getC (x.mod.extractLsb' 0 2).toNat) (x.mod.getLsbD 2) then a else b, 0))
  | .smovw x k => some (uni0 x (if x.mod.getLsbD 0 then BitVec.ofNat 64 k.toNat else BitVec.ofInt 64 k.toInt))
  | .smovd x k => some (uni0 x k)
  | .saddw x k => some (uni1 x (pure1 fun a => BitVec.ofInt 64 (a.toNat + k.toInt)))
  | .spopc x => some (uni1 x (pure1 fun a => BitVec.ofNat 64 ((List.range 64).countP fun k => a.getLsbD k)))
  | .sclz x => some (uni1 x (pure1 fun a => BitVec.ofNat 64 (((List.range 64).find? fun k => a.getLsbD (63 - k)).getD 64)))
  | .actmask x => some ⟨[], (List.range 4).map (x.d.toNat + ·), fun g k =>
      if x.d.toNat ≤ k ∧ k < x.d.toNat + 4 then some (g.active.extractLsb' (64 * (k - x.d.toNat)) 64) else none, fun _ _ => none, fun _ => 0⟩
  | .elect x => some ⟨[], [x.d.toNat], fun g k =>
      if k = x.d.toNat then some (BitVec.ofNat 64 (((List.range 256).find? fun t => g.active.getLsbD t).getD 0)) else none, fun _ _ => none, fun _ => 0⟩
  | _ => none

/-- Floating-point results of uniform operands, zero-extended, with flags (R214). -/
def uniFloatTable : Instr → Option UniSpec
  | .sfadd x => some (uni2 x fun g a b =>
      let r := fadd .b32 (mode32 g) (a.toNat % 2 ^ 32) (b.toNat % 2 ^ 32); (BitVec.ofNat 64 r.bits, r.fl))
  | .sfmul x => some (uni2 x fun g a b =>
      let r := fmul .b32 (mode32 g) (a.toNat % 2 ^ 32) (b.toNat % 2 ^ 32); (BitVec.ofNat 64 r.bits, r.fl))
  | .sdadd x => some (uni2 x fun g a b => let r := fadd .b64 (mode64 g) a.toNat b.toNat; (BitVec.ofNat 64 r.bits, r.fl))
  | .sdmul x => some (uni2 x fun g a b => let r := fmul .b64 (mode64 g) a.toNat b.toNat; (BitVec.ofNat 64 r.bits, r.fl))
  | .scvt x => some (uni1 x fun g a => let r := fCvt g.fpmode x.mod.toNat x.b a; (r.val, r.fl))
  | _ => none

end Sys2Proof.Spec
end

