-- ==== Sys2Proof/Safety/Control.lean ====
section
/-! DEFINITION. What the statements say of control flow, regions, barriers and traps (R44, R45, R146, R147, R219 to R230, R457 to
R462). -/

namespace Sys2Proof.Spec

open Machine

/-! ## Control instructions -/

/-- The instruction completes in one step: what stands outside its group becomes `t`; its group, with the record `g` but for its
context, stands at `pc` with the context `z`, the entries in `fr` freed and every latch invalid (Plain). -/
def Does (i : Instr) (s : State) (g : Group) (pc : DWord) (t : State) (fr : BitVec 16) (z : Ctx) : Prop :=
  ∃ h, exec i s = .next (t.setGroup s.cur h) ∧ Passed i s g h ∧ h.ctx.pc = pc ∧ Plain fr z h.ctx ∧
    h.ctx = { z with pc := h.ctx.pc, entries := h.ctx.entries, latches := h.ctx.latches, pendFree := h.ctx.pendFree, run := h.ctx.run }

/-- The instruction completes and nothing outside its group changes. -/
def Moves (i : Instr) (s : State) (g : Group) (pc : DWord) (z : Ctx) : Prop := Does i s g pc s 0 z

/-- A branch target: parcels from the instruction's own address (R137). -/
def target (x : Ctx) (parcels : Int) : DWord := x.pc + BitVec.ofInt 64 (2 * parcels)

/-- The context as an instruction that reads no latch finds it (R143). -/
def found (g : Group) : Ctx := g.ctx.begin {}

/-- Active threads whose predicate holds after the inversion bit (R44). -/
def taken (x : Ctx) (p : PredField) : LaneMask := x.active &&& (if p.inv then ~~~x.preds[p.p] else x.preds[p.p])

/-- The divergence-stack entry a BRD pushes (R44). -/
def pushed (i : Instr) (x : Ctx) (p : PredField) (join : DWord) : DivEntry :=
  { joinpc := join, outer := x.active, elsemask := x.active &&& ~~~taken x p, elsepc := nextPc i x, second := decide (taken x p = 0) }

/-! ## Regions (R146, R147) -/

/-- The item that names an entry. -/
def itemOf (items : List RegionItem) (e : Nat) : Option RegionItem := items.find? fun it => it.entry.val == e

/-- The item keeps the entry's contents: keep is set, the entry maps the same register and is not FREE (R146). -/
def keeps (x : Ctx) (items : List RegionItem) (e : Nat) : Bool :=
  match itemOf items e with
  | some it => it.keep && decide ((x.entry e).map = some it.v) && decide ((x.entry e).st ≠ .free)
  | none => false

/-- Register v is written back by REGION from an entry: DIRTY, mapped to v and not kept (R146). -/
def writesBack (x : Ctx) (items : List RegionItem) (v e : Nat) : Prop :=
  e < 16 ∧ (x.entry e).st = .dirty ∧ (x.entry e).map = some (BitVec.ofNat 8 v) ∧ keeps x items e = false

/-- No other entry maps the register of an entry: REGION maps distinct registers (R147), a handler's frame may not (R459). -/
def Alone (x : Ctx) (e : Nat) : Prop := ∀ d < 16, d ≠ e → (x.entry d).map ≠ (x.entry e).map

/-- After REGION: DIRTY entries not kept are in their main registers for every thread; an entry without an item is unmapped; one with an
item is kept, loaded from its register as CLEAN, or FREE. -/
structure RegionNext (i : Instr) (items : List RegionItem) (x y : Ctx) : Prop where
  pc : y.pc = nextPc i x
  back : ∀ v < x.main.length, v < 256 → ∀ e, writesBack x items v e → Alone x e → y.mainReg v = (x.entry e).val
  kept : ∀ v < x.main.length, v < 256 → (∀ e, ¬ writesBack x items v e) → y.mainReg v = x.mainReg v
  length : y.main.length = x.main.length
  unmapped : ∀ e < 16, itemOf items e = none → y.entry e = ⟨none, .free, Lanes.zero⟩
  same : ∀ e < 16, keeps x items e = true → y.entry e = x.entry e
  loaded : ∀ e < 16, ∀ it, itemOf items e = some it → keeps x items e = false →
    y.entry e = if it.load then ⟨some it.v, .clean, y.mainReg it.v.toNat⟩ else ⟨some it.v, .free, Lanes.zero⟩
  latches : ∀ k < 4, (y.latches[Fin.ofNat 4 k]).valid = false
  frame : y = { x with pc := y.pc, entries := y.entries, main := y.main, latches := y.latches, pendFree := y.pendFree, run := y.run }

/-! ## Traps (R448 to R458) -/

/-- A trap can be entered at once (R457, R458, R487): the group is no combiner and not in handler state, its job has a handler, and no
scoreboard slot is held. -/
structure CanTrap (s : State) (g : Group) : Prop where
  kind : g.kind ≠ .combiner
  first : g.handler = false
  frame : g.frame.isSome = true
  handler : ∃ j, s.jobs[g.job]? = some j ∧ j.handler ≠ 0
  board : ∀ k < 32, g.board[Fin.ofNat 32 k] = none

/-- Main registers after every DIRTY mapped entry is written back for every thread (R148). -/
def WrittenBack (x y : Ctx) : Prop :=
  y.main.length = x.main.length ∧
    ∀ v < x.main.length, v < 256 → (∀ e < 16, (x.entry e).st = .dirty → (x.entry e).map = some (BitVec.ofNat 8 v) → Alone x e →
      y.mainReg v = (x.entry e).val) ∧
    ((∀ e < 16, (x.entry e).st = .dirty → (x.entry e).map ≠ some (BitVec.ofNat 8 v)) → y.mainReg v = x.mainReg v)

/-- The group `h` in its handler for a cause, from the group `g` whose context was `x` (R457 steps 2 and 4 to 6). `restart` and `skip`
are where a retry and a skip go on (R460). Stores that a graphics group holds to its frame are older than the frame (R455). -/
structure InHandler (s : State) (g h : Group) (x : Ctx) (cause : Cause) (restart skip : DWord) : Prop where
  on : h.handler = true
  runs : h.status = .running ∧ h.hasSlot = g.hasSlot
  pc : ∃ j, s.jobs[g.job]? = some j ∧ h.ctx.pc = j.handler
  s0 : ∃ a, g.frame = some a ∧ h.ctx.getS 0 = a
  s1 : h.ctx.getS 1 = BitVec.ofNat 64 cause.code
  regs : ∀ k < 64, 2 ≤ k → h.ctx.getS k = x.getS k
  modes : h.ctx.fpmode = 0 ∧ h.ctx.fpflags = 0
  entries : ∀ e < 16, h.ctx.entry e = ⟨none, .free, Lanes.zero⟩
  slots : ∀ k < 8, (h.ctx.slots[Fin.ofNat 8 k]).mapped = false
  latches : ∀ k < 4, (h.ctx.latches[Fin.ofNat 4 k]).valid = false
  back : WrittenBack x h.ctx
  kept : h.ctx.preds = x.preds ∧ h.ctx.c = x.c ∧ h.ctx.storehash = x.storehash ∧ h.ctx.active = x.active ∧ h.ctx.dstack = x.dstack ∧
    h.ctx.cstack = x.cstack ∧ h.ctx.ix = x.ix ∧ h.ctx.killed = x.killed
  saved : ∃ v, h.trapSave = some v ∧ v.cause = cause ∧ v.restart = restart ∧ v.skip = skip
  rest : h = { g with ctx := h.ctx, status := h.status, handler := h.handler, trapSave := h.trapSave, rebuild := none, retry := none, gfx := h.gfx }
  held : match g.gfx with
    | none => h.gfx = none
    | some f => ∃ l, h.gfx = some { f with held := l } ∧ (∀ pa b, heldByte l pa b = heldByte f.held pa b ∨ heldByte l pa b = b) ∧
        l.filter (fun e => match e with | .store _ _ _ _ => false | _ => true) = f.held.filter (fun e => match e with | .store _ _ _ _ => false | _ => true)

/-- The fields of a fault record and frame, as written before the handler's first instruction (R448, R456): offset, bytes and value. -/
def FrameOf (g : Group) (t : TrapInfo) (restart : DWord) (items : List (Nat × Nat × Nat)) : Prop :=
  (0, 2, t.cause.code) ∈ items ∧ (8, 8, t.pc.toNat) ∈ items ∧ (16, 8, (t.addr.getD 0).toNat) ∈ items ∧ (32, 32, t.lanes.toNat) ∈ items ∧
    (64, 8, 0) ∈ items ∧ (72, 8, 0) ∈ items ∧ (80, 8, restart.toNat) ∈ items ∧ (88, 8, g.ctx.fpmode.toNat) ∈ items ∧
    (96, 8, g.ctx.fpflags.toNat) ∈ items ∧ (104, 8, g.ctx.storehash.toNat) ∈ items ∧ (128, 32, g.ctx.active.toNat) ∈ items ∧
    (160, 32, t.done.toNat) ∈ items ∧
    (∀ k < 64, (256 + 8 * k, 8, (g.ctx.getS k).toNat) ∈ items) ∧ (t.cause = .softTrap → (2, 2, t.code.toNat) ∈ items)

/-- The instruction takes a trap: the fields of its frame are written, in order, at the group's frame, and then the group is in its
handler; where they cannot be written, the group ends (R457, R487). -/
def Traps (i : Instr) (s : State) (g : Group) (x : Ctx) (cause : Cause) (code : BitVec 16) (restart skip : DWord) : Prop :=
  ∃ items t frame h, FrameOf { g with ctx := x } t restart items ∧ t.cause = cause ∧ t.code = code ∧ t.pc = x.pc ∧ g.frame = some frame ∧
    InHandler s g h x cause restart skip ∧
    exec i s = .next (match ((s.setGroup s.cur { g with ctx := x }).tick g.core).frameWrite s.cur { g with ctx := x } frame items with
      | .ok s' => s'.setGroup s.cur h
      | .error va => frameFailure ((s.setGroup s.cur { g with ctx := x }).tick g.core) s.cur { g with ctx := x } va)

/-- A control instruction that cannot do its work takes a DIV_STACK trap at itself. -/
def DivTrap (i : Instr) (s : State) (g : Group) : Prop := Traps i s g (found g) .divStack 0 (found g).pc (nextPc i (found g))

/-! ## Barriers (R222 to R226, R537) -/

/-- One arrival: the last of a phase starts the next phase with no arrivals. -/
def arrived (b : Barrier) : Barrier :=
  if b.arrival + 1 = b.expected then { b with arrival := 0, phase := b.phase + 1, flips := b.flips + 1 } else { b with arrival := b.arrival + 1 }

/-- A new expected count, which starts the next phase where as many have arrived. -/
def expecting (b : Barrier) (n : Nat) : Barrier :=
  if n ≤ b.arrival then { b with expected := n, arrival := 0, phase := b.phase + 1, flips := b.flips + 1 } else { b with expected := n }

/-- A BAR or BARINIT names a barrier of the group's team, or of the group itself in a grid or sample group: the machine and the group's
record after the barrier changes. -/
structure BarrierIs (s : State) (g : Group) (nb : Nat) (b : Barrier) : Prop where
  own : (g.kind = .grid ∨ g.kind = .sample) → g.ownBars[Fin.ofNat 16 nb] = b
  team : ¬ (g.kind = .grid ∨ g.kind = .sample) → ∃ t, s.teams[g.team]? = some t ∧ t.bars[Fin.ofNat 16 nb] = b

/-- The state with the barrier that a group names. -/
def withBarrier (s : State) (g : Group) (nb : Nat) (b : Barrier) : State :=
  if g.kind = .grid ∨ g.kind = .sample then s
  else s.modTeam g.team fun t => { t with bars := t.bars.set (Fin.ofNat 16 nb) b }
/-- The group with the barrier that it names. -/
def ownBarrier (g : Group) (nb : Nat) (b : Barrier) : Group :=
  if g.kind = .grid ∨ g.kind = .sample then { g with ownBars := g.ownBars.set (Fin.ofNat 16 nb) b } else g

/-- The group with one more phase of a barrier consumed. -/
def consumed (g : Group) (nb : Nat) : Group := { g with seen := g.seen.set (Fin.ofNat 16 nb) (g.seen[Fin.ofNat 16 nb] + 1) }

/-- The group waits at a barrier, its instruction begun and not complete. -/
def Waits (i : Instr) (s : State) (g : Group) (t : State) (nb : Nat) : Prop :=
  ∃ h, exec i s = .next { t.setGroup s.cur h with free := s.free + 1 } ∧
    h = { g with ctx := h.ctx, status := .barWait nb (nextPc i (found g)), since := s.free } ∧ Plain 0 (found g) h.ctx ∧
    h.ctx = { found g with entries := h.ctx.entries, latches := h.ctx.latches, pendFree := h.ctx.pendFree, run := h.ctx.run }

/-- The group gave its operand-buffer slot up: DIRTY entries are in their main registers, and every entry that was not FREE reloads as
CLEAN (R148). -/
structure GaveUp (x y : Ctx) : Prop where
  back : WrittenBack x y
  entries : ∀ e < 16, y.entry e = { x.entry e with st := if (x.entry e).st = .dirty then .clean else (x.entry e).st }
  latches : ∀ k < 4, (y.latches[Fin.ofNat 4 k]).valid = false
  frame : y = { x with main := y.main, entries := y.entries, latches := y.latches, run := [] }

end Sys2Proof.Spec
end

