-- ==== Sys2Proof/Safety/Ends.lean ====
section
/-! DEFINITION. What the statements say of the ends of groups and threads, of SPAWN, of returning from a trap and of special registers
(R26, R64, R218, R221, R229, R230, R459, R460, R477). -/

namespace Sys2Proof.Spec

open Machine

/-! ## Ends -/

/-- The current group has ended: it no longer issues, holds no operand-buffer slot and has no private line left in its core's L1, its DIRTY
entries are in its main registers, and no memory changed (R221, R268). -/
structure Ended (s t : State) (g : Group) (x : Ctx) : Prop where
  group : ∃ h, t.groups[s.cur]? = some h ∧ h.status = .exited ∧ h.hasSlot = false ∧ h.block = none ∧ WrittenBack x h.ctx
  lines : ∀ l ∈ (t.core g.core).l1, ¬ (l.priv = true ∧ l.owner = s.cur)
  memory : t.mem = s.mem

/-- The other groups go on, but those that wait to exchange with the group that ended (R253). -/
def OthersGoOn (s t : State) : Prop :=
  t.groups.length = s.groups.length ∧
    ∀ k h, k ≠ s.cur → s.groups[k]? = some h → (∀ pc, h.status ≠ .xchgWait pc) → t.groups[k]? = some h

/-- Threads `k` removed for good: from the active mask and from every mask of the divergence stack (R230). -/
def without (x : Ctx) (k : LaneMask) : Ctx :=
  { x with active := x.active &&& ~~~k, killed := x.killed ||| k,
           dstack := x.dstack.map fun e => { e with outer := e.outer &&& ~~~k, elsemask := e.elsemask &&& ~~~k } }

/-- The divergence stack from its innermost entry whose pending path has threads (R230). -/
def pendingPath (l : List DivEntry) : List DivEntry :=
  l.dropWhile fun e => !((!e.second && decide (e.elsemask ≠ 0)) || decide (e.outer ≠ 0))

/-! ## SPAWN (R64) -/

/-- The j-th group that a SPAWN of `g` creates at an entry address. -/
structure Spawned (g : Group) (tm : Team) (pc : DWord) (j : Nat) (h : Group) : Prop where
  kind : h.kind = .spawned ∧ h.number = 255 ∧ h.team = g.team ∧ h.launch = g.launch ∧ h.job = g.job ∧ h.core = g.core ∧ h.regs = g.regs
  waits : h.status = .slotWait ∧ h.hasSlot = false
  seq : h.spawnSeq % 2 ^ 24 = (tm.nextSpawn + j) % 2 ^ 24
  start : h.ctx.pc = pc ∧ h.ctx.active = BitVec.allOnes 256 ∧ h.ctx.dstack = [] ∧ h.ctx.cstack = [] ∧ h.ctx.fpmode = 0 ∧ h.ctx.fpflags = 0 ∧
    h.ctx.storehash = 0 ∧ h.ctx.main = List.replicate g.regs Lanes.zero
  args : ∀ k < 8, h.ctx.getS k = g.ctx.getS k
  index : h.ctx.getS 8 = BitVec.ofNat 64 j
  zero : ∀ k < 64, 8 < k → h.ctx.getS k = 0
  preds : ∀ p < 8, h.ctx.preds[Fin.ofNat 8 p] = 0

/-! ## TRET (R459, R460) -/

/-- The context restored from a frame: registers, modes, predicates and masks as the frame holds them; a mapped entry that was not FREE
reloads from its main register as CLEAN. -/
structure Restored (s : State) (g : Group) (frame : DWord) (x y : Ctx) : Prop where
  regs : ∀ k < 64, s.frameRead g frame (256 + 8 * k) 8 = some (y.getS k).toNat
  fpmode : ∀ n, s.frameRead g frame 88 8 = some n → y.fpmode = BitVec.ofNat 64 (n % 16)
  fpflags : ∀ n, s.frameRead g frame 96 8 = some n → y.fpflags = BitVec.ofNat 64 (n % 32)
  hash : s.frameRead g frame 104 8 = some y.storehash.toNat
  conds : ∀ n, s.frameRead g frame 112 8 = some n → ∀ k < 4, y.getC k = n.testBit k
  active : ∀ n, s.frameRead g frame 128 32 = some n → y.active = BitVec.ofNat 256 n &&& ~~~x.killed
  preds : ∀ t < 256, ∀ n, s.frameRead g frame (1024 + t) 1 = some n → ∀ p < 8, (y.preds[Fin.ofNat 8 p]).getLsbD t = n.testBit p
  entries : ∀ e < 16, ∀ n, s.frameRead g frame (192 + 2 * e) 2 = some n → y.entry e =
    if n / 128 % 2 = 0 then ⟨none, .free, Lanes.zero⟩
    else if n % 4 = 0 then ⟨some (BitVec.ofNat 8 (n / 256)), .free, Lanes.zero⟩
    else ⟨some (BitVec.ofNat 8 (n / 256)), .clean, x.mainReg (n / 256 % 256)⟩
  latches : ∀ k < 4, (y.latches[Fin.ofNat 4 k]).valid = false
  kept : y.main = x.main ∧ y.dstack = x.dstack ∧ y.cstack = x.cstack ∧ y.ix = x.ix ∧ y.killed = x.killed

/-- The frame fails TRET's first test (R459). -/
def BadFrame (s : State) (g : Group) (frame : DWord) (x : Ctx) : Prop :=
  (∃ n, s.frameRead g frame 64 8 = some n ∧ 4 < n) ∨
  (∃ n, s.frameRead g frame 64 8 = some 2 ∧ s.frameRead g frame 72 8 = some n ∧ n % 2 = 1) ∨
  (∃ n, s.frameRead g frame 120 8 = some n ∧ n ≠ x.dstack.length + 256 * x.cstack.length) ∨
  (∃ e n, e < 16 ∧ s.frameRead g frame (192 + 2 * e) 2 = some n ∧ n / 128 % 2 = 1 ∧ g.regs ≤ n / 256)

/-- The launch of a group fails; with `cancel` it is cancelled (R58, R460). -/
def Fails (s t : State) (l : Nat) (cancel : Bool) : Prop :=
  ∀ x, s.launches[l]? = some x → ∃ y, t.launches[l]? = some y ∧ y.faulted = true ∧ (cancel = true → y.cancelled = true)

/-- The current group left handler state with the context `y`, resuming at `pc`. -/
structure Resumes (s : State) (g : Group) (y : Ctx) (pc : DWord) (h : Group) : Prop where
  ctx : h.ctx = { y with pc := pc }
  left : h.handler = false ∧ h.trapSave = none ∧ h.status = .running ∧ h.hasSlot = g.hasSlot ∧ h.kind = g.kind ∧ h.board = g.board

/-! ## Special registers (R218) -/

/-- What SREAD reads of a team or launch. -/
def teamField (s : State) (g : Group) (f : Team → Nat) : Nat := ((s.teams[g.team]?).map f).getD 0
def launchField (s : State) (g : Group) (f : Launch → Nat) : Nat := ((s.launches[g.launch]?).map f).getD 0
def gfxField (g : Group) (f : Gfx → DWord) : Nat := (g.gfx.map fun x => (f x).toNat).getD 0

/-- The contents of a special register, CYCLE aside. -/
def specialOf (s : State) (g : Group) (x : Ctx) : Nat → Nat
  | 0 => g.number
  | 1 => teamField s g (·.x)
  | 2 => teamField s g (·.y)
  | 3 => teamField s g (·.z)
  | 4 => launchField s g (·.dx)
  | 5 => launchField s g (·.dy)
  | 6 => launchField s g (·.dz)
  | 7 => launchField s g (·.id)
  | 8 => g.core
  | 9 => g.core / 2
  | 10 => 1 - g.core % 2
  | 11 => g.part
  | 13 => x.fpmode.toNat
  | 14 => x.fpflags.toNat
  | 15 => g.privLimit
  | 16 => s.carveInfo g
  | 17 => match s.jobs[g.job]? with | some j => if j.secure then 1 else 0 | none => 0
  | 18 => match s.passOf g with | some p => if p.live then p.status else 0 | none => 0
  | 19 => x.storehash.toNat
  | 20 => ((s.core g.core).stamp).toNat
  | 21 => gfxField g (·.patchId)
  | 22 => gfxField g (·.gridU)
  | 23 => gfxField g (·.gridV)
  | 24 => g.taskrec.toNat
  | _ => 0

end Sys2Proof.Spec
end

