-- ==== Sys2Proof/Safety/Memory.lean ====
section
/-! DEFINITION. What the statements say of memory: addresses, the bytes an access reaches, loads, stores, atomics and method requests of
a group, scratchpad and private accesses (R231 to R242, R266 to R284, R297 to R300, R318). -/

namespace Sys2Proof.Spec

open Machine

/-! ## Memory as it is read -/

/-- A byte of memory at the point of coherence. -/
def byteAt (s : State) (pa : Nat) : BitVec 8 := SMap.get s.mem pa

/-- Every byte of memory is as it was, but for dirty private lines of a core's L1 that were written back (R266). -/
structure MemKept (s t : State) (core : Nat) : Prop where
  bytes : ∀ pa, byteAt t pa = byteAt s pa ∨
    ∃ ln ∈ (s.core core).l1, ln.dirty = true ∧ ∃ i, i < ln.data.length ∧ pa = ln.line * 128 + i ∧ byteAt t pa = ln.data.getD i 0
  others : ∀ c, coreIx c ≠ coreIx core → t.core c = s.core c

/-- The lines of a core's L1 are distinct and whole. -/
def L1Ok (c : Core) : Prop := (c.l1.map fun l => l.line).Nodup ∧ ∀ l ∈ c.l1, l.data.length = 128

/-- Home columns change in their stamps alone (R290). -/
def OnlyStamps (s t : State) : Prop := ∀ k, t.column k = { s.column k with stamp := (t.column k).stamp }

/-- What holding a line or a translation may change: L1, TLBs, prefetch counters, stamps, the keys of lines written back, peers' stream
numbers and counts of denied accesses. -/
def OnlyCaches (s t : State) : Prop :=
  t = { s with mem := t.mem, keyed := t.keyed, cores := t.cores, columns := t.columns, l2tlb := t.l2tlb, free := t.free, sys := t.sys,
               outSeq := t.outSeq, ports := t.ports } ∧
    t.sys = { s.sys with denied := t.sys.denied, deniedLog := t.sys.deniedLog, hostStamp := t.sys.hostStamp } ∧ OnlyStamps s t

/-- What holding translations may change. -/
def OnlyTlbs (s t : State) : Prop :=
  t = { s with cores := t.cores, l2tlb := t.l2tlb, free := t.free } ∧
    ∀ c, t.core c = { s.core c with tlb := (t.core c).tlb }

/-! ## Addresses (R231) -/

/-- The address of a lane of a MEM instruction for an access of n bytes. -/
def addrOf (x : Mem) (n : Nat) (c : Ctx) (t : Nat) : DWord :=
  match x.m.toNat with
  | 0 => c.slot x.g.toNat + (opnd .int c x.a t).setWidth 64
  | 1 => c.read .int true x.a t
  | 2 => c.slot x.g.toNat + (opnd .int c x.a t).setWidth 64 * BitVec.ofNat 64 n
  | _ => c.slot x.g.toNat + (opnd .int c x.a t).setWidth 64 + (x.disp.getD 0).signExtend 64

/-- The active lanes with their addresses. -/
def lanesOf (c : Ctx) (f : Nat → DWord) : List (Nat × DWord) := c.lanes.map fun t => (t, f t)

/-- The lanes that an instruction issues: all, or after a trap those that its frame does not say are done (R461). -/
def issuing {α : Type} (g : Group) (l : List (Nat × α)) : List (Nat × α) := l.filter fun p => !g.doneLanes.getLsbD p.1

/-- The active lanes that issue. -/
def laneIssues (g : Group) (c : Ctx) : List Nat := c.lanes.filter fun t => !g.doneLanes.getLsbD t

/-- Every lane's access is aligned, and reaches a physical address through the group's translation. -/
structure Reaches (s : State) (g : Group) (a : Access) (park : Bool) (n : Nat) (lanes : List (Nat × DWord)) (l : List LaneAcc) : Prop where
  lanes : l.map (fun x => (x.lane, x.va)) = lanes
  aligned : ∀ x ∈ l, x.va.toNat % n = 0
  mapped : ∀ x ∈ l, s.xlate g.core g.job x.va a park = .ok x.pa x.cacheable

/-- An order word's size in bytes (R156). -/
def orderBytes (o : Order) : Nat := match o.size.toNat with | 0 => 4 | 1 => 8 | 2 => 16 | _ => 1

/-! ## Requests -/

/-- The instruction issued a request and its group does not go on until it is answered; the record is as given but for its context, in which
the entries of fr are freed (R215). -/
def Blocks (i : Instr) (s : State) (g : Group) (pc : DWord) (t : State) (z : Ctx) (fr : BitVec 16 := 0) : Prop :=
  ∃ h, exec i s = .next (t.setGroup s.cur h) ∧
    h = { g with ctx := h.ctx, status := .blocked (spOf i), icount := h.icount, retry := none, absent := none } ∧ h.ctx.pc = pc ∧ Plain fr z h.ctx ∧
    h.ctx = { z with pc := h.ctx.pc, entries := h.ctx.entries, latches := h.ctx.latches, pendFree := h.ctx.pendFree, run := h.ctx.run }

/-- A request as its instruction issued it. -/
structure Issued (i : Instr) (x : Ctx) (lanes : List Nat) (dest : Dest) (p : Pend) : Prop where
  inst : p.i = i ∧ p.pc = x.pc
  dest : p.dest = dest
  lanes : p.lanes = maskOf lanes

/-- A request with a result completes its instruction: split-phase in the lowest free scoreboard slot, or blocking the group. -/
def Requests (i : Instr) (s : State) (g : Group) (blocking : Bool) (pc : DWord) (t : State) (fr : BitVec 16) (z : Ctx) (p : Pend) : Prop :=
  if blocking then Blocks i s { g with block := some p } pc t z
  else ∃ k, g.freeSlot = some k ∧ Does i s (g.setSlot k (some p)) pc t fr z

/-! ## Loads (R232, R234, R240) -/

/-- A load: what it waits for, the sources it needs valid, the entries it writes and frees, its size, how its bytes become words, where
they go, whether a page that is not resident parks it, whether it reads past L1, its acquire and whether it blocks. -/
structure LoadSpec where
  uses : Uses
  srcs : List Src
  ents : BitVec 16
  frees : BitVec 16
  lanes : Ctx → List (Nat × DWord)
  n : Nat
  words : Nat → List Word
  dest : Dest
  park : Bool
  past : Bool
  acq : BitVec 5
  blocking : Bool

/-- The words of a value of n bytes: a byte or half is extended (R232). -/
def extended (n : Nat) (sgn : Bool) (v : Nat) : List Word :=
  if n < 4 then [if sgn && decide (2 ^ (8 * n - 1) ≤ v % 2 ^ (8 * n)) then BitVec.ofInt 32 ((v % 2 ^ (8 * n) : Nat) - 2 ^ (8 * n)) else BitVec.ofNat 32 v]
  else (List.range (n / 4)).map fun i => BitVec.ofNat 32 (v / 2 ^ (32 * i))

/-- The two words of a uniform load. -/
def extended64 (n : Nat) (sgn : Bool) (v : Nat) : List Word :=
  let d : DWord := if sgn && decide (2 ^ (8 * n - 1) ≤ v % 2 ^ (8 * n)) then BitVec.ofInt 64 ((v % 2 ^ (8 * n) : Nat) - 2 ^ (8 * n)) else BitVec.ofNat 64 v
  [d.extractLsb' 0 32, d.extractLsb' 32 32]

def memLoad (x : Mem) (n : Nat) (sgn park past rel : Bool) (acq : BitVec 5) : LoadSpec :=
  let m : MemOp := { addr := ⟨x.a, x.m == 1⟩, data := none, dest := entRange x.d.toNat (max 1 (n / 4)), rel := rel }
  { uses := m.uses, srcs := m.srcs, ents := m.dest, frees := m.frees, lanes := fun c => lanesOf c (addrOf x n c), n := n, words := extended n sgn,
    dest := .entries x.d.toNat (max 1 (n / 4)), park := park, past := past, acq := acq, blocking := false }

def uniLoad (regs : List Nat) (d n : Nat) (sgn past rel : Bool) (acq : BitVec 5) (addr : Ctx → DWord) : LoadSpec :=
  { uses := { sregs := sregBits regs, rel := rel }, srcs := [], ents := 0, frees := 0, lanes := fun c => [(0, addr c)], n := n, words := extended64 n sgn,
    dest := .sreg d, park := false, past := past, acq := acq, blocking := true }

/-- The order acquires: acq, acq_rel and seq_cst (R156). -/
def acquiring (o : Order) : Bool := o.ord == 1 || decide (3 ≤ o.ord.toNat)
/-- The order releases: rel, acq_rel and seq_cst. -/
def releasing (o : Order) : Bool := decide (2 ≤ o.ord.toNat)

/-- Every load. -/
def loadTable : Instr → Option LoadSpec
  | .ld8 x => some (memLoad x 1 false false false false 0)
  | .ld8s x => some (memLoad x 1 true false false false 0)
  | .ld16 x => some (memLoad x 2 false false false false 0)
  | .ld16s x => some (memLoad x 2 true false false false 0)
  | .ld32 x => some (memLoad x 4 false false false false 0)
  | .ld64 x => some (memLoad x 8 false false false false 0)
  | .ld128 x => some (memLoad x 16 false false false false 0)
  | .ldpk x => some (memLoad x (match x.b.toNat % 4 with | 0 => 4 | 1 => 8 | 2 => 16 | _ => 1) false true false false 0)
  | .lda x o => some (memLoad x (orderBytes o) false false (o.mask != 0) (o.ord == 4) (if acquiring o then o.mask else 0))
  | .sld x => some (uniLoad [x.a.toNat, x.b.toNat, x.d.toNat] x.d.toNat (2 ^ (x.mod.toNat % 4)) (x.mod.getLsbD 2) false false 0
      fun c => c.getS x.a.toNat + c.getS x.b.toNat)
  | .slda x o => some (uniLoad [x.a.toNat, x.d.toNat] x.d.toNat (orderBytes o) false (o.mask != 0) (o.ord == 4)
      (if acquiring o then o.mask else 0) fun c => c.getS x.a.toNat)
  | _ => none

/-- A load's request holds the words of each lane, read after its lines and translations are held, or the lane's deferred cause. -/
structure Loaded (u : State) (s : State) (g : Group) (l : LoadSpec) (accs : List LaneAcc) (p : Pend) : Prop where
  values : ∀ a ∈ accs, u.loadCause g.job a l.n = none →
    p.vals.lookup a.lane = some (l.words (leNat (u.loadBytes s.cur g l.past a l.n)))
  causes : p.causes = accs.filterMap fun a => u.loadCause g.job a l.n
  write : p.write = false

/-- What L1 keeps after a load: an acquire with observers and a load past L1 drop lines of global data (R278). -/
structure LinesKept (u t : State) (core : Nat) (l : LoadSpec) : Prop where
  fewer : ∀ ln ∈ (t.core core).l1, ln ∈ (u.core core).l1
  private_ : ∀ ln ∈ (u.core core).l1, ln.priv = true → ln ∈ (t.core core).l1
  acquired : l.acq ≠ 0 → ∀ ln ∈ (t.core core).l1, ln.priv = true

/-- The load completes its instruction. -/
def LoadCompletes (i : Instr) (l : LoadSpec) : Prop :=
  ∀ s g accs, Ready i l.uses s g → g.ctx.latchesOk l.srcs = true → g.ctx.mappedAll l.ents = true →
    let x := g.ctx.begin l.uses
    Reaches s g .read l.park l.n (l.lanes x) accs → s.holdsBack s.cur g accs = false → (l.blocking = false → ∃ k, g.freeSlot = some k) →
    let u := s.touch s.cur g l.past accs
    ∃ t p, Requests i s g l.blocking (nextPc i x) t l.frees x p ∧ Issued i x ((l.lanes x).map fun a => a.1) l.dest p ∧ Loaded u s g l accs p ∧
      LinesKept u t g.core l ∧ t.mem = u.mem ∧ MemKept s t g.core ∧ OnlyCaches s t

/-! ## Stores (R232, R234, R266, R271, R318) -/

/-- A store: what it waits for, its sources, the entries it frees, lanes, size, the value of each lane, and whether a replay region holds
it (R478). -/
structure StoreSpec where
  uses : Uses
  srcs : List Src
  frees : BitVec 16
  lanes : Ctx → List (Nat × DWord)
  n : Nat
  value : Ctx → Nat → Nat
  held : Bool

/-- The value of n bytes that a B field gives a lane, constants in a type (R141, R232). -/
def dataIn (k : Consts) (b : SrcField) (n : Nat) (c : Ctx) (t : Nat) : Nat :=
  if n = 16 then
    let e (i : Nat) : Nat := ((c.entry (selNat b + i)).at t).toNat
    e 0 + 2 ^ 32 * e 1 + 2 ^ 64 * e 2 + 2 ^ 96 * e 3
  else (c.read k (n == 8) b t).toNat % 2 ^ (8 * n)
/-- The value of n bytes that a store's B field gives a lane. -/
def dataOf : SrcField → Nat → Ctx → Nat → Nat := dataIn .int
/-- The type of an atomic's operand: fadd, fmin and fmax take binary32 (R234). -/
def operandType (o : Order) : Consts := if 11 ≤ o.aop.toNat then .f32 else .int

def memStore (x : Mem) (n : Nat) (held rel : Bool) : StoreSpec :=
  let m : MemOp := { addr := ⟨x.a, x.m == 1⟩, data := some (x.b, n), dest := 0, rel := rel }
  { uses := m.uses, srcs := m.srcs, frees := m.frees, lanes := fun c => lanesOf c (addrOf x n c), n := n, value := dataOf x.b n, held := held }

/-- Every global store. -/
def storeTable : Instr → Option StoreSpec
  | .st8 x => some (memStore x 1 true false)
  | .st16 x => some (memStore x 2 true false)
  | .st32 x => some (memStore x 4 true false)
  | .st64 x => some (memStore x 8 true false)
  | .st128 x => some (memStore x 16 true false)
  | .stl x o => some (memStore x (orderBytes o) false (releasing o))
  | .sst x =>
    let n := 2 ^ (x.mod.toNat % 4)
    some ⟨{ sregs := sregBits [x.a.toNat, x.b.toNat, x.d.toNat] }, [], 0, fun c => [(0, c.getS x.a.toNat + c.getS x.b.toNat)], n,
      fun c _ => (c.getS x.d.toNat).toNat % 2 ^ (8 * n), true⟩
  | .sstl x o =>
    some ⟨{ sregs := sregBits [x.a.toNat, x.d.toNat], rel := releasing o }, [], 0, fun c => [(0, c.getS x.a.toNat)], orderBytes o,
      fun c _ => (c.getS x.d.toNat).toNat % 2 ^ (8 * orderBytes o), false⟩
  | _ => none

/-- One step of the store hash (R318). -/
def hashNext (h addr : DWord) (data : Nat) : DWord := h.rotateLeft 7 ^^^ addr ^^^ (BitVec.ofNat 64 data).rotateLeft 29

/-- The hash after a store of n bytes by lanes with their addresses and values. -/
def hashAfter (n : Nat) (h : DWord) (l : List (DWord × Nat)) : DWord :=
  l.foldl (fun h p => if n = 16 then hashNext (hashNext h p.1 (p.2 % 2 ^ 64)) (p.1 + 8) (p.2 / 2 ^ 64) else hashNext h p.1 p.2) h

/-- The context with the store hash stepped. -/
def withHash (c : Ctx) (n : Nat) (lanes : List (Nat × DWord)) (value : Ctx → Nat → Nat) : Ctx :=
  { c with storehash := hashAfter n c.storehash (lanes.map fun p => (p.2, value c p.1)) }

/-- A lane's store reaches memory: no peer refuses it, no rule of R510 denies it and it names no register. -/
def writes (s : State) (g : Group) (a : LaneAcc) : Prop :=
  s.peerRefused g.job a.pa = false ∧ deniedPa a.pa = false ∧ Machine.target s.gddrTop a.pa ≠ .reg

/-- The bytes of the lanes' stores are in memory, those of one of the lanes where several meet at a byte; every other byte of memory is as it
was, but in a line that another secure job's key enciphered and that the stores of a secure job reach (R423). -/
structure BytesStored (s t : State) (job n : Nat) (hits : LaneAcc → Prop) (value : Nat → Nat) (accs : List LaneAcc) : Prop where
  stored : ∀ a ∈ accs, hits a → ∀ i < n, ∃ b ∈ accs, hits b ∧ ∃ j < n, b.pa + j = a.pa + i ∧ byteAt t (a.pa + i) = BitVec.ofNat 8 (value b.lane / 2 ^ (8 * j))
  kept : ∀ pa, (∀ a ∈ accs, hits a → ¬ (a.pa ≤ pa ∧ pa < a.pa + n)) → byteAt t pa = byteAt s pa ∨
    ((s.foreign job pa).isSome ∧ ∃ a ∈ accs, hits a ∧ a.pa / 128 = pa / 128)

/-- Where a peer refuses lanes, the group has one more deferred cause, PERM (R417, R454). -/
def Refusals (s : State) (g g' : Group) (accs : List LaneAcc) : Prop :=
  ∃ ds, g' = { g with deferred := g.deferred ++ ds } ∧ (∀ d ∈ ds, d.1.cause = .perm) ∧
    (ds = [] ↔ ∀ a ∈ accs, s.peerRefused g.job a.pa = false)

/-- What a global store changes outside its group beside memory: caches of its core, registers it names, poison of whole lines, stamps and the
keys of its lines. -/
def OnlyStores (s t : State) : Prop :=
  t = { s with mem := t.mem, keyed := t.keyed, poison := t.poison, cores := t.cores, columns := t.columns, l2tlb := t.l2tlb, free := t.free,
               sys := t.sys, outSeq := t.outSeq, ports := t.ports } ∧ OnlyStamps s t

/-- The store completes its instruction: outside a replay region, or as a store that a region does not hold. -/
def StoreCompletes (i : Instr) (l : StoreSpec) : Prop :=
  ∀ s g accs, Ready i l.uses s g → g.ctx.latchesOk l.srcs = true →
    let x := g.ctx.begin l.uses
    Reaches s g .write false l.n (issuing g (l.lanes x)) accs → s.holdsBack s.cur g accs = false → (l.held && g.inRegion) = false →
    ∃ t g', Does i s g' (nextPc i x) t l.frees (withHash x l.n (l.lanes x) l.value) ∧ Refusals s g g' accs ∧
      BytesStored s t g.job l.n (writes s g) (l.value x) accs ∧ OnlyStores s t

/-- A store inside a replay region is held where the release buffer has room: memory does not change (R477, R478). -/
def StoreHeld (i : Instr) (l : StoreSpec) : Prop :=
  ∀ s g f accs, Ready i l.uses s g → g.ctx.latchesOk l.srcs = true → l.held = true → g.gfx = some f → f.inRegion = true →
    let x := g.ctx.begin l.uses
    Reaches s g .write false l.n (issuing g (l.lanes x)) accs → s.holdsBack s.cur g accs = false → (∀ a ∈ accs, s.peerRefused g.job a.pa = false) →
    let need := (if l.n = 16 then 32 else 16) * accs.length
    f.heldBytes + need ≤ 32768 →
    (s.holders g.core).foldl (fun n h => n + h.2.2) 0 + need ≤ 32768 →
    ∃ t hs, Does i s { g with gfx := some { f with held := f.held ++ hs, heldBytes := f.heldBytes + need } } (nextPc i x) t l.frees
        (withHash x l.n (l.lanes x) l.value) ∧ OnlyTlbs s t ∧ hs.length = accs.length ∧
      ∀ a ∈ accs, Held.store a.pa (leBytes l.n (l.value x a.lane)) false a.va ∈ hs

/-! ## Atomics (R234, R235, R282) -/

/-- An atomic: lanes with address, operand and compare value. -/
structure AtomSpec where
  uses : Uses
  srcs : List Src
  ents : BitVec 16
  frees : BitVec 16
  o : Order
  n : Nat
  lanes : Ctx → List (Nat × DWord × Nat × Nat)
  dest : Dest
  ret : Bool
  blocking : Bool

/-- The compare value of a cas: the entries after the address operand (R235). -/
def compareOf (x : Mem) (n : Nat) (c : Ctx) (t : Nat) : Nat :=
  let e := selNat x.a + (if n = 8 ∨ x.m = 1 then 2 else 1)
  ((c.entry e).at t).toNat + (if n = 8 then 2 ^ 32 * ((c.entry (e + 1)).at t).toNat else 0)

def memAtom (x : Mem) (o : Order) (ret : Bool) : AtomSpec :=
  let n := orderBytes o
  let m := atomOp x o ret
  { uses := m.uses, srcs := m.srcs, ents := m.dest, frees := m.frees, o := o, n := n,
    lanes := fun c => c.lanes.map fun t => (t, addrOf x n c t, dataIn (operandType o) x.b n c t, if o.aop = 10 then compareOf x n c t else 0),
    dest := if ret then .entries x.d.toNat (n / 4) else .none, ret := ret, blocking := false }

def atomTable : Instr → Option AtomSpec
  | .atom x o => some (memAtom x o true)
  | .red x o => some (memAtom x o false)
  | .satom x o =>
    let n := orderBytes o
    some { uses := { sregs := sregBits [x.a.toNat, x.b.toNat, x.d.toNat], rel := releasing o }, srcs := [], ents := 0, frees := 0, o := o, n := n,
           lanes := fun c => [(0, c.getS x.a.toNat, (c.getS x.b.toNat).toNat % 2 ^ (8 * n), (c.getS x.d.toNat).toNat % 2 ^ (8 * n))],
           dest := .sreg x.d.toNat, ret := true, blocking := true }
  | _ => none

/-- The request that a lane's atomic sends to its unit. -/
def atomRequest (s : State) (g : Group) (l : AtomSpec) (k : Nat) (a : LaneAcc) (op1 cmp : Nat) : AtomReq :=
  { grp := some s.cur, slot := k, lane := a.lane, job := g.job, core := g.core, rslot := 32 * g.part + g.rslot, logged := g.kind != .combiner,
    va := a.va, pa := a.pa, edge := s.atomSite l.o.mask a.pa a.cacheable, op := l.o.aop.toNat, bytes := l.n, op1 := op1, cmp := cmp,
    reassoc := l.o.reassoc, stamp := (s.core g.core).stamp }

/-- The requests of the lanes that issue, in ascending lane order. -/
def atomRequests (s : State) (g : Group) (l : AtomSpec) (k : Nat) (accs : List LaneAcc) (lanes : List (Nat × DWord × Nat × Nat)) : List AtomReq :=
  (accs.zip lanes).map fun q => atomRequest s g l k q.1 q.2.2.2.1 q.2.2.2.2

/-- The atomic completes its instruction: the request of every lane that issues is on its way to its unit, and the others have the replies
that their frame saved (R461). -/
def AtomCompletes (i : Instr) (l : AtomSpec) : Prop :=
  ∀ s g accs, Ready i l.uses s g → g.ctx.latchesOk l.srcs = true → g.ctx.mappedAll l.ents = true →
    let x := g.ctx.begin l.uses
    let lanes := issuing g (l.lanes x)
    Reaches s g .write false l.n (lanes.map fun p => (p.1, p.2.1)) accs →
    (∀ a ∈ accs, s.hostLacks l.o.aop.toNat l.n a.pa a.cacheable = false) → s.holdsAtom s.cur g l.o.mask accs = false →
    (l.ret = true → l.blocking = false → ∃ k, g.freeSlot = some k) →
    ∃ t p, OnlyTlbs s t ∧ Issued i x ((l.lanes x).map fun p => p.1) l.dest p ∧ p.causes = [] ∧ p.write = true ∧
      (∀ q ∈ l.lanes x, p.vals.lookup q.1 = if g.doneLanes.getLsbD q.1 then some (extended l.n false (g.savedReply q.1)) else none) ∧
      (p.acq = if acquiring l.o = true ∧ (l.ret = true ∨ l.o.ord = 4) then some l.o.mask else none) ∧
      (let sent (k : Nat) : State := { t with atomics := s.atomics ++ atomRequests s g l k accs lanes }
       if l.ret = false then
         Does i s { g with posts := if accs.isEmpty then g.posts else g.posts ++ [(g.postSeq, p)], postSeq := g.postSeq + 1 } (nextPc i x)
           (sent (33 + g.postSeq)) l.frees x
       else if l.blocking = true then Blocks i s { g with block := some p } (nextPc i x) (sent 32) x
       else ∃ k, g.freeSlot = some k ∧ Does i s (g.setSlot k (some p)) (nextPc i x) (sent k) l.frees x)

end Sys2Proof.Spec
end

