-- ==== Sys2Proof/Safety/Access.lean ====
section
/-! DEFINITION. What the statements say of method requests, scratchpad and private accesses, prefetch and fences, and of the units that
perform atomics and method requests (R235 to R242, R269, R276 to R286, R297 to R307, R495, R496). -/

namespace Sys2Proof.Spec

open Machine

/-! ## Method requests (R236, R297, R298) -/

/-- The request of a lane for its object's home. -/
def methodRequest (s : State) (g : Group) (o : Order) (k : Nat) (post pair : Bool) (a : LaneAcc) (arg : DWord) : MethodReq :=
  { job := g.job, base := a.va, method := o.method.toNat, bytes := orderBytes o, arg := arg
    ident := BitVec.ofNat 32 ((if post then 2 ^ 21 else 0) + 2 ^ 15 * (g.core % 64) + 2 ^ 8 * ((32 * g.part + g.rslot) % 128) + a.lane % 256)
    post := post, pair := pair, src := .lane s.cur k a.lane, pa := a.pa, order := 0, stamp := (s.core g.core).stamp, core := g.core
    rslot := 32 * g.part + g.rslot, logged := g.kind != .combiner }

/-- A lane's request goes to another device (R419). -/
def toPeer (s : State) (a : LaneAcc) : Prop := ∃ d, Machine.target s.gddrTop a.pa = .peer d

/-- What CALLM and POSTM wait for, read, write and free. -/
def methodOp (x : Mem) (o : Order) (post : Bool) : MemOp :=
  if post then { addr := ⟨x.a, x.m == 1⟩, data := some (x.b, orderBytes o), dest := 0, rel := releasing o }
  else { addr := ⟨x.a, x.m == 1⟩, data := some (x.b, orderBytes o), dest := entRange x.d.toNat 1
         other := if x.d.toNat % 2 = 0 then entRange x.d.toNat 2 else 0, rel := releasing o }

/-- CALLM or POSTM completes with the requests of the lanes that issue on their way to the homes; the others have the replies that their
frame saved (R461). -/
def MethodCompletes (i : Instr) (x : Mem) (o : Order) (post : Bool) : Prop :=
  let m := methodOp x o post
  ∀ s g accs, Ready i m.uses s g → g.ctx.latchesOk m.srcs = true → g.ctx.mappedAll m.dest = true →
    let c := g.ctx.begin m.uses
    Reaches s g .write false 1 (issuing g (lanesOf c (addrOf x (orderBytes o) c))) accs → (∀ a ∈ accs, s.objectMem a = true ∧ ¬ toPeer s a) →
    s.holdsMethod s.cur g accs = false → (post = false → ∃ k, g.freeSlot = some k) →
    let pair := !post && decide (x.d.toNat % 2 = 0) && (c.entry (x.d.toNat + 1)).map.isSome
    let arg (t : Nat) : DWord := BitVec.ofNat 64 (dataOf x.b (orderBytes o) c t)
    ∃ t p, OnlyTlbs s t ∧ Issued i c c.lanes (if post then .none else .entries x.d.toNat (if pair then 2 else 1)) p ∧
      p.causes = [] ∧ p.write = true ∧ p.acq = (if post = false ∧ acquiring o = true then some o.mask else none) ∧
      (∀ n ∈ c.lanes, p.vals.lookup n =
        if g.doneLanes.getLsbD n then some (if post then [] else extended 8 false (g.savedReply n)) else none) ∧
      (let sent (k : Nat) : State := { t with methods := s.methods ++ accs.map fun a => methodRequest s g o k post pair a (arg a.lane) }
       if post then
         Does i s { g with posts := if accs.isEmpty then g.posts else g.posts ++ [(g.postSeq, p)], postSeq := g.postSeq + 1 } (nextPc i c)
           (sent (33 + g.postSeq)) m.frees c
       else ∃ k, g.freeSlot = some k ∧ Does i s (g.setSlot k (some p)) (nextPc i c) (sent k) m.frees c)

/-! ## Scratchpad (R25, R237) -/

/-- The offset of a lane's scratchpad or private access. -/
def offsetOf (x : Mem) (c : Ctx) (t : Nat) : DWord := (opnd .int c x.a t).setWidth 64 + (x.disp.getD 0).signExtend 64

/-- Bytes of a scratchpad or private access (R155). -/
def padBytes (x : Mem) : Nat := match x.g.toNat % 4 with | 0 => 4 | 1 => 8 | 2 => 16 | _ => 1

/-- The team's scratchpad: its first byte in the core's array and its size. -/
structure Scratch (s : State) (g : Group) (base size : Nat) : Prop where
  team : ∃ tm, s.teams[g.team]? = some tm ∧ base = 65536 * tm.scrBase ∧ size = 65536 * tm.scrLen

/-- Every offset of these lanes is aligned and inside the scratchpad. -/
def InPad (c : Ctx) (x : Mem) (n size : Nat) (lanes : List Nat) : Prop :=
  ∀ t ∈ lanes, (offsetOf x c t).toNat % n = 0 ∧ (offsetOf x c t).toNat + n ≤ size

/-- A byte of a core's array, of defined contents or not (R227). -/
def padByte (s : State) (core a : Nat) : BitVec 8 := (s.core core).arrayByte core a

/-- The machine after one core's record changes. -/
def OnlyCore (s t : State) (core : Nat) : Prop :=
  t = { s with cores := t.cores, free := t.free } ∧ (∀ c, coreIx c ≠ coreIx core → t.core c = s.core c) ∧
    t.core core = { s.core core with array := (t.core core).array }

/-- What LDS, STS and ATOMS wait for, read, write and free. -/
def padOp (x : Mem) (data : Bool) (dest other : BitVec 16) (rel : Bool) : MemOp :=
  { addr := ⟨x.a, false⟩, data := if data then some (x.b, padBytes x) else none, dest := dest, other := other, rel := rel }

/-- The bytes of a number, of which byte j lies at offset j. -/
def putBytes (m : Nat → BitVec 8) (a n v : Nat) : Nat → BitVec 8 := fun k => if a ≤ k ∧ k < a + n then BitVec.ofNat 8 (v / 2 ^ (8 * (k - a))) else m k

/-- The number that n bytes hold. -/
def bytesNat (m : Nat → BitVec 8) (a n : Nat) : Nat := leNat ((List.range n).map fun i => m (a + i))

/-! ## Private memory (R238) -/

/-- The virtual address of byte a of a thread's private memory. -/
def privateVa (base : DWord) (a t : Nat) : DWord := base + BitVec.ofNat 64 (a / 4 * 1024 + t * 4 + a % 4)

/-- The pieces of a lane's private access: where each lies, its bytes and its place in the value. -/
def piecesOf (base : DWord) (n : Nat) (t : Nat) (off : DWord) : List (DWord × Nat × Nat) :=
  if n < 4 then [(privateVa base off.toNat t, n, 0)] else (List.range (n / 4)).map fun i => (privateVa base (off.toNat + 4 * i) t, 4, 4 * i)

/-- The private access of each of these lanes is aligned, under PRIVLIMIT, and each of its pieces reaches a physical address. -/
structure PrivateReach (s : State) (g : Group) (c : Ctx) (x : Mem) (n : Nat) (a : Access) (base : DWord) (lanes : List Nat)
    (l : List (LaneAcc × Nat × Nat)) : Prop where
  area : g.area = some base
  inside : ∀ t ∈ lanes, (offsetOf x c t).toNat % n = 0 ∧ (offsetOf x c t).toNat + n ≤ g.privLimit
  pieces : l.map (fun q => (q.1.lane, q.1.va, q.2.1, q.2.2)) = ((lanes.map fun t => (piecesOf base n t (offsetOf x c t)).map fun q => (t, q)).flatten)
  mapped : ∀ q ∈ l, s.xlate g.core g.job q.1.va a false = .ok q.1.pa q.1.cacheable

/-- A byte as a core reads private data of a job: its L1 line where it holds one, else memory (R266). -/
def coreByte (s : State) (core job : Nat) (cacheable : Bool) (pa : Nat) : BitVec 8 := s.readByte core job cacheable pa

/-! ## Atomic operations (R234) -/

/-- A number of n bytes, read as signed. -/
def signedOf (n v : Nat) : Int := signed (8 * n) v

/-- The new value that an atomic writes, if any. -/
def atomResult (op n old op1 cmp : Nat) : Option Nat :=
  match op with
  | 0 => some ((old + op1) % 2 ^ (8 * n))
  | 1 => some (((old : Int) - op1) % 2 ^ (8 * n)).toNat
  | 2 => some (if signedOf n op1 < signedOf n old then op1 else old)
  | 3 => some (if signedOf n old < signedOf n op1 then op1 else old)
  | 4 => some (min op1 old)
  | 5 => some (max old op1)
  | 6 => some (old &&& op1)
  | 7 => some (old ||| op1)
  | 8 => some (old ^^^ op1)
  | 9 => some op1
  | 10 => if old = cmp then some op1 else none
  | 11 => some (fadd .b32 .plain old op1).bits
  | 12 => some (fminmax .b32 true false old op1).bits
  | _ => some (fminmax .b32 false false old op1).bits

/-- Lanes applied to a scratchpad in order: the bytes after them and each lane's old value (R235, R237). -/
def padRun (op n base : Nat) : List (Nat × Nat × Nat × Nat) → (Nat → BitVec 8) → (Nat → BitVec 8) × List (Nat × Nat)
  | [], m => (m, [])
  | (t, a, v, cmp) :: l, m =>
    let old := bytesNat m (base + a) n
    let m' := match atomResult op n old v cmp with | some new => putBytes m (base + a) n new | none => m
    let r := padRun op n base l m'
    (r.1, (t, old) :: r.2)

/-- Memory with the bytes of a number. -/
def MemWith (s t : State) (pa n : Nat) (v : Option Nat) : Prop :=
  ∀ a, byteAt t a = match v with
    | some x => if pa ≤ a ∧ a < pa + n then BitVec.ofNat 8 (x / 2 ^ (8 * (a - pa))) else byteAt s a
    | none => byteAt s a

/-- A lane of a group's request has its answer: words, or a cause (R149, R454). -/
def Answered (s t : State) (gi slot lane : Nat) (r : Except (Cause × DWord) (List Word)) : Prop :=
  ∀ h p, s.groups[gi]? = some h → h.pend slot = some p → slot ≤ 32 →
    ∃ h', t.groups[gi]? = some h' ∧ h'.pend slot = some (match r with
      | .ok v => if p.vals.any fun x => x.1 == lane && x.2 != [] then p else { p with vals := (p.vals.filter fun x => x.1 != lane) ++ [(lane, v)] }
      | .error e => { p with causes := p.causes ++ [(lane, e)] })

/-- An atomic can be performed at its unit: it reaches no peer, is not denied, and finds no poisoned line and none under another job's key. -/
def Performs (s : State) (r : AtomReq) : Prop :=
  s.peerOf r.pa = none ∧ deniedPa r.pa = false ∧ s.poisoned r.pa r.bytes = false ∧ s.recordLog r.job = none ∧
    ∀ pa, r.pa / 128 = pa / 128 → s.foreign r.job pa = none

/-- The atomic r has been performed (R234, R282). -/
structure AtomDone (s t : State) (r : AtomReq) : Prop where
  left : t.atomics = s.atomics.eraseP (· == r)
  memory : MemWith s t r.pa r.bytes (atomResult r.op r.bytes (leNat ((List.range r.bytes).map fun i => byteAt s (r.pa + i))) r.op1 r.cmp)
  answer : ∀ gi, r.grp = some gi → Answered s t gi r.slot r.lane (.ok (wordsOf r.bytes (leNat ((List.range r.bytes).map fun i => byteAt s (r.pa + i)))))
  groups : t.groups.length = s.groups.length ∧ t.teams = s.teams ∧ t.methods = s.methods ∧ t.objects = s.objects

/-- A home may perform an atomic now: it holds its column, no remap stalls its slice, no combiner holds its line (R37, R38, R306). -/
structure HomeReady (s : State) (col : Nat) (r : AtomReq) : Prop where
  home : r.edge = none ∧ s.homeCol r.pa = col ∧ (s.column col).on = true ∧ s.isStalled r.pa = false
  unlocked : s.locked r.pa = false
  gate : r.logged = true → s.gateOpen r.job col r.pa r.core r.rslot = true

/-! ## Homes (R299 to R304) -/

/-- A method request is the one that a home column takes next: it can take it, and none of its source to its object stands before it (R299). -/
def FirstFor (s : State) (col : Nat) (r : MethodReq) : Prop := s.nextRequest col = some r

/-- A combiner group that starts for an object's batch (R304). -/
structure CombinerStart (o : ObjState) (r : MethodReq) (batch : List MethodReq) (col : Nat) (g : Group) : Prop where
  kind : g.kind = .combiner ∧ g.core = col ∧ g.status = .running ∧ g.hasSlot = true ∧ g.job = o.job
  pc : g.ctx.pc = o.methods.getD r.method 0
  active : ∀ t < 256, g.ctx.active.getLsbD t = decide (t < batch.length)
  args : g.ctx.getS 0 = o.base ∧ g.ctx.getS 1 = BitVec.ofNat 64 batch.length ∧ g.ctx.getS 2 = BitVec.ofNat 64 r.method ∧
    g.ctx.getS 3 = BitVec.ofNat 64 r.bytes ∧ g.ctx.getS 4 = BitVec.ofNat 64 (2 ^ o.z)
  slots : ∀ k < 4, g.ctx.slots[Fin.ofNat 8 k] = ⟨true, g.ctx.getS k⟩
  lanes : ∀ t, t < 256 → ∀ q, batch[t]? = some q → (g.ctx.entry 0).at t = q.arg.extractLsb' 0 32 ∧
    (g.ctx.entry 1).at t = (if q.bytes = 8 then q.arg.extractLsb' 32 32 else 0) ∧ (g.ctx.entry 2).at t = q.ident
  entries : ∀ e < 16, (g.ctx.entry e).map = some (BitVec.ofNat 8 e) ∧ (g.ctx.entry e).st = if e < 3 then .clean else .free

/-- The requests that a batch takes: those at the head with one method and size, at most 256 (R302). -/
structure BatchOf (pending batch rest : List MethodReq) (r : MethodReq) : Prop where
  split : pending = batch ++ rest ∧ batch.head? = some r
  same : ∀ q ∈ batch, q.method = r.method ∧ q.bytes = r.bytes
  full : batch.length = 256 ∨ ∀ q, rest.head? = some q → q.method ≠ r.method ∨ q.bytes ≠ r.bytes
  few : batch.length ≤ 256

end Sys2Proof.Spec
end

