-- ==== Sys2Proof/Safety/Engines.lean ====
section
/-! DEFINITION. What the statements say of stream queues, tiles and Whorl units (R243 to R249, R320 to R348, R498 to R505). -/

namespace Sys2Proof.Spec

open Machine

/-! ## Stream queues (R243 to R249) -/

/-- A stream queue of a core. -/
def queueOf (s : State) (core q : Nat) : List SqEntry := (s.core core).sq[Fin.ofNat 2 q]

/-- What an instruction of the stream queues waits for: n s registers from k. -/
def streamUses (k n : Nat) : Uses := { sregs := sregBits ((List.range n).map (k + ·)), eng := true }

/-- An entry stands at the end of a queue, and nothing else of the core has changed but the queues. -/
structure Queued (s t : State) (core q : Nat) (e : SqEntry) : Prop where
  tail : queueOf t core q = queueOf s core q ++ [e]
  other : queueOf t core (1 - q) = queueOf s core (1 - q)
  frame : t = { s with cores := t.cores, free := s.free + 1 } ∧ (∀ c, coreIx c ≠ coreIx core → t.core c = s.core c) ∧ t.core core = { s.core core with sq := (t.core core).sq }

/-- An entry as its instruction made it. -/
structure EntryOf (s : State) (g : Group) (x : Ctx) (kind : SqKind) (record : DWord) (nb : Nat) (args : List DWord) (e : SqEntry) : Prop where
  kind : e.kind = kind
  from_ : e.team = g.team ∧ e.grp = s.cur ∧ e.job = g.job ∧ e.pc = x.pc
  record : e.record = record
  barrier : e.nb = nb
  args : e.args = args
  new : e.box = 0 ∧ e.err = false

/-- The n s registers from k. -/
def regsFrom (x : Ctx) (k n : Nat) : List DWord := (List.range n).map fun i => x.getS (k + i)

/-- The descriptor slot that an ASY field names (R159). -/
def slotAt (x : Ctx) (f : SrcField) : DWord := x.slot (selNat f - 20)

/-- An engine ends the entry at the head of its queue: it leaves, and its barrier has one more arrival (R222, R246). -/
structure EntryEnds (s t : State) (core q : Nat) (e : SqEntry) : Prop where
  left : (queueOf t core q).map (fun x => x.record) = ((queueOf s core q).drop 1).map (fun x => x.record)
  length : (queueOf t core q).length = (queueOf s core q).length - 1
  arrives : ∀ tm, s.teams[e.team]? = some tm →
    ∃ tm', t.teams[e.team]? = some tm' ∧ tm'.bars[Fin.ofNat 16 e.nb] = arrived tm.bars[Fin.ofNat 16 e.nb]

/-! ## Tiles (R320 to R340) -/

/-- An element of a tile. -/
def tileAt (s : State) (core tile row col : Nat) : Word := (s.core core).tileElem core tile (128 * row + col)

/-- An operation at the end of a tile's queue. -/
def withOp (s : State) (core tile : Nat) (o : TileOp) : State :=
  { s with free := s.free + 1 }.setCore core { s.core core with
    tileQ := (s.core core).tileQ.set (Fin.ofNat 16 tile) ((s.core core).tileQ[Fin.ofNat 16 tile] ++ [{ o with issued := s.free }]) }

/-- The operation that an instruction of a group enters. -/
def opOf (s : State) (g : Group) (k : TileKind) : TileOp := ⟨k, s.cur, g.team, g.job, g.batch.seq, none, 0⟩

/-- The group with n more operations in its open batch (R332). -/
def batched (g : Group) (n : Nat) : Group := { g with batch := { g.batch with left := g.batch.left + n } }

/-- The team's tile accN. -/
structure TileOf (s : State) (g : Group) (n tile : Nat) : Prop where
  team : ∃ tm, s.teams[g.team]? = some tm ∧ n < tm.accLen ∧ tile = tm.accBase + n

/-- MDRAIN, MFILL or MZERO enters its operation; the group stalls where operations stand ahead of it, or until its own retires (R329). -/
def Enters (i : Instr) (s : State) (g : Group) (tile : Nat) (k : TileKind) (own : Bool) : Prop :=
  ∃ h, exec i s = .next ((withOp s g.core tile (opOf s g k)).setGroup s.cur h) ∧
    h = { batched g 1 with
      ctx := h.ctx, icount := h.icount, retry := none, absent := none
      status := if own = true ∨ (s.core g.core).tileQ[Fin.ofNat 16 tile] ≠ [] then .tileWait own s.free (spOf i) else stopAt i s g } ∧
    h.ctx.pc = nextPc i (found g) ∧ Plain 0 (found g) h.ctx ∧
    h.ctx = { found g with pc := h.ctx.pc, entries := h.ctx.entries, latches := h.ctx.latches, pendFree := h.ctx.pendFree, run := h.ctx.run }

/-- The first operation of a tile's queue has retired: it leaves, and its batch has one operation less (R328, R332). -/
structure Retired (s t : State) (core tile : Nat) (o : TileOp) : Prop where
  left : (t.core core).tileQ[Fin.ofNat 16 tile] = ((s.core core).tileQ[Fin.ofNat 16 tile]).drop 1
  batch : ∀ g, s.groups[o.grp]? = some g → g.batch.seq = o.batch →
    ∃ h, t.groups[o.grp]? = some h ∧ h.batch.left = g.batch.left - 1 ∧ h.batch.seq = g.batch.seq

/-- Every other tile of the core, and every other core, keeps its elements. -/
def OtherTiles (s t : State) (core tile : Nat) : Prop :=
  (∀ u < 16, u ≠ tile → ∀ r < 128, ∀ c < 128, tileAt t core u r c = tileAt s core u r c) ∧ ∀ d, coreIx d ≠ coreIx core → t.core d = s.core d

/-- The operation can retire now (R328, R335, R498). -/
structure Front (s : State) (core tile : Nat) (o : TileOp) : Prop where
  head : ((s.core core).tileQ[Fin.ofNat 16 tile]).head? = some o
  goes : o.stalled = none ∧ s.slaved core o = false

/-- Tile row and column of element e of thread t in a band (R338). -/
def rowOf (band t : Nat) : Nat := 16 * band + t / 16
def colOf (t e : Nat) : Nat := 8 * (t % 16) + e

/-- An element of an MMA's result: from the old element, each chunk of 32 products summed exactly, rounded once and added (R127, R334). -/
def mmaElem (ka kb k : Nat) (old : Nat) (row : Nat → Nat) (col : Nat → List Nat) : Word :=
  BitVec.ofNat 32 (chunkChain (kindFmt ka) (kindFmt kb) row col 0 (k / 32) old)

/-- The element of A in a column, from the rows of its panels in scratchpad (R323). -/
def aElem (s : State) (core base a ka : Nat) (i c : Nat) : Nat :=
  let e := panelElems ka
  (s.core core).panelRow core base (a + 16384 * (c / e) + 128 * i) / 2 ^ ((kindFmt ka).width * (c % e)) % 2 ^ (kindFmt ka).width

/-! ## Whorl units (R341 to R348) -/

/-- What a NEVAL carries for a lane: binary16 inputs from its window, two in each main register (R342). -/
def whorlInputs (x : Ctx) (base n t : Nat) : List Nat :=
  (List.range n).map fun e => (mainAt x (base + e / 2) t).toNat / 65536 ^ (e % 2) % 65536

/-- The words of binary16 outputs, two to a word, the last filled with 0. -/
def packedWords (y : List Nat) : List Word :=
  (List.range ((y.length + 1) / 2)).map fun i => BitVec.ofNat 32 (y.getD (2 * i) 0 + 65536 * y.getD (2 * i + 1) 0)

/-- What NEVAL waits for: the registers of its two windows, and the entries that map them. -/
def nevalUses (k : Word) (s : State) : Uses := { main := s.evalWindows (fld k 1 0) (fld k 3 2) (fld k 9 4 + 1) (fld k 15 10 + 1) }

/-- The Whorl unit of a pair. -/
def whorlOf (s : State) (pair : Nat) : Whorl := s.whorls[Fin.ofNat 32 pair]

/-- The machine with the Whorl unit of a pair. -/
def withWhorl (s : State) (pair : Nat) (w : Whorl) : State := { s with whorls := s.whorls.set (Fin.ofNat 32 pair) w }

/-- The layer operations of a new tile at the ends of the queues of tiles 14 and 15, in both arrays of the pair (R328, R346). -/
def layered (s : State) (pair : Nat) : State :=
  withOp (withOp (withOp (withOp s (2 * pair) 14 layerOp) (2 * pair) 15 layerOp) (2 * pair + 1) 14 layerOp) (2 * pair + 1) 15 layerOp

end Sys2Proof.Spec
end

