-- ==== Sys2Proof/Safety/Graphics.lean ====
section
/-! DEFINITION. What the statements say of textures, rays, fragment lists, ordered sections and the units of a render pass (R361 to R403,
R477, R478). -/

namespace Sys2Proof.Spec

open Machine

/-- The group and the machine as the own work of an ASY instruction finds them (R143). -/
def asFound (g : Group) : Group := { g with ctx := found g }
def opened (s : State) (g : Group) : State := s.setGroup s.cur (asFound g)

/-- The n entries from a field, freed under last use (R159). -/
def usedUp (f : SrcField) (n : Nat) : BitVec 16 := if lastUse f then entRange (selNat f) n else 0

/-- The words of the n entries from e in a lane, as numbers. -/
def wordsFrom (x : Ctx) (e n t : Nat) : List Nat := (List.range n).map fun j => ((x.entry (e + j)).at t).toNat

/-! ## Textures (R370 to R376) -/

/-- The probes of a lane of TEX: coordinates from A, then an explicit LOD or derivatives, else derivatives of its quad (R373, R374). -/
def probesOf (c : Ctx) (x : Asy) (k : Word) (t : TexDesc) (sm : Sampler) (n : Nat) : List Probe :=
  let (e, nc) := (selNat x.a, texCoords k)
  let at_ (j m : Nat) : Nat := ((c.entry (e + j)).at m).toNat
  let all (f : Nat → Nat) : List Nat := (List.range nc).map f
  let diff (o j : Nat) : Nat := subF .b32 (at_ j (n / 4 * 4 + o)) (at_ j (n / 4 * 4))
  match fld k 3 2 with
  | 1 => texProbes t sm (all fun j => at_ j n) (some (at_ nc n)) [] []
  | 2 => texProbes t sm (all fun j => at_ j n) none (all fun j => at_ (nc + j) n) (all fun j => at_ (2 * nc + j) n)
  | _ => texProbes t sm (all fun j => at_ j n) none (all (diff 1)) (all (diff 2))

def texelsOf (ps : List Probe) : List Texel := ps.flatMap fun p => p.flatMap fun b => b.1.texels

/-- The channels of a texel, from the bytes that the access to it reads. -/
def texelOf (w : State) (gi : Nat) (g : Group) (t : TexDesc) (l : List LaneAcc) (p : Texel) : List Nat :=
  match l.find? fun a => a.va == t.addr p with
  | some a => texelChannels t p (leNat (w.loadBytes gi g false a (texBytes t.fmt)))
  | none => []

/-- The accesses to each lane's texels reach memory and none waits. -/
structure TexelsReach (s : State) (gi : Nat) (g : Group) (t : TexDesc) (texels : Nat → List Texel) (l : List LaneAcc) : Prop where
  reach : Reaches s g .read true (texBytes t.fmt) (g.ctx.lanes.flatMap fun n => (texels n).map fun p => (n, t.addr p)) l
  free : s.holdsBack gi g l = false

/-- A texture request holds each lane's result, or its deferred causes. -/
structure TexResults (w : State) (gi : Nat) (g : Group) (t : TexDesc) (l : List LaneAcc) (out : Nat → (Texel → List Nat) → List Word)
    (p : Pend) : Prop where
  causes : p.causes = l.filterMap fun a => w.loadCause g.job a (texBytes t.fmt)
  values : ∀ n ∈ g.ctx.lanes, (∀ c ∈ p.causes, c.1 ≠ n) → p.vals.lookup n = some (out n (texelOf w gi g t l))

/-- The descriptor at the slot of B can be read and is t; `s'` is the machine after its read. -/
def DescAt (i : Instr) (x : Asy) (s : State) (g : Group) (s' : State) (t : TexDesc) : Prop :=
  (slotAt (found g) x.b).toNat % 64 = 0 ∧ ∃ v, readRecord i (opened s g) s.cur (asFound g) (slotAt (found g) x.b) 64 = .ok s' v ∧ texDesc v = some t

/-- What a TEXQ answers in a lane with value l of A (R376). -/
def queryWords (s : State) (g : Group) (t : TexDesc) (what l : Nat) : List Nat :=
  match what with
  | 0 => if l < t.levels then [levelSize t.w l, levelSize t.h l, levelSize t.d l] else [0, 0, 0]
  | 1 => [t.levels]
  | _ => [if l < t.levels ∧ s.levelResident g t l = true then 1 else 0]

/-! ## Rays (R397 to R401) -/

/-- A lane's traversal, the nodes and leaves it reads among what it meets. -/
def rayOfLane (s : State) (g : Group) (x : Asy) (n : Nat) : List Met :=
  traverse (opened s g) s.cur (asFound g) (slotAt (found g) x.b) (wordsFrom (found g) (selNat x.a) 8 n)

/-- What a lane's ray meets beside the nodes and leaves it reads, in the order of its traversal. -/
def metBy (s : State) (g : Group) (x : Asy) (n : Nat) : List Met := outcomes (rayOfLane s g x n)

/-- The machine after the reads of a TRACE's lanes. -/
def rayReads (s : State) (g : Group) (x : Asy) (any : Bool) : State :=
  (opened s g).traced (asFound g) ((found g).lanes.flatMap fun n => readsOf any (rayOfLane s g x n))

/-- The work of TRACE APPEND: each lane with its nearest 64 hits as fragments, and whether more were accepted (R401). -/
def appended (s : State) (g : Group) (x : Asy) (b : PassBlock) : List (Nat × List ListFrag × Bool) :=
  let (e, c) := (selNat x.a, found g)
  c.lanes.map fun n =>
    let hs := sortHits (hitsOf (metBy s g x n))
    (n, (hs.take 64).map (fun h => { key := c.keyAt (e + 8) n, depth := BitVec.ofNat 32 (appendDepth b.rayScale b.rayBias h.t),
                                     colour := h.colour, seq := ((c.entry (e + 10)).at n).toNat }), decide (64 < hs.length))

/-! ## Fragment lists (R388 to R396, R403) -/

/-- The group's open pass. -/
structure PassAt (s : State) (g : Group) (ps : Nat) (p : Pass) : Prop where
  ix : (opened s g).passIx (asFound g) = some ps
  is_ : s.passes[ps]? = some p

/-- The fragments of a FLINS, by lane. -/
def fragsOf (c : Ctx) (x : Asy) : List (Nat × ListFrag) :=
  let e := selNat x.a
  c.lanes.map fun n => (n, { key := c.keyAt e n, depth := (c.entry (e + 2)).at n, colour := (c.entry (e + 5)).at n ++ (c.entry (e + 4)).at n,
                             seq := ((c.entry (e + 3)).at n).toNat })

/-- The predicates after FLINS: each active thread's success in the destination (R395). -/
def FragPreds (x : Asy) (oks : List Nat) (c z : Ctx) : Prop :=
  z = { c with preds := z.preds } ∧ ∀ p < 8, ∀ n < 256, (z.preds[Fin.ofNat 8 p]).getLsbD n =
    if c.active.getLsbD n = true ∧ x.d.toNat % 8 = p then decide (n ∈ oks) else (c.preds[Fin.ofNat 8 p]).getLsbD n

/-- What FLRES answers: the node that many steps from the head, with the next position, its merge count and the bit that says it exists. -/
def nodeWords (l : List Node4) (pos : Nat) : List Word :=
  match l[pos]? with
  | some n => [BitVec.ofNat 32 n.depth, BitVec.ofNat 64 n.colour |>.extractLsb' 0 32, BitVec.ofNat 64 n.colour |>.extractLsb' 32 32,
      BitVec.ofNat 32 n.seq, BitVec.ofNat 32 ((pos + 1) % 256 + 256 * n.merges + 65536)]
  | none => [0, 0, 0, 0, BitVec.ofNat 32 pos]

/-! ## Replay regions (R477, R478) -/

/-- The release buffer has room for more bytes of a group. -/
structure HasRoom (s : State) (g : Group) (f : Gfx) (need : Nat) : Prop where
  inside : g.gfx = some f ∧ f.inRegion = true
  own : f.heldBytes + need ≤ 32768
  all : (s.holders g.core).foldl (fun n h => n + h.2.2) 0 + need ≤ 32768

/-- The group with one more effect held. -/
def holding (g : Group) (f : Gfx) (need : Nat) (h : Held) : Group := { g with gfx := some { f with held := f.held ++ [h], heldBytes := f.heldBytes + need } }

/-- The held effects of the group are performed without a failure, which leaves the machine t and the group's record h (R477). -/
structure Committed (s t : State) (g h : Group) : Prop where
  free : (opened s g).commitWaits s.cur = false
  does_ : commitHeld (opened s g) s.cur = (t, none)
  group : t.groups[s.cur]? = some h
  goes : h.status = .running ∧ h.again = none ∧ h.rebuild = none ∧ h.ctx.pendFree = 0 ∧ h.kind = g.kind ∧ h.team = g.team
  teams : t.teams = s.teams ∧ t.cur = s.cur

/-- The snapshot that IDEM start takes. -/
def snapped (i : Instr) (g : Group) (h : Group) (y : Gfx) : Group :=
  { h with gfx := some { y with inRegion := true, snap := { (h.ctx.applyFrees.writeBack).clearLatches with pc := nextPc i (found g) }
                                snapKeys := (y.entered, y.released), snapGvtx := y.gvtxDone } }

/-! ## Ordered sections (R380 to R384) -/

/-- Each active lane names its own fragment, and its turn has come. -/
structure OrderReady (s : State) (g : Group) (x : Asy) (gx : Gfx) (p : Pass) : Prop where
  gfx : g.gfx = some gx ∧ g.kind = .sample ∧ s.passes[gx.pass]? = some p
  keys : ∀ n ∈ (found g).lanes, ∃ q, gx.fragOf n = some ((found g).keyAt (selNat x.a) n, q) ∧ turnOf p gx.tile ((found g).keyAt (selNat x.a) n) q = true
  new : ∀ n ∈ (found g).lanes, gx.entered.getLsbD n = false ∧ gx.released.getLsbD n = false

/-- The lanes that an ORDLV releases: active, not released and not leaving. -/
def leavers (g : Group) (gx : Gfx) : LaneMask := (found g).active &&& ~~~gx.released &&& ~~~gx.leaving

/-- The pass without the reservations of lanes of a group. -/
def unreserved (p : Pass) (gx : Gfx) (m : LaneMask) : Pass :=
  { p with reserved := p.reserved.filter fun r => !((gx.keys.filter fun k => m.getLsbD k.1 && !gx.released.getLsbD k.1).any fun k => r.2 == k.2) }

/-! ## The units of a pass -/

/-- The only pass that is open. -/
structure OnlyPass (s : State) (ps : Nat) (p : Pass) : Prop where
  here : s.passes[ps]? = some p ∧ p.live = true
  alone : ∀ k q, s.passes[k]? = some q → q.live = true → k = ps

/-- A graphics group at its start (R40, R364, R369, R477). -/
structure GfxStart (ps : Nat) (p : Pass) (k : Kernel) (kind : GKind) (team n tile : Nat) (seat : Seat) (g : Group) : Prop where
  kind : g.kind = kind ∧ g.status = .slotWait ∧ g.job = p.job ∧ g.team = team
  seat : g.core = seat.core ∧ g.part = seat.part ∧ g.rslot = seat.rslot ∧ g.mainAt = seat.place ∧ g.regs = k.regs
  pc : g.ctx.pc = k.entry
  s0 : g.ctx.getS 0 = p.block.args
  area : g.privLimit = k.priv ∧ (p.block.privBase ≠ 0 → g.area = some (p.block.privBase + BitVec.ofNat 64 (n * 2 ^ p.block.privZ)))
  gfx : ∃ f, g.gfx = some f ∧ f.pass = ps ∧ f.tile = tile ∧ f.area = n ∧ f.inRegion = true ∧ f.snap = g.ctx ∧ f.held = [] ∧ f.heldBytes = 0 ∧
    f.entered = 0 ∧ f.released = 0 ∧ f.leaving = 0 ∧ f.gvtxDone = false ∧ f.replay = false

/-- The group of a grid (R364). -/
structure GridStart (q : Grid) (g : Group) : Prop where
  regs : g.ctx.getS 1 = q.addr ∧ g.ctx.getS 2 = BitVec.ofNat 64 q.seq ∧ g.ctx.getS 3 = BitVec.ofNat 64 q.tile
  active : ∀ n < 256, g.ctx.active.getLsbD n = decide (n < (q.nu + 1) * (q.nv + 1))
  values : ∃ f, g.gfx = some f ∧ f.patchId = BitVec.ofNat 64 (q.seq % 2 ^ 24 + 2 ^ 24 * q.nu + 2 ^ 28 * q.nv + 2 ^ 32 * q.user.toNat) ∧
    f.gridU = q.du ++ q.u0 ∧ f.gridV = q.dv ++ q.v0 ∧ f.age = 256 * q.seq

/-- The group of a fragment group's lanes (R369). -/
structure SampleStart (tile : Nat) (l : List Frag) (g : Group) : Prop where
  tile : g.ctx.getS 1 = BitVec.ofNat 64 tile
  active : ∀ n < 256, g.ctx.active.getLsbD n = decide (n < l.length)
  maps : ∀ e < 12, (g.ctx.entry e).map = some (BitVec.ofNat 8 e) ∧ (g.ctx.entry e).st = .clean
  words : ∀ n < 256, ∀ f, l[n]? = some f → (g.ctx.entry 0).at n = BitVec.ofNat 32 (f.key.1 + 65536 * f.key.2.1) ∧
    (g.ctx.entry 1).at n = BitVec.ofNat 32 (f.key.2.2 + 16 * f.c) ∧ (g.ctx.entry 2).at n = f.depth ∧ (g.ctx.entry 3).at n = BitVec.ofNat 32 f.seq ∧
    ∀ j < 4, (g.ctx.entry (4 + 2 * j)).at n = (f.colours.getD j 0).extractLsb' 0 32 ∧
      (g.ctx.entry (5 + 2 * j)).at n = (f.colours.getD j 0).extractLsb' 32 32
  keys : ∃ f, g.gfx = some f ∧ f.age = lowestSeq l ∧ f.keys = l.zipIdx.map fun q => (q.2, q.1.key, q.1.seq)

end Sys2Proof.Spec
end

