-- ==== Sys2Proof/Safety/Tasks.lean ====
section
/-! DEFINITION. What the statements say of task queues, XCHG, collectives and the order log (R65 to R69, R250 to R255, R312 to R319,
R420, R508, R509). -/

namespace Sys2Proof.Spec

open Machine

/-- What an instruction that names n s registers from r waits for. -/
def takesRegs (r n : Nat) : Uses := { sregs := sregBits ((List.range n).map (r + ·)) }

/-! ## Task queues (R65 to R67, R252) -/

/-- The group's team holds the task queue of its core. -/
structure OwnQueue (s : State) (g : Group) (t : Team) : Prop where
  team : s.taskTeam g.core = some g.team
  is_ : s.teams[g.team]? = some t

/-- Where a record lies in its core's array (R65). -/
def recordAt (t : Team) (i : Nat) : Nat := 65536 * (t.scrBase + t.scrLen) - t.taskQ + 64 * (i % (t.taskQ / 64))

/-- Word j of a record. -/
def recordWord (s : State) (t : Team) (i j : Nat) : DWord := BitVec.ofNat 64 (bytesNat (padByte s t.core) (recordAt t i + 8 * j) 8)

/-- The team with its queue's ends. -/
def withEnds (s : State) (ti : Nat) (t : Team) (head tail : Nat) : State := s.setTeam ti { t with taskHead := head, taskTail := tail }

/-- The context with a record in eight s registers from r, and a c flag set. -/
structure TookRecord (s : State) (t : Team) (i r c : Nat) (x z : Ctx) : Prop where
  regs : ∀ j < 8, z.getS (r + j) = recordWord s t i j
  others : ∀ k < 64, (∀ j < 8, k ≠ r + j) → z.getS k = x.getS k
  frame : z = { x.setC c true with s := z.s }

/-- A record of 64 bytes is in a team's queue, at its owner end; no other byte of a core's array has changed. -/
structure Pushed (s t : State) (ti : Nat) (q : Team) (byte : Nat → BitVec 8) : Prop where
  queue : t.teams = s.teams.set ti { q with taskTail := q.taskTail + 1 }
  stored : ∀ k < 64, padByte t q.core (recordAt q q.taskTail + k) = byte k
  kept : ∀ a, ¬ (recordAt q q.taskTail ≤ a ∧ a < recordAt q q.taskTail + 64) → padByte t q.core a = padByte s q.core a
  frame : t = { s with cores := t.cores, teams := t.teams } ∧ ∀ c, coreIx c ≠ coreIx q.core → t.core c = s.core c

/-- TKDONE may decrement the counter: the record's flag is set and its access may be sent. -/
structure CounterAt (s : State) (g : Group) (r : Nat) (a : LaneAcc) : Prop where
  flagged : ((found g).getS (r + 3)).toNat / 2 ^ 32 % 2 = 1
  reach : Reaches (opened s g) (asFound g) .write false 4 [(0, (found g).getS (r + 4))] [a]
  host : s.hostLacks 0 4 a.pa a.cacheable = false
  free : (opened s g).holdsAtom s.cur (asFound g) 1 [a] = false

/-- TKDONE's decrement: a 32-bit atomic that adds −1, acq_rel, with observers CORE, whose group waits for it (R68). -/
def counterRequest (s : State) (g : Group) (a : LaneAcc) : AtomReq :=
  { grp := some s.cur, slot := 32, lane := 0, job := g.job, core := g.core, rslot := 32 * g.part + g.rslot, logged := g.kind != .combiner,
    va := a.va, pa := a.pa, edge := s.atomSite 1 a.pa a.cacheable, op := 0, bytes := 4, op1 := 2 ^ 32 - 1, cmp := 0, reassoc := false
    stamp := (s.core g.core).stamp }

/-- The decrement has answered the counter's old value, and TKDONE goes on with it (R251). -/
structure CounterWas (g : Group) (r old : Nat) : Prop where
  flagged : ((found g).getS (r + 3)).toNat / 2 ^ 32 % 2 = 1
  done : g.doneLanes.getLsbD 0 = true
  value : g.savedReply 0 % 2 ^ 32 = old

/-! ## Collectives (R254, R420, R508, R509) -/

/-- What a group contributes: each active thread's value, and the operation's identity elsewhere. -/
def contribution (s : State) (g : Group) (x : Asy) (k : Word) : Contribution :=
  let c := found g
  { core := g.core, group := g.number, job := g.job, grp := s.cur, dest := slotAt c x.b, ty := fld k 3 2
    vals := (List.range 256).map fun t =>
      if c.active.getLsbD t then (if fld k 3 2 = 1 then (c.read .int false x.a t).setWidth 32 &&& 0xFFFF else (c.read .int false x.a t).setWidth 32)
      else BitVec.ofNat 32 (credIdentity (fld k 1 0) (fld k 3 2)) }

/-- An instance that takes the group's contribution. -/
structure Contributes (s : State) (g : Group) (x : Asy) (k : Word) (e : CollEntry) : Prop where
  entry : (s.colls.find? fun e => e.ident == fld k 31 16) = some e
  open_ : e.aborted = false ∧ (e.locals = 0 ∨ e.contribs.length < e.locals)
  first : ∀ c ∈ e.contribs, c.grp ≠ s.cur
  aligned : (slotAt (found g) x.b).toNat % 1024 = 0

/-- The machine with a contribution added to its instance. -/
def contributed (s : State) (ident : Nat) (op : Nat × Nat) (c : Contribution) : State :=
  { s with colls := s.colls.map fun q => if q.ident == ident then { q with contribs := q.contribs ++ [c], op := some (q.op.getD op) } else q }

end Sys2Proof.Spec
end

