-- ==== Sys2Proof/Safety/Packets.lean ====
section
/-! DEFINITION. What the statements say of queues and their packets (R74 to R101, R350 to R357). -/

namespace Sys2Proof.Spec

open Machine

/-- A slot stands at a packet of its queue. -/
structure AtPacket (s : State) (sl : Nat) (x : Slot) (q : Queue) : Prop where
  slot : s.slot sl = x
  queue : s.queues[x.queue]? = some q
  bound : x.bound = true
  free : x.stopped = none ∧ x.waiting = none ∧ x.levels ≠ []

/-- A slot stands at a packet of its ring, with nothing begun before it. -/
structure Alone0 (x : Slot) (n : Nest) : Prop where
  level : x.levels = [n]
  plain : n.loop = none ∧ n.cover = 0 ∧ n.skip = 0
  first : x.begun = [] ∧ x.prologues = []

/-- The machine where the packet has begun, the slot standing at the next. -/
def past (s : State) (sl : Nat) (x : Slot) (n : Nest) : State :=
  s.modSlot sl fun _ => { x with begun := [⟨n.pos, n.pos + x.len, [], []⟩], packets := x.packets + 1, levels := [{ n with pos := n.pos + x.len }] }

/-- A condition of a packet holds of a word (R86). -/
def CondTrue (c : MemCond) (word : Nat) : Prop :=
  let n := if c.wide then 64 else 32
  let a := BitVec.ofNat n word
  let v := c.value.setWidth n
  match c.code.toNat with
  | 0 => a = v
  | 1 => a ≠ v
  | 2 => a < v
  | 3 => v ≤ a
  | 4 => a &&& v ≠ 0
  | 5 => a.toInt < v.toInt
  | _ => v.toInt ≤ a.toInt

/-- What SIGNAL stores over an old value (R96): the value, their sum or their or. -/
def signalled (op : BitVec 2) (old value : Nat) : Nat := if op = 0 then value else if op = 1 then old + value else old ||| value

/-- A launch just started (R52, R88). -/
structure Started (l : Launch) (id : Nat) (k : Kernel) (p : LaunchPacket) (src : LaunchSrc) (rejected cancelled : Bool) : Prop where
  from_ : l.job = src.job ∧ l.queue = src.queue ∧ l.mask = src.mask ∧ l.graph = src.graph ∧ l.phase = src.phase ∧ l.pass = src.pass
  id : l.id = id % 2 ^ 32
  grid : l.dx = p.dx ∧ l.dy = p.dy ∧ l.dz = p.dz ∧ l.args = p.args ∧ l.prio = p.prio
  kernel : l.kernel = k
  teams : l.admitted = 0 ∧ l.doneTeams = 0 ∧ l.left = if rejected = true ∨ cancelled = true then 0 else p.dx * p.dy * p.dz
  outcome : l.rejected = rejected ∧ l.cancelled = cancelled ∧ l.faulted = false ∧ l.complete = false ∧ l.live = true

/-- The graph that a packet of a slot starts. -/
def graphOf (s : State) (sl : Nat) (x : Slot) (q : Queue) (prio : Nat) (record cancel : DWord) (nodes : List Node) : Graph :=
  { live := true, job := x.job, queue := some x.queue, slot := sl, mask := x.mask, prio := prio, record := record, cancel := cancel,
    nodes := nodes, cancelled := false,
    ready := (List.range nodes.length).filter fun k => match nodes[k]? with | some n => !n.started && n.counter == 0 | none => false, phase := s.phaseOf q, status := none }

/-- The open pass of a slot's queue. -/
structure OpenPass (s : State) (sl ps : Nat) (p : Pass) : Prop where
  ix : s.openPass sl = some ps
  is_ : s.passes[ps]? = some p
  live : p.live = true

/-- A queue is bound in a slot (R80). -/
structure Bound (s t : State) (sl qi : Nat) (q : Queue) (prio : Nat) : Prop where
  slot : (t.slot sl).bound = true ∧ (t.slot sl).queue = qi ∧ (t.slot sl).qcb = q.qcb ∧ (t.slot sl).job = q.job ∧ (t.slot sl).prio = prio
  ring : ∃ n r w, (t.slot sl).levels = [n] ∧ s.qcbRead q = .ok r ∧ s.qcbWritten q = .ok w ∧ n.pos = r ∧ n.limit = w ∧ n.ring = s.qcbNat q 8 8 ∧
    n.base = BitVec.ofNat 64 (s.qcbNat q 0 8) ∧ n.win = []
  mask : ∀ j, s.jobs[q.job]? = some j → (t.slot sl).mask = j.coreMask ∧ (t.slot sl).secure = j.secure
  others : ∀ k < 64, k ≠ sl → t.slot k = s.slot k

end Sys2Proof.Spec
end

