-- ==== Sys2Proof/Safety/Teams.lean ====
section
/-! DEFINITION. What the statements say of teams, launches, waiting groups and pre-emption (R46 to R62, R72, R90, R100, R149, R222 to
R227, R457, R468 to R483). -/

namespace Sys2Proof.Spec

open Machine

/-! ## Dispatch (R46, R52, R100, R101) -/

/-- Slot `sl` is the one that dispatch serves for a launch: the first in its order whose next launch it is, no slot before it having a
team that a core can take. -/
structure Serves (s : State) (sl li : Nat) : Prop where
  first : s.slotOrder.find? (fun k => (s.nextWork (s.slot k)).map (·.1) == some li) = some sl
  before : ∀ k ∈ s.slotOrder.takeWhile (· != sl), s.slotAdmits k = none
  fresh : ∀ t ∈ s.teams, ¬ (t.live = true ∧ t.saved = true ∧ t.launch = li)

/-- Every slot of a list has been passed over once more. -/
def passed (s : State) (l : List Nat) : State := l.foldl (fun s k => s.modSlot k fun x => { x with passes := x.passes + 1 }) s

/-- The machine `t`, which has the team, with the slots passed over and the slot that admitted; a launch with no team left leaves it. -/
def served (s t : State) (sl li : Nat) (last : Bool) : State :=
  let u := (passed t (s.slotOrder.takeWhile (· != sl))).modSlot sl fun x => { x with passes := 0, reserved := false }
  let u := { u with sys := { u.sys with lastSlot := sl } }
  (if last then u.modSlot sl fun x => { x with launches := x.launches.filter (· != li) } else u).settleSlot sl

/-- Group j of a team that a launch has just started (R40, R43, R46). -/
structure FirstGroup (l : Launch) (li ti index core j : Nat) (h : Group) : Prop where
  ids : h.kind = .team ∧ h.number = j ∧ h.team = ti ∧ h.launch = li ∧ h.job = l.job ∧ h.core = core ∧ h.regs = l.kernel.regs ∧ h.prio = l.prio
  waits : h.status = .slotWait ∧ h.hasSlot = false ∧ h.handler = false
  start : h.ctx.pc = l.kernel.entry ∧ h.ctx.active = BitVec.allOnes 256 ∧ h.ctx.dstack = [] ∧ h.ctx.cstack = [] ∧ h.ctx.fpmode = 0 ∧
    h.ctx.fpflags = 0 ∧ h.ctx.storehash = 0 ∧ h.ctx.main = List.replicate l.kernel.regs Lanes.zero
  args : h.ctx.getS 0 = l.args ∧ h.ctx.getS 1 = BitVec.ofNat 64 index ∧ ∀ k < 64, 2 ≤ k → h.ctx.getS k = 0
  preds : ∀ p < 8, h.ctx.preds[Fin.ofNat 8 p] = 0

/-- A team of a launch has been admitted on a core of the launch's mask (R46, R49, R52). -/
structure Admitted (s t : State) (li : Nat) (l : Launch) (tm : Team) : Prop where
  teams : t.teams = s.teams ++ [tm]
  team : tm.live = true ∧ tm.job = l.job ∧ tm.launch = li ∧ tm.index = l.admitted ∧ tm.twin = none ∧ tm.producer = l.kernel.producer
  place : tm.x = l.admitted % l.dx ∧ tm.y = l.admitted / l.dx % l.dy ∧ tm.z = l.admitted / (l.dx * l.dy)
  storage : tm.scrLen = (l.kernel.scratch + 65535) / 65536 ∧ tm.accLen = l.kernel.acc
  bars : ∀ b < 16, tm.bars[Fin.ofNat 16 b] = ⟨l.kernel.groups, 0, 0, 0⟩
  core : tm.core < 64 ∧ l.mask.getLsbD tm.core = true
  groups : t.groups.length = s.groups.length + l.kernel.groups ∧ (∀ k < s.groups.length, t.groups[k]? = s.groups[k]?) ∧
    ∀ j < l.kernel.groups, ∃ h, t.groups[s.groups.length + j]? = some h ∧ FirstGroup l li s.teams.length l.admitted tm.core j h
  launch : ∃ r, t.launches = s.launches.set li { l with admitted := l.admitted + 1, recorded := r } ∧ (s.replayLog l.job = none → r = l.recorded)

/-- The team is over: no group of it lives, no entry of it stands in a stream queue of its core, every tile operation has retired and every
Whorl request has returned (R50, R331). -/
structure TeamOver (s : State) (ti : Nat) (t : Team) : Prop where
  is_ : s.teams[ti]? = some t
  live : t.live = true ∧ t.saved = false
  alone : t.twin = none
  noTile : ∀ p ∈ s.passes, p.live = true → ∀ x ∈ p.tiles, x.team ≠ some ti
  groups : ∀ g ∈ s.groups, g.team = ti → g.status = .exited ∨ g.status = .gone
  queues : ∀ q < 2, ∀ e ∈ (s.core t.core).sq[Fin.ofNat 2 q], e.team ≠ ti
  tiles : ∀ c ∈ s.cores, ∀ q ∈ c.tileQ, ∀ o ∈ q, o.team ≠ ti
  rows : ∀ w ∈ s.whorls, ∀ b ∈ w.queue ++ w.bins ++ w.tiles, ∀ r ∈ b.rows, ∀ g, s.groups[r.grp]? = some g → g.team ≠ ti

/-- The status code of a launch's completion record (R59). -/
def doneCode (l : Launch) : Nat := if l.faulted then 3 else if l.cancelled then 2 else if l.rejected then 4 else 1

/-- The machine after a launch's record is written: the launch is complete, a graph's node and successors go on, and what waited for it. -/
def completed (s : State) (li : Nat) (l : Launch) : State :=
  let u := s.modLaunch li fun x => { x with complete := true, live := false }
  let u := match l.graph with | some (g, n) => (u.nodeEnd g n []).startNodes g | none => u
  (List.range 64).foldl State.settleSlot u.settle

/-- A launch whose work is over: every team has ended, and nothing of it is on its way (R59, R60). -/
structure LaunchOver (s : State) (li : Nat) (l : Launch) : Prop where
  is_ : s.launches[li]? = some l
  running : l.complete = false ∧ l.live = true
  teams : if l.cancelled = true then ∀ t ∈ s.teams, ¬ (t.live = true ∧ t.launch = li) else l.left = 0
  quiet : s.launchQuiet li = true

/-- A group ended, nothing of memory changing (R61, R481). -/
structure Killed (s t : State) (gi : Nat) (g : Group) : Prop where
  group : ∃ h, t.groups[gi]? = some h ∧ h = { g with status := .exited, hasSlot := false, block := none, xchg := none }
  memory : t.mem = s.mem
  lines : ∀ l ∈ (t.core g.core).l1, ¬ (l.priv = true ∧ l.owner = gi)

/-- No write is on its way to the group's registers or to its operand-buffer slot (R481). -/
structure Drained (s : State) (gi : Nat) : Prop where
  atomics : ∀ a ∈ s.atomics, a.grp = some gi → 33 ≤ a.slot
  methods : s.methods = [] ∧ s.objects = []
  whorls : ∀ w ∈ s.whorls.toList, w.queue = [] ∧ w.bins = [] ∧ w.tiles = []
  tiles : ∀ c ∈ s.cores.toList, ∀ q ∈ c.tileQ.toList, ∀ o ∈ q, o.grp ≠ gi

/-! ## Waiting groups -/

/-- Groups of a partition of a core that hold an operand-buffer slot, combiner groups apart. -/
def slotsHeld (s : State) (core part : Nat) : Nat :=
  s.groups.countP fun g => decide (g.core = core ∧ g.part = part ∧ g.kind ≠ .combiner ∧ g.hasSlot = true)

/-- A group waits for an operand-buffer slot, has waited longest in its partition, and no pass keeps a slot of the core (R72). -/
structure FirstInLine (s : State) (gi : Nat) (g : Group) : Prop where
  is_ : s.groups[gi]? = some g
  waits : g.status = .slotWait ∧ g.hasSlot = false ∧ g.kind ≠ .combiner ∧ g.gfx = none
  runs : ∀ t, s.teams[g.team]? = some t → t.preempt = true → g.handler = true
  noPass : ∀ p ∈ s.passes, p.live = true → p.mask.getLsbD g.core = false
  longest : ∀ (k : Nat) (h : Group), s.groups[k]? = some h → k ≠ gi → h.core = g.core → h.part = g.part → h.status = .slotWait →
    g.since < h.since ∨ (g.since = h.since ∧ gi < k)

/-- The group goes on at an address after a wait: it runs where it holds its slot, and else waits for one (R223). -/
def onward (g : Group) (pc : DWord) (since : Nat) (h : Group) : Prop :=
  h = { g with ctx := h.ctx, status := if g.hasSlot then .running else .slotWait, since := if g.hasSlot then g.since else since, seen := h.seen } ∧
    h.ctx = { g.ctx with pc := pc, latches := h.ctx.latches, run := [] } ∧ ∀ k < 4, (h.ctx.latches[Fin.ofNat 4 k]).valid = false

/-- A wait on a barrier is over: the group has consumed one phase and acquired with STRM, and goes on (R223, R226). -/
def WaitOver (s : State) (gi : Nat) (g : Group) (nb : Nat) (pc : DWord) (t : State) : Prop :=
  ∃ h, onward g pc s.free h ∧ h.seen = g.seen.set (Fin.ofNat 16 nb) (g.seen[Fin.ofNat 16 nb] + 1) ∧
    t = { (s.setGroup gi h).acquire g.core 2 with free := s.free + 1 }

/-- Every lane of a request has its result and none a cause. -/
def Returned (p : Pend) : Prop := p.causes = [] ∧ ∀ t < 256, p.lanes.getLsbD t = true → ∃ v ∈ p.vals, v.1 = t

/-- Word i of lane t's result. -/
def resultOf (p : Pend) (t i : Nat) : Option Word := (p.vals.find? fun v => v.1 == t).bind fun v => v.2[i]?

/-- A request's results are in its destination (R149, R150, R213). -/
structure Landed (p : Pend) (x y : Ctx) : Prop where
  none_ : p.dest = .none → y = x
  entries : ∀ e n, p.dest = .entries e n → e + n ≤ 16 → ∀ i < n, ∀ t < 256, p.lanes.getLsbD t = true → ∀ w, resultOf p t i = some w →
    (y.entry (e + i)).at t = w ∧ (y.entry (e + i)).st = .dirty
  sreg : ∀ d a b, p.dest = .sreg d → resultOf p 0 0 = some a → resultOf p 0 1 = some b → y.getS d = b ++ a
  main : ∀ v n, p.dest = .main v n → v + n ≤ x.main.length → v + n ≤ 256 → ∀ i < n, ∀ t < 256, p.lanes.getLsbD t = true →
    ∀ w, resultOf p t i = some w → (y.readMain (v + i)).at t = w
  frame : y = { x with entries := y.entries, s := y.s, main := y.main }

/-- The acquire that a returning request makes, where it is one (R277). -/
def acquired (s : State) (g : Group) (p : Pend) : State := match p.acquired with | some m => s.acquire g.core m | none => s

/-- A request of lanes that were performed before their instruction's trap, for which the group stands at it (R461). -/
def FirstLanes (p : Pend) : Prop :=
  p.dest = .none ∧ ((∃ x o, p.i = .atom x o) ∨ (∃ x o, p.i = .red x o) ∨ (∃ x o, p.i = .callm x o) ∨ ∃ x o, p.i = .postm x o)

/-- An event makes a group enter its handler, for a trap taken at the instruction it stands at, from the machine `w`. -/
def EntersTrap (i : Instr) (s w : State) (gi : Nat) (g : Group) (t : TrapInfo) (restart skip : DWord) : Prop :=
  ∃ items frame h, FrameOf g t restart items ∧ g.frame = some frame ∧ InHandler s g h g.ctx t.cause restart skip ∧
    exec i s = .next (match ((w.setGroup gi g).tick g.core).frameWrite gi g frame items with
      | .ok s' => s'.setGroup gi h
      | .error va => frameFailure ((w.setGroup gi g).tick g.core) gi g va)

/-! ## Pre-emption (R468 to R475, R479, R480) -/

/-- The team's launch can be pre-empted: its kernel has a liveness table and the launch a private area (R468). -/
def CanPreempt (s : State) (t : Team) : Prop := ∃ l, s.launches[t.launch]? = some l ∧ l.kernel.liveness ≠ 0 ∧ l.privBase ≠ 0

/-- The group has reached a stop of its team's pre-emption with nothing pending: its mask is the safe point's, or keeps everything where
the group waits (R469). -/
structure AtStop (s : State) (gi : Nat) (g : Group) (t : Team) (mask : Word) : Prop where
  is_ : s.groups[gi]? = some g
  team : s.teams[g.team]? = some t
  asked : t.preempt = true
  ordinary : (g.kind = .team ∨ g.kind = .spawned) ∧ g.gfx = none ∧ g.handler = false
  quiet : (∀ k < 32, g.board[Fin.ofNat 32 k] = none) ∧ g.posts = [] ∧ g.deferred = []
  stop : g.status = .stopped mask ∨
    mask = 0x07FFFFFF ∧ (g.status = .slotWait ∨ (∃ n p, g.status = .barWait n p) ∨ (∃ n p, g.status = .yielded n p) ∨ (∃ p, g.status = .xchgWait p) ∨
      ∃ a, g.status = .parked a)

/-- The entries and slots whose mask bit is 0 are dropped (R151, R470). -/
structure Kept (m : Word) (x y : Ctx) : Prop where
  entries : ∀ e < 16, y.entry e = if m.getLsbD e then x.entry e else freed (x.entry e)
  slots : ∀ w < 8, y.slots[Fin.ofNat 8 w] = if m.getLsbD (16 + w) then x.slots[Fin.ofNat 8 w] else ⟨false, 0⟩
  frame : y = { x with entries := y.entries, slots := y.slots }

/-- The group is saved in its context area (R470): it has no operand-buffer slot, its DIRTY entries kept by the mask are in its main
registers, and no latch is valid. -/
structure GroupSaved (g : Group) (mask : Word) (h : Group) : Prop where
  status : h.status = .saved ∧ h.hasSlot = false ∧ h.block = none ∧ h.xchg = none
  same : h.kind = g.kind ∧ h.number = g.number ∧ h.team = g.team ∧ h.handler = g.handler ∧ h.regs = g.regs
  ctx : ∃ x, Kept mask g.ctx x ∧ WrittenBack x h.ctx ∧ h.ctx.entries = x.entries ∧ h.ctx.s = x.s ∧ h.ctx.preds = x.preds ∧ h.ctx.pc = x.pc ∧
    h.ctx.active = x.active ∧ h.ctx.dstack = x.dstack ∧ h.ctx.cstack = x.cstack
  latches : ∀ k < 4, (h.ctx.latches[Fin.ofNat 4 k]).valid = false

/-- A graphics group killed for replay: its context is its region's snapshot, its held effects and requests are gone (R479). -/
structure BackToRegion (g : Group) (x : Gfx) (h : Group) : Prop where
  ctx : h.ctx = x.snap
  status : h.status = .stopped 0 ∧ h.hasSlot = false
  empty : (∀ k < 32, h.board[Fin.ofNat 32 k] = none) ∧ h.block = none ∧ h.posts = [] ∧ h.deferred = [] ∧ h.handler = false ∧ h.retry = none
  gfx : ∃ y, h.gfx = some y ∧ y.held = [] ∧ y.heldBytes = 0 ∧ y.entered = 0 ∧ y.leaving = 0 ∧ y.replay = true ∧ y.keys = x.keys ∧ y.pass = x.pass

end Sys2Proof.Spec
end

