-- ==== Sys2Proof/Safety/Outside.lean ====
section
/-! DEFINITION. What the statements say of translations, columns, peers, the host's requests and the package (R30 to R39, R264, R265, R406
to R442, R490 to R525). -/

namespace Sys2Proof.Spec

open Machine

/-! ## Translations and columns -/

/-- A leaf covers one of `n` pages of a job from page `lo` (R265). -/
def Covers (e : TlbEntry) (job lo n : Nat) : Prop := e.job = job ∧ e.page < lo + n ∧ lo < e.page + e.pages

/-- No TLB holds the pages any more, and every other leaf is still held. -/
structure Dropped (s t : State) (job lo n : Nat) : Prop where
  cores : ∀ c < 64, ∀ e, e ∈ (t.core c).tlb ↔ e ∈ (s.core c).tlb ∧ ¬ Covers e job lo n
  pairs : ∀ p < 32, ∀ e, e ∈ t.l2tlb[Fin.ofNat 32 p] ↔ e ∈ s.l2tlb[Fin.ofNat 32 p] ∧ ¬ Covers e job lo n

/-- An address lies in one of `n` pages from page `lo`. -/
def InPages (va : DWord) (lo n : Nat) : Prop := lo ≤ pageOf va ∧ pageOf va < lo + n

/-- No access translated through the pages is still to be performed (R265): no atomic and no method request is on its way, none is pending at
an object or run by its combiner, and no replay region holds a store. -/
structure NoneWaits (s : State) (job lo n : Nat) : Prop where
  atomics : ∀ a ∈ s.atomics, a.grp ≠ none → a.job = job → ¬ InPages a.va lo n
  methods : ∀ r ∈ s.methods, r.job = job → ¬ InPages r.base lo n
  pending : ∀ o ∈ s.objects, ∀ r ∈ o.pending, r.job = job → ¬ InPages r.base lo n
  running : ∀ o ∈ s.objects, ∀ gi b, o.running = some (gi, b) → ∀ r ∈ b, r.job = job → ¬ InPages r.base lo n
  held : ∀ g ∈ s.groups, g.job = job → ∀ x, g.gfx = some x → ∀ pa bytes priv va, .store pa bytes priv va ∈ x.held → ¬ InPages va lo n

/-- Memory after the write-back of private data: every byte is as it was, or as a dirty private line of some L1 held it (R265, R268). -/
def FlushedLines (s t : State) : Prop :=
  ∀ pa, byteAt t pa = byteAt s pa ∨ ∃ c, ∃ ln ∈ (s.core c).l1, ln.dirty = true ∧ ln.priv = true ∧
    ∃ k < ln.data.length, pa = ln.line * 128 + k ∧ byteAt t pa = ln.data.getD k 0

/-- Groups that wait for a response about a page run again; every other group is as it was (R409). -/
def PriWoken (s t : State) (job page : Nat) : Prop :=
  ∀ (gi : Nat) (g : Group), s.groups[gi]? = some g →
    ((∃ va, g.status = .priWait va ∧ g.job = job ∧ pageOf va = page) → t.groups[gi]? = some { g with status := .running }) ∧
    ((¬ ∃ va, g.status = .priWait va ∧ g.job = job ∧ pageOf va = page) → t.groups[gi]? = some g)

/-- An entry of the slice map may point at a vault: it is no DIRECT vault, none that a job being created is to get, and its column is on
and not about to go off (R30, R31). -/
structure Fit (s : State) (v : Nat) : Prop where
  cache : s.direct.getLsbD v = false ∧ s.promised v = false
  powered : (s.column (v / 8)).on = true ∧ Waiting.columnOff (v / 8) ∉ s.sys.journal

/-- A column may go off: all its vaults are CACHE vaults and stay so, eight vaults of other columns may hold its lines, and no job records or
replays (R37, R313). -/
structure CanGoOff (s : State) (col : Nat) : Prop where
  on : col < 64 ∧ (s.column col).on = true
  vaults : ∀ k < 8, s.direct.getLsbD (8 * col + k) = false ∧ s.promised (8 * col + k) = false
  others : 8 ≤ ((List.range 512).filter fun v => s.vaultFit v && v / 8 != col).length
  open_ : s.mapFixed = false

/-- One more in exactly one error counter: a column's or a GDDR-7 position's (R493). -/
def Counted (s t : State) (ue : Bool) : Prop :=
  (∃ c < 64, t.sys = s.sys ∧ (∀ d < 64, d ≠ c → t.column d = s.column d) ∧
    t.column c = { s.column c with ce := (s.column c).ce + (if ue then 0 else 1), ue := (s.column c).ue + (if ue then 1 else 0) }) ∨
  (∃ k : Fin 24, t.columns = s.columns ∧ t.sys = { s.sys with
    ceG7 := s.sys.ceG7.set k (s.sys.ceG7[k] + (if ue then 0 else 1)), ueG7 := s.sys.ueG7.set k (s.sys.ueG7[k] + (if ue then 1 else 0)) })

/-- An error event of the part (R485, R512). -/
def partEvent (kind : Nat) (data : DWord) : HostEvent := { fn := 0, code := 0x84, status := 0, tag := kind, job := 0, data := data }

/-! ## Peers and the host (R407, R416 to R419) -/

/-- A port is up to a device. -/
def Linked (s : State) (dev : Nat) : Prop := ∃ p ∈ s.ports.toList, p.peer = some dev

/-- A peer's write reaches memory here: the pages are exported to it, it is not barred, and no line waits (R417, R510). -/
structure WriteLands (s : State) (src link off : Nat) (data : List (BitVec 8)) (pa : Nat) : Prop where
  exported : s.peerReach src link off data.length = some pa
  allowed : s.peerBarred src pa = false
  free : s.locked pa = false ∧ s.isStalled pa = false

/-- A peer's message stands next in a stream whose messages before it have all been applied. -/
structure NextIn (s : State) (src cls seq : Nat) : Prop where
  linked : Linked s src
  stream : s.inStream src cls = { dev := src, cls := cls, next := seq, ahead := [] }
  range : seq < 2 ^ 32

/-! ## Requests (R410 to R413) -/

/-- The request is complete: its event is posted with a status, and it has been passed in the request ring (R411, R412). -/
def answered (s : State) (h : Request) (job status : Nat) : State :=
  (s.post { fn := h.fn, code := 0x81, status := status, tag := h.tag.toNat, job := job, data := 0 }).modFn h.fn fun x =>
    { x with rqread := x.rqread + 128 }

/-- The request names a live job that its function created (R408). -/
def Owns (s : State) (h : Request) (j : Job) : Prop := s.jobs[h.job]? = some j ∧ j.live = true ∧ j.fn = h.fn

/-- The job that CREATE_JOB makes at a machine, with a key of its own (R423). -/
def createdJob (s : State) (h : Request) (x : JobOperands) : Job :=
  { live := true, fn := h.fn, root := x.root, handler := x.handler, objTable := x.objTable, objM := x.objM, secure := x.secure,
    hostShared := x.hostShared, control := x.control, coreMask := x.coreMask, vaultMap := x.vaultMap, link := x.link, launchSeq := 0,
    destroy := none, log := .off, placed := 0, placeStop := false, markStop := false, colStop := 0,
    key := Config.fresh s.free, measured := [] }

/-- A queue just registered. -/
structure Registered (s t : State) (h : Request) (qcb : DWord) (wake : Nat) (q : Queue) : Prop where
  queues : t.queues = s.queues ++ [q]
  is_ : q.live = true ∧ q.qcb = qcb ∧ q.job = h.job ∧ q.wake = wake ∧ q.pass = none ∧ q.passCount = 0

/-- Groups parked on a page go on, to run or to wait for an operand-buffer slot; the others stay (R240, R377). -/
def Unparked (s t : State) (job page : Nat) (refused : Bool) : Prop :=
  ∀ (gi : Nat) (g : Group), s.groups[gi]? = some g →
    ((∃ va, g.status = .parked va ∧ g.job = job ∧ pageOf va = page) → t.groups[gi]? = some { g with
      status := if g.hasSlot then .running else .slotWait, since := s.free, absent := if refused then some page else none }) ∧
    ((¬ ∃ va, g.status = .parked va ∧ g.job = job ∧ pageOf va = page) → t.groups[gi]? = some g)

/-- COLLECTIVE's operands are in range (R420). -/
structure CollOk (x : CollectiveOperands) : Prop where
  ident : x.ident < 65536
  counts : x.locals ≤ 4096 ∧ x.children ≤ 15 ∧ x.port < 16
  parent : x.parent < 256 ∨ x.parent = 0xFFFF

/-! ## The package (R425 to R442, R516 to R525) -/

/-- Cold reset leaves host memory and, of the package's state, `y`; all else is as State.reset has it (R432). -/
structure ColdReset (s t : State) (y : Sys) : Prop where
  kept : t.sys = y
  work : t.groups = [] ∧ t.teams = [] ∧ t.launches = [] ∧ t.jobs = [] ∧ t.queues = [] ∧ t.events = [] ∧ t.graphs = [] ∧ t.passes = []
  arrays : t.cores = State.reset.cores ∧ t.slots = State.reset.slots ∧ t.atomics = [] ∧ t.methods = [] ∧ t.objects = []
  memory : ∀ pa, SMap.get t.mem pa = if Machine.target s.gddrTop pa = .host then SMap.get s.mem pa else 0

/-- What stays of the package's state through cold reset: fuses, straps, the antifuse counter and flash (R432). -/
def coldSys (y : Sys) : Sys := { Sys.reset with strap := y.strap, fuse := y.fuse, antifuse := y.antifuse, flash := y.flash }

/-- Steps 3 to 5 have ended with an image that verified (R434, R440): the memories are zero but for the host's, every vault is a CACHE vault
in its own entry of the slice map, the clock lies within its range, and firmware is about to take step 6. -/
structure BroughtUp (s t : State) : Prop where
  state : t.sys.fwState = 0 ∧ t.sys.bring = .due ∧ t.sys.rcvreason = 0
  memory : ∀ pa, SMap.get t.mem pa = if Machine.target s.gddrTop pa = .host then SMap.get s.mem pa else 0
  capacity : t.gddrTop = installed t.sys.pkgstrap * 2 ^ 26 * 15
  vaults : t.direct = 0 ∧ t.stalled = 0 ∧ t.poison = [] ∧ ∀ k : Fin 512, t.sliceMap[k] = k.val
  clock : 12 ≤ t.sys.clock ∧ t.sys.clock ≤ t.sys.ceiling
  key : if s.sys.antifuse < 2 ^ 20 then t.sys.antifuse = s.sys.antifuse + 1 ∧ t.sys.aliasKey = true ∧ t.sys.idexh = false
    else t.sys.antifuse = s.sys.antifuse ∧ t.sys.aliasKey = false ∧ t.sys.idexh = true

/-- Every launch of the machine's jobs that was not complete is cancelled (R61, R442, R518, R522). -/
def AllCancelled (s t : State) : Prop :=
  ∀ (li : Nat) (l : Launch), s.launches[li]? = some l → l.complete = false → l.job < s.jobs.length → ∃ m, t.launches[li]? = some m ∧ m.cancelled = true

/-- BAR0 of a function answers the host: the link is up, RESET_N is high, and in recovery only physical function 0 answers (R428, R440). -/
structure Answers (s : State) (f : Nat) : Prop where
  link : s.sys.link = true ∧ s.sys.low = false
  fn : f < 33 ∧ (s.sys.fwState = 2 → f = 0)

/-- A core's arrays are zero (R422, R523). -/
structure ArraysZero (c : Core) : Prop where
  pad : c.array = [] ∧ c.granEpoch = []
  tiles : c.tiles = [] ∧ c.tileEpoch = [] ∧ c.weight = []
  l1 : c.l1 = []

/-- A temperature of compute die or Canopy as THERMSTAT keeps it (R439). -/
def sensed (y : Sys) (celsius : Nat) (canopy : Bool) : Sys := if canopy then { y with cnpmax := celsius } else { y with coremax := celsius }

/-- What the critical action leaves (R522): the lowest clock, the sticky bit, and an event of kind 9. -/
def criticalAt (s : State) (celsius : Nat) (canopy : Bool) : State :=
  ({ s with sys := { sensed s.sys celsius canopy with clock := 12, cap := 12, crit := true, throtnow := true } } : State).post
    (partEvent 9 (BitVec.ofNat 64 (celsius % 256 + 256 * canopy.toNat)))

/-- A throttle point is exceeded (R439). -/
def Warm (core canopy : Nat) : Bool := decide (95 < core) || decide (90 < canopy)

/-- A reading's effect on the clock: 100 MHz less while a throttle point is exceeded, down to 1.2 GHz (R439). -/
def throttled (y : Sys) (core canopy : Nat) : Sys :=
  if Warm core canopy = true ∧ 12 < y.clock then
    { y with coremax := core, cnpmax := canopy, throtnow := true, clock := y.clock - 1, cap := y.clock - 1, throt := true }
  else { y with coremax := core, cnpmax := canopy, throtnow := Warm core canopy }

end Sys2Proof.Spec
end

