-- ==== Sys2Proof/Safety.lean ====
section
/-! DEFINITION. What the statements are said in: Safety/ holds the vocabulary by part of the machine; here is what counts as a safe
step of the whole machine. -/

namespace Sys2Proof.Spec

open Machine

/-- A step answers a next state. -/
def Runs (o : Host.Outcome State Fault Refusal) : Prop := ∃ t, o = .next t

/-- Memory, and every core's scratchpad array, tiles and weight buffer, are in their canonical form. -/
structure Stored (s : State) : Prop where
  memory : Memory.wf s.mem = true
  arrays : ∀ c : Fin 64, Memory.wf s.cores[c].array = true
  tiles : ∀ c : Fin 64, Memory.wf s.cores[c].tiles = true
  weights : ∀ c : Fin 64, Memory.wf s.cores[c].weight = true

end Sys2Proof.Spec
end

