-- ==== Sys2Proof/Certificates/Slice0/Obligations.lean ====
section
/-! DEFINITION. The statements for the provers: one named proposition each, over the vocabulary of Safety. -/

open Sys2Proof Sys2Proof.Machine Sys2Proof.Spec

/-- Every IADD, ISUB, IMUL, IMULHI, IMIN, IMAX, IABS, AND, OR, XOR and ANDN that may issue completes in one step: each active thread receives the value the rule gives, in its entry and in lt1; the other threads, entries, predicates, registers and flags are as VecNext says, and nothing outside the group changes. (R170, R186, R187, R188, R142, R143, R144, R145) -/
def Obligations.IntegerArithmetic : Prop :=
  TableCompletes intTable

/-- Every POPC, CLZ, BREV, BFX, BITINS and SHRCAT that may issue completes in one step with the value of its rule in every active thread and the frame of VecNext. (R181, R182, R190) -/
def Obligations.BitCountsAndFields : Prop :=
  TableCompletes bitTable

/-- Every SHL, SHR, SAR, ROT (32 and 64 bits), LEA and IADD64 that may issue completes in one step with the value of its rule, in one entry or an entry pair, and the frame of VecNext. (R189) -/
def Obligations.ShiftsAndAddresses : Prop :=
  TableCompletes shiftTable

/-- Every MULADD, MULADDH, DP4S8, DP4U8, DP8S4, CHOOSE and MOV that may issue completes in one step with the value of its rule (V from the field order; wrapping or saturating dot products) and the frame of VecNext. (R173, R179, R180, R183, R185, R125) -/
def Obligations.MultiplyAddAndMoves : Prop :=
  TableCompletes mulTable

/-- Every IADDI, ANDI, ORI, XORI, SHLI, SHRI, SARI, IMULI, MOVI, MOVW, LEAI and IADDW that may issue completes in one step with the value of its rule and the frame of VecNext. (R154, R210) -/
def Obligations.ImmediateResults : Prop :=
  TableCompletes immTable

/-- Each 16-bit form that may issue completes as the V2 instruction of the same mnemonic with A = D, B = S with its last-use bit, mod 0 and S = 1 for IMIN alone would, with its own two bytes of length. (R138) -/
def Obligations.SixteenBitForms : Prop :=
  ∀ (i j : Instr) (l : LaneSpec), form16 i = some j →
    (intTable j = some l ∨ shiftTable j = some l ∨ mulTable j = some l ∨ floatTable j = some l) → VecCompletes i l.op l.f

/-- Every FADD, FSUB, FMUL, FMIN, FMAX, DADD, DMUL, DMIN, DMAX, HADD2, HMUL2, HMIN2, HMAX2, BADD2, BMUL2, FADDW and FMULW that may issue completes in one step: sign modifiers, the operation rounded once under FPMODE, the clamp of S, the flags gathered, and the frame of VecNext. (R194, R195, R121, R210, R111, R112, R114) -/
def Obligations.FloatingArithmetic : Prop :=
  TableCompletes floatTable

/-- Every FMA32, FMA64, FMAH2, FMAB2, DP4E4, DP4E5, DP8F4 and DP2H that may issue completes in one step with the value and flags of its rule and the frame of VecNext. (R125, R126, R177, R178, R183) -/
def Obligations.FusedAndDotProducts : Prop :=
  TableCompletes fusedTable

/-- Every FRCP, FRSQ, FSQRT, FEXP2, FLOG2, FSIN, FCOS, DRCP and DSQRT that may issue completes in one step: the T pipe gives the special values of R131 and a value of R130 or R132 elsewhere, clamped under S, written to D and lt2, with the frame of VecNext. (R130, R131, R132, R133, R199, R144) -/
def Obligations.TransPipeResults : Prop :=
  TableCompletes transTable

/-- Every FCLASS, FINT, CVT, PACK and UNPACK that may issue completes in one step with the value and flags of its rule, its widths taken from its format codes, and the frame of VecNext. (R197, R198, R200, R201, R202, R203) -/
def Obligations.ConversionResults : Prop :=
  TableCompletes convertTable

/-- Every XLANE, POLL in modes 3 and 4, SCAN, LRED and PMOV with mod 0 that may issue completes in one step with the value its rule gives each active thread and the frame of VecNext. (R204, R205, R206, R209) -/
def Obligations.LaneResults : Prop :=
  TableCompletes laneTable

/-- Every ICMP, ICMPI, FCMP, DCMP, HCMP2, POLL in modes 0 to 2, PCOMB and PMOV with mod 1 that may issue completes in one step: the predicates it names hold in each active thread the condition combined with the old value, inactive threads keep theirs, no latch stays valid, and nothing else changes but freed entries and flags. (R171, R172, R193, R196, R205, R208, R209, R211) -/
def Obligations.PredicateResults : Prop :=
  ∀ i l, predTable i = some l → PredCompletes i l

/-- MOVX and STX that may issue, with every active index inside the window, complete in one step: MOVX gives each active thread Main[b + idx] or the value of the entry that maps it; STX writes B there and leaves every other register of every thread as it was. With an active thread whose index is at or beyond the length they take the trap IX_BOUNDS, whose lane mask names exactly the threads with such an index, and write nothing. (R150, R174, R207, R212) -/
def Obligations.IndexedMoves : Prop :=
  (∀ s g x, Ready (.movx x) (movxUses x s) s g → g.ctx.latchesOk [⟨x.a, false⟩] = true →
    let v : VecOp := ⟨[⟨x.a, false⟩], x.d.toNat, x.w, false, .x⟩
    let c := g.ctx.begin (movxUses x s)
    g.ctx.mappedAll v.dest = true → (∀ t < 256, c.active.getLsbD t = true → index c x t < (window c x).len.toNat) →
    ∃ h, exec (.movx x) s = .next (s.setGroup s.cur h) ∧ Passed (.movx x) s g h ∧
      VecNext (.movx x) v c (fun t => word (mainAt c ((window c x).base.toNat + index c x t) t)) h.ctx) ∧
  (∀ s g x, Ready (.stx x) (stxUses x s) s g → g.ctx.latchesOk (stxSrcs x) = true →
    let c := g.ctx.begin (stxUses x s)
    (∀ t < 256, c.active.getLsbD t = true → index c x t < (window c x).len.toNat) →
    (window c x).base.toNat + (window c x).len.toNat ≤ c.main.length → c.main.length ≤ 256 →
    ∃ h, exec (.stx x) s = .next (s.setGroup s.cur h) ∧ Passed (.stx x) s g h ∧ StxNext x c h.ctx) ∧
  (∀ s g x i, (i = .movx x ∧ Ready i (movxUses x s) s g ∧ g.ctx.mappedAll (⟨[⟨x.a, false⟩], x.d.toNat, x.w, false, .x⟩ : VecOp).dest = true ∧
        g.ctx.begin (movxUses x s) = g.ctx ∨ i = .stx x ∧ Ready i (stxUses x s) s g ∧ g.ctx.begin (stxUses x s) = g.ctx) →
    g.ctx.latchesOk (stxSrcs x) = true →
    (∃ t < 256, g.ctx.active.getLsbD t = true ∧ (window g.ctx x).len.toNat ≤ index g.ctx x t) →
    ∃ t : TrapInfo, exec i s = .next (takeTrap s s.cur t (nextPc i g.ctx) (srcLatches (stxSrcs x)) none) ∧ t.cause = .ixBounds ∧
      ∀ k < 256, t.lanes.getLsbD k = (g.ctx.active.getLsbD k && decide ((window g.ctx x).len.toNat ≤ index g.ctx x k)))

/-- Every SMOV, SADD, SSUB, SMUL, SMULHI, SAND, SOR, SXOR, SSHL, SSHR, SSAR, SMIN, SMAX, SCMP, SSEL, SMOVW, SMOVD, SADDW, SPOPC, SCLZ, ACTMASK and ELECT that may issue completes in one step with the value its rule gives in the uniform registers or the flag it names; every other register and flag is unchanged. Every SFADD, SFMUL, SDADD, SDMUL and SCVT that may issue completes with the rounded or converted value of its operands in s[D], zero-extended, and its flags in FPFLAGS. (R213, R214, R217, R135) -/
def Obligations.UniformResults : Prop :=
  (∀ x l, uniTable (.smov x) = some l → UniCompletes (.smov x) l) ∧
  (∀ x l, uniTable (.sadd x) = some l → UniCompletes (.sadd x) l) ∧
  (∀ x l, uniTable (.ssub x) = some l → UniCompletes (.ssub x) l) ∧
  (∀ x l, uniTable (.smul x) = some l → UniCompletes (.smul x) l) ∧
  (∀ x l, uniTable (.smulhi x) = some l → UniCompletes (.smulhi x) l) ∧
  (∀ x l, uniTable (.sand x) = some l → UniCompletes (.sand x) l) ∧
  (∀ x l, uniTable (.sor x) = some l → UniCompletes (.sor x) l) ∧
  (∀ x l, uniTable (.sxor x) = some l → UniCompletes (.sxor x) l) ∧
  (∀ x l, uniTable (.sshl x) = some l → UniCompletes (.sshl x) l) ∧
  (∀ x l, uniTable (.sshr x) = some l → UniCompletes (.sshr x) l) ∧
  (∀ x l, uniTable (.ssar x) = some l → UniCompletes (.ssar x) l) ∧
  (∀ x l, uniTable (.smin x) = some l → UniCompletes (.smin x) l) ∧
  (∀ x l, uniTable (.smax x) = some l → UniCompletes (.smax x) l) ∧
  (∀ x l, uniTable (.scmp x) = some l → UniCompletes (.scmp x) l) ∧
  (∀ x l, uniTable (.ssel x) = some l → UniCompletes (.ssel x) l) ∧
  (∀ x k l, uniTable (.smovw x k) = some l → UniCompletes (.smovw x k) l) ∧
  (∀ x k l, uniTable (.smovd x k) = some l → UniCompletes (.smovd x k) l) ∧
  (∀ x k l, uniTable (.saddw x k) = some l → UniCompletes (.saddw x k) l) ∧
  (∀ x l, uniTable (.spopc x) = some l → UniCompletes (.spopc x) l) ∧
  (∀ x l, uniTable (.sclz x) = some l → UniCompletes (.sclz x) l) ∧
  (∀ x l, uniTable (.actmask x) = some l → UniCompletes (.actmask x) l) ∧
  (∀ x l, uniTable (.elect x) = some l → UniCompletes (.elect x) l) ∧
  (∀ x l, uniFloatTable (.sfadd x) = some l → UniCompletes (.sfadd x) l) ∧
  (∀ x l, uniFloatTable (.sfmul x) = some l → UniCompletes (.sfmul x) l) ∧
  (∀ x l, uniFloatTable (.scvt x) = some l → UniCompletes (.scvt x) l) ∧
  (∀ x l, uniFloatTable (.sdadd x) = some l → UniCompletes (.sdadd x) l) ∧
  (∀ x l, uniFloatTable (.sdmul x) = some l → UniCompletes (.sdmul x) l)

/-- BRD with fewer than 32 entries pushes the join address, the active mask, the threads not taken and their address, and goes to the taken threads, or on where there are none; JOIN at the top entry's join address starts the other path once or, once what the group sent has been performed, pops the entry and restores its mask; BRD on a full stack and JOIN on an empty one or at another address take DIV_STACK. (R44, R219, R457) -/
def Obligations.DivergenceStack : Prop :=
  (∀ s g sp p off joff, Ready (.brd sp p off joff) {} s g → (found g).dstack.length < 32 →
    let x := found g
    Moves (.brd sp p off joff) s g (if taken x p = 0 then nextPc (.brd sp p off joff) x else target x off.toInt)
      { x with dstack := pushed (.brd sp p off joff) x p (target x joff.toInt) :: x.dstack
               active := if taken x p = 0 then x.active else taken x p }) ∧
  (∀ s g sp e l, Ready (.join sp) {} s g → (found g).dstack = e :: l → (found g).pc = e.joinpc →
    if e.second = false ∧ e.elsemask ≠ 0 then
      Moves (.join sp) s g e.elsepc { found g with dstack := { e with second := true } :: l, active := e.elsemask }
    else s.outstanding s.cur = false →
      Moves (.join sp) s g (nextPc (.join sp) (found g)) { found g with dstack := l, active := e.outer }) ∧
  (∀ s g sp p off joff, Ready (.brd sp p off joff) {} s g → CanTrap s g → 32 ≤ (found g).dstack.length → DivTrap (.brd sp p off joff) s g) ∧
  (∀ s g sp, Ready (.join sp) {} s g → CanTrap s g →
    ((found g).dstack = [] ∨ ∃ e l, (found g).dstack = e :: l ∧ (found g).pc ≠ e.joinpc) → DivTrap (.join sp) s g)

/-- Every BRA, BRC, NOP (16 and 32 bits) and SETFPM that may issue completes in one step: BRA goes to its own address plus two bytes a parcel, BRC where its uniform condition has the sense asked for, the others to the next instruction; SETFPM writes FPMODE; nothing else changes but latches and entries that waited for freeing. CALL and CALLI with fewer than 64 entries push the next address and the divergence depth and go to their target; RET pops an entry of the depth in force and goes to its address; a full or empty stack and another depth take DIV_STACK, and an odd CALLI target ALIGN. (R137, R44, R45, R219, R220, R457) -/
def Obligations.BranchesCallsAndReturns : Prop :=
  (∀ s g sp off, Ready (.bra sp off) {} s g → Moves (.bra sp off) s g (target (found g) off.toInt) (found g)) ∧
  (∀ s g sp c sense off, Ready (.brc sp c sense off) {} s g →
    Moves (.brc sp c sense off) s g (if (found g).c[c] = sense then target (found g) off.toInt else nextPc (.brc sp c sense off) (found g)) (found g)) ∧
  (∀ s g, Ready .nop {} s g → Moves .nop s g (nextPc .nop (found g)) (found g)) ∧
  (∀ s g sp, Ready (.nop32 sp) {} s g → Moves (.nop32 sp) s g (nextPc (.nop32 sp) (found g)) (found g)) ∧
  (∀ s g sp mode, Ready (.setfpm sp mode) {} s g →
    Moves (.setfpm sp mode) s g (nextPc (.setfpm sp mode) (found g)) { found g with fpmode := mode.setWidth 64 }) ∧
  (∀ s g sp off, Ready (.call sp off) {} s g → (found g).cstack.length < 64 →
    Moves (.call sp off) s g (target (found g) off.toInt)
      { found g with cstack := ⟨nextPc (.call sp off) (found g), (found g).dstack.length⟩ :: (found g).cstack }) ∧
  (∀ s g sp k, Ready (.calli sp k) { sregs := 1#64 <<< k.toNat } s g → (found g).cstack.length < 64 → ((found g).getS k.toNat).getLsbD 0 = false →
    Moves (.calli sp k) s g ((found g).getS k.toNat)
      { found g with cstack := ⟨nextPc (.calli sp k) (found g), (found g).dstack.length⟩ :: (found g).cstack }) ∧
  (∀ s g sp e l, Ready (.ret sp) {} s g → (found g).cstack = e :: l → e.depth = (found g).dstack.length →
    Moves (.ret sp) s g e.ret { found g with cstack := l }) ∧
  (∀ s g sp off, Ready (.call sp off) {} s g → CanTrap s g → 64 ≤ (found g).cstack.length → DivTrap (.call sp off) s g) ∧
  (∀ s g sp k, Ready (.calli sp k) { sregs := 1#64 <<< k.toNat } s g → CanTrap s g → ((found g).getS k.toNat).getLsbD 0 = false →
    64 ≤ (found g).cstack.length → DivTrap (.calli sp k) s g) ∧
  (∀ s g sp k, Ready (.calli sp k) { sregs := 1#64 <<< k.toNat } s g → CanTrap s g → ((found g).getS k.toNat).getLsbD 0 = true →
    Traps (.calli sp k) s g (found g) .align 0 (found g).pc (nextPc (.calli sp k) (found g))) ∧
  (∀ s g sp, Ready (.ret sp) {} s g → CanTrap s g →
    ((found g).cstack = [] ∨ ∃ e l, (found g).cstack = e :: l ∧ e.depth ≠ (found g).dstack.length) → DivTrap (.ret sp) s g)

/-- REGION whose items all name main registers of the group writes back every DIRTY entry it does not keep, for every thread, and makes the new map: kept, loaded CLEAN or FREE; REGIONU copies each named s register into its slot and leaves the others; IXSET inside the group's registers sets base and length. An item or window beyond the registers takes ILLEGAL_OPERAND. (R146, R147, R150, R174) -/
def Obligations.Regions : Prop :=
  (∀ s g sp items, Ready (.region sp items) { all := true, post := true } s g → (∀ it ∈ items, it.v.toNat < g.regs) →
    ∃ h, exec (.region sp items) s = .next (s.setGroup s.cur h) ∧ Passed (.region sp items) s g h ∧
      RegionNext (.region sp items) items (found g) h.ctx) ∧
  (∀ s g sp items, Ready (.regionu sp items) { sregs := sregBits (items.map fun it => it.s.toNat) } s g →
    Moves (.regionu sp items) s g (nextPc (.regionu sp items) (found g)) { found g with
      slots := Vector.ofFn fun w : Fin 8 => match items.find? fun it => it.w == w with
        | some it => ⟨true, (found g).getS it.s.toNat⟩
        | none => (found g).slots[w] }) ∧
  (∀ s g sp ix base len, Ready (.ixset sp ix base len) {} s g → base.toNat + len.toNat ≤ g.regs →
    Moves (.ixset sp ix base len) s g (nextPc (.ixset sp ix base len) (found g)) { found g with ix := (found g).ix.set ix ⟨base, len⟩ }) ∧
  (∀ s g sp items, Ready (.region sp items) { all := true, post := true } s g → CanTrap s g → (∃ it ∈ items, g.regs ≤ it.v.toNat) →
    Traps (.region sp items) s g (found g) .illegalOperand 0 (found g).pc (nextPc (.region sp items) (found g))) ∧
  (∀ s g sp ix base len, Ready (.ixset sp ix base len) {} s g → CanTrap s g → g.regs < base.toNat + len.toNat →
    Traps (.ixset sp ix base len) s g (found g) .illegalOperand 0 (found g).pc (nextPc (.ixset sp ix base len) (found g)))

/-- BAR arrive and BARINIT that may issue complete with the barrier's count and phase changed; BAR wait completes where the phase differs from the group's seen number, consuming one phase and acquiring; BAR arrive-and-wait does both, in that order; where the phase has not changed the group waits at the instruction. (R222, R223, R224, R226, R537) -/
def Obligations.Barriers : Prop :=
  (∀ s g sp nb b, Ready (.barArrive sp nb) { rel := true, post := true } s g → BarrierIs s g nb.toNat b →
    Does (.barArrive sp nb) s (ownBarrier g nb.toNat (arrived b)) (nextPc (.barArrive sp nb) (found g)) (withBarrier s g nb.toNat (arrived b)) 0 (found g)) ∧
  (∀ s g sp nb n b, Ready (.barinit sp nb n) {} s g → BarrierIs s g nb.toNat b →
    Does (.barinit sp nb n) s (ownBarrier g nb.toNat (expecting b n.toNat)) (nextPc (.barinit sp nb n) (found g))
      (withBarrier s g nb.toNat (expecting b n.toNat)) 0 (found g)) ∧
  (∀ s g sp nb b, Ready (.barWait sp nb) { post := true } s g → BarrierIs s g nb.toNat b →
    if b.phase ≠ g.seen[Fin.ofNat 16 nb.toNat] then
      Does (.barWait sp nb) s (consumed g nb.toNat) (nextPc (.barWait sp nb) (found g)) (s.acquire g.core 2) 0 (found g)
    else Waits (.barWait sp nb) s g s nb.toNat) ∧
  (∀ s g sp nb b, Ready (.barArrivewait sp nb) { rel := true, post := true } s g → BarrierIs s g nb.toNat b →
    let g' := ownBarrier g nb.toNat (arrived b)
    let t := withBarrier s g nb.toNat (arrived b)
    if (arrived b).phase ≠ g.seen[Fin.ofNat 16 nb.toNat] then
      Does (.barArrivewait sp nb) s (consumed g' nb.toNat) (nextPc (.barArrivewait sp nb) (found g)) (t.acquire g.core 2) 0 (found g)
    else Waits (.barArrivewait sp nb) s g' t nb.toNat)

/-- YIELD that may issue parks its group at the continuation without its slot, its DIRTY entries written back; CARVE of a team without a resize under way arrives at once for the present size, and otherwise records the barrier, the size and the run of granules, cleaning the granules that leave L1; a size above 32, a twin or task team, a second resize and a run that L1 does not hold trap. (R148, R225, R227, R25) -/
def Obligations.YieldAndCarve : Prop :=
  (∀ s g sp nb off, Ready (.yield sp nb off) { post := true } s g →
    ∃ h, exec (.yield sp nb off) s = .next (s.setGroup s.cur h) ∧
      h = { g with ctx := h.ctx, hasSlot := false, status := .yielded nb.toNat (target (found g) off.toInt) } ∧ GaveUp (found g) h.ctx) ∧
  (∀ s g sp nb k tm, Ready (.carve sp nb k) { sregs := 1#64 <<< k.toNat } s g → s.teams[g.team]? = some tm →
    tm.twin = none → tm.taskQ = 0 → tm.carve = none →
    let n := ((found g).getS k.toNat).toNat
    let next := nextPc (.carve sp nb k) (found g)
    (∀ b, BarrierIs s g nb.toNat b → n = tm.scrLen → n ≤ 32 →
      Does (.carve sp nb k) s (ownBarrier g nb.toNat (arrived b)) next (withBarrier s g nb.toNat (arrived b)) 0 (found g)) ∧
    (n < tm.scrLen → n ≤ 32 →
      Does (.carve sp nb k) s g next ({ s with free := s.free + 1 }.modTeam g.team fun t => { t with carve := some (nb.toNat, n, tm.scrBase), carveAt := s.free }) 0 (found g)) ∧
    (∀ b, tm.scrLen < n → n ≤ 32 → s.carveRun tm n = some b →
      Does (.carve sp nb k) s g next ((s.modTeam g.team fun t => { t with carve := some (nb.toNat, n, b) }).shrinkL1 tm.core) 0 (found g)) ∧
    (CanTrap s g → 32 < n → Traps (.carve sp nb k) s g (found g) .illegalOperand 0 (found g).pc next) ∧
    (CanTrap s g → tm.scrLen < n → n ≤ 32 → s.carveRun tm n = none → Traps (.carve sp nb k) s g (found g) .carveDenied 0 (found g).pc next)) ∧
  (∀ s g sp nb k tm, Ready (.carve sp nb k) { sregs := 1#64 <<< k.toNat } s g → s.teams[g.team]? = some tm → CanTrap s g →
    (tm.twin ≠ none ∨ tm.taskQ ≠ 0 ∨ tm.carve ≠ none) → ((found g).getS k.toNat).toNat ≤ 32 →
    Traps (.carve sp nb k) s g (found g) .carveDenied 0 (found g).pc (nextPc (.carve sp nb k) (found g)))

/-- EXIT of a group that runs no combiner and holds no effects writes its DIRTY entries back and ends it, other groups going on; a graphics group whose requests have been performed also releases every reservation. KILL removes the threads whose predicate holds: the group goes on where some are active, resumes at the innermost join whose pending path has threads, and ends where none has. (R221, R268, R230, R384, R148) -/
def Obligations.GroupEnds : Prop :=
  (∀ s g sp, Ready (.exit sp) { post := true, eng := true } s g → g.kind ≠ .combiner → g.gfx = none →
    ∃ t, exec (.exit sp) s = .next t ∧ Ended s t g (found g) ∧ OthersGoOn s t) ∧
  (∀ s g sp x, Ready (.exit sp) { post := true, eng := true } s g → g.kind ≠ .combiner → g.gfx = some x → x.held = [] → s.outstanding s.cur = false →
    ∃ t, exec (.exit sp) s = .next t ∧ Ended s t g (found g) ∧ OthersGoOn s t ∧
      (∃ h y, t.groups[s.cur]? = some h ∧ h.gfx = some y ∧ y.released = BitVec.allOnes 256) ∧
      ∀ p q, s.passes[x.pass]? = some p → t.passes[x.pass]? = some q →
        ∀ r ∈ q.reserved, ∀ k ∈ x.keys, k.1 < 256 → x.released.getLsbD k.1 = false → r.2 ≠ k.2) ∧
  (∀ s g sp p, Ready (.kill sp p) {} s g → g.gfx = none → (without (found g) (taken (found g) p)).active ≠ 0 →
    Moves (.kill sp p) s g (nextPc (.kill sp p) (found g)) (without (found g) (taken (found g) p))) ∧
  (∀ s g sp p e l, Ready (.kill sp p) {} s g → g.gfx = none → (without (found g) (taken (found g) p)).active = 0 →
    pendingPath (without (found g) (taken (found g) p)).dstack = e :: l →
    Moves (.kill sp p) s g e.joinpc { without (found g) (taken (found g) p) with dstack := e :: l }) ∧
  (∀ s g sp p, Ready (.kill sp p) {} s g → g.kind ≠ .combiner → g.gfx = none → (without (found g) (taken (found g) p)).active = 0 →
    pendingPath (without (found g) (taken (found g) p)).dstack = [] →
    ∃ t, exec (.kill sp p) s = .next t ∧ Ended s t g (found g) ∧ OthersGoOn s t)

/-- SPAWN of 1 to 32 groups at an entry of the kernel, with that many pool slots free, completes with the groups created: each starts at the entry with the spawner's s0 to s7, its index in s8 and GROUP 255, and waits for an operand-buffer slot, its core having acquired; a count or entry out of range takes ILLEGAL_OPERAND, and too few pool slots SPAWN_EMPTY. (R64, R40, R63) -/
def Obligations.SpawnedGroups : Prop :=
  (∀ s g sp k entry l tm pc t, Ready (.spawn sp k entry) { sregs := 1#64 <<< k.toNat } s g → s.launches[g.launch]? = some l →
    s.teams[g.team]? = some tm → tm.twin ≠ some g.team →
    let n := ((found g).getS k.toNat).toNat
    let s1 := s.setGroup s.cur { g with ctx := found g }
    1 ≤ n → n ≤ 32 → entry.toNat < l.kernel.entries → n ≤ s.poolTotal g.core g.launch →
    s.devRead g.job (l.kernel.entryTable + BitVec.ofNat 64 (8 * entry.toNat)) 8 = .ok pc →
    spawnGroups s.cur { g with ctx := found g } (BitVec.ofNat 64 pc) l n 0 s1 = some t →
    Does (.spawn sp k entry) s g (nextPc (.spawn sp k entry) (found g)) (t.acquire g.core 31) 0 (found g) ∧ t.groups.length = s.groups.length + n ∧
      ∀ j < n, ∃ h, t.groups[s.groups.length + j]? = some h ∧ Spawned { g with ctx := found g } tm (BitVec.ofNat 64 pc) j h) ∧
  (∀ s g sp k entry l, Ready (.spawn sp k entry) { sregs := 1#64 <<< k.toNat } s g → CanTrap s g → s.launches[g.launch]? = some l →
    let n := ((found g).getS k.toNat).toNat
    (n = 0 ∨ 32 < n ∨ l.kernel.entries ≤ entry.toNat → Traps (.spawn sp k entry) s g (found g) .illegalOperand 0 (found g).pc (nextPc (.spawn sp k entry) (found g))) ∧
    (1 ≤ n → n ≤ 32 → entry.toNat < l.kernel.entries → s.poolTotal g.core g.launch < n →
      Traps (.spawn sp k entry) s g (found g) .spawnEmpty 0 (found g).pc (nextPc (.spawn sp k entry) (found g))))

/-- TRAP that may issue enters the job's handler with SOFT_TRAP and its code, and BKPT with BREAKPOINT where no debugger has armed the core: the fault record and frame are written at the group's frame, entries are written back, s0 and s1 give frame and cause, and a retry goes on at the next instruction. Where the core is armed, BKPT halts the group with its address past it. (R229, R457, R448, R456, R447, R460) -/
def Obligations.SoftwareTraps : Prop :=
  (∀ s g sp code, Ready (.trap sp code) {} s g → CanTrap s g →
    Traps (.trap sp code) s g (found g) .softTrap code (nextPc (.trap sp code) (found g)) (nextPc (.trap sp code) (found g))) ∧
  (∀ s g sp, Ready (.bkpt sp) {} s g → CanTrap s g → (s.core g.core).debugArmed = false →
    Traps (.bkpt sp) s g (found g) .breakpoint 0 (nextPc (.bkpt sp) (found g)) (nextPc (.bkpt sp) (found g))) ∧
  (∀ s g sp, Ready (.bkpt sp) {} s g → (s.core g.core).debugArmed = true →
    ∃ h, exec (.bkpt sp) s = .next (s.setGroup s.cur h) ∧ h.status = .halted ∧ h.ctx.pc = nextPc (.bkpt sp) (found g) ∧ Plain 0 (found g) h.ctx ∧
      h = { g with ctx := h.ctx, status := .halted, icount := h.icount, retry := none, absent := none })

/-- TRET in a handler with a valid frame restores the context that the frame holds and leaves handler state: action 0 of a trap that is not deferred resumes at the restart address with the lanes done kept for the retry, 1 past the instruction, 2 at the target; 3 ends the group and faults its launch, 4 also cancels it. A frame that fails the first test is a double fault, which ends the group and fails its launch, and TRET outside a handler takes PRIVILEGE. (R229, R458, R459, R460, R461) -/
def Obligations.TrapReturns : Prop :=
  (∀ s g sp v tr, Ready (.tret sp) { all := true, post := true } s g → g.handler = true → g.trapSave = some v → v.cause ≠ .preempt →
    readFrame s { g with ctx := found g } (g.frame.getD 0) = some tr →
    let g' := { g with ctx := found g }
    Restored s g' (g.frame.getD 0) (found g) tr.ctx ∧
    (tr.action = 0 → v.deferred = false → ∃ h, exec (.tret sp) s = .next (s.setGroup s.cur h) ∧ Resumes s g tr.ctx v.restart h ∧
      h.retry = some ⟨v.xpc, tr.done, tr.replies⟩) ∧
    (tr.action = 1 → ∃ h, exec (.tret sp) s = .next (s.setGroup s.cur h) ∧ Resumes s g tr.ctx v.skip h) ∧
    (tr.action = 2 → ∃ h, exec (.tret sp) s = .next (s.setGroup s.cur h) ∧ Resumes s g tr.ctx tr.target h) ∧
    (tr.action = 3 → g.kind ≠ .combiner → g.gfx = none → ∃ t, exec (.tret sp) s = .next t ∧ Ended s t g tr.ctx ∧ Fails s t g.launch false) ∧
    (tr.action = 4 → ∃ t h, exec (.tret sp) s = .next t ∧ t.groups[s.cur]? = some h ∧ h.status = .exited ∧ Fails s t g.launch true)) ∧
  (∀ s g sp v, Ready (.tret sp) { all := true, post := true } s g → g.kind ≠ .combiner → g.handler = true → g.frame.isSome = true → g.trapSave = some v →
    BadFrame s { g with ctx := found g } (g.frame.getD 0) (found g) →
    ∃ t h, exec (.tret sp) s = .next t ∧ t.groups[s.cur]? = some h ∧ h.status = .exited ∧ Fails s t g.launch true) ∧
  (∀ s g sp, Ready (.tret sp) {} s g → CanTrap s g →
    Traps (.tret sp) s g (found g) .privilege 0 (found g).pc (nextPc (.tret sp) (found g)))

/-- SREAD that may issue completes with the special register in d, CYCLE read as a later count of the core's clock; SWRITE of FPMODE, FPFLAGS and STOREHASH completes with the register written, reserved bits ignored. (R218, R111, R134, R7, R26) -/
def Obligations.SpecialRegisters : Prop :=
  (∀ s g x, Ready (.sread x) { sregs := sregBits [x.d.toNat] } s g → x.a ≠ 12 →
    Moves (.sread x) s g (nextPc (.sread x) (found g)) ((found g).setS x.d.toNat (BitVec.ofNat 64 (specialOf s g (found g) x.a.toNat)))) ∧
  (∀ s g x, Ready (.sread x) { sregs := sregBits [x.d.toNat] } s g → x.a = 12 →
    ∃ n, 0 < n ∧
      let c := (s.core g.core).cycle + BitVec.ofNat 64 n
      Does (.sread x) s g (nextPc (.sread x) (found g)) { (s.setCore g.core { s.core g.core with cycle := c }) with free := s.free + 1 } 0
        ((found g).setS x.d.toNat c)) ∧
  (∀ s g x, Ready (.swrite x) { sregs := sregBits [x.b.toNat] } s g →
    let v := (found g).getS x.b.toNat
    (x.a = 13 → Moves (.swrite x) s g (nextPc (.swrite x) (found g)) { found g with fpmode := v &&& 15 }) ∧
    (x.a = 14 → Moves (.swrite x) s g (nextPc (.swrite x) (found g)) { found g with fpflags := v &&& 31 }) ∧
    (x.a = 19 → Moves (.swrite x) s g (nextPc (.swrite x) (found g)) { found g with storehash := v }))

/-- Every LD8, LD8S, LD16, LD16S, LD32, LD64, LD128, LDPK, LDA, SLD and SLDA that may issue, whose lanes' accesses are aligned and reach memory, completes: its request holds for each lane the words of the bytes read, extended to its destination, or the lane's deferred cause; split-phase in a scoreboard slot, or blocking the group for a uniform load; memory and every other core keep their contents but for dirty private lines written back, and an acquire drops the core's lines of global data. (R231, R232, R234, R240, R215, R149, R263, R266, R278) -/
def Obligations.Loads : Prop :=
  (∀ x l, loadTable (.ld8 x) = some l → LoadCompletes (.ld8 x) l) ∧
  (∀ x l, loadTable (.ld8s x) = some l → LoadCompletes (.ld8s x) l) ∧
  (∀ x l, loadTable (.ld16 x) = some l → LoadCompletes (.ld16 x) l) ∧
  (∀ x l, loadTable (.ld16s x) = some l → LoadCompletes (.ld16s x) l) ∧
  (∀ x l, loadTable (.ld32 x) = some l → LoadCompletes (.ld32 x) l) ∧
  (∀ x l, loadTable (.ld64 x) = some l → LoadCompletes (.ld64 x) l) ∧
  (∀ x l, loadTable (.ld128 x) = some l → LoadCompletes (.ld128 x) l) ∧
  (∀ x l, loadTable (.ldpk x) = some l → LoadCompletes (.ldpk x) l) ∧
  (∀ x o l, loadTable (.lda x o) = some l → LoadCompletes (.lda x o) l) ∧
  (∀ x l, loadTable (.sld x) = some l → LoadCompletes (.sld x) l) ∧
  (∀ x o l, loadTable (.slda x o) = some l → LoadCompletes (.slda x o) l)

/-- Every ST8, ST16, ST32, ST64, ST128, STL, SST and SSTL that may issue, whose lanes' accesses are aligned and reach memory (after a trap, those of the lanes its frame does not say are done), completes: the bytes of those lanes are stored at the addresses of the rule, every other byte of memory is unchanged (but in a line that another secure job enciphered), and the store hash steps for every active lane; inside a replay region a store that the region holds goes to the release buffer and memory does not change. (R231, R232, R234, R266, R271, R318, R478, R417) -/
def Obligations.Stores : Prop :=
  (∀ x l, storeTable (.st8 x) = some l → StoreCompletes (.st8 x) l ∧ StoreHeld (.st8 x) l) ∧
  (∀ x l, storeTable (.st16 x) = some l → StoreCompletes (.st16 x) l ∧ StoreHeld (.st16 x) l) ∧
  (∀ x l, storeTable (.st32 x) = some l → StoreCompletes (.st32 x) l ∧ StoreHeld (.st32 x) l) ∧
  (∀ x l, storeTable (.st64 x) = some l → StoreCompletes (.st64 x) l ∧ StoreHeld (.st64 x) l) ∧
  (∀ x l, storeTable (.st128 x) = some l → StoreCompletes (.st128 x) l ∧ StoreHeld (.st128 x) l) ∧
  (∀ x o l, storeTable (.stl x o) = some l → StoreCompletes (.stl x o) l ∧ StoreHeld (.stl x o) l) ∧
  (∀ x l, storeTable (.sst x) = some l → StoreCompletes (.sst x) l ∧ StoreHeld (.sst x) l) ∧
  (∀ x o l, storeTable (.sstl x o) = some l → StoreCompletes (.sstl x o) l ∧ StoreHeld (.sstl x o) l)

/-- Every ATOM, RED, SATOM, CALLM and POSTM that may issue, whose lanes' accesses reach memory of the kind it needs (aligned, for an atomic), completes: one request for each lane that was not done before a trap is on its way in ascending lane order with the operands of the rule, the others having the replies their frame saved, its result guarded by a scoreboard slot, blocking the group, or none. (R234, R235, R236, R279, R282, R297, R298, R454, R461) -/
def Obligations.AtomicRequests : Prop :=
  (∀ x o l, atomTable (.atom x o) = some l → AtomCompletes (.atom x o) l) ∧
  (∀ x o l, atomTable (.red x o) = some l → AtomCompletes (.red x o) l) ∧
  (∀ x o l, atomTable (.satom x o) = some l → AtomCompletes (.satom x o) l) ∧
  (∀ x o, MethodCompletes (.callm x o) x o false) ∧ ∀ x o, MethodCompletes (.postm x o) x o true

/-- LDS, STS and ATOMS that may issue, with every offset aligned and inside the scratchpad, complete: LDS returns the bytes of each lane; STS outside a replay region stores those of the lanes not done before a trap, leaving every other byte, and steps the store hash for every lane; ATOMS applies the operation of the lanes not done in ascending lane order and returns each old value, or a done lane's saved reply. No other state changes. (R237, R25, R227, R235, R318, R149, R461) -/
def Obligations.Scratchpad : Prop :=
  (∀ s g x k base size,
    let m := padOp x false (entRange x.d.toNat (max 1 (padBytes x / 4))) 0 false
    let c := g.ctx.begin m.uses
    Ready (.lds x) m.uses s g → g.ctx.latchesOk m.srcs = true → g.ctx.mappedAll m.dest = true → Scratch s g base size → InPad c x (padBytes x) size c.lanes →
    g.acquiring = false → g.freeSlot = some k →
    ∃ p, Does (.lds x) s (g.setSlot k (some p)) (nextPc (.lds x) c) s m.frees c ∧
      Issued (.lds x) c c.lanes (.entries x.d.toNat (max 1 (padBytes x / 4))) p ∧ p.causes = [] ∧
      ∀ t ∈ c.lanes, p.vals.lookup t = some (extended (padBytes x) false (leNat (s.scratchBytes g (base + (offsetOf x c t).toNat) (padBytes x))))) ∧
  (∀ s g x base size,
    let m := padOp x true 0 0 false
    let c := g.ctx.begin m.uses
    let n := padBytes x
    Ready (.sts x) m.uses s g → g.ctx.latchesOk m.srcs = true → Scratch s g base size → g.acquiring = false → g.inRegion = false →
    let lanes := laneIssues g c
    InPad c x n size lanes →
    ∃ t, Does (.sts x) s g (nextPc (.sts x) c) t m.frees (withHash c n (lanesOf c (offsetOf x c)) (dataOf x.b n)) ∧ OnlyCore s t g.core ∧
      (∀ a ∈ lanes, ∀ i < n, ∃ b ∈ lanes, ∃ j < n, (offsetOf x c b).toNat + j = (offsetOf x c a).toNat + i ∧
        padByte t g.core (base + (offsetOf x c a).toNat + i) = BitVec.ofNat 8 (dataOf x.b n c b / 2 ^ (8 * j))) ∧
      ∀ q, (∀ a ∈ lanes, ¬ (base + (offsetOf x c a).toNat ≤ q ∧ q < base + (offsetOf x c a).toNat + n)) → padByte t g.core q = padByte s g.core q) ∧
  (∀ s g x o k base size,
    let n := padBytes x
    let cmpAt := selNat x.a + (if n = 8 ∨ x.m = 1 then 2 else 1)
    let m := padOp x true (entRange x.d.toNat (max 1 (n / 4))) (if o.aop = 10 then entRange cmpAt (max 1 (n / 4)) else 0) (releasing o)
    let c := g.ctx.begin m.uses
    Ready (.atoms x o) m.uses s g → g.ctx.latchesOk m.srcs = true → g.ctx.mappedAll m.dest = true → Scratch s g base size → InPad c x n size (laneIssues g c) →
    g.acquiring = false → g.freeSlot = some k →
    let lanes := (laneIssues g c).map fun t => (t, (offsetOf x c t).toNat, dataIn (operandType o) x.b n c t, if o.aop = 10 then compareOf x n c t else 0)
    let r := padRun o.aop.toNat n base lanes (padByte s g.core)
    ∃ t p, Does (.atoms x o) s (g.setSlot k (some p)) (nextPc (.atoms x o) c) t m.frees c ∧ OnlyCore s t g.core ∧
      Issued (.atoms x o) c c.lanes (.entries x.d.toNat (n / 4)) p ∧ p.causes = [] ∧ (∀ q, padByte t g.core q = r.1 q) ∧
      (∀ q ∈ r.2, p.vals.lookup q.1 = some (extended n false q.2)) ∧
      ∀ q ∈ c.lanes, g.doneLanes.getLsbD q = true → p.vals.lookup q = some (extended n false (g.savedReply q)))

/-- LDP and STP that may issue, with every active offset aligned and under PRIVLIMIT and every piece reaching memory, complete: LDP returns the bytes at the interleaved addresses of the rule; STP outside a replay region writes them, in the core's L1 where the page is cacheable and in memory otherwise, leaves the other bytes of memory as they were but for lines written back or enciphered by another secure job, and steps the store hash. (R238, R266, R87, R239, R318) -/
def Obligations.PrivateMemory : Prop :=
  (∀ s g x k base l,
    let m := padOp x false (entRange x.d.toNat (max 1 (padBytes x / 4))) 0 false
    let c := g.ctx.begin m.uses
    let n := padBytes x
    Ready (.ldp x) m.uses s g → g.ctx.latchesOk m.srcs = true → g.ctx.mappedAll m.dest = true → PrivateReach s g c x n .read base c.lanes l →
    s.holdsBack s.cur g (l.map fun q => q.1) = false → g.freeSlot = some k →
    ∃ t p, Does (.ldp x) s (g.setSlot k (some p)) (nextPc (.ldp x) c) t m.frees c ∧ MemKept s t g.core ∧ OnlyCaches s t ∧
      Issued (.ldp x) c c.lanes (.entries x.d.toNat (max 1 (n / 4))) p ∧ (p.causes = l.filterMap fun q => t.loadCause g.job q.1 q.2.1) ∧
      ∀ a ∈ c.lanes, (∀ e ∈ p.causes, e.1 ≠ a) → p.vals.lookup a =
        some (extended n false (leNat ((l.filter fun q => q.1.lane == a).map fun q => t.loadBytes s.cur g false q.1 q.2.1).flatten))) ∧
  (∀ s g x base l,
    let m := padOp x true 0 0 false
    let c := g.ctx.begin m.uses
    let n := padBytes x
    let byte (q : LaneAcc × Nat × Nat) (j : Nat) : BitVec 8 := BitVec.ofNat 8 (dataOf x.b n c q.1.lane / 2 ^ (8 * (q.2.2 + j)))
    Ready (.stp x) m.uses s g → g.ctx.latchesOk m.srcs = true → PrivateReach s g c x n .write base (laneIssues g c) l → g.inRegion = false →
    s.holdsBack s.cur g (l.map fun q => q.1) = false → (∀ q ∈ l, deniedPa q.1.pa = false) → L1Ok (s.core g.core) →
    ∃ t, Does (.stp x) s g (nextPc (.stp x) c) t m.frees (withHash c n (lanesOf c (offsetOf x c)) (dataOf x.b n)) ∧ OnlyStores s t ∧
      (∀ d, coreIx d ≠ coreIx g.core → t.core d = s.core d) ∧
      ((∀ q ∈ l, q.1.cacheable = true) →
        (∀ q ∈ l, ∀ i < q.2.1, ∃ r ∈ l, ∃ j < r.2.1, r.1.pa + j = q.1.pa + i ∧ coreByte t g.core g.job true (q.1.pa + i) = byte r j) ∧
        ∀ pa, (∀ q ∈ l, ¬ (q.1.pa ≤ pa ∧ pa < q.1.pa + q.2.1)) → byteAt t pa = byteAt s pa ∨
          (s.foreign g.job pa).isSome ∨ ∃ ln ∈ (s.core g.core).l1, ln.line = pa / 128 ∧ byteAt t pa = ln.data.getD (pa % 128) 0) ∧
      ((∀ q ∈ l, q.1.cacheable = false) →
        (∀ q ∈ l, ∀ i < q.2.1, ∃ r ∈ l, ∃ j < r.2.1, r.1.pa + j = q.1.pa + i ∧ byteAt t (q.1.pa + i) = byte r j) ∧
        ∀ pa, (∀ q ∈ l, ¬ (q.1.pa ≤ pa ∧ pa < q.1.pa + q.2.1)) → byteAt t pa = byteAt s pa ∨ (s.foreign g.job pa).isSome))

/-- PREF that may issue completes, changing caches and counters alone, and a line of one lane that its core's L1 lacks is held afterwards and counted; FENCE completes, an acquire with observers leaving only private lines in its core's L1; RDLANE sends the value of the lane that b names to its register; BCAST writes a register to an entry or pair in every active thread. (R217, R241, R242, R269, R277, R278, R144) -/
def Obligations.PrefetchFenceAndBroadcast : Prop :=
  (∀ s g (x : Mem),
    let m : MemOp := { addr := ⟨x.a, x.m == 1⟩, data := none, dest := 0 }
    let c := g.ctx.begin m.uses
    Ready (.pref x) m.uses s g → g.ctx.latchesOk m.srcs = true →
    ∃ t, Does (.pref x) s g (nextPc (.pref x) c) t m.frees c ∧ MemKept s t g.core ∧ OnlyCaches s t ∧
      ∀ a pa, c.lanes = [a] → s.xlate g.core g.job (addrOf x 1 c a) .read false = .ok pa true → deniedPa pa = false →
        Machine.target s.gddrTop pa ≠ .reg → x.b.getLsbD 0 = false → (∀ ln ∈ (s.core g.core).l1, ln.line ≠ pa / 128) →
        s.lockedFor s.cur pa = false → s.ownObject s.cur pa = false →
        (∃ ln ∈ (t.core g.core).l1, ln.line = pa / 128) ∧ (t.core g.core).pfIssued = (s.core g.core).pfIssued + 1) ∧
  (∀ s g x o, Ready (.fence x o) { rel := true } s g → g.acquiring = false →
    Does (.fence x o) s g (nextPc (.fence x o) (found g)) (if acquiring o = true then s.acquire g.core o.mask else s) 0 (found g) ∧
    (o.mask ≠ 0 → ∀ ln ∈ ((s.acquire g.core o.mask).core g.core).l1, ln.priv = true)) ∧
  (∀ s g (x : Uni) k,
    let src : Src := ⟨x.a, x.mod.getLsbD 0⟩
    let u : Uses := { ents := src.ents, sregs := sregBits [x.b.toNat, x.d.toNat], latches := srcLatches [src] }
    let c := g.ctx.begin u
    Ready (.rdlane x) u s g → g.ctx.latchesOk [src] = true → g.freeSlot = some k →
    let v := c.read .int (x.mod.getLsbD 0) x.a ((c.getS x.b.toNat).toNat % 256)
    ∃ p, Does (.rdlane x) s (g.setSlot k (some p)) (nextPc (.rdlane x) c) s src.frees c ∧ Issued (.rdlane x) c [0] (.sreg x.d.toNat) p ∧
      p.causes = [] ∧ p.vals.lookup 0 = some [v.extractLsb' 0 32, v.extractLsb' 32 32]) ∧
  (∀ s g (x : Uni),
    let wide := x.mod.getLsbD 0
    let dest := entRange x.d.toNat (if wide then 2 else 1)
    Ready (.bcast x) { ents := dest, sregs := sregBits [x.a.toNat] } s g → g.ctx.mappedAll dest = true →
    ∃ z, Moves (.bcast x) s g (nextPc (.bcast x) (found g)) z ∧ z = { found g with entries := z.entries } ∧
      (∀ e < 16, dest.getLsbD e = false → z.entry e = (found g).entry e) ∧
      ∀ e < 16, dest.getLsbD e = true → (z.entry e).st = .dirty ∧ (z.entry e).map = ((found g).entry e).map ∧
        ∀ t < 256, (z.entry e).at t = if (found g).active.getLsbD t
          then ((found g).getS x.a.toNat).extractLsb' (32 * (e - x.d.toNat)) 32 else ((found g).entry e).at t)

/-- For the atomic that a home column performs next, where it is the only one of the update, BURL_ATOMIC_UPDATE writes the value that the operation computes from the old value, leaves every other byte of memory, answers the lane with the old value and takes the request away; of two requests with one integer operation to one word the first is performed, and the second with it or later; EDGE_ATOMIC does the same for the request its unit performs next. (R234, R282, R283, R311, R454) -/
def Obligations.PerformedAtomics : Prop :=
  (∀ s col r, s.nextAtom col = some r → s.burlRun col r = [r] → HomeReady s col r → Performs s r → ¬ (r.op = 11 ∧ r.reassoc = true) →
    ∃ t, exec (.burlAtomicUpdate col) s = .next t ∧ AtomDone s t r) ∧
  (∀ s col r q, s.nextAtom col = some r → s.atomics = [r, q] ∨ s.atomics = [q, r] → s.wordQueue col r = s.atomics → HomeReady s col r →
    HomeReady s col q → Performs s r → Performs s q → s.gates = [] →
    r ≠ q → q.job = r.job → q.pa = r.pa → q.bytes = r.bytes → q.op = r.op → r.op ≤ 9 → (r.bytes = 4 ∨ r.bytes = 8) → q.grp ≠ r.grp →
    let old := leNat ((List.range r.bytes).map fun i => byteAt s (r.pa + i))
    ∃ t mid, exec (.burlAtomicUpdate col) s = .next t ∧ atomResult r.op r.bytes old r.op1 r.cmp = some mid ∧
      ((t.atomics = [q] ∧ MemWith s t r.pa r.bytes (some mid)) ∨
       (t.atomics = [] ∧ (mid < 2 ^ (8 * r.bytes) → MemWith s t r.pa r.bytes (atomResult r.op r.bytes mid q.op1 q.cmp) ∧
        ∀ gi, q.grp = some gi → Answered s t gi q.slot q.lane (.ok (wordsOf r.bytes mid)))))) ∧
  (∀ s e r, s.nextEdge e = some r → Performs s r →
    ∃ t, exec (.edgeAtomic e) s = .next t ∧ AtomDone s t r)

/-- HOME_REQUEST_ARRIVAL makes the first request that its column can take pending for its object, or answers it with the cause that the checks find; COMBINER_LAUNCH starts the combiner of the object served first, with the batch, lanes and registers of the rule; a combiner past its instruction limit ends, its batch answered COMBINER and the later requests OBJ_POISONED. (R300, R301, R302, R304, R495, R496) -/
def Obligations.Homes : Prop :=
  (∀ s col r o, FirstFor s col r → deniedPa r.pa = false → s.recordLog r.job = none → s.admitMethod r col (s.objectFor r) = .ok (.ok o) →
    ∃ t, exec (.homeRequestArrival col) s = .next t ∧ t.methods = s.methods.eraseP (· == r) ∧ t.mem = s.mem ∧ t.groups = s.groups ∧
      t.arrivals = s.arrivals + 1 ∧
      ((s.objects.find? fun o => o.job == r.job && o.base == r.base) = none →
        t.objects = s.objects ++ [{ o with pending := o.pending ++ [{ r with order := s.arrivals }] }])) ∧
  (∀ s col r c gi k lane, FirstFor s col r → deniedPa r.pa = false → s.admitMethod r col (s.objectFor r) = .ok (.error c) → r.src = .lane gi k lane →
    ∃ t, exec (.homeRequestArrival col) s = .next t ∧ t.methods = s.methods.eraseP (· == r) ∧ t.mem = s.mem ∧ t.objects = s.objects ∧
      Answered s t gi k lane (.error (c, r.base))) ∧
  (∀ s col o r q, s.nextObject col = some o → s.homeSlot col = some q → o.pending.head? = some r → (∀ r ∈ o.pending, s.recordLog r.job = none) → (s.column col).on = true → s.powered col = true →
    ∃ t g batch rest, exec (.combinerLaunch col) s = .next t ∧ BatchOf o.pending batch rest r ∧ t.groups = s.groups ++ [g] ∧ g.part = q ∧
      CombinerStart o r batch col g ∧ t.methods = s.methods ∧ t.mem = s.mem ∧
      t.objects = s.objects.map fun x => if x.job == o.job && x.base == o.base
        then { x with pending := x.pending.drop batch.length, running := some (s.groups.length, batch) } else x) ∧
  (∀ s gi g o batch, s.groups[gi]? = some g → g.kind = .combiner → g.living = true → 16777216 ≤ g.icount → s.objectOf gi = some (o, batch) →
    s.homeXlate o.job (o.desc + 9) .read ≠ .wait → s.homeXlate o.job (o.desc + 9) .write ≠ .wait →
    ∃ t h, exec (.combinerInstructionLimit gi) s = .next t ∧ t.groups[gi]? = some h ∧ h.status = .gone ∧
      (∀ r ∈ batch, ∀ hi k lane, r.src = .lane hi k lane → hi ≠ gi → k ≤ 32 → ∀ x p, s.groups[hi]? = some x → x.pend k = some p →
        ∃ x' p', t.groups[hi]? = some x' ∧ x'.pend k = some p' ∧ (lane, Cause.combiner, o.base) ∈ p'.causes) ∧
      ∃ e ∈ t.events, e.code = 0x84 ∧ e.tag = 2)

/-- COPY, COPYG, STREAM and SQFENCE of the producer with room in the queue complete with one entry more, holding the record, barrier and registers of the rule; another group takes COPY_RIGHTS, and a row count or box count out of range ILLEGAL_OPERAND. An engine that moves its head entry, no earlier release toward it being on its way, ends it with an arrival; a box of whole-byte elements copied in puts each element at its place of the canonical layout; an entry that fails arrives as well and leaves its first error for the producer; a fence leaves every queue it heads together; a ring arrives after each box and ends with its last. (R48, R243, R244, R246, R247, R248, R249, R504, R505) -/
def Obligations.StreamEntries : Prop :=
  (∀ s g x k, Ready (.copy x k) (streamUses (fld k 8 3) 6) s g → s.isProducer g = true → (queueOf s g.core (fld k 0 0)).length < 32 →
    ∃ t e, Does (.copy x k) s g (nextPc (.copy x k) (found g)) t 0 (found g) ∧ Queued s t g.core (fld k 0 0) e ∧
      EntryOf s g (found g) (.copy (fld k 2 1)) (slotAt (found g) x.a) x.sub.toNat (regsFrom (found g) (fld k 8 3) 6) e) ∧
  (∀ s g x k, Ready (.copyg x k) (streamUses (fld k 8 3) 3) s g → s.isProducer g = true → (queueOf s g.core (fld k 0 0)).length < 32 →
    1 ≤ ((found g).getS (fld k 8 3 + 2)).toNat → ((found g).getS (fld k 8 3 + 2)).toNat ≤ 65536 →
    ∃ t e, Does (.copyg x k) s g (nextPc (.copyg x k) (found g)) t 0 (found g) ∧ Queued s t g.core (fld k 0 0) e ∧
      EntryOf s g (found g) .gather (slotAt (found g) x.a) x.sub.toNat (regsFrom (found g) (fld k 8 3) 3) e) ∧
  (∀ s g x k tm, Ready (.stream x k) (streamUses (fld k 19 14) 8) s g → s.isProducer g = true → (queueOf s g.core (fld k 0 0)).length < 32 →
    s.teams[g.team]? = some tm → 1 ≤ ((found g).getS (fld k 19 14 + 2)).toNat → ((found g).getS (fld k 19 14 + 2)).toNat < 2 ^ 32 →
    let drain := decide (fld k 1 1 = 1)
    ∃ t e, Does (.stream x k) s g (nextPc (.stream x k) (found g)) t 0 (found g) ∧ Queued s t g.core (fld k 0 0) e ∧
      EntryOf s g (found g) (.ring drain (fld k 5 2 + 1) (fld k 9 6) (fld k 13 10)) (slotAt (found g) x.a)
        (if drain then fld k 13 10 else fld k 9 6) (regsFrom (found g) (fld k 19 14) 8) e ∧
      e.began = if queueOf s g.core (fld k 0 0) = [] then some (tm.bars[Fin.ofNat 16 (if drain then fld k 9 6 else fld k 13 10)]).flips else none) ∧
  (∀ s g x q, Ready (.sqfence x) (streamUses 0 0) s g → s.isProducer g = true → x.sub.toNat = 2 ^ q → q < 2 → (queueOf s g.core q).length < 32 →
    ∃ t e, Does (.sqfence x) s g (nextPc (.sqfence x) (found g)) { t with fences := s.fences + 1 } 0 (found g) ∧ Queued s t g.core q e ∧
      EntryOf s g (found g) (.fence s.fences x.sub.toNat) 0 0 [] e) ∧
  (∀ s g x k, Ready (.copy x k) (streamUses (fld k 8 3) 6) s g → CanTrap s g → s.isProducer g = false →
    Traps (.copy x k) s g (found g) .copyRights 0 (found g).pc (nextPc (.copy x k) (found g))) ∧
  (∀ s g x k, Ready (.copyg x k) (streamUses (fld k 8 3) 3) s g → CanTrap s g → s.isProducer g = true →
    ((found g).getS (fld k 8 3 + 2)).toNat = 0 ∨ 65536 < ((found g).getS (fld k 8 3 + 2)).toNat →
    Traps (.copyg x k) s g (found g) .illegalOperand 0 (found g).pc (nextPc (.copyg x k) (found g))) ∧
  (∀ s core q e u, (queueOf s core q).head? = some e → s.entryDead e = false → s.entryWaits e = false → ((∃ d, e.kind = .copy d) ∨ e.kind = .gather) →
    s.moveEntry core e = .ok u → ∃ t, exec (.streamEntryComplete core q) s = .next t ∧ EntryEnds u t core q e ∧ t.mem = u.mem) ∧
  (∀ s core q e u c va, (queueOf s core q).head? = some e → s.entryDead e = false → s.entryWaits e = false → ((∃ d, e.kind = .copy d) ∨ e.kind = .gather) →
    s.moveEntry core e = .failed u c va → (((s.core core).sqErr[Fin.ofNat 2 q]).lookup e.grp) = none →
    (u.core core).sqErr = (s.core core).sqErr → ∃ t tr, exec (.streamEntryComplete core q) s = .next t ∧ EntryEnds u t core q e ∧
      (((t.core core).sqErr[Fin.ofNat 2 q]).lookup e.grp) = some tr ∧ tr.cause = c ∧ tr.pc = e.pc) ∧
  (∀ s core q e l tm, (queueOf s core q).head? = some e → s.entryDead e = false → s.entryWaits e = false → e.kind = .copy 0 → s.teams[e.team]? = some tm →
    s.entryLayout core e = .ok (some l) → l.format ≤ 1 → l.swizzled = false →
    let b := boxOf l.rank e.args.tail
    let off := (e.args.getD 0 0).toNat
    boxFits l b off (65536 * tm.scrLen) = true → (∀ r < b.rows, ∀ j < b.e0, ∃ v, s.readElem core e.job l (b.coord r j) = .ok v) →
    ∃ t, exec (.streamEntryComplete core q) s = .next t ∧ EntryEnds s t core q e ∧ t.mem = s.mem ∧
      ∀ r < b.rows, ∀ j < b.e0, ∀ v, s.readElem core e.job l (b.coord r j) = .ok v → v < 2 ^ l.width →
        bytesNat (padByte t core) (65536 * tm.scrBase + off + 128 * r + j * (l.width / 8)) (l.width / 8) = v) ∧
  (∀ s core q e id qs, (queueOf s core q).head? = some e → s.entryDead e = false → s.entryWaits e = false → e.kind = .fence id qs → s.fenceReady core id qs = true →
    ∃ t, exec (.streamEntryComplete core q) s = .next t ∧ t.mem = s.mem ∧
      ∀ k < 2, (queueOf t core k).length = (queueOf s core k).length - (if qs.testBit k then 1 else 0)) ∧
  (∀ s core q e m full empty u, (queueOf s core q).head? = some e → s.entryDead e = false → s.entryWaits e = false → e.kind = .ring false m full empty →
    s.ringReady e false m full empty = true → e.err = false → s.moveBox core e false m e.box = .ok u → (e.args.getD 2 0).toNat ≤ e.box + 1 →
    ∃ t, exec (.streamFillBox core q) s = .next t ∧ EntryEnds u t core q e ∧ t.mem = u.mem) ∧
  (∀ s core q e m full empty u tm, (queueOf s core q).head? = some e → s.entryDead e = false → s.entryWaits e = false → e.kind = .ring false m full empty →
    s.ringReady e false m full empty = true → e.err = false → s.moveBox core e false m e.box = .ok u → e.box + 1 < (e.args.getD 2 0).toNat →
    u.teams[e.team]? = some tm → ∃ t, exec (.streamFillBox core q) s = .next t ∧ t.mem = u.mem ∧
      (queueOf t core q).head? = some { e with box := e.box + 1 } ∧
      ∃ tm', t.teams[e.team]? = some tm' ∧ tm'.bars[Fin.ofNat 16 e.nb] = arrived tm.bars[Fin.ofNat 16 e.nb]) ∧
  (∀ s core q e m full empty u, (queueOf s core q).head? = some e → s.entryDead e = false → s.entryWaits e = false → e.kind = .ring true m full empty →
    s.ringReady e true m full empty = true → e.err = false → s.moveBox core e true m e.box = .ok u → (e.args.getD 2 0).toNat ≤ e.box + 1 →
    ∃ t, exec (.streamDrainBox core q) s = .next t ∧ EntryEnds u t core q e ∧ t.mem = u.mem) ∧
  (∀ s core q e m full empty u tm, (queueOf s core q).head? = some e → s.entryDead e = false → s.entryWaits e = false → e.kind = .ring true m full empty →
    s.ringReady e true m full empty = true → e.err = false → s.moveBox core e true m e.box = .ok u → e.box + 1 < (e.args.getD 2 0).toNat →
    u.teams[e.team]? = some tm → ∃ t, exec (.streamDrainBox core q) s = .next t ∧ t.mem = u.mem ∧
      (queueOf t core q).head? = some { e with box := e.box + 1 } ∧
      ∃ tm', t.teams[e.team]? = some tm' ∧ tm'.bars[Fin.ofNat 16 e.nb] = arrived tm.bars[Fin.ofNat 16 e.nb])

/-- MMA with its operands aligned and inside the scratchpad enters its operation in the tile's queue, and in both halves' queues for a pair; MBATCH closes the open batch and opens the next; MWAIT of a batch with nothing left sets the condition to whether it failed, and clears it for a batch that is not held; MDRAIN, MFILL and MZERO enter their operation, their group stalling for those ahead and for a drain to entries. (R27, R328, R329, R332, R333, R334, R335, R337, R349) -/
def Obligations.TileInstructions : Prop :=
  (∀ s g x k tile, Ready (.mma x k) {} s g → fld k 0 0 = 0 → TileOf s g x.sub.toNat tile →
    let (ga, ka, n) := (decide (fld k 1 1 = 1), fld k 4 2, 32 * (fld k 12 8 + 1))
    let (a, b) := (slotAt (found g) x.a, slotAt (found g) x.b)
    a.toNat % 128 = 0 → b.toNat % 4 = 0 → (ga = true ∨ ∃ tm, s.teams[g.team]? = some tm ∧ a.toNat + 16384 * panels ka n ≤ 65536 * tm.scrLen) →
    Does (.mma x k) s (batched g 1) (nextPc (.mma x k) (found g))
      (withOp s g.core tile (opOf s g (.mma none ga ka (fld k 7 5) n a b.toNat))) 0 (found g)) ∧
  (∀ s g x k tile tm, Ready (.mma x k) {} s g → fld k 0 0 = 1 → TileOf s g x.sub.toNat tile → s.teams[g.team]? = some tm → tm.twin ≠ none →
    g.core % 2 = 0 → g.core < 64 →
    let (ga, ka, n) := (decide (fld k 1 1 = 1), fld k 4 2, 32 * (fld k 12 8 + 1))
    let (a, b) := (slotAt (found g) x.a, slotAt (found g) x.b)
    let o (half : Bool) : TileOp := opOf s g (.mma (some half) ga ka (fld k 7 5) n a b.toNat)
    a.toNat % 128 = 0 → b.toNat % 4 = 0 → (ga = true ∨ a.toNat + 16384 * panels ka n ≤ 65536 * tm.scrLen) →
    Does (.mma x k) s (batched g 2) (nextPc (.mma x k) (found g))
      (withOp (withOp s g.core tile (o false)) (g.core + 1) tile (o true)) 0 (found g)) ∧
  (∀ s g x k, Ready (.mma x k) {} s g → CanTrap s g → fld k 0 0 = 1 → (g.core % 2 = 1 ∨ ∀ tm, s.teams[g.team]? = some tm → tm.twin = none) →
    Traps (.mma x k) s g (found g) .mmaRole 0 (found g).pc (nextPc (.mma x k) (found g))) ∧
  (∀ s g x, Ready (.mbatch x) {} s g → (∀ b ∈ g.batches, b.num = g.batch.num → b.left = 0) →
    Moves (.mbatch x) s { g with batches := (g.batch :: (g.batches.filter (fun b => b.num != g.batch.num))), batch := ⟨g.batch.seq + 1, (g.batch.num + 1) % 256, 0, false⟩ } (nextPc (.mbatch x) (found g)) (found g)) ∧
  (∀ s g x k, Ready (.mwait x k) {} s g → (∀ b ∈ g.batches, b.num ≠ fld k 7 0) →
    Moves (.mwait x k) s g (nextPc (.mwait x k) (found g)) ((found g).setC (fld k 9 8) false)) ∧
  (∀ s g x k b, Ready (.mwait x k) {} s g → (g.batches.find? fun b => b.num == fld k 7 0) = some b → b.left = 0 →
    Moves (.mwait x k) s g (nextPc (.mwait x k) (found g)) ((found g).setC (fld k 9 8) b.err)) ∧
  (∀ s g x tile, Ready (.mzero x) {} s g → TileOf s g x.sub.toNat tile → Enters (.mzero x) s g tile .zero false) ∧
  (∀ s g x k tile, fld k 0 0 = 0 → (let n := if fld k 5 4 = 0 then 8 else 4
    Ready (.mfill x k) { ents := entRange x.d.toNat n } s g → TileOf s g x.sub.toNat tile → g.ctx.mappedAll (entRange x.d.toNat n) = true →
    ∃ vals, Enters (.mfill x k) s g tile (.fill (some vals) (fld k 5 4) (fld k 3 1) 0) false ∧ vals.map (fun v => v.1) = (found g).lanes ∧
      (fld k 5 4 = 0 → ∀ v ∈ vals, v.2 = (List.range 8).map fun e => ((found g).entry (x.d.toNat + e)).at v.1) ∧
      (fld k 5 4 ≠ 0 → ∀ v ∈ vals, v.2 = (List.range 8).map fun e => BitVec.ofNat 32 (rne .b32
        ((if fld k 5 4 = 1 then Fmt.b16 else Fmt.bf16).num ((((found g).entry (x.d.toNat + e / 2)).at v.1).toNat / 65536 ^ (e % 2) % 65536)))))) ∧
  (∀ s g x k tile tm, Ready (.mfill x k) {} s g → fld k 0 0 = 1 → TileOf s g x.sub.toNat tile → s.teams[g.team]? = some tm →
    let a := slotAt (found g) x.a
    a.toNat % 128 = 0 → a.toNat + (if fld k 5 4 = 0 then 65536 else 32768) ≤ 65536 * tm.scrLen →
    Enters (.mfill x k) s g tile (.fill none (fld k 5 4) (fld k 3 1) a.toNat) false) ∧
  (∀ s g x k tile, fld k 0 0 = 0 → fld k 6 6 = 0 → fld k 7 7 = 0 → (let n := if fld k 5 4 = 0 then 8 else 4
    Ready (.mdrain x k) { ents := entRange x.d.toNat n } s g → TileOf s g x.sub.toNat tile → g.ctx.mappedAll (entRange x.d.toNat n) = true →
    Enters (.mdrain x k) s g tile (.drain (some x.d.toNat) (fld k 5 4) (fld k 3 1) false false 0 0) true)) ∧
  (∀ s g x k tile tm, Ready (.mdrain x k) {} s g → fld k 0 0 = 1 → TileOf s g x.sub.toNat tile → s.teams[g.team]? = some tm →
    let (rs, cs) := (decide (fld k 6 6 = 1), decide (fld k 7 7 = 1))
    let out := slotAt (found g) x.a
    let scale := if rs || cs then slotAt (found g) x.b else 0
    out.toNat % 128 = 0 → out.toNat + (if fld k 5 4 = 0 then 65536 else 32768) ≤ 65536 * tm.scrLen → scale.toNat % 16 = 0 →
    (rs = true ∨ cs = true → scale.toNat + (if rs && cs then 1024 else 512) ≤ 65536 * tm.scrLen) →
    Enters (.mdrain x k) s g tile (.drain none (fld k 5 4) (fld k 3 1) rs cs out.toNat scale.toNat) false)

/-- TILE_OPERATION_RETIRE performs the first operation of a queue that may go: MZERO leaves zeros; MFILL the elements its lanes gave; an MMA of operands in scratchpad adds to each element its chunks of 32 products, each rounded once; MDRAIN to entries gives each active thread its eight elements, and its stalled group goes on. The operation leaves, its batch counts it, and other tiles keep their elements. A fetch that stalled on a page retries once the page no longer misses. (R127, R323, R326, R328, R329, R334, R338, R339, R340, R498) -/
def Obligations.TileOperations : Prop :=
  (∀ s core tile o, tile < 16 → Front s core tile o → o.kind = .zero →
    ∃ t, exec (.tileOperationRetire core tile) s = .next t ∧ Retired s t core tile o ∧ OtherTiles s t core tile ∧ t.mem = s.mem ∧
      ∀ r < 128, ∀ c < 128, tileAt t core tile r c = 0) ∧
  (∀ s core tile o vals fmt band src, tile < 16 → band < 8 → Front s core tile o → o.kind = .fill (some vals) fmt band src →
    (vals.map fun v => v.1).Nodup → (∀ v ∈ vals, v.1 < 256 ∧ v.2.length = 8) →
    ∃ t, exec (.tileOperationRetire core tile) s = .next t ∧ Retired s t core tile o ∧ OtherTiles s t core tile ∧ t.mem = s.mem ∧
      (∀ v ∈ vals, ∀ e < 8, tileAt t core tile (rowOf band v.1) (colOf v.1 e) = v.2.getD e 0) ∧
      ∀ r < 128, ∀ c < 128, (∀ v ∈ vals, ∀ e < 8, (r, c) ≠ (rowOf band v.1, colOf v.1 e)) → tileAt t core tile r c = tileAt s core tile r c) ∧
  (∀ s core tile o ka kb k a b tm g, tile < 16 → Front s core tile o → o.kind = .mma none false ka kb k a b → s.teams[o.team]? = some tm →
    zGroups (s.core core).weightWord (kindFmt kb).width b (4 * k) = .ok g → 1 ≤ k / 32 →
    ∃ t, exec (.tileOperationRetire core tile) s = .next t ∧ Retired s t core tile o ∧ OtherTiles s t core tile ∧ t.mem = s.mem ∧
      ∀ r < 128, ∀ c < 128, tileAt t core tile r c =
        mmaElem ka kb k (tileAt s core tile r c).toNat (aElem s core (65536 * tm.scrBase) a.toNat ka r) fun n => g.getD (128 * n + c) []) ∧
  (∀ s core tile o d band g sp, tile < 16 → band < 8 → d + 7 < 16 → Front s core tile o → o.kind = .drain (some d) 0 band false false 0 0 →
    s.groups[o.grp]? = some g → g.status = .tileWait true o.issued sp → s.preempting g = false →
    ∃ t h, exec (.tileOperationRetire core tile) s = .next t ∧ Retired s t core tile o ∧ OtherTiles s t core tile ∧ t.mem = s.mem ∧
      t.groups[o.grp]? = some h ∧ h.status = .running ∧
      (∀ e < 8, ∀ n < 256, g.ctx.active.getLsbD n = true → (h.ctx.entry (d + e)).at n = tileAt s core tile (rowOf band n) (colOf n e)) ∧
      ∀ e < 16, (e < d ∨ d + 8 ≤ e) → h.ctx.entry e = g.ctx.entry e) ∧
  (∀ s core tile o va, ((s.core core).tileQ[Fin.ofNat 16 tile]).head? = some o → o.stalled = some va →
    (∃ pa c, s.xlate core o.job va .read true = .ok pa c) →
    ∃ t, exec (.aFetchResume core tile) s = .next t ∧
      t = s.setCore core { s.core core with
        tileQ := ((s.core core).tileQ.set (Fin.ofNat 16 tile) ({ o with stalled := none } :: ((s.core core).tileQ[Fin.ofNat 16 tile]).drop 1)) })

/-- NEVAL with windows wide enough, an aligned handle and a Whorl unit in the pair completes with one row for each active lane on its way and a scoreboard slot over its output window; a row that arrives enters the bin of its network or a free bin, and a bin of 256 rows forms a tile, as an idle one does, its layer operations entering the queues of tiles 14 and 15 of both arrays; once they are due, a tile of one row that matches its network answers the lane with the network's outputs, and a network that breaks the rules answers WHORL_LANE. (R28, R341, R342, R343, R344, R346, R347, R502) -/
def Obligations.WhorlEvaluations : Prop :=
  (∀ s g x k slot, Ready (.neval x k) (nevalUses k s) s g →
    let (nin, nout) := (fld k 9 4 + 1, fld k 15 10 + 1)
    let (ri, ro) := ((found g).ix[Fin.ofNat 4 (fld k 1 0)], (found g).ix[Fin.ofNat 4 (fld k 3 2)])
    let hd := slotAt (found g) x.a
    nin ≤ 2 * ri.len.toNat → nout ≤ 2 * ro.len.toNat → s.whorlRes g.core = true → hd.toNat % 64 = 0 → g.freeSlot = some slot → (found g).lanes ≠ [] →
    ∃ p rows, Does (.neval x k) s (batched (g.setSlot slot (some p)) 1) (nextPc (.neval x k) (found g))
        (withWhorl s (g.core / 2) { whorlOf s (g.core / 2) with queue := (whorlOf s (g.core / 2)).queue ++ [⟨g.job, hd, rows⟩] }) 0 (found g) ∧
      Issued (.neval x k) (found g) (found g).lanes (.main ro.base.toNat ((nout + 1) / 2)) p ∧ p.vals = [] ∧ p.causes = [] ∧
      rows = (found g).lanes.map fun t => ⟨s.cur, slot, t, nin, nout, g.batch.seq, whorlInputs (found g) ri.base.toNat nin t⟩) ∧
  (∀ s g x k, Ready (.neval x k) (nevalUses k s) s g → CanTrap s g → s.whorlRes g.core = false →
    Traps (.neval x k) s g (found g) .illegalOperand 0 (found g).pc (nextPc (.neval x k) (found g))) ∧
  (∀ s pair job hd r rest, (whorlOf s pair).queue = ⟨job, hd, [r]⟩ :: rest → (∀ b ∈ (whorlOf s pair).bins, ¬ (b.job = job ∧ b.handle = hd)) →
    (whorlOf s pair).bins.length < 16 →
    exec (.whorlRequestArrival pair) s = .next (withWhorl s pair
      ⟨rest, (whorlOf s pair).bins ++ [⟨job, hd, [r]⟩], (whorlOf s pair).tiles⟩)) ∧
  (∀ s pair job hd r rest rows, (whorlOf s pair).queue = ⟨job, hd, [r]⟩ :: rest → (whorlOf s pair).bins = [⟨job, hd, rows⟩] →
    exec (.whorlRequestArrival pair) s = .next
      (if 255 ≤ rows.length then layered (withWhorl s pair ⟨rest, [], (whorlOf s pair).tiles ++ [⟨job, hd, rows ++ [r]⟩]⟩) pair
       else withWhorl s pair ⟨rest, [⟨job, hd, rows ++ [r]⟩], (whorlOf s pair).tiles⟩)) ∧
  (∀ s pair bin b, (whorlOf s pair).bins[bin]? = some b →
    exec (.whorlIdleTileForm pair bin) s = .next (layered (withWhorl s pair
      ⟨(whorlOf s pair).queue, (whorlOf s pair).bins.eraseIdx bin, (whorlOf s pair).tiles ++ [b]⟩) pair)) ∧
  (∀ s pair job hd r rest n, (whorlOf s pair).tiles = ⟨job, hd, [r]⟩ :: rest → s.layersDue pair = true → s.readNetwork pair job hd = .ok (some n) → n.n0 = r.nin →
    n.outWidth = r.nout → ∃ t, exec (.whorlTileReturn pair) s = .next t ∧ (whorlOf t pair).tiles = rest ∧ t.mem = s.mem ∧
      Answered s t r.grp r.slot r.lane (.ok (packedWords (n.layers.foldl (fun x l => l.apply x) r.inputs)))) ∧
  (∀ s pair job hd r rest, (whorlOf s pair).tiles = ⟨job, hd, [r]⟩ :: rest → s.layersDue pair = true → s.readNetwork pair job hd = .ok none →
    ∃ t, exec (.whorlTileReturn pair) s = .next t ∧ (whorlOf t pair).tiles = rest ∧ t.mem = s.mem ∧
      Answered s t r.grp r.slot r.lane (.error (.whorlLane, hd)))

/-- TEX and TEXF that may issue, whose descriptor (and sampler) are in range and of the instruction's dimension and whose texels' accesses reach memory, complete: the request holds each lane's channels, filtered over the texels that its probes name or read from its one texel, or 0 outside the texture, in the words of its format, or the lane's deferred cause; TEXF blocks. TEXQ blocks with the sizes of a level, the levels, or whether a level is resident, and with 0 where its descriptor cannot be read. A descriptor that is not aligned traps. (R370, R371, R372, R373, R374, R375, R376, R379, R149, R454) -/
def Obligations.Textures : Prop :=
  (∀ s g x k slot t sm s1 s2 v l, Ready (.tex x k) { ents := entRange (selNat x.a) (texInputs k) ||| entRange x.d.toNat (texOutputs k) } s g →
    g.ctx.mappedAll (entRange x.d.toNat (texOutputs k)) = true → DescAt (.tex x k) x s g s1 t →
    readRecord (.tex x k) s1 s.cur (asFound g) (BitVec.ofNat 64 (t.table + 16 * x.sub.toNat)) 16 = .ok s2 v → sampler v = some sm → t.dim = fld k 1 0 →
    TexelsReach s2 s.cur (asFound g) t (fun n => texelsOf (probesOf (found g) x k t sm n)) l → g.freeSlot = some slot →
    ∃ u p, Does (.tex x k) s (g.setSlot slot (some p)) (nextPc (.tex x k) (found g)) u (usedUp x.a (texInputs k)) (found g) ∧ MemKept s u g.core ∧ OnlyCaches s u ∧
      Issued (.tex x k) (found g) (found g).lanes (.entries x.d.toNat (texOutputs k)) p ∧ p.write = false ∧
      TexResults (s2.touch s.cur (asFound g) false l) s.cur (asFound g) t l
        (fun n tx => texWords (decide (fld k 4 4 = 1)) (fld k 6 5 + 1) (texValue (probesOf (found g) x k t sm n) tx)) p) ∧
  (∀ s g x k t s1 l, Ready (.texf x k) { ents := entRange (selNat x.a) (texfInputs k) ||| entRange x.d.toNat (texOutputs k) } s g →
    g.ctx.mappedAll (entRange x.d.toNat (texOutputs k)) = true → DescAt (.texf x k) x s g s1 t → t.dim = fld k 1 0 →
    let at_ (n : Nat) : Option Texel := texfTexel t (wordsFrom (found g) (selNat x.a) (texCoords k) n)
      (if fld k 3 2 = 1 then ((found g).entry (selNat x.a + texCoords k)).at n |>.toNat else 0)
    TexelsReach s1 s.cur (asFound g) t (fun n => (at_ n).toList) l →
    ∃ u p, Blocks (.texf x k) s { g with block := some p } (nextPc (.texf x k) (found g)) u (found g) (usedUp x.a (texfInputs k)) ∧ MemKept s u g.core ∧
      OnlyCaches s u ∧
      Issued (.texf x k) (found g) (found g).lanes (.entries x.d.toNat (texOutputs k)) p ∧ p.write = false ∧
      TexResults (s1.touch s.cur (asFound g) false l) s.cur (asFound g) t l
        (fun n tx => texWords (decide (fld k 4 4 = 1)) (fld k 6 5 + 1) fun ch => match at_ n with | some q => (tx q).getD ch 0 | none => 0) p) ∧
  (∀ s g x v t, Ready (.texq x) { ents := entRange (selNat x.a) 1 ||| entRange x.d.toNat (if x.sub = 0 then 3 else 1) } s g →
    g.ctx.mappedAll (entRange x.d.toNat (if x.sub = 0 then 3 else 1)) = true → (slotAt (found g) x.b).toNat % 64 = 0 →
    (opened s g).queryWaits s.cur (asFound g) (slotAt (found g) x.b) = false → (opened s g).queryDesc s.cur (asFound g) (slotAt (found g) x.b) = some v → texDesc v = some t →
    ∃ p, Blocks (.texq x) s { g with block := some p } (nextPc (.texq x) (found g)) s (found g) (usedUp x.a 1) ∧ p.causes = [] ∧
      Issued (.texq x) (found g) (found g).lanes (.entries x.d.toNat (if x.sub = 0 then 3 else 1)) p ∧
      ∀ n ∈ (found g).lanes, p.vals.lookup n = some ((queryWords (opened s g) (asFound g) t x.sub.toNat
        (((found g).entry (selNat x.a)).at n).toNat).map fun q => BitVec.ofNat 32 q)) ∧
  (∀ s g x, Ready (.texq x) { ents := entRange (selNat x.a) 1 ||| entRange x.d.toNat (if x.sub = 0 then 3 else 1) } s g →
    g.ctx.mappedAll (entRange x.d.toNat (if x.sub = 0 then 3 else 1)) = true → (slotAt (found g) x.b).toNat % 64 = 0 →
    (opened s g).queryWaits s.cur (asFound g) (slotAt (found g) x.b) = false → (opened s g).queryDesc s.cur (asFound g) (slotAt (found g) x.b) = none →
    ∃ p, Blocks (.texq x) s { g with block := some p } (nextPc (.texq x) (found g)) s (found g) (usedUp x.a 1) ∧ p.causes = [] ∧
      ∀ n ∈ (found g).lanes, p.vals.lookup n = some (List.replicate (if x.sub = 0 then 3 else 1) 0)) ∧
  (∀ s g x k, Ready (.tex x k) { ents := entRange (selNat x.a) (texInputs k) ||| entRange x.d.toNat (texOutputs k) } s g →
    g.ctx.mappedAll (entRange x.d.toNat (texOutputs k)) = true → CanTrap s g → (slotAt (found g) x.b).toNat % 64 ≠ 0 →
    Traps (.tex x k) s g (found g) .align 0 (found g).pc (nextPc (.tex x k) (found g)))

/-- TRACE that may issue, with an aligned root, completes: under CLOSEST and ANY its request holds each lane's nearest or first hit, the words of a miss, or the lane's cause; under APPEND outside a replay region the hits of its lanes are inserted as fragments in lane order, and each lane is answered with the hits taken. (R397, R398, R399, R400, R401, R403, R539) -/
def Obligations.RayTraces : Prop :=
  (∀ s g x slot, x.sub ≠ 2 → Ready (.trace x) { ents := entRange (selNat x.a) 8 ||| entRange x.d.toNat 4 } s g →
    g.ctx.mappedAll (entRange x.d.toNat 4) = true → (slotAt (found g) x.b).toNat % 128 = 0 → g.acquiring = false → g.freeSlot = some slot →
    let any := decide (x.sub = 1)
    (∀ n ∈ (found g).lanes, laneWaits any (metBy s g x n) = false) →
    ∃ p, Does (.trace x) s (g.setSlot slot (some p)) (nextPc (.trace x) (found g)) (rayReads s g x any) (usedUp x.a 8) (found g) ∧
      Issued (.trace x) (found g) (found g).lanes (.entries x.d.toNat 4) p ∧ p.write = false ∧
      (any = false → ∀ n ∈ (found g).lanes, (∀ m ∈ metBy s g x n, m.failure = none) →
        p.vals.lookup n = some (hitWords (nearestHit (hitsOf (metBy s g x n)))) ∧ ∀ c ∈ p.causes, c.1 ≠ n) ∧
      (any = true → ∀ n ∈ (found g).lanes, ∀ h rest, metBy s g x n = .hit h :: rest → p.vals.lookup n = some (hitWords (some h))) ∧
      (∀ n ∈ (found g).lanes, metBy s g x n = [] → p.vals.lookup n = some [0x7F800000, 0xFFFFFFFF, 0, 0]) ∧
      ∀ n ∈ (found g).lanes, ∀ c va rest, metBy s g x n = .fault c va :: rest → (n, c, va) ∈ p.causes ∧ p.vals.lookup n = none) ∧
  (∀ s g x slot ps b, x.sub = 2 → Ready (.trace x) { ents := entRange (selNat x.a) 11 ||| entRange x.d.toNat 1 } s g →
    g.ctx.mappedAll (entRange x.d.toNat 1) = true → PassAt s g ps b → (∀ n ∈ (found g).lanes, keyAllowed b g ((found g).keyAt (selNat x.a + 8) n) = true) →
    (slotAt (found g) x.b).toNat % 128 = 0 → g.acquiring = false → g.freeSlot = some slot → g.inRegion = false → g.doneLanes = 0 →
    (∀ n ∈ (found g).lanes, ∀ m ∈ metBy s g x n, ∃ h, m = .hit h) →
    let work := appended s g x b.block
    insertsWait (opened s g) s.cur ps (work.flatMap fun w => w.2.1) = false →
    ∃ p, Issued (.trace x) (found g) (found g).lanes (.entries x.d.toNat 1) p ∧ p.vals = [] ∧ p.causes = [] ∧
      ∀ t h, appendHits ((rayReads s g x false).setGroup s.cur { g.setSlot slot (some p) with ctx := (found g).free (usedUp x.a 11) }) g.core s.cur ps
          (found g).pc slot work =
          (t, []) → t.groups[s.cur]? = some h → h.status = .running → h.again = none → h.rebuild = none → h.kind = g.kind → h.team = g.team →
        t.teams = s.teams → Does (.trace x) s h (nextPc (.trace x) (found g)) t (usedUp x.a 11) (found g))

/-- FLINS outside a replay region inserts its lanes' fragments in order and writes each lane's success to its predicate; inside a region with room it is held. FLRES answers the node at each lane's position. A fragment inserted in an empty list of a tile that a core holds is the list afterwards, with its depth, colour and sequence, in the lowest free node. FRAGMENT_LIST_INSERTION inserts the first waiting fragment and ends its reservation; TILE_RESOLVE resolves a tile by default, or starts the groups of its resolve team. IDEM commit performs the held effects and leaves the region, IDEM start performs them and takes a snapshot; outside graphics groups neither has an effect. (R388, R389, R390, R391, R395, R396, R403, R369, R378, R477, R478) -/
def Obligations.FragmentLists : Prop :=
  (∀ s g x ps b t oks, Ready (.flins x) { ents := entRange (selNat x.a) 6 } s g → PassAt s g ps b →
    (∀ n ∈ (found g).lanes, keyAllowed b g ((found g).keyAt (selNat x.a) n) = true) → g.inRegion = false →
    g.acquiring = false → insertsWait (opened s g) s.cur ps ((fragsOf (found g) x).map fun f => f.2) = false →
    insertLanes (opened s g) g.core ps (found g).pc (fragsOf (found g) x) = (t, oks, []) → t.groups = (opened s g).groups → t.teams = s.teams →
    ∃ z, Does (.flins x) s g (nextPc (.flins x) (found g)) t (usedUp x.a 6) z ∧ FragPreds x oks (found g) z) ∧
  (∀ s g x ps b f, Ready (.flins x) { ents := entRange (selNat x.a) 6 } s g → PassAt s g ps b →
    (∀ n ∈ (found g).lanes, keyAllowed b g ((found g).keyAt (selNat x.a) n) = true) → HasRoom s g f (32 * (found g).lanes.length) →
    Does (.flins x) s (holding g f (32 * (found g).lanes.length) (.flins (found g).pc x.d (fragsOf (found g) x))) (nextPc (.flins x) (found g)) s
      (usedUp x.a 6) (found g)) ∧
  (∀ s g x slot ps b, Ready (.flres x) { ents := entRange (selNat x.a) 2 ||| entRange x.d.toNat 5 } s g → PassAt s g ps b →
    g.ctx.mappedAll (entRange x.d.toNat 5) = true → (∀ n ∈ (found g).lanes, keyAllowed b g ((found g).keyAt (selNat x.a) n) = true) →
    g.freeSlot = some slot → g.acquiring = false →
    let v := (opened s g).ownView (asFound g)
    let places := (found g).lanes.flatMap fun n => v.listPlaces b ((found g).keyAt (selNat x.a) n)
    (∀ q ∈ places, (opened s g).placeBusy s.cur b.job q = false) → (∀ n ∈ (found g).lanes, ∃ l, v.listOf b ((found g).keyAt (selNat x.a) n) = .ok l) →
    ∃ p, Does (.flres x) s (g.setSlot slot (some p)) (nextPc (.flres x) (found g)) (s.forget g.core b.job places) (usedUp x.a 2) (found g) ∧
      Issued (.flres x) (found g) (found g).lanes (.entries x.d.toNat 5) p ∧ p.causes = [] ∧
      ∀ n ∈ (found g).lanes, ∀ l, v.listOf b ((found g).keyAt (selNat x.a) n) = .ok l →
        p.vals.lookup n = some (nodeWords l ((((found g).entry (x.d.toNat + 4)).at n).toNat % 256))) ∧
  (∀ s ps b (f : ListFrag) ti k tm head i, s.passes[ps]? = some b → b.block.immediate = false → b.block.keyOk f.key = true →
    (b.tiles.find? fun t => t.tile == b.block.tileOf f.key) = some ti → ti.team = some k → s.teams[k]? = some tm →
    s.tileRead b (b.block.tileOf f.key) (headOff b.block (b.block.sampleIx f.key)) 8 = .ok head → head / 2 ^ 24 % 256 = 0 → 1 ≤ b.block.budget →
    s.allocate b (b.block.tileOf f.key) = some i → i < 2 ^ 24 - 1 → f.seq < 2 ^ 32 →
    i < b.block.nodes ∧ i ∉ s.poolTaken b (b.block.tileOf f.key) ∧ (∀ j < i, j ∈ s.poolTaken b (b.block.tileOf f.key)) ∧
    ∃ r, insertFrag s ps f = .ok r ∧ r.ok = true ∧ r.taken = true ∧ r.s.mem = s.mem ∧
      r.s.listOf b f.key = .ok [⟨some i, f.depth.toNat, f.colour.toNat, f.seq, 0⟩]) ∧
  (∀ s ps b core f rest r, OnlyPass s ps b → b.toLists = f :: rest → f.core = core →
    insertFrag s ps ⟨f.key, f.depth, f.colours.getD 0 0, f.seq⟩ = .ok r →
    exec (.fragmentListInsertion core) s = .next (r.s.modPass ps fun q => { q with
      toLists := rest, reserved := q.reserved.filter fun u => !(u.1 == f.tile && u.2.1 == f.key && u.2.2 == f.seq) })) ∧
  (∀ s ps b tile, s.passes[ps]? = some b → b.live = true → b.stage = .finish → b.flushing = false → tile < b.block.tiles → b.patches = [] → b.diced = [] →
    b.grids = [] → b.reserved = [] → (∀ t ∈ b.tiles, t.resolved = false) →
    (b.resolveKernel = none → ∀ t, s.resolveDefault ps b tile = some t → exec (.tileResolve ps tile) s = .next t) ∧
    ∀ k u core ti w l, b.resolveKernel = some k → (∀ t ∈ b.tiles, t.resolving = []) → s.resolvePlace b k tile = some (u, core, ti) →
      u.startResolve ps b k tile core ti k.groups [] = some (w, l) →
      exec (.tileResolve ps tile) s = .next (w.modPass ps fun q => q.setTile tile fun t => { t with resolving := l })) ∧
  (∀ s g sp, Ready (.idemStart sp) {} s g → g.gfx = none → Moves (.idemStart sp) s g (nextPc (.idemStart sp) (found g)) (found g)) ∧
  (∀ s g sp, Ready (.idemCommit sp) {} s g → g.gfx = none → Moves (.idemCommit sp) s g (nextPc (.idemCommit sp) (found g)) (found g)) ∧
  (∀ s g sp t h y, Ready (.idemStart sp) {} s g → g.gfx ≠ none → Committed s t g h → h.gfx = some y → s.preempting g = false →
    Does (.idemStart sp) s (snapped (.idemStart sp) g h y) (nextPc (.idemStart sp) (found g)) t 0 h.ctx) ∧
  (∀ s g sp t h y, Ready (.idemCommit sp) {} s g → g.gfx ≠ none → Committed s t g h → h.gfx = some y →
    Does (.idemCommit sp) s { h with gfx := some { y with inRegion := false } } (nextPc (.idemCommit sp) (found g)) t 0 h.ctx) ∧
  (∀ s g f, s.groups[s.cur]? = some g → g.gfx = some f → f.held = [] → commitHeld (opened s g) s.cur =
    (s.setGroup s.cur { asFound g with gfx := some { f with held := [], heldBytes := 0 } }, none))

/-- ORDENT of a sample group whose lanes name their own fragments and have their turn completes with the lanes entered; of another group it traps ORDER_RULE. ORDLV outside a replay region ends its lanes' reservations and marks them released, and inside one with room it is held and they are leaving. FRAGMENT_GROUP_CLOSE closes a core's open fragment group; SAMPLE_GROUP_START starts the group of the closed one with the lowest sequence, with the entries and registers of the rule. SEQUENCE_WRAP and BIN_FLUSH of a pass that is drained start the numbers and the bins again and note it in the status. (R369, R380, R381, R383, R384, R387, R361, R477) -/
def Obligations.OrderedSections : Prop :=
  (∀ s g x gx b, Ready (.ordent x) { ents := entRange (selNat x.a) 2 } s g → OrderReady s g x gx b →
    Does (.ordent x) s { g with gfx := some { gx with entered := gx.entered ||| (found g).active } } (nextPc (.ordent x) (found g))
      (s.acquire g.core (if b.block.immediate then 1 else 0)) (usedUp x.a 1) (found g)) ∧
  (∀ s g x, Ready (.ordent x) { ents := entRange (selNat x.a) 2 } s g → CanTrap s g → g.gfx = none →
    Traps (.ordent x) s g (found g) .orderRule 0 (found g).pc (nextPc (.ordent x) (found g))) ∧
  (∀ s g x gx, Ready (.ordlv x) { ents := entRange (selNat x.a) 2, rel := true } s g → g.gfx = some gx → g.kind = .sample → gx.inRegion = false →
    (∀ n ∈ (found g).lanes, ∃ q, gx.fragOf n = some ((found g).keyAt (selNat x.a) n, q)) →
    Does (.ordlv x) s { g with gfx := some { gx with released := gx.released ||| leavers g gx, leaving := gx.leaving &&& ~~~leavers g gx } }
      (nextPc (.ordlv x) (found g)) (s.modPass gx.pass fun p => unreserved p gx (leavers g gx)) (usedUp x.a 1) (found g)) ∧
  (∀ s g x gx, Ready (.ordlv x) { ents := entRange (selNat x.a) 2, rel := true } s g → g.gfx = some gx → g.kind = .sample →
    (∀ n ∈ (found g).lanes, ∃ q, gx.fragOf n = some ((found g).keyAt (selNat x.a) n, q)) → leavers g gx ≠ 0 →
    let need := 4 * ((found g).lanes.filter fun n => (leavers g gx).getLsbD n).length
    HasRoom s g gx need →
    Does (.ordlv x) s { g with gfx := some { gx with held := gx.held ++ [.ordlv (leavers g gx)], heldBytes := gx.heldBytes + need
                                                     leaving := gx.leaving ||| leavers g gx } }
      (nextPc (.ordlv x) (found g)) s (usedUp x.a 1) (found g)) ∧
  (∀ s ps b core f rest, OnlyPass s ps b → (b.opened.filter fun x => x.core == core) = f :: rest →
    exec (.fragmentGroupClose core) s = .next (s.modPass ps fun q => { q with
      closed := q.closed ++ [f :: rest], opened := q.opened.filter fun x => x.core != core })) ∧
  (∀ s ps b core k l f rest area u ti seat, OnlyPass s ps b → b.sampleKernel = some k → b.closed = [l] → l = f :: rest → f.core = core →
    s.freeArea ps b = some area → s.gfxPlace b f.tile core k (s.oldestHere core (ps, lowestSeq l, 1)) = some (u, ti, seat) →
    s.recordLog b.job = none → s.replayLog b.job = none →
    ∃ t g, exec (.sampleGroupStart core) s = .next t ∧ t.groups = u.groups ++ [g] ∧ GfxStart ps b k .sample ti area f.tile seat g ∧
      SampleStart f.tile l g ∧ t.mem = u.mem ∧ ∀ q, u.passes[ps]? = some q → t.passes[ps]? = some { q with closed := q.closed.eraseP (· == l) }) ∧
  (∀ s ps b, s.passes[ps]? = some b → b.live = true → b.wrapDue = true →
    (s.drained ps b = true → exec (.sequenceWrap ps) s = .next (s.modPass ps fun q =>
      numberGrids { q with gridSeq := 0, seqwrap := true, flushing := false, grids := [], binUsed := 0, tiles := [] } b.diced)) ∧
    (s.drained ps b = false → exec (.sequenceWrap ps) s = .next (s.modPass ps fun q => { q with flushing := !q.block.immediate }))) ∧
  (∀ s ps b, s.passes[ps]? = some b → b.live = true → b.binDue = true →
    (s.drained ps b = true → exec (.binFlush ps) s = .next (s.modPass ps fun q =>
      numberGrids { q with binflush := true, flushing := false, grids := [], binUsed := 0, tiles := [] } b.diced)) ∧
    (s.drained ps b = false → exec (.binFlush ps) s = .next (s.modPass ps fun q => { q with flushing := true })))

/-- PATCH submits one patch for each lane from its record; GVTX of a grid group hands its lanes' vertex records to the sampler, at once or held in its region. PATCH_DICE takes the earliest patch of its core and numbers its grids in order; GRID_GROUP_START starts the group of the lowest grid of a core, with the registers and threads of the rule, and in a tiled pass takes the tile first; MICROPOLYGON_SAMPLE makes the fragments of the next micropolygon. An edge takes a point that is exactly on it in one direction only, so that two triangles of one edge never share a point of it. (R359, R360, R361, R363, R364, R365, R366, R367, R368, R377) -/
def Obligations.DicingAndSampling : Prop :=
  (∀ s g x lc ps b l, Ready (.patch x) { ents := entRange (selNat x.a) 2 } s g → s.launches[g.launch]? = some lc → lc.pass = some ps →
    s.passes[ps]? = some b → b.live = true →
    let at_ (n : Nat) : DWord := ((found g).entry (selNat x.a + 1)).at n ++ ((found g).entry (selNat x.a)).at n
    (∀ n ∈ (found g).lanes, (at_ n).toNat % 64 = 0) →
    Reaches (opened s g) (asFound g) .read true 64 ((found g).lanes.flatMap fun n => [(n, at_ n), (n, at_ n + 64)]) l →
    (opened s g).holdsBack s.cur (asFound g) l = false →
    let w := (opened s g).touch s.cur (asFound g) false l
    let record (n : Nat) := patchRecord (leNat ((l.filter fun a => a.lane == n).flatMap fun a => w.loadBytes s.cur (asFound g) false a 64))
    (∀ a ∈ l, w.loadCause g.job a 64 = none) → (∀ n ∈ (found g).lanes, record n ≠ none) →
    ∃ made, Does (.patch x) s g (nextPc (.patch x) (found g)) (w.modPass ps fun q => { q with patches := q.patches ++ made }) (usedUp x.a 2) (found g) ∧ MemKept s w g.core ∧
      OnlyCaches (opened s g) w ∧ made.length = (found g).lanes.length ∧
      ∀ (i n : Nat), (found g).lanes[i]? = some n → ∀ r, record n = some r → ∃ m : Patch, made[i]? = some m ∧ m.addr = at_ n ∧
        m.core = g.core ∧ m.launch = g.launch ∧ m.team = g.team ∧ m.grp = s.cur ∧ (m.user, m.rate, m.margin, m.corners) = r) ∧
  (∀ s g x k f, Ready (.gvtx x k) { ents := entRange (selNat x.a) (6 + 2 * fld k 2 0) } s g → g.gfx = some f → g.kind = .grid → f.gvtxDone = false →
    let recs := (found g).lanes.map fun n => (n, (List.range (6 + 2 * fld k 2 0)).map fun j => ((found g).entry (selNat x.a + j)).at n)
    (f.inRegion = false → Does (.gvtx x k) s { g with gfx := some { f with gvtxDone := true } } (nextPc (.gvtx x k) (found g))
      (s.handVertices s.cur f.pass (fld k 2 0) recs) (usedUp x.a (6 + 2 * fld k 2 0)) (found g)) ∧
    (HasRoom s g f (64 * recs.length) → Does (.gvtx x k) s { g with gfx := some { f with
        held := f.held ++ [.vertices (fld k 2 0) recs], heldBytes := f.heldBytes + 64 * recs.length, gvtxDone := true } }
      (nextPc (.gvtx x k) (found g)) s (usedUp x.a (6 + 2 * fld k 2 0)) (found g))) ∧
  (∀ s g x k, Ready (.gvtx x k) { ents := entRange (selNat x.a) (6 + 2 * fld k 2 0) } s g → CanTrap s g → (g.kind ≠ .grid ∨ g.gfx = none) →
    Traps (.gvtx x k) s g (found g) .illegalOperand 0 (found g).pc (nextPc (.gvtx x k) (found g))) ∧
  (∀ s ps b x, OnlyPass s ps b → b.diced = [] → s.firstPatch b = some x → s.earlierOpen ps x = false →
    exec (.patchDice x.core) s = .next (s.modPass ps fun q => numberGrids { q with patches := q.patches.eraseP (· == x) } (dicePatch b x))) ∧
  (∀ (b : Pass) l, b.block.immediate = true → (∀ q ∈ l, q.seq = 0) → b.gridSeq + l.length ≤ 2 ^ 24 →
    (numberGrids b l).grids = b.grids ++ l.mapIdx (fun i q => { q with seq := b.gridSeq + i }) ∧ (numberGrids b l).diced = [] ∧
    (numberGrids b l).gridSeq = b.gridSeq + l.length) ∧
  (∀ s ps b core q area u ti seat, OnlyPass s ps b → b.block.immediate = true → b.nextGrid core none = some q → s.freeArea ps b = some area →
    s.gfxPlace b q.tile q.core b.gridKernel (s.oldestHere q.core (ps, q.seq * 256, 0)) = some (u, ti, seat) →
    s.recordLog b.job = none → s.replayLog b.job = none →
    ∃ t g, exec (.gridGroupStart core) s = .next t ∧ t.groups = u.groups ++ [g] ∧ GfxStart ps b b.gridKernel .grid ti area q.tile seat g ∧ GridStart q g ∧
      t.mem = u.mem ∧ ∀ r, u.passes[ps]? = some r → ∃ r', t.passes[ps]? = some r' ∧
        r'.grids = r.grids.map fun y => if y.seq == q.seq && y.tile == q.tile then { y with grp := some s.groups.length } else y) ∧
  (∀ s ps b core tile, OnlyPass s ps b → b.block.immediate = false → b.processing = true → s.heldTile b core = none → s.nextTile ps b core = some tile →
    s.tileWaits b tile false = false → exec (.gridGroupStart core) s = .next (s.takeTile ps b tile core)) ∧
  (∀ s ps b core tile ti, OnlyPass s ps b → b.block.immediate = false → b.processing = true → s.heldTile b core = some (tile, ti) →
    s.tileWork ps b tile = false → s.halfQuiet ti = true → (∀ tm, s.teams[ti]? = some tm → s.queuesEmpty ti tm = true) → s.tileWaits b tile true = false →
    exec (.gridGroupStart core) s = .next (s.spillTile ps b tile ti)) ∧
  (∀ s ps b core q c recs vs, OnlyPass s ps b → b.toLists = [] → b.samplingGrid core ((s.heldTile b core).map fun y => y.1) = some q →
    q.verts = some (c, recs) → recs ≠ [] → q.next < q.nu * q.nv → quadOf q recs q.next = some vs →
    let u := s.modPass ps fun r => r.setGrid q fun y => { y with next := y.next + 1, sampled := decide (y.nu * y.nv ≤ y.next + 1) }
    let v := u.modPass ps fun r => { r with guard := r.guard || (sampleQuad b q.tile c vs).2 }
    ∀ w, (sampleQuad b q.tile c vs).1.foldl (fun s f => s.bind fun s => s.makeFrag ps core q.tile (256 * q.seq + q.next) c f) (some v) = some w →
      exec (.micropolygonSample core) s = .next w) ∧
  (∀ s ps b core q, OnlyPass s ps b → b.toLists = [] → b.samplingGrid core ((s.heldTile b core).map fun y => y.1) = some q → (∃ c, q.verts = some (c, [])) →
    exec (.micropolygonSample core) s = .next (s.modPass ps fun r => r.setGrid q fun y => { y with sampled := true })) ∧
  (∀ (s : State) ps core tile seq c key d cols (b : Pass) plane, s.passes[ps]? = some b → (Fmt.b32.num d).isNan = false →
    (Fmt.b32.num d).lt (Num.ofInt 0) = false → (Num.ofInt 1).lt (Fmt.b32.num d) = false →
    s.tileRead b (b.block.tileOf key) (depthOff b.block (b.block.sampleIx key)) 4 = .ok plane →
    (depthPasses b.block.depthFn d plane = false → s.makeFrag ps core tile seq c (key, d, cols) = some s) ∧
    (depthPasses b.block.depthFn d plane = true → c = 0 → ∀ u, s.tileWrite b (b.block.tileOf key) (depthOff b.block (b.block.sampleIx key)) 4 d = .ok u →
      s.makeFrag ps core tile seq c (key, d, cols) = some u) ∧
    (depthPasses b.block.depthFn d plane = true → c ≠ 0 → chan (cols.getD 0 0).toNat 3 = 0x3C00 → ∀ u v,
      s.tileWrite b (b.block.tileOf key) (colourOff (b.block.sampleIx key)) 8 (cols.getD 0 0).toNat = .ok u →
      u.tileWrite b (b.block.tileOf key) (depthOff b.block (b.block.sampleIx key)) 4 d = .ok v → s.makeFrag ps core tile seq c (key, d, cols) = some v)) ∧
  (∀ a b p : Int × Int, a ≠ b → edgeIn a b p = !edgeIn b a p)

/-- TKPUSH stores a record at the owner end where the queue has room and sets its flag, else clears it; TKPOP takes the newest record of its own core's queue and TKSTEAL the oldest of another core's of its job, into eight s registers with TASKREC, or clears the flag; TKDONE of a record whose flag is clear clears its c flag; of one with a counter it sends the decrement to the counter's home and waits, and once the old value is there it clears its c flag, unless that was 1: then the successor is pushed where the queue has room, and its address given otherwise. XCHG waits for its partner, and XCHG_PAIRING of two groups that name each other writes each one's values to the other. (R65, R67, R68, R250, R251, R252, R253, R282) -/
def Obligations.TasksAndExchange : Prop :=
  (∀ s g x k t, Ready (.tkpush x k) (takesRegs (fld k 7 2) 8) s g → OwnQueue s g t → t.taskTail < t.taskHead + t.taskQ / 64 →
    ∃ u, Does (.tkpush x k) s g (nextPc (.tkpush x k) (found g)) u 0 ((found g).setC (fld k 1 0) true) ∧
      Pushed s u g.team t (fun j => BitVec.ofNat 8 (((found g).getS (fld k 7 2 + j / 8)).toNat / 2 ^ (8 * (j % 8))))) ∧
  (∀ s g x k t, Ready (.tkpush x k) (takesRegs (fld k 7 2) 8) s g → OwnQueue s g t → t.taskHead + t.taskQ / 64 ≤ t.taskTail →
    Moves (.tkpush x k) s g (nextPc (.tkpush x k) (found g)) ((found g).setC (fld k 1 0) false)) ∧
  (∀ s g x k, Ready (.tkpush x k) (takesRegs (fld k 7 2) 8) s g → CanTrap s g → s.taskTeam g.core ≠ some g.team →
    Traps (.tkpush x k) s g (found g) .illegalOperand 0 (found g).pc (nextPc (.tkpush x k) (found g))) ∧
  (∀ s g x k t, Ready (.tkpop x k) (takesRegs (fld k 7 2) 8) s g → OwnQueue s g t → t.taskHead < t.taskTail →
    ∃ z, TookRecord s t (t.taskTail - 1) (fld k 7 2) (fld k 1 0) (found g) z ∧
      Does (.tkpop x k) s { g with taskrec := BitVec.ofNat 64 (g.core % 64 + 128) } (nextPc (.tkpop x k) (found g))
        (withEnds s g.team t t.taskHead (t.taskTail - 1)) 0 z) ∧
  (∀ s g x k t, Ready (.tkpop x k) (takesRegs (fld k 7 2) 8) s g → OwnQueue s g t → t.taskTail ≤ t.taskHead →
    Moves (.tkpop x k) s g (nextPc (.tkpop x k) (found g)) ((found g).setC (fld k 1 0) false)) ∧
  (∀ s g x k ti t, Ready (.tksteal x k) (takesRegs (fld k 7 2) 8) s g → s.taskTeam (((found g).getS (fld k 7 2)).toNat % 64) = some ti →
    s.teams[ti]? = some t → t.job = g.job → t.taskHead < t.taskTail →
    ∃ z, TookRecord s t t.taskHead (fld k 7 2) (fld k 1 0) (found g) z ∧
      Does (.tksteal x k) s { g with taskrec := BitVec.ofNat 64 (((found g).getS (fld k 7 2)).toNat % 64 + 64 + 128) }
        (nextPc (.tksteal x k) (found g)) (withEnds s ti t (t.taskHead + 1) t.taskTail) 0 z) ∧
  (∀ s g x k, Ready (.tksteal x k) (takesRegs (fld k 7 2) 8) s g →
    (∀ ti t, s.taskTeam (((found g).getS (fld k 7 2)).toNat % 64) = some ti → s.teams[ti]? = some t → t.job = g.job → t.taskTail ≤ t.taskHead) →
    Moves (.tksteal x k) s g (nextPc (.tksteal x k) (found g)) ((found g).setC (fld k 1 0) false)) ∧
  (∀ s g x k, Ready (.tkdone x k) { takesRegs (fld k 7 2) 8 with rel := true } s g → ((found g).getS (fld k 7 2 + 3)).toNat / 2 ^ 32 % 2 = 0 →
    Moves (.tkdone x k) s g (nextPc (.tkdone x k) (found g)) ((found g).setC (fld k 1 0) false)) ∧
  (∀ s g x k a, Ready (.tkdone x k) { takesRegs (fld k 7 2) 8 with rel := true } s g → CounterAt s g (fld k 7 2) a → g.doneLanes.getLsbD 0 = false →
    ∃ t p, OnlyTlbs s t ∧ Issued (.tkdone x k) (found g) [0] .none p ∧ p.causes = [] ∧ p.vals = [] ∧ p.write = true ∧ p.acq = some 1 ∧
      Blocks (.tkdone x k) s { g with block := some p } (nextPc (.tkdone x k) (found g)) { t with atomics := s.atomics ++ [counterRequest s g a] } (found g)) ∧
  (∀ s g x k old, Ready (.tkdone x k) { takesRegs (fld k 7 2) 8 with rel := true } s g → CounterWas g (fld k 7 2) old → old ≠ 1 →
    Moves (.tkdone x k) s g (nextPc (.tkdone x k) (found g)) ((found g).setC (fld k 1 0) false)) ∧
  (∀ s g x k v, Ready (.tkdone x k) { takesRegs (fld k 7 2) 8 with rel := true } s g → CounterWas g (fld k 7 2) 1 →
    (opened s g).devRead g.job ((found g).getS (fld k 7 2 + 5)) 64 = .ok v →
    (∀ ti t, s.taskTeam g.core = some ti → s.teams[ti]? = some t → t.taskTail < t.taskHead + t.taskQ / 64 → ∃ u,
      Does (.tkdone x k) s g (nextPc (.tkdone x k) (found g)) u 0 ((found g).setC (fld k 1 0) false) ∧
      Pushed s u ti t (fun j => BitVec.ofNat 8 (v / 2 ^ (8 * j)))) ∧
    ((∀ ti t, s.taskTeam g.core = some ti → s.teams[ti]? = some t → t.taskHead + t.taskQ / 64 ≤ t.taskTail) →
      Moves (.tkdone x k) s g (nextPc (.tkdone x k) (found g)) (((found g).setC (fld k 1 0) true).setS (fld k 7 2) ((found g).getS (fld k 7 2 + 5))))) ∧
  (∀ s g x h p, Ready (.xchg x) { ents := (⟨x.a, false⟩ : Src).ents ||| entRange x.d.toNat 1 } s g → g.ctx.mappedAll (entRange x.d.toNat 1) = true →
    (opened s g).xchgPartner (asFound g) (slotAt (found g) x.b) = some h → (opened s g).groups[h]? = some p → p.living = true →
    ∃ q vals, exec (.xchg x) s = .next (s.setGroup s.cur { g with
        ctx := (found g).applyFrees.clearLatches, block := some q, status := .xchgWait (nextPc (.xchg x) (found g))
        xchg := some (x.d.toNat, (slotAt (found g) x.b).toNat, vals) }) ∧
      Issued (.xchg x) (found g) (found g).lanes (.entries x.d.toNat 1) q ∧
      ∀ n < 256, vals.at n = if (found g).active.getLsbD n then ((found g).read .int false x.a n).setWidth 32 else 0) ∧
  (∀ s gi hi g h ng nh dg dh pg ph vg vh pend, s.groups[gi]? = some g → s.groups[hi]? = some h → gi ≠ hi → g.status = .xchgWait ng → h.status = .xchgWait nh →
    g.xchg = some (dg, pg, vg) → h.xchg = some (dh, ph, vh) → s.partner g pg = some hi → s.partner h ph = some gi → s.preempting g = false →
    s.preempting h = false → g.block = some pend → dg < 16 →
    ∃ t g' h', exec (.xchgPairing gi hi) s = .next t ∧ t = { s with groups := t.groups } ∧ t.groups[gi]? = some g' ∧ t.groups[hi]? = some h' ∧
      (∀ k, k ≠ gi → k ≠ hi → t.groups[k]? = s.groups[k]?) ∧ g'.status = .running ∧ h'.status = .running ∧ g'.ctx.pc = ng ∧ h'.ctx.pc = nh ∧
      g'.xchg = none ∧ h'.xchg = none ∧ ∀ n < 256, pend.lanes.getLsbD n = true → (g'.ctx.entry dg).at n = vh.at n)

/-- CRED to an identifier without an instance completes without an effect; to an instance with room it adds the group's contribution, and with another operation or type aborts it. COLLECTIVE_COMBINE of an instance whose contributors are all there delivers the combined vector at the root and sends it on elsewhere, waits otherwise, and aborts an instance whose contributor's launch faulted. RLOG disable, record and replay of the control kernel set the job's mode and close its runs, record clearing the log's counts and replay reading the gates; RLOG mark counts; elsewhere they trap PRIVILEGE. (R254, R255, R312, R313, R317, R319, R420, R508, R509) -/
def Obligations.CollectivesAndLogs : Prop :=
  (∀ s g x k, Ready (.cred x k) { ents := (⟨x.a, false⟩ : Src).ents, rel := true } s g → (s.colls.find? fun e => e.ident == fld k 31 16) = none →
    (slotAt (found g) x.b).toNat % 1024 = 0 → Does (.cred x k) s g (nextPc (.cred x k) (found g)) s (⟨x.a, false⟩ : Src).frees (found g)) ∧
  (∀ s g x k e, Ready (.cred x k) { ents := (⟨x.a, false⟩ : Src).ents, rel := true } s g → Contributes s g x k e →
    (e.op = none ∨ e.op = some (fld k 1 0, fld k 3 2)) → Does (.cred x k) s g (nextPc (.cred x k) (found g))
      (contributed s (fld k 31 16) (fld k 1 0, fld k 3 2) (contribution s g x k)) (⟨x.a, false⟩ : Src).frees (found g)) ∧
  (∀ s g x k e, Ready (.cred x k) { ents := (⟨x.a, false⟩ : Src).ents, rel := true } s g → Contributes s g x k e →
    ¬ (e.op = none ∨ e.op = some (fld k 1 0, fld k 3 2)) → Does (.cred x k) s g (nextPc (.cred x k) (found g))
      ((contributed (opened s g) (fld k 31 16) (fld k 1 0, fld k 3 2) (contribution s g x k)).abortColl (fld k 31 16)) (⟨x.a, false⟩ : Src).frees (found g)) ∧
  (∀ s ident e, (s.colls.find? fun e => e.ident == ident) = some e → e.aborted = false → s.credBroken e = false → e.sent = false → s.credHeld e = false →
    e.contribs.length = e.locals → e.fromChildren.length = e.children → e.contribs ≠ [] →
    (e.parent = 0xFFFF → exec (.collectiveCombine ident) s = .next (s.credFinal e e.combined)) ∧
    (e.parent ≠ 0xFFFF → exec (.collectiveCombine ident) s = .next ((s.sendTo e.parent 4).modColl ident fun q => { q with sent := true }))) ∧
  (∀ s ident e, (s.colls.find? fun e => e.ident == ident) = some e → e.aborted = false → s.credBroken e = true →
    exec (.collectiveCombine ident) s = .next (s.abortColl ident)) ∧
  (∀ s ident e, (s.colls.find? fun e => e.ident == ident) = some e → e.aborted = false → s.credBroken e = false → e.contribs.length < e.locals →
    exec (.collectiveCombine ident) s = .next s) ∧
  (∀ s g x, Ready (.rlogDisable x) { rel := true } s g → (opened s g).isControl (asFound g) = true →
    (opened s g).runsWait g.job = false → Does (.rlogDisable x) s g (nextPc (.rlogDisable x) (found g)) ((opened s g).setLog g.job .off) 0 (found g)) ∧
  (∀ (s : State) job mode (j : Job), s.jobs[job]? = some j → ∃ j', (s.setLog job mode).jobs[job]? = some j' ∧ j'.log = mode ∧ j'.placed = 0 ∧
    (∀ r ∈ (s.setLog job mode).runs, r.job ≠ job) ∧ ∀ g ∈ (s.setLog job mode).gates, g.job ≠ job) ∧
  (∀ s g x h u, Ready (.rlogRecord x) { rel := true } s g → (opened s g).isControl (asFound g) = true →
    let log := slotAt (found g) x.b
    log.toNat % 4096 = 0 → (opened s g).runsWait g.job = false → (opened s g).mapMoves = false → (opened s g).readAt g.job log [0, 8, 16, 24, 40, 48] = .ok h →
    ((opened s g).closeRuns g.job).zeroAt g.job log ([32, 56] ++ (List.range 64).map colOffset) = .ok u → (u.setLog g.job (.record log)).teams = s.teams →
    (u.setLog g.job (.record log)).groups = (opened s g).groups →
    Does (.rlogRecord x) s g (nextPc (.rlogRecord x) (found g)) (u.setLog g.job (.record log)) 0 (found g)) ∧
  (∀ s g x h gs u, Ready (.rlogReplay x) { rel := true } s g → (opened s g).isControl (asFound g) = true →
    let log := slotAt (found g) x.b
    log.toNat % 4096 = 0 → (opened s g).runsWait g.job = false → (opened s g).mapMoves = false → (opened s g).readAt g.job log [0, 8, 16, 24, 32, 40, 48, 56] = .ok h →
    (opened s g).readLog g.job log (h.getD 0 0) (h.getD 1 0) (List.range 64) = .ok gs →
    (opened s g).readDone g.job log (List.range 64) = .ok u → (u.setLog g.job (.replay log)).teams = s.teams →
    (u.setLog g.job (.replay log)).groups = (opened s g).groups →
    Does (.rlogReplay x) s g (nextPc (.rlogReplay x) (found g))
      { u.setLog g.job (.replay log) with gates := (u.setLog g.job (.replay log)).gates ++ gs } 0 (found g)) ∧
  (∀ s g x, Ready (.rlogRecord x) { rel := true } s g → CanTrap s g → (opened s g).isControl (asFound g) = false →
    Traps (.rlogRecord x) s g (found g) .privilege 0 (found g).pc (nextPc (.rlogRecord x) (found g))) ∧
  (∀ s g x t, Ready (.rlogMark x) {} s g → (opened s g).isControl (asFound g) = true → markBody (opened s g) (asFound g) = .ok t →
    t.teams = s.teams → t.groups = (opened s g).groups →
    Does (.rlogMark x) s { g with markNum := g.markNum + 1 } (nextPc (.rlogMark x) (found g)) t 0 (found g)) ∧
  (∀ s g x, Ready (.rlogMark x) {} s g → CanTrap s g → (opened s g).isControl (asFound g) = true → markBody (opened s g) (asFound g) = .diverge →
    Traps (.rlogMark x) s g (found g) .replayDiverge 0 (found g).pc (nextPc (.rlogMark x) (found g)))

/-- NOPP of a ring with nothing begun before it is consumed: the read offset is written with the next packet's. A condition holds as its code says of the word at its address. WAIT whose condition holds is passed; else it parks the queue, or waits in place inside a loop body. PRED covers or skips the packets after it, LOOP begins its body, IB enters its buffer, FFENCE leaves no held byte, SIGNAL performs its atomic once the queue's work is complete and waits until then, and PHASE opens the job's next phase once. (R82, R84, R86, R92, R93, R94, R95, R96, R97) -/
def Obligations.QueuePackets : Prop :=
  (∀ s sl x q n u, AtPacket s sl x q → Alone0 x n → (past s sl x n).devWrite q.job (q.qcb + 16) (leBytes 8 (n.pos + x.len)) = .ok u →
    exec (.nopp sl) s = .next (u.modSlot sl fun y => { y with begun := [] })) ∧
  (∀ c word, condHolds c word = true ↔ CondTrue c word) ∧
  (∀ s sl x q, AtPacket s sl x q → ∃ t, exec (.ffence sl) s = .next t ∧ (∀ n ∈ (t.slot sl).levels, n.win = []) ∧
    (t.slot sl).levels.map (fun n => n.pos) = x.advance.levels.map (fun n => n.pos)) ∧
  (∀ s sl x q c word, AtPacket s sl x q → s.devRead x.job c.addr (if c.wide then 8 else 4) = .ok word →
    (CondTrue c word → exec (.wait sl c) s = .next (s.packetDone sl id)) ∧
    (¬ CondTrue c word → (∀ n ∈ x.levels, n.loop = none) →
      exec (.wait sl c) s = .next (s.packetDone sl fun y => { y with waiting := some c, release := true })) ∧
    (¬ CondTrue c word → (∃ n ∈ x.levels, n.loop ≠ none) →
      exec (.wait sl c) s = .next (s.modSlot sl fun _ => { x.begin with waiting := some c }))) ∧
  (∀ s sl x q c skip word m l, AtPacket s sl x q → s.devRead x.job c.addr (if c.wide then 8 else 4) = .ok word → x.begin.levels = m :: l →
    (CondTrue c word → m.loop = none → exec (.pred sl c skip) s = .next ((s.modSlot sl fun _ =>
      ({ x.begin with levels := { m with cover := max m.cover (skip + 1) } :: l } : Slot).advance).settleSlot sl)) ∧
    (CondTrue c word → m.loop ≠ none → exec (.pred sl c skip) s = .next ((s.modSlot sl fun _ => x.begin.advance).settleSlot sl)) ∧
    (¬ CondTrue c word → exec (.pred sl c skip) s = .next ((s.modSlot sl fun _ =>
      ({ x.begin with levels := { m with skip := skip } :: l } : Slot).advance).settleSlot sl))) ∧
  (∀ (n : Nest) len, n.loop = none → n.advance len = { n with pos := n.pos + len, cover := n.cover - 1 }) ∧
  (∀ (n : Nest) len k, n.loop = some k →
    (1 < k.left → n.advance len = { n with pos := n.pos + len, loop := some { k with left := k.left - 1 } }) ∧
    (k.left ≤ 1 → 1 < k.iters → n.advance len = { n with pos := k.start, loop := some { k with left := k.body, iters := k.iters - 1 }, skip := 0 }) ∧
    (k.left ≤ 1 → k.iters ≤ 1 → n.advance len = { n with pos := n.pos + len, loop := none, skip := 0 })) ∧
  (∀ s sl x q body iters m l, AtPacket s sl x q → x.begin.levels = m :: l → 1 ≤ body →
    let n : Nest := { m with pos := m.pos + x.begin.len, cover := m.cover - 1, loop := some ⟨m.pos + x.begin.len, body, body, iters⟩ }
    exec (.loop sl body iters) s = .next ((s.modSlot sl fun _ => { x.begin with levels := leaveLevels (n :: l) }).settleSlot sl)) ∧
  (∀ s sl x q addr len n l, AtPacket s sl x q → x.levels = n :: l →
    exec (.ib sl addr len) s = .next ((s.modSlot sl fun _ =>
      { x.begin with levels := ⟨addr, 0, len, 0, [], none, 0, 0⟩ :: n.advance x.len :: l }).settleSlot sl)) ∧
  (∀ s sl x q addr value op wide mask old u, AtPacket s sl x q → s.queueDone sl = true → s.devRead x.job addr (if wide then 8 else 4) = .ok old →
    s.devWrite x.job addr (leBytes (if wide then 8 else 4) (signalled op old value.toNat)) = .ok u →
    exec (.signal sl addr value op wide mask) s = .next (u.packetDone sl id)) ∧
  (∀ s sl x q addr value op wide mask, AtPacket s sl x q → s.queueDone sl = false → exec (.signal sl addr value op wide mask) s = .next s) ∧
  (∀ s sl x q record cancel, AtPacket s sl x q → (∀ p ∈ s.phases, p.job = q.job → p.number ≠ q.phases) →
    let t : State := (({ s.modQueue x.queue fun r => { r with phases := r.phases + 1 } with
      phases := s.phases ++ [⟨q.job, q.phases, record, cancel, false, none⟩] } : State).packetDone sl id).settle
    exec (.phase sl record cancel) s = .next (if s.wordSet q.job cancel then t.cancelPhase s.phases.length else t)) ∧
  (∀ s sl x q record cancel, AtPacket s sl x q → (∃ p ∈ s.phases, p.job = q.job ∧ p.number = q.phases) →
    exec (.phase sl record cancel) s = .next (((s.modQueue x.queue fun r => { r with phases := r.phases + 1 }).packetDone sl id).settle))

/-- LAUNCH of a queue whose phase is open starts a launch with the job's next launch number, every team of its grid left, or none where it is rejected or its unit cancelled; LAUNCH2 leaves a prologue to run, as a graph of one node; GRAPH reads its table and starts the nodes whose count is 0. PROLOGUE_RUN of a prologue that exits with 2 ends its packet, with 0 starts its launch and ends the packet, with 1 starts its launch and stays for the next iteration; one that cannot run is rejected. (R52, R54, R55, R57, R87, R88, R89, R91) -/
def Obligations.LaunchPackets : Prop :=
  (∀ s sl x q p t l, AtPacket s sl x q → s.phaseOpen q = true → s.startLaunch p (s.slotSrc sl none) = .ok (t, l) →
    exec (.launch sl p) s = .next (t.packetDone sl fun y => { y.addWork [l] [] with launches := y.launches ++ [l] })) ∧
  (∀ (s : State) (p : LaunchPacket) (src : LaunchSrc) (j : Job) k start code, s.jobs[src.job]? = some j → s.readKernel src.job p.desc = .ok (some (k, start, code)) →
    ∃ t l, s.startLaunch p src = .ok (t, s.launches.length) ∧ t.launches = s.launches ++ [l] ∧
      Started l j.launchSeq k p src (launchRejected k p j.secure src.mask) (s.srcCancelled src || s.wordSet src.job p.cancel) ∧
      ∃ j', t.jobs = s.jobs.set src.job j' ∧ j'.launchSeq = j.launchSeq + 1 ∧ t = { s with launches := t.launches, jobs := t.jobs }) ∧
  (∀ (s : State) (p : LaunchPacket) (src : LaunchSrc) (j : Job), s.jobs[src.job]? = some j → s.readKernel src.job p.desc = .ok none →
    ∃ t l, s.startLaunch p src = .ok (t, s.launches.length) ∧ t.launches = s.launches ++ [l] ∧ l.rejected = true ∧ l.left = 0) ∧
  (∀ s sl x q prologue params arg, AtPacket s sl x q → s.phaseOpen q = true → s.phaseCancelled q = true → ∃ t g, exec (.launch2 sl prologue params arg) s = .next t ∧
    t = (({ s with graphs := s.graphs ++ [g] } : State).packetDone sl id).settle ∧ g.cancelled = true ∧ g.ended = true ∧ g.nodes.map (fun n => n.status) = [some .cancelled]) ∧
  (∀ s sl x q prologue params arg, AtPacket s sl x q → s.phaseOpen q = true → s.phaseCancelled q = false →
    exec (.launch2 sl prologue params arg) s = .next (({ s with graphs := s.graphs ++ [graphOf s sl x q 0 0 0 [⟨0, 0, [], 0, true, none⟩]] } : State).packetDone sl
      fun y => { y with prologues := y.prologues ++
        [⟨prologue, params, arg, 0, none, (s.graphs.length, 0), false, (y.begun.getLast?.map fun b => b.pos).getD 0⟩] })) ∧
  (∀ s sl x q table cancel prio h nodes, AtPacket s sl x q → s.phaseOpen q = true → s.devRead x.job table 16 = .ok h → 1 ≤ h % 2 ^ 32 → h % 2 ^ 32 ≤ 65536 →
    s.readNodes x.job (table + 16) (h % 2 ^ 32) = .ok nodes → countsOk nodes = true → s.phaseCancelled q = false → s.wordSet x.job cancel = false →
    exec (.graph sl table cancel prio) s = .next (((({ s with graphs := s.graphs ++ [graphOf s sl x q prio (BitVec.ofNat 64 (h / 2 ^ 64)) cancel nodes] } :
      State).packetDone sl fun y => y.addWork [] [s.graphs.length]).startNodes s.graphs.length).settle)) ∧
  (∀ s sl x q, AtPacket s sl x q → s.phaseOpen q = false →
    (∀ p, exec (.launch sl p) s = .next s) ∧ (∀ a b c, exec (.launch2 sl a b c) s = .next s) ∧ ∀ a b c, exec (.graph sl a b c) s = .next s) ∧
  (∀ s sl p t, s.duePrologue (s.slot sl) = some p → s.runPrologue (s.slot sl).job p = .exit t 2 →
    exec (.prologueRun sl) s = .next (t.endPrologue sl p [])) ∧
  (∀ s sl p t u, s.duePrologue (s.slot sl) = some p → s.runPrologue (s.slot sl).job p = .exit t 0 →
    t.prologueLaunch sl (s.slot sl).job p false = some u → exec (.prologueRun sl) s = .next u) ∧
  (∀ s sl p t u, s.duePrologue (s.slot sl) = some p → s.runPrologue (s.slot sl).job p = .exit t 1 → p.iter < 65535 →
    t.prologueLaunch sl (s.slot sl).job p true = some u → exec (.prologueRun sl) s = .next u) ∧
  (∀ s sl p t, s.duePrologue (s.slot sl) = some p → s.runPrologue (s.slot sl).job p = .bad t →
    exec (.prologueRun sl) s = .next (t.rejectPrologue sl (s.slot sl).job p))

/-- PASS begin opens the pass that its block describes; PASS next of a sub-pass that is drawn starts the next, and PASS end of a pass that is drawn and resolved writes the status and closes it. A WAIT in a loop body reads its word again and goes on where its condition holds or has held at a write; a write offset read again is the level's new limit; a slot whose queue leaves and has nothing begun is released, and a bind round is asked for; a parked queue whose condition holds is set ENABLED; a launch passed over 256 times reserves its slot's mask; a bind round binds, posts the pages asked for, and a queue that firmware binds takes the lowest empty slot with the ring, offsets and mask of its QCB and job. (R79, R80, R82, R83, R101, R351, R357, R378, R413) -/
def Obligations.PassesAndBinding : Prop :=
  (∀ s sl x q va t, AtPacket s sl x q → s.queueDone sl = true → s.openPassFrom sl x.job x.queue x.mask va = .ok (.ok t) →
    exec (.passBegin sl va) s = .next ((t.modQueue x.queue fun r => { r with pass := some s.passes.length }).packetDone sl id) ∧
    ∃ p, t.passes = s.passes ++ [p] ∧ p.live = true ∧ p.job = x.job ∧ p.stage = .draw ∧ p.sub = 0 ∧ p.gridSeq = 0 ∧ p.grids = [] ∧ p.used = []) ∧
  (∀ s sl x q ps p, AtPacket s sl x q → s.queueDone sl = true → OpenPass s sl ps p → p.stage = .draw →
    exec (.passNext sl) s = .next (s.modPass ps fun r => { r with stage := .next }) ∧
    exec (.passEnd sl) s = .next (s.modPass ps fun r => { r with stage := .finish })) ∧
  (∀ s sl x q ps p u, AtPacket s sl x q → s.queueDone sl = true → OpenPass s sl ps p → p.stage = .next → s.subDone ps p = true →
    (if p.block.persistent then u = s else s.startTiles x.job p.block p.block.tiles = .ok u) →
    exec (.passNext sl) s = .next ((u.modPass ps fun r => { r with
      stage := .draw, sub := r.sub + 1, gridSeq := 0, binUsed := 0, grids := [], tiles := [], used := if r.block.persistent then r.used else [] }).packetDone sl id)) ∧
  (∀ s sl x q ps p u, AtPacket s sl x q → s.queueDone sl = true → OpenPass s sl ps p → p.stage = .finish → s.subDone ps p = true → p.resolvedAll = true →
    p.block.statusAt ≠ 0 → s.devWrite x.job p.block.statusAt (leBytes 8 p.status) = .ok u →
    exec (.passEnd sl) s = .next (((u.modPass ps fun r => { r with live := false }).modQueue x.queue fun r => { r with pass := none }).packetDone sl id)) ∧
  (∀ s sl x c word, s.slot sl = x → x.waiting = some c → x.bound = true → (∃ n ∈ x.levels, n.loop ≠ none) →
    s.devRead x.job c.addr (if c.wide then 8 else 4) = .ok word →
    (CondTrue c word ∨ s.noticed.contains (.wait sl) = true → exec (.waitRecheck sl) s = .next ((s.modSlot sl fun y => { y with waiting := none }.advance).settleSlot sl)) ∧
    (¬ CondTrue c word → s.noticed.contains (.wait sl) = false → exec (.waitRecheck sl) s = .next s)) ∧
  (∀ s sl x n q w, s.slot sl = x → x.levels = [n] → s.queues[x.queue]? = some q → x.bound = true → x.stopped = none → n.dry = true →
    s.qcbNat q 35 1 % 2 = 0 → s.qcbWritten q = .ok w →
    exec (.writeOffsetReread sl) s = .next (s.modSlot sl fun y => { y with levels := [{ n with limit := w }] })) ∧
  (∀ s sl x, s.slot sl = x → x.bound = true → s.leaves sl = true → s.atBoundary sl = true → x.waiting = none →
    exec (.slotRelease sl) s = .next { s.modSlot sl (fun _ => Slot.empty) with agenda := s.agenda ++ [.bindRound] }) ∧
  (∀ s qi q c word, s.queues[qi]? = some q → s.unbound qi = true → s.qcbState q = 2 → s.updating q = false → s.parkCond q = c → c.code ≠ 7 →
    s.devRead q.job c.addr (if c.wide then 8 else 4) = .ok word →
    (CondTrue c word → exec (.parkConditionEval qi) s = .next (s.setQcbState q 1)) ∧ (¬ CondTrue c word → exec (.parkConditionEval qi) s = .next (if s.noticed.contains (.park qi) then s.setQcbState q 1 else s))) ∧
  (∀ s sl x li l, s.slot sl = x → x.bound = true → 256 ≤ x.passes → s.headLaunch x = some li → s.launches[li]? = some l → l.coResident = false →
    exec (.slotMaskReserve sl) s = .next (s.modSlot sl fun y => { y with reserved := true })) ∧
  (∀ s, s.sys.fwState = 1 → s.sys.dev = .d0 → ∃ t, exec .bindRound s = .next t ∧ t = s.bindRound.postPages ∧ t.pages = []) ∧
  (∀ s prio qi q j sl, s.queues[qi]? = some q → sl < 64 → (s.slot sl).bound = false → (∀ k < sl, (s.slot k).bound = true) → s.jobs[q.job]? = some j →
    (∃ r, s.qcbRead q = .ok r) → (∃ w, s.qcbWritten q = .ok w) → Bound s (s.bindQueue (some prio) qi) sl qi q prio)

/-- TEAM_ADMIT of the launch that dispatch serves admits its next team, or passes the slots over where no core takes it; a team admitted alone stands on a core of the mask with its groups at the kernel's entry, s0 the argument address and s1 the team index. TEAM_END of a team that is over ends it, gives its storage back and counts it for its launch. LAUNCH_COMPLETE of a launch whose work is over writes its record with status and count. CANCEL_WORD_WRITE of a word that is not 0 cancels its unit, and a launch's waiting groups end. GROUP_KILL ends a group whose unit is cancelled, and GROUP_STORAGE_DRAIN frees an ended group's storage once no write is on its way. (R40, R46, R50, R52, R59, R60, R61, R90, R100, R101, R481, R483) -/
def Obligations.TeamsAndLaunches : Prop :=
  (∀ s li l sl t, s.launches[li]? = some l → Serves s sl li → s.slotAdmits sl = some (li, t) → l.coResident = false → l.kernel.twin = false →
    exec (.teamAdmit li) s = .next (served s t sl li (decide (l.dx * l.dy * l.dz ≤ l.admitted + 1))) ∧ ∃ tm, Admitted s t li l tm) ∧
  (∀ s li l sl, s.launches[li]? = some l → Serves s sl li → s.slotAdmits sl = none →
    exec (.teamAdmit li) s = .next (passed s (s.slotOrder.takeWhile (· != sl) ++ [sl]))) ∧
  (∀ s ti t l, TeamOver s ti t → s.launches[t.launch]? = some l → ∃ u, exec (.teamEnd ti) s = .next u ∧
    u.teams = s.teams.set ti { t with live := false, carve := none, savedSq := [] } ∧
    u.launches = s.launches.set t.launch
      { l with left := l.left - 1, doneTeams := if t.fault = true ∨ l.cancelled = true then l.doneTeams else l.doneTeams + 1 } ∧
    u.groups = s.groups ∧ u.mem = s.mem ∧
    ((s.core t.core).secure = true → ∀ k < 65536 * t.scrLen, 65536 * t.scrBase + k < 8388608 → padByte u t.core (65536 * t.scrBase + k) = 0) ∧
    ((∀ k y, k ≠ ti → s.teams[k]? = some y → ¬ (y.live = true ∧ y.saved = false ∧ y.core = t.core ∧ y.launch = t.launch)) →
      ∀ n, (s.core t.core).pool = some (t.launch, n) → (u.core t.core).pool = none)) ∧
  (∀ s ti t, s.teams[ti]? = some t → (∃ g ∈ s.groups, g.team = ti ∧ g.status ≠ .exited ∧ g.status ≠ .gone) → exec (.teamEnd ti) s = .next s) ∧
  (∀ s li l, LaunchOver s li l → l.record = 0 → exec (.launchComplete li) s = .next (completed s li l)) ∧
  (∀ s li l v, LaunchOver s li l → l.record ≠ 0 →
    s.devWrite l.job l.record (leBytes 16 (doneCode l + 2 ^ 32 * (l.doneTeams % 2 ^ 32) + 2 ^ 64 * s.sys.feStamp.toNat)) = .ok v →
    exec (.launchComplete li) s = .next (completed (({ v with sys := { v.sys with feStamp := v.sys.feStamp + 1 } } : State).frontTells l.job l.record) li l)) ∧
  (∀ s u job va word, s.cancelWordOf u = some (job, va) → s.devRead job va 8 = .ok word →
    (word = 0 → s.noticed.contains (.cancel u) = false → exec (.cancelWordWrite u) s = .next s) ∧
    (word ≠ 0 ∨ s.noticed.contains (.cancel u) = true → (∀ li, u = .launch li → exec (.cancelWordWrite u) s = .next (s.cancelLaunch li)) ∧
      (∀ gi, u = .graph gi → exec (.cancelWordWrite u) s = .next (s.cancelGraph gi)) ∧
      (∀ pi, u = .phase pi → exec (.cancelWordWrite u) s = .next (s.cancelPhase pi)))) ∧
  (∀ (s : State) li (l : Launch), s.launches[li]? = some l → l.complete = false → l.cancelled = false → l.left ≠ 0 →
    (∃ m, (s.cancelLaunch li).launches[li]? = some m ∧ m.cancelled = true) ∧
    ∀ (gi : Nat) (g : Group), s.groups[gi]? = some g → g.launch = li → ¬ (g.status = .running ∧ g.hasSlot = true) → g.status ≠ .gone →
      ∃ h, (s.cancelLaunch li).groups[gi]? = some h ∧ h.status = .exited) ∧
  (∀ (s : State) gi (g : Graph), s.graphs[gi]? = some g → g.status = none → g.cancelled = false → g.ended = false →
    ∃ m, (s.cancelGraph gi).graphs[gi]? = some m ∧ m.cancelled = true) ∧
  (∀ (s : State) pi (p : Phase), s.phases[pi]? = some p → p.status = none → p.cancelled = false → s.phaseOver pi p = false →
    ∃ m, (s.cancelPhase pi).phases[pi]? = some m ∧ m.cancelled = true) ∧
  (∀ (s : State) li (l : Launch), s.launches[li]? = some l → l.left = 0 → s.cancelLaunch li = s) ∧
  (∀ s gi g, s.groups[gi]? = some g → s.doomed g = true → g.status ≠ .exited → g.status ≠ .gone →
    ∃ t, exec (.groupKill gi) s = .next t ∧ Killed s t gi g) ∧
  (∀ s gi g, s.groups[gi]? = some g → s.doomed g = false → exec (.groupKill gi) s = .next s) ∧
  (∀ s gi g, s.groups[gi]? = some g → g.status = .exited → g.gfx = none → Drained s gi →
    exec (.groupStorageDrain gi) s = .next (s.setGroup gi { g with status := .gone, board := Vector.replicate 32 none, block := none }).settle) ∧
  (∀ s gi g, s.groups[gi]? = some g → g.status ≠ .exited → exec (.groupStorageDrain gi) s = .next s)

/-- OPERAND_SLOT_GRANT gives the group that has waited longest a free slot of its partition; where all 15 are held, the group longest at a BAR gives its slot up. BARRIER_WAIT_RETURN and YIELD_WAKE of a group whose barrier is in another phase than the group has seen consume one phase, acquire, and go on after the BAR or at the YIELD's target; else the group waits on. CARVE_ARRIVAL gives the team its new scratchpad run and arrives at its barrier. SPLIT_PHASE_RESULT of a settled request writes its destination and frees its slot, or takes its deferred trap, and after lanes that were performed before their instruction's trap the instruction is executed again with them done; a request that has a cause keeps its slot, with its acquire performed (the model's reading, log 19). TRAP_ENTRY enters the handler once the scoreboard is clear. (R72, R148, R149, R222, R223, R225, R226, R227, R277, R454, R457, R461) -/
def Obligations.WaitsEnd : Prop :=
  (∀ s gi g, FirstInLine s gi g → slotsHeld s g.core g.part < 15 →
    exec (.operandSlotGrant gi) s = .next (s.setGroup gi { g with hasSlot := true, status := .running })) ∧
  (∀ s gi g k h nb next, FirstInLine s gi g → 15 ≤ slotsHeld s g.core g.part → s.groups[k]? = some h → h.core = g.core → h.part = g.part →
    h.kind ≠ .combiner → h.hasSlot = true → h.status = .barWait nb next →
    (∀ (m : Nat) (o : Group), s.groups[m]? = some o → m ≠ k → o.core = g.core → o.part = g.part → o.hasSlot = true → (∃ b p, o.status = .barWait b p) →
      h.since < o.since ∨ (h.since = o.since ∧ k < m)) →
    ∃ y, exec (.operandSlotGrant gi) s = .next (s.setGroup k { h with ctx := y, hasSlot := false }) ∧ GaveUp h.ctx y) ∧
  (∀ s gi g nb next b, s.groups[gi]? = some g → g.status = .barWait nb next → s.preempting g = false → BarrierIs s g nb b →
    (b.phase ≠ g.seen[Fin.ofNat 16 nb] → ∃ t, exec (.barrierWaitReturn gi) s = .next t ∧ WaitOver s gi g nb next t) ∧
    (b.phase = g.seen[Fin.ofNat 16 nb] → exec (.barrierWaitReturn gi) s = .next s)) ∧
  (∀ s gi g nb target b, s.groups[gi]? = some g → g.status = .yielded nb target → s.preempting g = false → BarrierIs s g nb b →
    (b.phase ≠ g.seen[Fin.ofNat 16 nb] → ∃ t, exec (.yieldWake gi) s = .next t ∧ WaitOver s gi g nb target t) ∧
    (b.phase = g.seen[Fin.ofNat 16 nb] → exec (.yieldWake gi) s = .next s)) ∧
  (∀ s ti t nb n base, s.teams[ti]? = some t → t.live = true → t.saved = false → t.carve = some (nb, n, base) →
    (n < t.scrLen → s.scratchBusy ti t = false) → ∃ u, exec (.carveArrival ti) s = .next u ∧ u.groups = s.groups ∧ u.teams = s.teams.set ti { t with
      scrBase := base, scrLen := n, carve := none, bars := t.bars.set (Fin.ofNat 16 nb) (arrived t.bars[Fin.ofNat 16 nb]) } ∧
      ∀ c, coreIx c ≠ coreIx t.core → u.core c = s.core c) ∧
  (∀ s ti t, s.teams[ti]? = some t → t.carve = none → exec (.carveArrival ti) s = .next s) ∧
  (∀ s gi k g p, s.groups[gi]? = some g → g.status ≠ .exited → g.status ≠ .gone → k < 32 → g.board[Fin.ofNat 32 k] = some p → Returned p →
    ∃ h, exec (.splitPhaseResult gi k) s = .next (acquired (s.setGroup gi h) g p) ∧ h = { g with ctx := h.ctx, board := g.board.set (Fin.ofNat 32 k) none } ∧
      Landed p g.ctx h.ctx) ∧
  (∀ s gi k g p, s.groups[gi]? = some g → g.status ≠ .exited → g.status ≠ .gone → k < 32 → g.board[Fin.ofNat 32 k] = some p → p.settled = true →
    p.causes ≠ [] → exec (.splitPhaseResult gi k) s = .next (match p.acquired with
      | none => s
      | some m => (s.setGroup gi { g with board := g.board.set (Fin.ofNat 32 k) (some { p with acq := none }) }).acquire g.core m)) ∧
  (∀ s gi k g p n, s.groups[gi]? = some g → k < 32 → g.board[Fin.ofNat 32 k] = some p → n < 256 → p.lanes.getLsbD n = true →
    (∀ v ∈ p.vals, v.1 ≠ n) → (∀ c ∈ p.causes, c.1 ≠ n) → exec (.splitPhaseResult gi k) s = .next s) ∧
  (∀ s gi g p sp, s.groups[gi]? = some g → g.status = .blocked sp → g.block = some p → Returned p → s.preempting g = false → (∀ x k, p.i ≠ .tkdone x k) → ¬ FirstLanes p →
    ∃ h, exec (.splitPhaseResult gi 32) s = .next (acquired (s.setGroup gi h) g p) ∧ h = { g with ctx := h.ctx, block := none, status := .running } ∧
      Landed p g.ctx h.ctx) ∧
  (∀ s gi g p sp x k w, s.groups[gi]? = some g → g.status = .blocked sp → g.block = some p → p.i = .tkdone x k → p.lanes = 1 → p.vals = [(0, [w])] →
    p.causes = [] → p.dest = .none → s.preempting g = false → ∃ h, exec (.splitPhaseResult gi 32) s = .next (acquired (s.setGroup gi h) g p) ∧
      h = { g with ctx := { g.ctx with pc := p.pc }, block := none, status := .running, retry := h.retry } ∧ h.doneLanes.getLsbD 0 = true ∧
      h.savedReply 0 = w.toNat) ∧
  (∀ s gi g p sp, s.groups[gi]? = some g → g.status = .blocked sp → g.block = some p → FirstLanes p → p.settled = true → s.preempting g = false →
    ∃ h, exec (.splitPhaseResult gi 32) s = .next (acquired (s.setGroup gi h) g p) ∧
      h = { g with ctx := { g.ctx with pc := p.pc }, block := none, status := .running, retry := h.retry } ∧
      ∀ n < 256, (h.doneLanes.getLsbD n = true ↔ ∃ v ∈ p.vals, v.1 = n) ∧
        ∀ w, p.vals.lookup n = some w → w.length ≤ 4 → h.savedReply n = w.foldr (fun b a => b.toNat + 2 ^ 32 * a) 0) ∧
  (∀ s gi g p sp tr, s.groups[gi]? = some g → g.status = .blocked sp → g.block = some p → p.settled = true → deferredTrap p = some tr → ¬ FirstLanes p → CanTrap s g →
    EntersTrap (.splitPhaseResult gi 32) s (if tr.cause = .xlate then s.heard g.job tr.addr else s) gi { g with status := .running, block := none } tr g.ctx.pc g.ctx.pc) ∧
  (∀ s gi g t v, s.groups[gi]? = some g → g.status = .trapPending t → g.trapSave = some v → CanTrap s g → v.run = [] → t.deferred = false →
    t.cause ≠ .softTrap → t.cause ≠ .breakpoint → EntersTrap (.trapEntry gi) s s gi g t g.ctx.pc v.skip) ∧
  (∀ s gi g t k p n, s.groups[gi]? = some g → g.status = .trapPending t → k < 32 → g.board[Fin.ofNat 32 k] = some p → n < 256 →
    p.lanes.getLsbD n = true → (∀ v ∈ p.vals, v.1 ≠ n) → (∀ c ∈ p.causes, c.1 ≠ n) → exec (.trapEntry gi) s = .next s)

/-- PREEMPT_REQUEST of a team that can be pre-empted marks it and its other half, and does nothing for one that cannot. PREEMPT_STOP of a stopped group that is not the producer, or whose producer's handler has run, saves it, or kills the team where its context cannot be written; the producer waits for the others and then enters its handler with PREEMPT. TEAM_CONTEXT_SAVE of a team whose groups are all saved saves the team, its queue entries leaving the core. GRAPHICS_KILL returns a graphics group of a pre-empted tile team to its region's snapshot, and GRAPHICS_REPLAY readmits it. (R151, R468, R469, R470, R473, R474, R475, R479, R480, R537) -/
def Obligations.Preemption : Prop :=
  (∀ s ti t, s.teams[ti]? = some t → t.live = true → t.saved = false → t.preempt = false → t.resuming = false → CanPreempt s t →
    ∃ u, exec (.preemptRequest ti) s = .next u ∧ u = { s with teams := u.teams } ∧ u.teams[ti]? = some { t with preempt := true } ∧
      (∀ k, k ≠ ti → t.twin ≠ some k → u.teams[k]? = s.teams[k]?) ∧
      ∀ k x, t.twin = some k → k ≠ ti → s.teams[k]? = some x → x.live = true → x.saved = false → u.teams[k]? = some { x with preempt := true }) ∧
  (∀ s ti t, s.teams[ti]? = some t → ¬ CanPreempt s t → (∀ p ∈ s.passes, p.live = true → ∀ x ∈ p.tiles, x.team ≠ some ti) →
    exec (.preemptRequest ti) s = .next s) ∧
  (∀ s gi g t mask, AtStop s gi g t mask → (g.kind ≠ .team ∨ g.number ≠ t.producer ∨ t.handled = true) →
    ∃ u h, exec (.preemptStop gi) s = .next u ∧ u.groups[gi]? = some h ∧
      (GroupSaved g mask h ∧ u.teams[g.team]? = some { t with saveMask := t.saveMask ||| mask } ∨ h.status = .exited ∧ Fails s u t.launch false)) ∧
  (∀ s gi g t mask, AtStop s gi g t mask → g.kind = .team → g.number = t.producer → t.handled = false →
    (∃ k h, k ≠ gi ∧ s.groups[k]? = some h ∧ h.team = g.team ∧ h.status ≠ .exited ∧ h.status ≠ .gone ∧ h.status ≠ .saved) →
    exec (.preemptStop gi) s = .next (s.setTeam g.team { t with saveMask := t.saveMask ||| mask })) ∧
  (∀ s gi g t mask j, AtStop s gi g t mask → g.kind = .team → g.number = t.producer → t.handled = false → g.frame.isSome = true →
    s.jobs[g.job]? = some j → j.handler ≠ 0 →
    (∀ k h, k ≠ gi → s.groups[k]? = some h → h.team = g.team → h.status = .exited ∨ h.status = .gone ∨ h.status = .saved) →
    ∃ u h, exec (.preemptStop gi) s = .next u ∧ u.groups[gi]? = some h ∧ (h.status = .exited ∨
      h.handler = true ∧ h.ctx.pc = j.handler ∧ h.ctx.getS 1 = BitVec.ofNat 64 Cause.preempt.code ∧ h.status = if g.hasSlot then .running else .slotWait)) ∧
  (∀ s ti t, s.teams[ti]? = some t → t.live = true → t.saved = false → t.preempt = true → t.carve = none → t.accLen = 0 →
    (∀ p ∈ s.passes, p.live = true → ∀ x ∈ p.tiles, x.team ≠ some ti) →
    (∀ g ∈ s.groups, g.team = ti → g.status = .saved ∨ g.status = .exited ∨ g.status = .gone) → (∃ g ∈ s.groups, g.team = ti ∧ g.status = .saved) →
    s.unitsDone ti t = true →
    ∃ u x, exec (.teamContextSave ti) s = .next u ∧ u.teams[ti]? = some x ∧ x = { t with saved := true, preempt := false, savedSq := x.savedSq, savedTiles := false } ∧
      (∀ q < 2, ∀ e, (q, e) ∈ x.savedSq ↔ e ∈ (s.core t.core).sq[Fin.ofNat 2 q] ∧ e.team = ti) ∧ ∀ q < 2, ∀ e ∈ (u.core t.core).sq[Fin.ofNat 2 q], e.team ≠ ti) ∧
  (∀ s ti t, s.teams[ti]? = some t → (∀ p ∈ s.passes, p.live = true → ∀ x ∈ p.tiles, x.team ≠ some ti) →
    (∃ g ∈ s.groups, g.team = ti ∧ g.status ≠ .saved ∧ g.status ≠ .exited ∧ g.status ≠ .gone) → exec (.teamContextSave ti) s = .next s) ∧
  (∀ s gi g x t, s.groups[gi]? = some g → g.gfx = some x → x.inRegion = true → x.replay = false → s.teams[g.team]? = some t → t.preempt = true →
    g.status ≠ .exited → g.status ≠ .gone →
    ∃ u h, exec (.graphicsKill gi) s = .next u ∧ u.groups[gi]? = some h ∧ BackToRegion g x h ∧ MemKept s u g.core ∧ ∀ k, k ≠ gi → u.groups[k]? = s.groups[k]?) ∧
  (∀ s gi g x, s.groups[gi]? = some g → g.gfx = some x → x.replay = true → s.preempting g = false → g.status ≠ .saved →
    exec (.graphicsReplay gi) s = .next { s.setGroup gi { g with
      status := .slotWait, since := s.free, seen := Vector.replicate 16 0, ownBars := Vector.replicate 16 ⟨1, 0, 0, 0⟩, gfx := some { x with replay := false } } with free := s.free + 1 }) ∧
  (∀ s gi g x, s.groups[gi]? = some g → g.gfx = some x → x.replay = false → exec (.graphicsReplay gi) s = .next s)

/-- PAGE_WALK whose leaf passes holds it in the pair's L2 TLB, and one that fails leaves nothing. PRI_RESPONSE lets the groups that wait for the page run again, with a translation or a refusal. ATS_INVALIDATION leaves no TLB with the pages and waits while an access through them is to be performed. Private data stored through the pages reaches memory. SLICE_MAP_REMAP writes the entry once its old home holds nothing; COLUMN_POWER_OFF turns a column off once no entry points into it, and COLUMN_POWER_ON turns it on; all three do nothing while a job records or replays. PATROL_SCRUB counts an error, and an uncorrectable line is poisoned and posted. (R31, R37, R38, R263, R264, R265, R409, R490, R491, R493, R494) -/
def Obligations.TranslationsAndColumns : Prop :=
  (∀ s job pair va l pa c, s.walkLeaf job va = some l → s.xlateWith job va .read false (some l) = .ok pa c →
    ∃ t, exec (.pageWalk job pair va) s = .next t ∧ t = { s with l2tlb := t.l2tlb, free := s.free + 1 } ∧
      ({ job := job, page := pageOf va / 2 ^ (l.bits - 16) * 2 ^ (l.bits - 16), pages := 2 ^ (l.bits - 16), leaf := l.e } : TlbEntry) ∈ t.l2tlb[Fin.ofNat 32 pair] ∧
      (∀ k : Fin 32, k ≠ Fin.ofNat 32 pair → t.l2tlb[k] = s.l2tlb[k]) ∧
      ((s.l2tlb[Fin.ofNat 32 pair]).length ≤ 8192 → (t.l2tlb[Fin.ofNat 32 pair]).length ≤ 8192)) ∧
  (∀ s job pair va, (∀ l pa c, s.walkLeaf job va = some l → s.xlateWith job va .read false (some l) ≠ .ok pa c) →
    exec (.pageWalk job pair va) s = .next s) ∧
  (∀ s job va j, s.jobs[job]? = some j → j.live = true → j.hostShared = true → canonical va = true →
    (∃ t, exec (.priResponse job va true) s = .next t ∧ PriWoken s t job (pageOf va) ∧ (job, pageOf va) ∉ t.priRefused ∧
      (∃ e ∈ t.ats, e.job = job ∧ e.page = pageOf va ∧ e.pages = 1) ∧
      t = { s with ats := t.ats, groups := t.groups, priRefused := t.priRefused, free := t.free }) ∧
    ∃ t, exec (.priResponse job va false) s = .next t ∧ PriWoken s t job (pageOf va) ∧ (job, pageOf va) ∈ t.priRefused ∧
      t = { s with groups := t.groups, priRefused := t.priRefused }) ∧
  (∀ s job va pages, ∃ t, exec (.atsInvalidation job va pages) s = .next t ∧ Dropped s t job (pageOf va) pages ∧
    (∀ e, e ∈ t.ats ↔ e ∈ s.ats ∧ ¬ Covers e job (pageOf va) pages) ∧ t.groups = s.groups ∧ FlushedLines s t ∧
    ((∀ g ∈ s.groups, g.privateIn job (pageOf va) pages = false) → t.mem = s.mem) ∧
    (NoneWaits s job (pageOf va) pages → t.sys.journal = s.sys.journal.eraseP fun w => w == .ats job va pages) ∧
    (¬ NoneWaits s job (pageOf va) pages → Waiting.ats job va pages ∈ t.sys.journal)) ∧
  (∀ s slice vault, slice < 512 → vault < 512 → Fit s vault → s.mapFixed = false →
    ((∀ o ∈ s.objects, sliceIx o.pa = slice → ∃ v, Machine.target s.gddrTop o.pa = .direct v) → ∃ t, exec (.sliceMapRemap slice vault) s = .next t ∧
      t.sliceMap = s.sliceMap.set (Fin.ofNat 512 slice) vault ∧ t.stalled = s.stalled &&& ~~~(1#512 <<< slice) ∧
      t = { s with sliceMap := t.sliceMap, stalled := t.stalled, sys := { s.sys with journal := t.sys.journal } }) ∧
    (∀ o ∈ s.objects, sliceIx o.pa = slice → (∀ v, Machine.target s.gddrTop o.pa ≠ .direct v) → ∃ t, exec (.sliceMapRemap slice vault) s = .next t ∧
      Waiting.remap slice vault ∈ t.sys.journal ∧ t.stalled = s.stalled ||| (1#512 <<< slice) ∧
      t = { s with stalled := t.stalled, sys := { s.sys with journal := t.sys.journal } })) ∧
  (∀ s slice vault, ¬ (slice < 512 ∧ vault < 512 ∧ Fit s vault ∧ s.mapFixed = false) → exec (.sliceMapRemap slice vault) s = .next s) ∧
  (∀ s col, CanGoOff s col →
    ((∀ k : Fin 512, s.sliceMap[k] / 8 ≠ col) → ∃ t, exec (.columnPowerOff col) s = .next t ∧ (t.column col).on = false ∧
      t.powerOf (.column col) = .c3 ∧ t.sliceMap = s.sliceMap ∧ t.mem = s.mem ∧ t.groups = s.groups) ∧
    ((∃ k : Fin 512, s.sliceMap[k] / 8 = col) → ∃ t, exec (.columnPowerOff col) s = .next t ∧ t.column col = s.column col ∧
      Waiting.columnOff col ∈ t.sys.journal ∧ t.sliceMap = s.sliceMap ∧ t.mem = s.mem ∧ t.groups = s.groups)) ∧
  (∀ s col, ¬ CanGoOff s col → exec (.columnPowerOff col) s = .next s) ∧
  (∀ s col, col < 64 → s.mapFixed = false → ∃ t, exec (.columnPowerOn col) s = .next t ∧ (t.column col).on = true ∧
    t.powerOf (.column col) = .c0 ∧ t.sliceMap = s.sliceMap ∧ t.mem = s.mem ∧ t.groups = s.groups) ∧
  (∀ s col, s.mapFixed = true → exec (.columnPowerOn col) s = .next s) ∧
  (∀ s line, exec (.patrolScrub line .clean) s = .next s) ∧
  (∀ (s : State) line, Machine.target s.gddrTop (128 * line) ≠ .none → Machine.target s.gddrTop (128 * line) ≠ .reg →
    (∃ t, exec (.patrolScrub line .corrected) s = .next t ∧ Counted s t false ∧ t.poison = s.poison ∧ t.mem = s.mem ∧ t.groups = s.groups ∧
      t.events = s.events) ∧
    ∃ t, exec (.patrolScrub line .uncorrectable) s = .next t ∧ Counted s t true ∧ line ∈ t.poison ∧ (∀ k ∈ s.poison, k ∈ t.poison) ∧
      t.mem = s.mem ∧ t.groups = s.groups ∧ t.events = s.events ++ [partEvent 6 (BitVec.ofNat 64 (128 * line))])

/-- PEER_MESSAGE_RECEIVE applies a message that is next in its stream (a write to exported pages stores its bytes, an atomic goes to the Brual unit), discards one already applied, and keeps one that arrives ahead; links go down at a loss or at the 16th tag failure and come up at training, with streams restarted where no port reached the device; a device out of reach is lost. HOST_SNOOP answers once no combiner holds the line, and HOST_MEMORY_ACCESS writes at the point of coherence, waits for a locked line, or is denied. (R290, R406, R407, R416, R417, R418, R424, R506, R507, R510) -/
def Obligations.PeersAndHostAccesses : Prop :=
  (∀ s src seq link off data pa, NextIn s src 1 seq → WriteLands s src link off data pa →
    ∃ t, exec (.peerMessageReceive src seq (.write link off data)) s = .next t ∧ t.mem = SMap.setList s.mem pa data ∧
      t.inStream src 1 = { dev := src, cls := 1, next := (seq + 1) % 2 ^ 32, ahead := [] } ∧ t.groups = s.groups ∧ t.cores = s.cores ∧ t.atomics = s.atomics) ∧
  (∀ s src seq link off data, NextIn s src 1 seq → s.peerReach src link off data.length = none →
    ∃ t, exec (.peerMessageReceive src seq (.write link off data)) s = .next t ∧ t.mem = s.mem ∧
      t.inStream src 1 = { dev := src, cls := 1, next := (seq + 1) % 2 ^ 32, ahead := [] } ∧ t.groups = s.groups) ∧
  (∀ s src seq link off aop bytes op1 cmp pa j, NextIn s src 2 seq → s.peerReach src link off bytes = some pa → s.linkJob link = some j →
    s.peerBarred src pa = false → ∃ t a, exec (.peerMessageReceive src seq (.atomic link off aop bytes op1 cmp)) s = .next t ∧ t.mem = s.mem ∧
      t.atomics = s.atomics ++ [a] ∧ a.grp = none ∧ a.job = j ∧ a.pa = pa ∧ a.edge = some .brual ∧ a.op = aop.toNat ∧ a.bytes = bytes ∧
      t.inStream src 2 = { dev := src, cls := 2, next := (seq + 1) % 2 ^ 32, ahead := [] }) ∧
  (∀ s src seq msg, Linked s src → 2 ^ 31 ≤ (seq + 2 ^ 32 - (s.inStream src (classOf msg)).next) % 2 ^ 32 →
    ∃ t, exec (.peerMessageReceive src seq msg) s = .next t ∧ t = { s with ports := t.ports, free := s.free + 1 }) ∧
  (∀ s src seq msg next, Linked s src → s.inStream src (classOf msg) = { dev := src, cls := classOf msg, next := next, ahead := [] } →
    0 < (seq + 2 ^ 32 - next) % 2 ^ 32 → (seq + 2 ^ 32 - next) % 2 ^ 32 < 2 ^ 31 →
    ∃ t, exec (.peerMessageReceive src seq msg) s = .next t ∧ t.mem = s.mem ∧ t.atomics = s.atomics ∧ t.methods = s.methods ∧ t.colls = s.colls ∧
      t.inStream src (classOf msg) = { dev := src, cls := classOf msg, next := next, ahead := [(seq, msg)] }) ∧
  (∀ s src seq msg, ¬ Linked s src → exec (.peerMessageReceive src seq msg) s = .next s) ∧
  (∀ s port, exec (.peerLinkLoss port) s = .next { s with ports := s.ports.set (Fin.ofNat 16 port) { s.ports[Fin.ofNat 16 port] with peer := none, fails := 0 } }) ∧
  (∀ s dev, ¬ Linked s dev → dev ∉ s.lost → ∃ t, exec (.peerDestinationTimeout dev) s = .next t ∧ dev ∈ t.lost ∧
    t.events.getLast? = some (partEvent 4 (BitVec.ofNat 64 (dev % 256)))) ∧
  (∀ s dev, Linked s dev ∨ dev ∈ s.lost → exec (.peerDestinationTimeout dev) s = .next s) ∧
  (∀ (s : State) port (p : Port), s.ports[Fin.ofNat 16 port] = p → p.peer.isSome = true → p.secure = true → exec (.gcmTagFailure port) s = .next { s with
    ports := s.ports.set (Fin.ofNat 16 port) (if 15 ≤ p.fails then { p with peer := none, fails := 0 } else { p with fails := p.fails + 1 }) }) ∧
  (∀ (s : State) port (p : Port), s.ports[Fin.ofNat 16 port] = p → (p.peer = none ∨ p.secure = false) → exec (.gcmTagFailure port) s = .next s) ∧
  (∀ (s : State) port dev (p : Port), s.ports[Fin.ofNat 16 port] = p → ∃ t q, exec (.brualLinkTraining port dev) s = .next t ∧
    t.ports = s.ports.set (Fin.ofNat 16 port) q ∧ q.peer = some dev ∧ q.fails = 0 ∧ q.stamp = p.stamp ∧ (p.peer.isSome = true → q.secure = p.secure) ∧
    dev ∉ t.lost ∧ (Linked s dev → t.outSeq = s.outSeq ∧ t.inStreams = s.inStreams) ∧
    (¬ Linked s dev → (∀ o ∈ t.outSeq, o.1 ≠ dev) ∧ ∀ cls, t.inStream dev cls = { dev := dev, cls := cls, next := 0, ahead := [] }) ∧
    t.mem = s.mem ∧ t.groups = s.groups) ∧
  (∀ (s : State) pa, Machine.target s.gddrTop pa = .host → s.locked pa = false → ∃ t, exec (.hostSnoop pa) s = .next t ∧ t = { s with columns := t.columns, sys := t.sys } ∧
    (t.column (s.homeCol pa)).stamp = stampMax (s.column (s.homeCol pa)).stamp s.sys.hostStamp ∧
    t.sys.journal = s.sys.journal.eraseP fun w => w == .snoop pa) ∧
  (∀ (s : State) pa, Machine.target s.gddrTop pa = .host → s.locked pa = true → ∃ t, exec (.hostSnoop pa) s = .next t ∧ Waiting.snoop pa ∈ t.sys.journal ∧
    t = { s with sys := { s.sys with journal := t.sys.journal } }) ∧
  (∀ (s : State) pa, Machine.target s.gddrTop pa ≠ .host → exec (.hostSnoop pa) s = .next s) ∧
  (∀ s pa op, s.hostReaches pa = true → s.hostReaches (pa + hostOpBytes op - 1) = true → (∀ w ∈ s.sys.journal, w.isAccess = false) →
    (s.secureAt pa = false → s.secureAt (pa + hostOpBytes op - 1) = false → s.hostWaits pa op = false →
      (∀ b l, op = .write (b :: l) → ∃ t, exec (.hostMemoryAccess pa op) s = .next t ∧ t.mem = SMap.setList s.mem pa (b :: l) ∧ t.groups = s.groups ∧ t.cores = s.cores) ∧
      (∀ wide v, op = .fetchAdd wide v → pa % (if wide then 8 else 4) = 0 → ∃ t, exec (.hostMemoryAccess pa op) s = .next t ∧
        t.mem = SMap.setList s.mem pa (leBytes (if wide then 8 else 4) (memNat s.mem pa (if wide then 8 else 4) + v.toNat)) ∧ t.groups = s.groups ∧ t.cores = s.cores) ∧
      (∀ wide v, op = .swap wide v → pa % (if wide then 8 else 4) = 0 → ∃ t, exec (.hostMemoryAccess pa op) s = .next t ∧
        t.mem = SMap.setList s.mem pa (leBytes (if wide then 8 else 4) v.toNat) ∧ t.groups = s.groups ∧ t.cores = s.cores) ∧
      (∀ wide c v, op = .cas wide c v → pa % (if wide then 8 else 4) = 0 → ∃ t, exec (.hostMemoryAccess pa op) s = .next t ∧
        t.mem = (if memNat s.mem pa (if wide then 8 else 4) = c.toNat % 2 ^ (if wide then 64 else 32) then SMap.setList s.mem pa (leBytes (if wide then 8 else 4) v.toNat)
          else s.mem) ∧ t.groups = s.groups ∧ t.cores = s.cores) ∧
      (op = .read → exec (.hostMemoryAccess pa op) s = .next s)) ∧
    (s.hostWaits pa op = true → exec (.hostMemoryAccess pa op) s = .next { s with sys := { s.sys with journal := s.sys.journal ++ [.access pa op] } }) ∧
    (s.secureAt pa = true ∨ s.secureAt (pa + hostOpBytes op - 1) = true → s.hostWaits pa op = false →
      exec (.hostMemoryAccess pa op) s = .next (s.countDenied pa (2 ^ 30)))) ∧
  (∀ s pa op, (∃ w ∈ s.sys.journal, w.isAccess = true) →
    exec (.hostMemoryAccess pa op) s = .next { s with sys := { s.sys with journal := s.sys.journal ++ [.access pa op] } }) ∧
  (∀ s pa op, s.hostReaches pa = false → (∀ w ∈ s.sys.journal, w.isAccess = false) → exec (.hostMemoryAccess pa op) s = .next s)

/-- A request that firmware can perform completes with its event posted and its ring place passed, and one that it cannot waits: CREATE_JOB makes the job (where it has vaults, once no slice points at them and no job records or replays), DESTROY_JOB marks it and completes with it, CANCEL_JOB cancels its units, REGISTER_QUEUE and UNREGISTER_QUEUE add and remove a queue, INVALIDATE drops the pages from every TLB, RESIDENT wakes the groups parked on the page, COLLECTIVE writes an entry, ATTEST signs a report, DEBUG_AUTH authorises debugging, FLASH_UPDATE writes flash. A request with bad operands, or about a job that its function did not create, completes REJECTED. (R58, R61, R79, R265, R408, R411, R412, R413, R420, R429, R520, R521) -/
def Obligations.HostRequests : Prop :=
  (∀ s h, s.canServe h.fn = false → (∀ x, exec (.createJob h x) s = .next s) ∧ exec (.destroyJob h) s = .next s ∧ exec (.cancelJob h) s = .next s ∧
    (∀ a w, exec (.registerQueue h a w) s = .next s) ∧ (∀ a, exec (.unregisterQueue h a) s = .next s) ∧ (∀ a n, exec (.invalidate h a n) s = .next s) ∧
    (∀ a r, exec (.resident h a r) s = .next s) ∧ (∀ x, exec (.collective h x) s = .next s) ∧ (∀ n a, exec (.attest h n a) s = .next s) ∧
    (∀ a n, exec (.debugAuth h a n) s = .next s) ∧ ∀ a n, exec (.flashUpdate h a n) s = .next s) ∧
  (∀ s h, s.canServe h.fn = true → (¬ ∃ j, Owns s h j) → exec (.destroyJob h) s = .next (answered s h h.job 4) ∧
    exec (.cancelJob h) s = .next (answered s h h.job 4) ∧ (∀ a w, exec (.registerQueue h a w) s = .next (answered s h h.job 4)) ∧
    (∀ a, exec (.unregisterQueue h a) s = .next (answered s h h.job 4)) ∧ (∀ a n, exec (.invalidate h a n) s = .next (answered s h h.job 4)) ∧
    ∀ a r, exec (.resident h a r) s = .next (answered s h h.job 4)) ∧
  (∀ s h x, s.canServe h.fn = true → h.job = 0 → (s.fn h.fn).mayCreate h.fn x.secure = true → s.jobFits x = true → x.vaultMap = 0 →
    exec (.createJob h x) s = .next (answered { s with jobs := s.jobs ++ [createdJob s h x], free := s.free + 1 } h s.jobs.length 0)) ∧
  (∀ s h x, s.canServe h.fn = true → h.job = 0 → (s.fn h.fn).mayCreate h.fn x.secure = true → s.jobFits x = true → x.vaultMap ≠ 0 → s.mapFixed = false →
    (∀ k : Fin 512, x.vaultMap.getLsbD s.sliceMap[k] = false) → ∃ t, exec (.createJob h x) s = .next (answered t h s.jobs.length 0) ∧
      t.jobs = s.jobs ++ [createdJob s h x] ∧ t.direct = s.direct ||| x.vaultMap ∧ t.groups = s.groups ∧ t.mem = s.mem) ∧
  (∀ s h x, s.canServe h.fn = true → h.job = 0 → (s.fn h.fn).mayCreate h.fn x.secure = true → s.jobFits x = true → x.vaultMap ≠ 0 →
    (s.mapFixed = true → exec (.createJob h x) s = .next s) ∧
    (s.mapFixed = false → (∃ k : Fin 512, x.vaultMap.getLsbD s.sliceMap[k] = true) → ∃ t, exec (.createJob h x) s = .next t ∧
      Waiting.create h x ∈ t.sys.journal ∧ t.jobs = s.jobs ∧ t.direct = s.direct ∧ t.events = s.events)) ∧
  (∀ s h x, s.canServe h.fn = true → (h.job ≠ 0 ∨ (s.fn h.fn).mayCreate h.fn x.secure = false ∨ s.jobFits x = false) →
    exec (.createJob h x) s = .next (answered s h h.job 4)) ∧
  (∀ s h j, s.canServe h.fn = true → Owns s h j → j.destroy = none →
    exec (.destroyJob h) s = .next (({ s with jobs := s.jobs.set h.job { j with destroy := some h.tag } } : State).settle.modFn h.fn fun x =>
      { x with rqread := x.rqread + 128 })) ∧
  (∀ (s : State) ji (j : Job) tag, s.jobs[ji]? = some j → j.live = true → j.destroy = some tag → s.jobIdle ji = true → j.vaultMap = 0 →
    (s.settleJob ji).jobs = s.jobs.set ji { j with live := false } ∧ (s.settleJob ji).events = s.events ++
      [⟨j.fn, 0x81, 0, tag.toNat, ji, 0⟩, ⟨j.fn, 0x83, 0, 0, ji, 0⟩] ∧ ∀ q ∈ (s.settleJob ji).queues, q.job = ji → q.live = false) ∧
  (∀ s h j, s.canServe h.fn = true → Owns s h j → j.destroy.isSome = true → exec (.destroyJob h) s = .next (answered s h h.job 4)) ∧
  (∀ s h j, s.canServe h.fn = true → Owns s h j → ∃ t, exec (.cancelJob h) s = .next t ∧
    ∀ (li : Nat) (l : Launch), s.launches[li]? = some l → l.job = h.job → l.complete = false → l.left ≠ 0 → ∃ m, t.launches[li]? = some m ∧ m.cancelled = true) ∧
  (∀ s h j qcb wake g, s.canServe h.fn = true → Owns s h j → qcb.toNat % 64 = 0 → wake ≤ 8127 →
    (∀ q ∈ s.queues, ¬ (q.live = true ∧ q.job = h.job ∧ q.qcb = qcb)) → s.devRead h.job (qcb + 56) 8 = .ok g →
    ∃ t q, exec (.registerQueue h qcb wake) s = .next t ∧ Registered s t h qcb wake q ∧ t.events = s.events ∧ t.mem = s.mem) ∧
  (∀ s h j qcb wake, s.canServe h.fn = true → Owns s h j → (qcb.toNat % 64 ≠ 0 ∨ 8127 < wake ∨ ∃ q ∈ s.queues, q.live = true ∧ q.job = h.job ∧ q.qcb = qcb) →
    exec (.registerQueue h qcb wake) s = .next (answered s h h.job 4)) ∧
  (∀ s h j qcb qi q, s.canServe h.fn = true → Owns s h j → (s.queues.findIdx? fun r => r.live && r.job == h.job && r.qcb == qcb) = some qi →
    s.queues[qi]? = some q → (∀ k < 64, ¬ ((s.slot k).bound = true ∧ (s.slot k).queue = qi)) → (∀ w ∈ s.sys.journal, w.updates h.job qcb = false) →
    ∃ t, exec (.unregisterQueue h qcb) s = .next (answered t h h.job 0) ∧ t.queues = s.queues.set qi { q with live := false } ∧ t.mem = s.mem) ∧
  (∀ s h j qcb qi k, s.canServe h.fn = true → Owns s h j → (s.queues.findIdx? fun r => r.live && r.job == h.job && r.qcb == qcb) = some qi →
    k < 64 → (s.slot k).bound = true → (s.slot k).queue = qi → ∃ t, exec (.unregisterQueue h qcb) s = .next t ∧ (t.slot k).release = true ∧
      t.queues = s.queues ∧ t.events = s.events) ∧
  (∀ s h j va pages, s.canServe h.fn = true → Owns s h j → va.toNat % 65536 = 0 → NoneWaits s h.job (pageOf va) pages →
    ∃ t, exec (.invalidate h va pages) s = .next (answered t h h.job 0) ∧ Dropped s t h.job (pageOf va) pages ∧ FlushedLines s t ∧ t.groups = s.groups ∧
      ((∀ g ∈ s.groups, g.privateIn h.job (pageOf va) pages = false) → t.mem = s.mem)) ∧
  (∀ s h j va pages, s.canServe h.fn = true → Owns s h j → va.toNat % 65536 ≠ 0 → exec (.invalidate h va pages) s = .next (answered s h h.job 4)) ∧
  (∀ s h j va, s.canServe h.fn = true → Owns s h j → va.toNat % 65536 = 0 → canonical va = true →
    (∃ t, exec (.resident h va 0) s = .next (answered t h h.job 0) ∧ Unparked s t h.job (pageOf va) false ∧ t.mem = s.mem) ∧
    ∃ t, exec (.resident h va 1) s = .next (answered (t.refuseFetches h.job (pageOf va)) h h.job 0) ∧ Unparked s t h.job (pageOf va) true) ∧
  (∀ s h j va r, s.canServe h.fn = true → Owns s h j → (va.toNat % 65536 ≠ 0 ∨ canonical va = false ∨ 1 < r) →
    exec (.resident h va r) s = .next (answered s h h.job 4)) ∧
  (∀ s h x, s.canServe h.fn = true → CollOk x → (s.colls.filter fun e => e.ident != x.ident).length < 256 →
    exec (.collective h x) s = .next (answered { s with colls := { ident := x.ident, locals := x.locals, parent := x.parent, port := x.port, children := x.children, op := none, contribs := [], fromChildren := [], sent := false, aborted := false, late := 0 } :: s.colls.filter fun e => e.ident != x.ident } h h.job 0)) ∧
  (∀ s h x, s.canServe h.fn = true → ¬ CollOk x → exec (.collective h x) s = .next (answered s h h.job 4)) ∧
  (∀ s h nonce addr, s.canServe h.fn = true → nonce.length = 32 → addr.toNat < 2 ^ 50 →
    (s.sys.aliasKey = true → s.sys.signed < 1024 → ∃ t report, exec (.attest h nonce addr) s = .next (answered t h h.job 0) ∧
      t.mem = SMap.setList s.mem (0x8000000000000 + addr.toNat) report ∧ t.sys.signed = s.sys.signed + 1) ∧
    (s.sys.aliasKey = false ∨ 1024 ≤ s.sys.signed → exec (.attest h nonce addr) s = .next (answered s h h.job 4))) ∧
  (∀ s h addr len, s.canServe h.fn = true → addr.toNat + len ≤ 2 ^ 50 →
    (s.sys.debugRejects < 8 → Config.certOk (s.hostBytes addr.toNat len) = true →
      exec (.debugAuth h addr len) s = .next (answered { s with sys := { s.sys with debug := .sAuthorised } } h h.job 0)) ∧
    (8 ≤ s.sys.debugRejects ∨ Config.certOk (s.hostBytes addr.toNat len) = false →
      exec (.debugAuth h addr len) s = .next (answered { s with sys := { s.sys with debugRejects := s.sys.debugRejects + 1 } } h h.job 4))) ∧
  (∀ s h addr len, s.canServe h.fn = true → len ≠ 0 → addr.toNat + len ≤ 2 ^ 50 →
    let i := s.imageAt addr.toNat len
    (s.sys.imageFault i = 0 → exec (.flashUpdate h addr len) s = .next (answered { s with sys := { s.sys with flash := i } } h h.job 0)) ∧
    (s.sys.imageFault i ≠ 0 → exec (.flashUpdate h addr len) s = .next (answered s h h.job 4)))

/-- A falling RESET_N or a rail fault is a cold reset, and D3COLD_ENTRY one that keeps the wake buffer; a rising RESET_N brings the part up, enters recovery or halts; PERST_N cancels all work and resets the functions; PCIE_LINK_UP trains the link; D3HOT_ENTRY waits for halted groups and for a job that records or replays, and gates the blocks; a block changes its power state when it may; recovery fetches an image; a register write reaches only what it may; wake registers wake their queue, or are captured and replayed; PFCTL, THERMSTAT and PWRCTL are written by their rules. (R269, R408, R414, R415, R425, R426, R428, R432, R437, R440, R441, R442) -/
def Obligations.ResetsAndRegisters : Prop :=
  (∀ s, ∃ t, exec .resetNFall s = .next t ∧ ColdReset s t (coldSys s.sys)) ∧
  (∀ s, s.sys.low = false → ∃ t, exec .railFault s = .next t ∧ ColdReset s t (coldSys s.sys)) ∧
  (∀ s, s.sys.low = false → ∃ t, exec .d3coldEntry s = .next t ∧
    ColdReset s t { coldSys s.sys with dev := .d3cold, wakeBuf := s.sys.wakeBuf, wakeOvf := s.sys.wakeOvf }) ∧
  (∀ s, s.sys.low = true → ∃ t, exec .resetNRise s = .next t ∧ t.sys.low = false ∧ t.sys.dev = .d0 ∧ t.groups = s.groups ∧
    (t.sys.fwState = 3 ∨ (t.sys.fwState = 2 ∧ t.sys.rcvreason ≠ 0) ∨ BroughtUp s t) ∧
    (s.sys.pkgstrap / 64 % 4 = 3 ∨ s.sys.pkgstrap % 4 = 3 → t.sys.fwState = 3 ∧ t.sys.rcvreason = 7)) ∧
  (∀ s, s.sys.low = false → exec .resetNRise s = .next s) ∧
  (∀ s, s.sys.low = false → ∃ t, exec .pcieLinkUp s = .next t ∧
    t = { s with free := s.free + 1, sys := { s.sys with link := true, cxlCache := t.sys.cxlCache } }) ∧
  (∀ s, s.sys.low = false → ∃ t, exec .perstN s = .next t ∧ t.sys.link = false ∧ t.sys.fns = Vector.replicate 33 Fn.reset ∧ AllCancelled s t ∧
    (s.sys.fwState = 1 → t.sys.fwState = 0) ∧ (s.sys.bring = .up → t.sys.bring = .due) ∧ ∀ c < 64, (s.core c).secure = true → ArraysZero (t.core c)) ∧
  (∀ s, s.sys.low = false → s.sys.dev = .d0 →
    (s.mapFixed = false → (∀ g ∈ s.groups, g.status ≠ .halted) → ∃ t, exec .d3hotEntry s = .next t ∧ t.sys.dev = .d3hot ∧ t.groups = s.groups ∧ t.mem = s.mem ∧ t.cores = s.cores ∧
      ∀ b ∈ allBlocks, t.powerOf b = if s.powerOf b = .c3 then .c3 else .c2) ∧
    ((s.mapFixed = true ∨ ∃ g ∈ s.groups, g.status = .halted) → ∃ t, exec .d3hotEntry s = .next t ∧ Waiting.d3hot ∈ t.sys.journal ∧
      t = { s with sys := { s.sys with journal := t.sys.journal } })) ∧
  (∀ s c p, s.sys.low = false → s.sys.dev = .d0 → c < 64 →
    ((p = .c0 ∨ p = .c1 ∨ (∀ g ∈ s.groups, g.core = c → g.status ≠ .halted ∧ (p = .c3 → g.status = .exited ∨ g.status = .gone))) →
      ∃ t, exec (.blockPowerStateChange (.core c) p) s = .next t ∧ t.powerOf (.core c) = p ∧ (p = .c3 → ArraysZero (t.core c)) ∧ t.groups = s.groups) ∧
    ((p = .c2 ∨ p = .c3) → (∃ g ∈ s.groups, g.core = c ∧ g.status = .halted) → ∃ t, exec (.blockPowerStateChange (.core c) p) s = .next t ∧
      t.power = s.power ∧ Waiting.power (.core c) p ∈ t.sys.journal ∧ t.cores = s.cores)) ∧
  (∀ s b p, s.sys.low = false → s.sys.dev = .d0 → ((∃ k < 32, b = .whorl k) ∨ ∃ k < 16, b = .port k) →
    ∃ t, exec (.blockPowerStateChange b p) s = .next t ∧ t.powerOf b = p ∧ (∀ d, d ≠ b → t.powerOf d = s.powerOf d) ∧ t.cores = s.cores ∧ t.groups = s.groups) ∧
  (∀ s v, Answers s 0 → v.getLsbD 0 = true → s.sys.fwState = 2 → exec (.rcvctlGo v) s = .next { s with sys := { s.sys with rcvbusy := true } }) ∧
  (∀ s, s.sys.rcvbusy = true → s.sys.fwState = 2 → ∃ t, exec .recoveryFetchDone s = .next t ∧ t.sys.rcvbusy = false ∧ t.sys.flash = s.sys.flash ∧
    (4194304 < s.sys.rcvlen.toNat → t.sys.fwState = 2 ∧ t.sys.rcvreason = 4) ∧
    (s.sys.rcvlen.toNat ≤ 4194304 → s.sys.link = false → t.sys.fwState = 2 ∧ t.sys.rcvreason = 5) ∧
    (t.sys.fwState = 3 ∨ (t.sys.fwState = 2 ∧ t.sys.rcvreason ≠ 0) ∨ BroughtUp s t)) ∧
  (∀ s f v, Answers s f → s.sys.bring ≠ .up →
    exec (.registerWrite f .rqbase v) s = .next (s.modFn f fun x => { x with rqbase := v }) ∧
    exec (.registerWrite f .rqsize v) s = .next (s.modFn f fun x => { x with rqsize := v }) ∧
    exec (.registerWrite f .evbase v) s = .next (s.modFn f fun x => { x with evbase := v }) ∧
    exec (.registerWrite f .evsize v) s = .next (s.modFn f fun x => { x with evsize := v })) ∧
  (∀ s f v, Answers s f → s.sys.bring = .up → ∀ r ∈ [PlainReg.rqbase, .rqsize, .evbase, .evsize], exec (.registerWrite f r v) s = .next s) ∧
  (∀ s f v, Answers s f → exec (.registerWrite f .rqwrite v) s = .next (s.modFn f fun x => { x with rqwrite := v }) ∧
    exec (.registerWrite f .evread v) s = .next (s.modFn f fun x => { x with evread := v }) ∧
    (∀ r ∈ [PlainReg.rqread, .evwrite, .fwstatus, .rcvstatus, .pkgstrap, .pkgfuse], exec (.registerWrite f r v) s = .next s) ∧
    exec (.registerWrite f .rcvaddr v) s = .next (if f = 0 then { s with sys := { s.sys with rcvaddr := v } } else s) ∧
    exec (.registerWrite f .rcvlen v) s = .next (if f = 0 then { s with sys := { s.sys with rcvlen := v } } else s)) ∧
  (∀ s f r v, ¬ Answers s f → exec (.registerWrite f r v) s = .next s) ∧
  (∀ s reg x n q w, s.sys.low = false → s.sys.dev = .d0 → reg < 64 → s.slot reg = x → x.bound = true → x.waiting = none → x.levels = [n] →
    s.queues[x.queue]? = some q → s.qcbWritten q = .ok w →
    exec (.wakeRegisterWrite reg) s = .next (s.modSlot reg fun y => { y with levels := [{ n with limit := w }] })) ∧
  (∀ s reg qi, s.sys.low = false → s.sys.dev = .d0 → 64 ≤ reg → reg < 8192 → s.unbound qi = true →
    (∀ (k : Nat) (q : Queue), s.queues[k]? = some q → ((q.live = true ∧ q.wake = reg - 64) ↔ k = qi)) →
    exec (.wakeRegisterWrite reg) s = .next (({ s with agenda := s.agenda ++ [.bindRound] } : State).evalParked qi)) ∧
  (∀ s reg, s.sys.low = false → s.sys.dev = .d3hot → reg < 8192 → exec (.wakeRegisterWrite reg) s = .next { s with
    sys := if s.sys.wakeBuf.length < 64 then { s.sys with wakeBuf := s.sys.wakeBuf ++ [reg] } else { s.sys with wakeOvf := true } }) ∧
  (∀ s, s.sys.low = false → s.sys.dev = .d3hot →
    let u : State := s.sys.wakeBuf.foldl State.wakeNow { s with power := s.power.filter fun p => p.2 == .c3, sys := { s.sys with dev := .d0, wakeBuf := [], wakeOvf := false } }
    exec .wakeBufferReplay s = .next (if s.sys.wakeOvf then u.rescan else u)) ∧
  (∀ s core v, core < 64 → exec (.pfctlClear core v) s = .next (if v.getLsbD 0 then s.setCore core { s.core core with
    pfIssued := 0, pfUsed := 0, pfLate := 0, pfUnused := 0 } else s)) ∧
  (∀ s v, exec (.thermstatWrite v) s = .next { s with sys := { s.sys with crit := s.sys.crit && !v.getLsbD 2, throt := s.sys.throt && !v.getLsbD 1 } }) ∧
  (∀ s v, let l := (v.extractLsb' 4 12).toNat
    (l = 0 ∨ 450 ≤ l ∧ l ≤ 1400 → exec (.pwrctlWrite v) s = .next { s with sys := { s.sys with limit := l, profile := (v.extractLsb' 2 2).toNat } }) ∧
    (¬ (l = 0 ∨ 450 ≤ l ∧ l ≤ 1400) → exec (.pwrctlWrite v) s = .next s)) ∧
  (∀ s f run ide, f < 33 → exec (.tdiIdeStateChange f run ide) s = .next (s.modFn f fun x => { x with run := run, ide := ide }))

/-- POWER_LIMIT_EVAL lowers the clock while the power exceeds the limit, and POWER_LIMIT_NOT_MET posts once; a throttle step lowers the clock by 100 MHz while a point is exceeded; 105 °C, or a PMBus fault, takes the critical action, which after its time cancels all work and puts the cores in C3; recovery gives them back; 115 °C removes power and all work. The watchdog restarts firmware, a fourth expiry or a lost core passes the role to the spare core or halts the part, and a debug access is answered as its authorisation allows. (R425, R437, R438, R439, R516, R517, R518, R521, R522, R523, R524, R525) -/
def Obligations.PowerTemperatureAndDebug : Prop :=
  (∀ s watts, s.sys.fwState = 1 → ∃ t, exec (.powerLimitEval watts) s = .next t ∧ t = { s with free := s.free + 1, sys := { s.sys with
      pwrnow := watts, clock := t.sys.clock, overMs := if s.sys.wattLimit < watts ∧ s.sys.clock = 12 then s.sys.overMs + 1 else 0,
      overPosted := s.sys.overPosted && decide (s.sys.wattLimit ≤ watts) } } ∧
    12 ≤ t.sys.clock ∧ t.sys.clock ≤ max 12 (min s.sys.ceiling s.sys.cap) ∧ (s.sys.wattLimit < watts → 12 < s.sys.clock → t.sys.clock < s.sys.clock) ∧
    (watts ≤ s.sys.wattLimit → min s.sys.clock (min s.sys.ceiling s.sys.cap) ≤ t.sys.clock)) ∧
  (∀ s watts, s.sys.fwState = 1 → 10 ≤ s.sys.overMs → s.sys.clock = 12 → s.sys.wattLimit < watts →
    (s.sys.overPosted = false → exec (.powerLimitNotMet watts) s = .next (({ s with sys := { s.sys with overPosted := true } } : State).post
      (partEvent 10 (BitVec.ofNat 64 watts)))) ∧
    (s.sys.overPosted = true → exec (.powerLimitNotMet watts) s = .next s)) ∧
  (∀ s watts, s.sys.overMs < 10 → exec (.powerLimitNotMet watts) s = .next s) ∧
  (∀ s core canopy, exec (.thermalThrottleStep core canopy) s = .next { s with sys := throttled s.sys core canopy }) ∧
  (∀ s celsius canopy, s.sys.low = false → s.sys.tripped = false → 105 ≤ celsius →
    exec (.thermalCritical celsius canopy) s = .next (criticalAt s celsius canopy)) ∧
  (∀ s celsius canopy, celsius < 105 → exec (.thermalCritical celsius canopy) s = .next s) ∧
  (∀ s, s.sys.low = false → s.sys.tripped = false → exec .pmbusFault s = .next (criticalAt s 105 false)) ∧
  (∀ s, s.sys.low = false → s.sys.tripped = false → (105 ≤ s.sys.coremax ∨ 105 ≤ s.sys.cnpmax) → ∃ t, exec .thermalCriticalTimeout s = .next t ∧
    t.sys.held = true ∧ AllCancelled s t ∧ ∀ c < 64, (∀ g ∈ t.groups, g.core = c → g.status = .exited ∨ g.status = .gone) → t.powerOf (.core c) = .c3) ∧
  (∀ s, s.sys.coremax < 105 → s.sys.cnpmax < 105 → exec .thermalCriticalTimeout s = .next s) ∧
  (∀ s core canopy, s.sys.low = false → s.sys.tripped = false → s.sys.held = false → exec (.thermalRecovery core canopy) s = .next { s with sys :=
    { s.sys with coremax := core, cnpmax := canopy, throtnow := Warm core canopy, cap := if core ≤ 90 ∧ canopy ≤ 85 then 36 else s.sys.cap } }) ∧
  (∀ s core canopy, s.sys.low = false → s.sys.tripped = false → s.sys.held = true → core < 90 → canopy < 90 →
    ∃ t, exec (.thermalRecovery core canopy) s = .next t ∧ t.sys.held = false ∧ t.groups = s.groups ∧ ∀ c, t.powerOf (.core c) ≠ .c3) ∧
  (∀ s celsius canopy, 115 ≤ celsius → s.sys.low = false → s.sys.tripped = false → ∃ t, exec (.thermalTrip celsius canopy) s = .next t ∧
    t.sys.tripped = true ∧ t.sys.fwState = 3 ∧ (∀ g ∈ t.groups, g.status = .gone) ∧ (∀ c < 64, ArraysZero (t.core c) ∧ t.powerOf (.core c) = .c3) ∧
    t.events = s.events ++ [partEvent 9 (BitVec.ofNat 64 (celsius % 256 + 256 * canopy.toNat))] ∧ t.launches = s.launches) ∧
  (∀ s celsius canopy, celsius < 115 → exec (.thermalTrip celsius canopy) s = .next s) ∧
  (∀ s, s.sys.working = true → s.sys.expiries < 3 → ∃ t, exec .watchdogExpiry s = .next t ∧ t.sys.restarts = s.sys.restarts + 1 ∧
    ((t.sys.fwState = 1 ∧ t.sys.expiries = 0 ∧ t.events.getLast? = some (partEvent 8 (BitVec.ofNat 64 (s.sys.restarts + 1)))) ∨
      (t.sys.fwState = 0 ∧ t.sys.expiries = s.sys.expiries + 1 ∧ t.agenda = .watchdogExpiry :: s.agenda))) ∧
  (∀ s, s.sys.working = true → 3 ≤ s.sys.expiries → (s.sys.spare = true ∨ s.sys.pkgfuse.testBit 25 = false) →
    ∃ t, exec .watchdogExpiry s = .next t ∧ t.sys.fwState = 3 ∧ t.sys.rcvreason = 8 ∧ t.groups = s.groups) ∧
  (∀ s, s.sys.working = true → s.sys.spare = false → s.sys.pkgfuse.testBit 25 = true → s.sys.imageFault s.sys.flash = 0 →
    ∃ t, exec .spareTakeover s = .next t ∧ t.sys.spare = true ∧ t.sys.fwState = 1 ∧ t.sys.running = s.sys.flash ∧ AllCancelled s t ∧
      t.events.getLast? = some (partEvent 11 0)) ∧
  (∀ s, s.sys.working = true → (s.sys.spare = true ∨ s.sys.pkgfuse.testBit 25 = false) →
    exec .spareTakeover s = .next { s with sys := { s.sys with fwState := 3, rcvreason := 8 } }) ∧
  (∀ s, s.sys.working = false → exec .spareTakeover s = .next s ∧ exec .watchdogExpiry s = .next s) ∧
  (∀ s b reg data, s.sys.low = false → s.sys.dev = .d3hot → b ∈ allBlocks →
    exec (.debugAccess b reg data) s = .next { s with sys := { s.sys with debugReply := (.asleep, 0) } }) ∧
  (∀ s b reg data, s.sys.low = false → s.sys.dev = .d0 → b ∈ allBlocks → s.sys.debug = .off →
    exec (.debugAccess b reg data) s = .next { s with sys := { s.sys with debugReply := (.disabled, 0) } }) ∧
  (∀ s b reg data, s.sys.low = false → s.sys.dev = .d0 → b ∈ allBlocks → s.sys.debug = .nEnabled → s.secureBlock b = true →
    ∃ t, exec (.debugAccess b reg data) s = .next t ∧ t.sys.debugReply = (.noauth, 0) ∧ t.sys.denied = s.sys.denied + 1 ∧ t = { s with sys := t.sys }) ∧
  (∀ s b reg data, s.sys.low = false → s.sys.dev = .d0 → b ∈ allBlocks → (s.sys.debug = .nEnabled ∧ s.secureBlock b = false ∨ s.sys.debug = .sAuthorised) →
    (s.powerOf b = .c3 → exec (.debugAccess b reg data) s = .next { s with sys := { s.sys with debugReply := (.off, 0) } }) ∧
    (s.powerOf b ≠ .c3 → ∃ t, exec (.debugAccess b reg data) s = .next t ∧ t.sys.debugReply.1 = .done ∧ t.powerOf b = .c0 ∧ t.mem = s.mem ∧
      ∀ c r, b = .core c → c < 64 → r < 0x1000 → reg = r → data = none →
        t.sys.debugReply.2 = BitVec.ofNat 64 (s.regRead ((0xF000001000000 + c * 0x1000 + r) / 8 * 8))))

/-- Nine encodings taken from the spec's tables and examples, one of the classes V, U, A and C, decode to the instruction that the tables give them: FADD_16, FLRES, IADDI, LD.32, SADD, TRET, ICMP, IDEM.start and ATOM with its order word. (R138, R146, R151, R154, R156, R160) -/
def Obligations.DecodedWords : Prop :=
  decodeTableWord 16 0xA074 = some (.fadd16 { w := true, u := false, s := 16, d := 3 }) ∧
  decodeTableWord 32 0x0000C219 = some (.flres { sp := none, d := 8, w := true, a := 0, b := 0, sub := 0 }) ∧
  decodeTableWord 32 0xFFB02409 = some (.iaddi { sp := none, d := 2, w := true, a := 0, imm := 0xFFB }) ∧
  decodeTableWord 32 0x9002CC8D = some (.ld32 { sp := none, d := 3, w := true, a := 5, b := 0, g := 2, m := 2, disp := none }) ∧
  decodeTableWord 32 0x01022831 = some (.sadd { sp := none, d := 5, a := 1, b := 2, mod := 0 }) ∧
  decodeTableWord 32 0x00000235 = some (.tret none) ∧
  decodeTableWord 32 0x8A2492C5 = some (.icmp { sp := none, mod := 2, d := 2, w := true, a := 4, b := 5, s := true }) ∧
  decodeTableWord 32 0x000002D5 = some (.idemStart none) ∧
  decodeTableWord 64 0x0002200108C151CD =
    some (.atom { sp := none, d := 4, w := true, a := 2, b := 6, g := 1, m := 0, disp := none } { method := 0, size := 1, reassoc := false, aop := 4, fail := 0, ord := 0, mask := 1 })

/-- Where the outside world asks for nothing and a running group that holds its slot has the turn, the step is exec of the decoded instruction, at the machine whose TLBs have made the fetch; an event that stands first in the agenda is what the next step runs. The fetch decodes the parcel at the program counter, or the word there with the extension words that follow. (R102, R136, R137, R453) -/
def Obligations.StepRunsDecoded : Prop :=
  (∀ s gi g i, s.agenda = [] → s.turn = some (acts * gi) → s.sys.tripped = false → s.sys.low = false → s.sys.dev = .d0 → s.groups[gi]? = some g →
    g.status = .running → g.hasSlot = true → s.powered g.core = true → s.doomed g = false → (g.kind = .combiner → g.icount < 16777216) →
    s.fetch g = .instr i → step s = noticing (exec i { ({ s with turn := none } : State).fetchFill g (instrBytes i) with cur := gi })) ∧
  (∀ s i l, s.agenda = i :: l → s.defers i = false → step s = noticing (exec i { s with agenda := l })) ∧
  (∀ (s : State) t, noticing (.next t) = .next t.notice ∧ t.notice = { t with noticed := t.notice.noticed } ∧
    ∀ n, n ∈ t.notice.noticed ↔ n ∈ t.watched ∧ t.heeds n = true ∧ (n ∈ t.noticed ∨ t.meets n = true)) ∧
  (∀ (s : State) (g : Group) p, s.parcels g g.ctx.pc 1 = .ok [p] → g.ctx.pc.getLsbD 0 = false → p % 2 = 0 → ∀ i, decodeShort (BitVec.ofNat 32 p) = some i → s.fetch g = .instr i) ∧
  (∀ (s : State) (g : Group) p q l, s.parcels g g.ctx.pc 1 = .ok [p] → s.parcels g (g.ctx.pc + 2) 1 = .ok [q] → g.ctx.pc.getLsbD 0 = false → p % 2 = 1 →
    let w : Word := BitVec.ofNat 32 (p + 65536 * q)
    wordOk w = true → s.parcels g (g.ctx.pc + 4) (2 * extCount w) = .ok l → ∀ i, decodeLong w (parcelWords l) = some i → s.fetch g = .instr i) ∧
  (∀ (s : State) (g : Group) va n pa l c, s.xlate g.core g.job va .fetch false = .ok pa c → s.poisoned pa 2 = false → deniedPa pa = false →
    s.peerOf pa = none → s.edgeWaits g.job pa = false → (∀ k < 2, s.foreign g.job (pa + k) = none) → s.parcels g (va + 2) n = .ok l → s.parcels g va (n + 1) = .ok (memNat s.mem pa 2 :: l))

/-- For every well-formed instruction, with every operand at every value the encoding admits, the decoder reads from the words that the encoder writes exactly that instruction. (R136, R137, R138, R139, R151, R152, R153, R154, R155, R157, R158, R159) -/
def Obligations.EncodingRoundTrip : Prop :=
  ∀ i, wf i = true → decodeWords (encode i) = some i

/-- From every state whose memory, scratchpad arrays, tiles and weight buffers are in the canonical form, keys rising strictly and no entry listed that reads as an unlisted one does, every step that answers a next state leaves them so. (R22, R29, R259, R322) -/
def Obligations.StoresStayCanonical : Prop :=
  ∀ s t, Stored s → step s = .next t → Stored t

/-- State.reset meets the invariant of StoresStayCanonical. (R440) -/
def Obligations.ResetIsCanonical : Prop :=
  Stored State.reset

/-- exec answers a next state for every instruction, packet and event in every state; step does too, but where a thermal trip has removed power, where it may stop with that fault. (R60, R102, R523) -/
def Obligations.StepsAnswer : Prop :=
  (∀ i s, Runs (exec i s)) ∧ ∀ s, Runs (step s) ∨ s.sys.tripped = true ∧ step s = .fault .powerOff
end

