-- ==== Sys2Proof/Laws/Run.lean ====
section
/-! SUPPORT. What running one instruction of a group can do, once for every instruction. -/

namespace Sys2Proof.Laws

open Machine Spec

/-- The map of an entry is not changed by freeing. -/
theorem free_map (x : Ctx) (m : BitVec 16) (e : Nat) : ((x.free m).entry e).map = (x.entry e).map := by
  simp only [Ctx.free, Ctx.entry, Fin.getElem_fin, Vector.getElem_mapFinIdx]
  split <;> rfl

theorem begin_ix (x : Ctx) (u : Uses) : (x.begin u).ix = x.ix := by
  unfold Ctx.begin
  split <;> rfl

theorem begin_map (x : Ctx) (u : Uses) (e : Nat) : ((x.begin u).entry e).map = (x.entry e).map := by
  unfold Ctx.begin
  split
  · rfl
  · exact free_map x x.pendFree e

theorem begin_latches (x : Ctx) (u : Uses) : (x.begin u).latches = x.latches := by
  unfold Ctx.begin
  split <;> rfl

theorem begin_pc (x : Ctx) (u : Uses) : (x.begin u).pc = x.pc := by
  unfold Ctx.begin
  split <;> rfl

theorem dest_meets_begin (d : Dest) (x : Ctx) (u : Uses) (m : BitVec 16) (r : BitVec 64) :
    d.meets (x.begin u) m r = d.meets x m r := by
  cases d with
  | none => rfl
  | entries => rfl
  | sreg => rfl
  | main v n => simp only [Dest.meets, begin_map]

theorem entriesOf_begin (x : Ctx) (u : Uses) (m : BitVec 256) : (x.begin u).entriesOf m = x.entriesOf m := by
  simp only [Ctx.entriesOf, begin_map]

theorem guards_begin (g : Group) (u v : Uses) : ({ g with ctx := g.ctx.begin u } : Group).guards v = g.guards v := by
  simp only [Group.guards, dest_meets_begin, entriesOf_begin]

/-- The group as the instruction finds it. -/
def begun (g : Group) (u : Uses) : Group := { g with ctx := g.ctx.begin u }

theorem outstanding_setGroup (s : State) (gi : Nat) (g h : Group) (hg : s.groups[gi]? = some g) (hp : h.posts = g.posts) :
    (s.setGroup gi h).outstanding gi = s.outstanding gi := by
  have hlt : gi < s.groups.length := (List.getElem?_eq_some_iff.mp hg).1
  have hset : (s.setGroup gi h).groups[gi]? = some h := by simp [State.setGroup, hlt]
  unfold State.outstanding
  rw [hset, hg]
  simp only [hp]
  rfl

theorem engineError_setGroup (s : State) (g h : Group) (gi : Nat) (x : Group) (hc : h.core = g.core) :
    (s.setGroup gi x).engineError h gi = s.engineError g gi := by
  simp only [State.engineError, hc]
  rfl

/-- The prelude lets an instruction that may issue pass. -/
theorem prelude_ready {i : Instr} {u : Uses} {s : State} {g : Group} (h : Ready i u s g) :
    prelude i u (s.setGroup s.cur (begun g u)) s.cur (begun g u) = none := by
  have hguard : (begun g u).guards u = [] := by rw [begun, guards_begin]; exact h.clear
  have hq : (if (u.eng || (spOf i).isSome) = true then (s.setGroup s.cur (begun g u)).engineError (begun g u) s.cur else none) = none := by
    split
    · rw [engineError_setGroup s g (begun g u) s.cur (begun g u) rfl]
      exact h.quiet ‹_›
    · rfl
  have hs : (begun g u).inSection = g.inSection := rfl
  have hk : (begun g u).kind = g.kind := rfl
  unfold prelude
  rw [hk, hs, hguard]
  simp only [h.formed, h.allowed, h.outside, hq, Bool.not_true, Bool.false_eq_true, ↓reduceIte]
  by_cases hr : (u.rel || u.post || (spOf i).isSome) = true
  · obtain ⟨hp, hd⟩ := h.answered hr
    have hout : (u.rel && (s.setGroup s.cur (begun g u)).outstanding s.cur) = false := by
      rw [outstanding_setGroup s s.cur g (begun g u) h.here rfl]
      cases hrel : u.rel
      · rfl
      · simpa using h.performed hrel
    have hpb : (begun g u).posts = [] := hp
    have hdb : (begun g u).deferred = [] := hd
    rw [if_pos hr, hout, hpb, hdb]
    rfl
  · simp [hr]

/-- An instruction that may issue does its own work, on its group as it finds it. -/
theorem runInstr_ready {i : Instr} {u : Uses} {s : State} {g : Group} (h : Ready i u s g) (body : State → Nat → Group → Eff) :
    runInstr i u s body =
      .next (finish i u (s.setGroup s.cur (begun g u)) s.cur (begun g u) (body (s.setGroup s.cur (begun g u)) s.cur (begun g u)) none) := by
  have hi : s.issuing = some g := by
    simp [State.issuing, h.here, h.running, h.slot]
  unfold runInstr
  rw [hi]
  simp only
  have hp := prelude_ready h
  unfold begun at hp
  rw [hp]
  rfl

/-- The record of a group that completes an instruction at `pc`, where no retry and no rebuild run is under way. -/
def stepped (i : Instr) (u : Uses) (s : State) (g : Group) (pc : DWord) : Group :=
  let x := if u.vec then g.ctx else g.ctx.applyFrees.clearLatches
  let x := if (spOf i).isSome then x.applyFrees.clearLatches else x
  { g with ctx := { x with pc := pc }, status := stopAt i s g, retry := none, absent := none,
           icount := g.icount + (if g.kind = .combiner then 1 else 0) }

theorem setGroup_modGroup (s : State) (gi : Nat) (g : Group) (f : Group → Group) :
    (s.setGroup gi g).modGroup gi f = s.setGroup gi (f g) := by
  simp only [State.setGroup, State.modGroup]
  congr 1
  apply List.ext_getElem?
  intro n
  by_cases h : n = gi
  · subst h
    by_cases hl : n < s.groups.length
    · simp [hl]
    · simp [hl]
  · simp [Ne.symm h]

theorem setGroup_setGroup (s : State) (gi : Nat) (g h : Group) : (s.setGroup gi g).setGroup gi h = s.setGroup gi h := by
  simp [State.setGroup]

/-- Completing an instruction changes its group alone. -/
theorem complete_setGroup (i : Instr) (u : Uses) (s : State) (gi : Nat) (g : Group) (pc : DWord) (hr : g.status = .running)
    (ho : g.again = none) (hp : g.rebuild = none) : complete i u (s.setGroup gi g) gi pc = s.setGroup gi (stepped i u s g pc) := by
  unfold complete
  rw [setGroup_modGroup]
  congr 1
  cases hsp : spOf i with
  | none => simp [stepped, ho, hp, hr, stopAt, hsp]
  | some m =>
    cases ht : s.teams[g.team]? with
    | none => simp [stepped, ho, hp, hr, stopAt, hsp, State.setGroup, ht]
    | some t =>
      simp only [stepped, ho, hp, hr, stopAt, hsp, State.setGroup, ht]
      have hb : (Status.running == Status.running) = true := rfl
      rw [hb, Bool.and_true]
      split <;> simp [hr]

/-- What completing leaves of the record but its context. -/
theorem stepped_passed {i : Instr} {u : Uses} {s : State} {g h : Group} {pc : DWord} (hc : h = stepped i u s g pc) : Passed i s g h := by
  subst hc
  exact ⟨rfl, rfl, rfl⟩

/-! ## Retries (R461) -/

theorem doneLanes_none {g : Group} (h : g.retry = none) : g.doneLanes = 0 := by simp [Group.doneLanes, h]

/-- Without a retry every lane issues. -/
theorem undone_all {α : Type} {g : Group} (h : g.doneLanes = 0) (l : List (Nat × α)) : g.undone l = l := by
  simp [Group.undone, h]

/-- A trap keeps lanes done only where its instruction performs them and is retried. -/
theorem keepDone_none {g : Group} (h : g.retry = none) (i : Instr) (t : TrapInfo) : g.keepDone i t = t := by simp [Group.keepDone, h]

theorem keepDone_other {i : Instr} (h : performsLanes i = false) (g : Group) (t : TrapInfo) : g.keepDone i t = t := by
  unfold Group.keepDone
  split <;> simp [h]

end Sys2Proof.Laws
end

