-- ==== Sys2Proof/Laws/Vec.lean ====
section
/-! SUPPORT. What a thread instruction with an entry destination does, for every such instruction at once. -/

namespace Sys2Proof.Laws

open Machine Spec

theorem entry_free (x : Ctx) (m : BitVec 16) (e : Nat) (he : e < 16) : (x.free m).entry e = if m.getLsbD e then freed (x.entry e) else x.entry e := by
  simp only [Ctx.free, Ctx.entry, Fin.getElem_fin, Vector.getElem_mapFinIdx, Fin.val_ofNat, Nat.mod_eq_of_lt he, freed]

theorem entry_setEntry_ite (x : Ctx) (d e : Nat) (v : Entry) (hd : d < 16) (he : e < 16) :
    (x.setEntry d v).entry e = if d = e then v else x.entry e := by
  simp only [Ctx.setEntry, Ctx.entry, Fin.getElem_fin, Fin.val_ofNat, Nat.mod_eq_of_lt he, Nat.mod_eq_of_lt hd, Vector.getElem_set]

theorem latchesOk_begin (x : Ctx) (u : Uses) (l : List Src) : (x.begin u).latchesOk l = x.latchesOk l := by
  simp only [Ctx.latchesOk, begin_latches]

theorem mappedAll_begin (x : Ctx) (u : Uses) (m : BitVec 16) : (x.begin u).mappedAll m = x.mappedAll m := by
  simp only [Ctx.mappedAll, begin_map]

/-- The value an entry holds in a thread that a write reaches, and in one it does not. -/
theorem at_mergeLanes (m : LaneMask) (old : Lanes) (f : Nat → Word) (map : Option (BitVec 8)) (t : Nat) (ht : t < 256) :
    Entry.at ⟨map, .dirty, mergeLanes m old f⟩ t = if m.getLsbD t then f t else old.at t := by
  simp [Entry.at, Lanes.at, mergeLanes, Nat.mod_eq_of_lt ht]
  rfl

theorem entry_writeEntry (x : Ctx) (d e : Nat) (m : LaneMask) (f : Nat → Word) (hd : d < 16) (he : e < 16) :
    (x.writeEntry d m f).entry e = if d = e then ⟨(x.entry d).map, .dirty, mergeLanes m (if (x.entry d).st == .free then Lanes.zero else (x.entry d).val) f⟩ else x.entry e := by
  unfold Ctx.writeEntry
  exact entry_setEntry_ite x d e _ hd he

/-- What the threads a write does not reach keep. -/
theorem at_old (e : Entry) (t : Nat) : (if e.st == .free then Lanes.zero else e.val).at t = e.at t := by
  unfold Entry.at
  split
  · simp [Lanes.at, Lanes.zero]
  · rfl

theorem entRange_one : ∀ d < 16, ∀ e < 16, (entRange d 1).getLsbD e = decide (d = e) := by decide

theorem entRange_two : ∀ d < 16, ∀ e < 16, (entRange d 2).getLsbD e = (decide (d = e) || decide (d + 1 = e)) := by decide

theorem dest_getLsbD (v : VecOp) (hd : v.d < 16) (e : Nat) (he : e < 16) :
    v.dest.getLsbD e = (v.w && (decide (v.d = e) || (v.wide && decide (v.d + 1 = e)))) := by
  unfold VecOp.dest
  cases v.w
  · simp
  · cases v.wide
    · simpa using entRange_one v.d hd e he
    · simpa using entRange_two v.d hd e he

/-- The entries after a 32-bit or 64-bit result is written (R169). -/
theorem entry_writePair (x : Ctx) (wide : Bool) (d e : Nat) (m : LaneMask) (f : Nat → DWord) (hd : d < 16) (he : e < 16)
    (hw : wide = true → d + 1 < 16) :
    (x.writePair wide d m f).entry e =
      if d = e then ⟨(x.entry e).map, .dirty, mergeLanes m (if (x.entry e).st == .free then Lanes.zero else (x.entry e).val) fun t => lo32 (f t)⟩
      else if wide = true ∧ d + 1 = e then
        ⟨(x.entry e).map, .dirty, mergeLanes m (if (x.entry e).st == .free then Lanes.zero else (x.entry e).val) fun t => hi32 (f t)⟩
      else x.entry e := by
  unfold Ctx.writePair
  cases wide
  · simp only [Bool.false_eq_true, ↓reduceIte, false_and]
    rw [entry_writeEntry _ _ _ _ _ hd he]
    split
    · subst_vars; rfl
    · rfl
  · have h1 := hw rfl
    simp only [↓reduceIte, true_and]
    rw [entry_writeEntry _ _ _ _ _ h1 he, entry_writeEntry _ _ _ _ _ hd h1, entry_writeEntry _ _ _ _ _ hd he]
    by_cases h : d = e
    · subst h
      simp
    · by_cases h2 : d + 1 = e
      · subst h2
        simp
      · simp [h, h2]

/-- The entries at the end of a thread instruction, before its own freeing (R143). -/
def base (x : Ctx) (v : VecOp) : Ctx := (x.free x.pendFree).free (srcFrees v.srcs &&& v.dest)

theorem base_frame (x : Ctx) (v : VecOp) : base x v = { x with entries := (base x v).entries } := rfl

theorem vecEnd_entries (x : Ctx) (v : VecOp) (f : Nat → LaneRes) :
    (x.vecEnd v f).entries = (if v.w then (base x v).writePair v.wide v.d x.active fun t => (f t).val else base x v).entries := by
  rfl

theorem writePair_frame (x : Ctx) (wide : Bool) (d : Nat) (m : LaneMask) (f : Nat → DWord) :
    x.writePair wide d m f = { x with entries := (x.writePair wide d m f).entries } := by
  cases wide <;> rfl

/-- The context with its result written, before the latch. -/
def written (x : Ctx) (v : VecOp) (f : Nat → LaneRes) : Ctx :=
  if v.w then (base x v).writePair v.wide v.d x.active fun t => (f t).val else base x v

theorem written_frame (x : Ctx) (v : VecOp) (f : Nat → LaneRes) : written x v f = { x with entries := (written x v f).entries } := by
  unfold written
  cases v.w
  · rfl
  · exact writePair_frame (base x v) v.wide v.d x.active _

theorem vecEnd_eq (x : Ctx) (v : VecOp) (f : Nat → LaneRes) :
    x.vecEnd v f = { ((written x v f).writeLatch v.pipe fun t => (f t).val).orFlags (x.laneFlags fun t => (f t).fl) with
      pendFree := srcFrees v.srcs &&& ~~~v.dest, run := (x.vecEnd v f).run } := rfl

theorem vecEnd_frame (x : Ctx) (v : VecOp) (f : Nat → LaneRes) :
    x.vecEnd v f = { x with entries := (x.vecEnd v f).entries, latches := (x.vecEnd v f).latches, pendFree := srcFrees v.srcs &&& ~~~v.dest,
                            fpflags := x.fpflags ||| (x.laneFlags fun t => (f t).fl).setWidth 64, run := (x.vecEnd v f).run } := by
  generalize hr : (x.vecEnd v f).run = r
  rw [vecEnd_eq, hr, written_frame]
  rfl

theorem entry_base (x : Ctx) (v : VecOp) (e : Nat) (he : e < 16) :
    (base x v).entry e = if (x.pendFree ||| (srcFrees v.srcs &&& v.dest)).getLsbD e then freed (x.entry e) else x.entry e := by
  unfold base
  rw [entry_free _ _ _ he, entry_free _ _ _ he]
  simp only [BitVec.getLsbD_or, BitVec.getLsbD_and]
  cases x.pendFree.getLsbD e <;> cases (srcFrees v.srcs).getLsbD e <;> cases v.dest.getLsbD e <;> rfl

theorem vecEnd_entry (x : Ctx) (v : VecOp) (f : Nat → LaneRes) (e : Nat) (he : e < 16) (hd : v.d < 16)
    (hw : v.w = true → v.wide = true → v.d + 1 < 16) :
    (x.vecEnd v f).entry e =
      if v.dest.getLsbD e then
        ⟨(x.entry e).map, .dirty, mergeLanes x.active (if ((base x v).entry e).st == .free then Lanes.zero else ((base x v).entry e).val)
          fun t => if v.d = e then lo32 (f t).val else hi32 (f t).val⟩
      else if x.pendFree.getLsbD e then freed (x.entry e) else x.entry e := by
  have hent : (x.vecEnd v f).entry e = (if v.w then (base x v).writePair v.wide v.d x.active fun t => (f t).val else base x v).entry e := by
    simp only [Ctx.entry, vecEnd_entries]
  rw [hent]
  have hmap : ((base x v).entry e).map = (x.entry e).map := by
    rw [entry_base x v e he]
    split <;> rfl
  cases hww : v.w with
  | false =>
    have hdst : v.dest = 0 := by unfold VecOp.dest; rw [hww]; rfl
    rw [if_neg (by simp), entry_base x v e he, hdst]
    simp
  | true =>
    rw [if_pos rfl, entry_writePair _ _ _ _ _ _ hd he (fun h => hw hww h), dest_getLsbD v hd e he, hww, hmap]
    by_cases h : v.d = e
    · simp [h]
    · by_cases h2 : v.wide = true ∧ v.d + 1 = e
      · simp [h, h2.1, h2.2]
      · have hz : v.dest.getLsbD e = false := by
          rw [dest_getLsbD v hd e he]
          cases hwi : v.wide <;> simp_all
        have : (v.wide && decide (v.d + 1 = e)) = false := by
          cases hwi : v.wide <;> simp_all
        simp only [h, h2, this, decide_false, Bool.or_self, Bool.and_false, Bool.false_eq_true, ↓reduceIte]
        rw [entry_base x v e he]
        simp [hz]

theorem writeLatch_own (x : Ctx) (p : Pipe) (f : Nat → DWord) :
    (x.writeLatch p f).latches[Fin.ofNat 4 p.latch] = ⟨true, Vector.ofFn fun t : Fin 256 => if x.active.getLsbD t then f t else 0⟩ := by
  cases p <;> simp [Ctx.writeLatch, Pipe.latch]

theorem writeLatch_stale (x : Ctx) (p : Pipe) (f : Nat → DWord) (k : Nat) (hk : k < 4) (hn : k ≠ p.latch) (h3 : ¬ (p = .v ∧ k = 3)) :
    ((x.writeLatch p f).latches[Fin.ofNat 4 k]).valid = false := by
  have h : k = 0 ∨ k = 1 ∨ k = 2 ∨ k = 3 := by omega
  cases p <;> obtain rfl | rfl | rfl | rfl := h <;> simp_all [Pipe.latch, Ctx.writeLatch, Fin.getElem_fin, Vector.getElem_set]
  all_goals rfl

theorem writeLatch_third (x : Ctx) (f : Nat → DWord) : (x.writeLatch .v f).latches[3] = ⟨true, x.latches[0].val⟩ := by
  simp [Ctx.writeLatch, Pipe.latch]

theorem vecEnd_latches (x : Ctx) (v : VecOp) (f : Nat → LaneRes) :
    (x.vecEnd v f).latches = ((written x v f).writeLatch v.pipe fun t => (f t).val).latches := rfl

theorem vecEnd_latch (x : Ctx) (v : VecOp) (f : Nat → LaneRes) :
    (x.vecEnd v f).latches[Fin.ofNat 4 v.pipe.latch] =
      ⟨true, Vector.ofFn fun t : Fin 256 => if x.active.getLsbD t then (f t).val else 0⟩ := by
  rw [vecEnd_latches, writeLatch_own, written_frame]

theorem vecEnd_stale (x : Ctx) (v : VecOp) (f : Nat → LaneRes) (k : Nat) (hk : k < 4) (hn : k ≠ v.pipe.latch) (h3 : ¬ (v.pipe = .v ∧ k = 3)) :
    ((x.vecEnd v f).latches[Fin.ofNat 4 k]).valid = false := by
  rw [vecEnd_latches]
  exact writeLatch_stale _ _ _ k hk hn h3

theorem vecEnd_third (x : Ctx) (v : VecOp) (f : Nat → LaneRes) (hp : v.pipe = .v) : (x.vecEnd v f).latches[3] = ⟨true, x.latches[0].val⟩ := by
  rw [vecEnd_latches, hp, writeLatch_third, written_frame]

theorem vecNext_stepped (i : Instr) (v : VecOp) (x : Ctx) (f : Nat → LaneRes) (g' : Group) (pc : DWord) (s : State)
    (hc : g'.ctx = x.vecEnd v f) (hpc : pc = nextPc i x) (hd : v.d < 16) (hw : v.w = true → v.wide = true → v.d + 1 < 16) :
    VecNext i v x f (stepped i v.uses s g' pc).ctx := by
  have hvec : v.uses.vec = true := rfl
  have hpf : (x.vecEnd v f).pendFree = srcFrees v.srcs &&& ~~~v.dest := rfl
  have hctx : (stepped i v.uses s g' pc).ctx =
      { (if (spOf i).isSome then (x.vecEnd v f).applyFrees.clearLatches else x.vecEnd v f) with pc := pc } := by
    unfold stepped
    rw [hvec, hc]
    rfl
  have hent : ∀ e < 16, (stepped i v.uses s g' pc).ctx.entry e =
      if (spOf i).isSome && (srcFrees v.srcs &&& ~~~v.dest).getLsbD e then freed ((x.vecEnd v f).entry e) else (x.vecEnd v f).entry e := by
    intro e he
    rw [hctx]
    cases hsp : spOf i with
    | none => rfl
    | some m =>
      simp only [Option.isSome_some, ↓reduceIte, Bool.true_and]
      exact entry_free (x.vecEnd v f) _ e he
  have hdst : ∀ e < 16, v.dest.getLsbD e = true → (stepped i v.uses s g' pc).ctx.entry e = (x.vecEnd v f).entry e := by
    intro e he h
    rw [hent e he, BitVec.getLsbD_and, BitVec.getLsbD_not, h]
    simp
  have hlat : spOf i = none → (stepped i v.uses s g' pc).ctx.latches = (x.vecEnd v f).latches := by
    intro h
    rw [hctx, h]
    rfl
  constructor
  · rw [hctx, ← hpc]
  · intro w t ht ha
    have hde : v.dest.getLsbD v.d = true := by rw [dest_getLsbD v hd _ hd, w]; simp
    rw [hdst _ hd hde, vecEnd_entry x v f _ hd hd hw, if_pos hde, at_mergeLanes _ _ _ _ _ ht, if_pos ha, if_pos rfl]
    rfl
  · intro w wi t ht ha
    have h1 := hw w wi
    have hde : v.dest.getLsbD (v.d + 1) = true := by rw [dest_getLsbD v hd _ h1, w, wi]; simp
    rw [hdst _ h1 hde, vecEnd_entry x v f _ h1 hd hw, if_pos hde, at_mergeLanes _ _ _ _ _ ht, if_pos ha, if_neg (by omega)]
    rfl
  · intro e he h
    rw [hdst _ he h, vecEnd_entry x v f _ he hd hw, if_pos h]
    exact ⟨rfl, rfl⟩
  · intro e he h t ht ha
    rw [hdst _ he h, vecEnd_entry x v f _ he hd hw, if_pos h, at_mergeLanes _ _ _ _ _ ht, ha, if_neg (by simp), at_old, entry_base x v e he]
    simp only [BitVec.getLsbD_or, BitVec.getLsbD_and, h, Bool.and_true]
    split
    · rfl
    · rfl
  · intro e he h
    rw [hent e he, vecEnd_entry x v f _ he hd hw, h]
    simp only [Bool.false_eq_true, ↓reduceIte, BitVec.getLsbD_and, BitVec.getLsbD_not, h, he, decide_true, Bool.not_false, Bool.and_true]
    cases (spOf i).isSome <;> cases x.pendFree.getLsbD e <;> cases (srcFrees v.srcs).getLsbD e <;> rfl
  · intro h
    rw [hctx, h]
    rfl
  · intro h
    have := vecEnd_latch x v f
    rw [← this]
    simp only [hlat h]
  · intro h hp
    have := vecEnd_third x v f hp
    rw [← this]
    simp only [hlat h]
  · intro k hk h
    cases hsp : spOf i with
    | none =>
      have h2 : k ≠ v.pipe.latch ∧ ¬ (v.pipe = .v ∧ k = 3) := by
        rcases h with h | h
        · exact absurd hsp h
        · exact h
      have := vecEnd_stale x v f k hk h2.1 h2.2
      rw [← this]
      simp only [hlat hsp]
    | some m =>
      rw [hctx, hsp]
      simp [Ctx.clearLatches]
  · have hfl : (x.vecEnd v f).fpflags = x.fpflags ||| (x.laneFlags fun t => (f t).fl).setWidth 64 := by rw [vecEnd_frame]
    rw [hctx, ← hfl]
    cases hsp : spOf i with
    | none => rfl
    | some m => rfl
  · rw [hctx]
    rw [vecEnd_frame]
    cases hsp : spOf i with
    | none => rfl
    | some m => rfl

/-- Reading ahead changes only which scoreboard slots a thread instruction waits for (R145). -/
theorem usesAt_eq (v : VecOp) (i : Instr) (s : State) : ∃ e r, v.usesAt i s = { v.uses with ents := e, sregs := r } := by
  unfold VecOp.usesAt
  split
  · exact ⟨_, _, rfl⟩
  · exact ⟨_, _, rfl⟩

/-- A thread instruction with an entry destination completes as VecNext says. -/
theorem vec_completes {i : Instr} {v : VecOp} {f : Ctx → Nat → LaneRes} (hx : ∀ s, exec i s = runVec i v f s) (hd : v.d < 16)
    (hw : wf i = true → v.w = true → v.wide = true → v.d + 1 < 16) : VecCompletes i v f := by
  intro s g hR hl hm
  have hwide := hw hR.formed
  obtain ⟨e, r, hu⟩ := usesAt_eq v i s
  have hb : vecBody i v f (s.setGroup s.cur (begun g v.uses)) s.cur (begun g v.uses) =
      .done (s.setGroup s.cur { begun g v.uses with ctx := (g.ctx.begin v.uses).vecEnd v (f (g.ctx.begin v.uses)) }) := by
    unfold vecBody
    have h1 : (begun g v.uses).ctx = g.ctx.begin v.uses := rfl
    have h2 : (begun g v.uses).rebuild = none := hR.plain
    simp only [h1, h2, latchesOk_begin, mappedAll_begin, hl, hm, Bool.not_true, Bool.false_eq_true, ↓reduceIte, State.setCtx, setGroup_modGroup]
  let g' : Group := { begun g v.uses with ctx := (g.ctx.begin v.uses).vecEnd v (f (g.ctx.begin v.uses)) }
  have hpc : (begun g v.uses).ctx.pc = g.ctx.pc := begin_pc _ _
  have hfin : exec i s = .next (s.setGroup s.cur (stepped i v.uses s g' (nextPc i g.ctx))) := by
    rw [hx]
    unfold runVec
    rw [hu] at hR ⊢
    rw [runInstr_ready hR]
    show Host.Outcome.next (finish i _ (s.setGroup s.cur (begun g v.uses)) s.cur (begun g v.uses)
      (vecBody i v f (s.setGroup s.cur (begun g v.uses)) s.cur (begun g v.uses)) none) = _
    rw [hb]
    show Host.Outcome.next (complete i { v.uses with ents := e, sregs := r } (s.setGroup s.cur g') s.cur ((begun g v.uses).ctx.pc + BitVec.ofNat 64 (instrBytes i))) = _
    rw [hpc]
    exact congrArg Host.Outcome.next (complete_setGroup i v.uses s s.cur g' _ hR.running hR.once hR.plain)
  refine ⟨_, hfin, ?_, ?_⟩
  · exact ⟨rfl, rfl, rfl⟩
  · exact vecNext_stepped i v (g.ctx.begin v.uses) (f (g.ctx.begin v.uses)) g' (nextPc i g.ctx) s rfl
      (by rw [nextPc, nextPc, begin_pc]) hd hwide

end Sys2Proof.Laws
end

