-- ==== Sys2Proof/Laws/Scalar.lean ====
section
/-! SUPPORT. What an instruction without a latch result leaves, and what a UNI instruction and one with predicate destinations do. -/

namespace Sys2Proof.Laws

open Machine Spec

theorem entry_applyFrees (x : Ctx) (e : Nat) (he : e < 16) :
    x.applyFrees.entry e = if x.pendFree.getLsbD e then freed (x.entry e) else x.entry e := entry_free x x.pendFree e he

theorem entry_applyFrees_none (x : Ctx) (h : x.pendFree = 0) (e : Nat) (he : e < 16) : x.applyFrees.entry e = x.entry e := by
  rw [entry_applyFrees x e he, h]
  simp

theorem entry_clearLatches (x : Ctx) (e : Nat) : x.clearLatches.entry e = x.entry e := rfl

theorem entry_pc (x : Ctx) (pc : DWord) (e : Nat) : ({ x with pc := pc } : Ctx).entry e = x.entry e := rfl

/-- What an instruction without a latch result makes of the context. -/
def settled (i : Instr) (x : Ctx) : Ctx := if (spOf i).isSome then x.applyFrees.clearLatches.applyFrees.clearLatches else x.applyFrees.clearLatches

theorem stepped_plain (i : Instr) (u : Uses) (s : State) (g : Group) (pc : DWord) (hv : u.vec = false) :
    (stepped i u s g pc).ctx = { settled i g.ctx with pc := pc } := by
  unfold stepped settled
  rw [hv]
  rfl

theorem applyFrees_frame (x : Ctx) : ∃ es, x.applyFrees = { x with entries := es, pendFree := 0 } := ⟨_, rfl⟩

theorem clearLatches_frame (x : Ctx) : ∃ ls, x.clearLatches = { x with latches := ls, run := [] } := ⟨_, rfl⟩

theorem settled_frame (i : Instr) (x : Ctx) : ∃ es ls, settled i x = { x with entries := es, latches := ls, pendFree := 0, run := [] } := by
  unfold settled
  obtain ⟨e1, h1⟩ := applyFrees_frame x
  obtain ⟨l1, h2⟩ := clearLatches_frame { x with entries := e1, pendFree := 0 }
  obtain ⟨e2, h3⟩ := applyFrees_frame { x with entries := e1, latches := l1, pendFree := 0, run := [] }
  obtain ⟨l2, h4⟩ := clearLatches_frame { x with entries := e2, latches := l1, pendFree := 0, run := [] }
  cases spOf i with
  | none =>
    refine ⟨e1, l1, ?_⟩
    simp only [Option.isSome_none, Bool.false_eq_true, ↓reduceIte, h1, h2]
  | some m =>
    refine ⟨e2, l2, ?_⟩
    simp only [Option.isSome_some, ↓reduceIte, h1, h2, h3, h4]

theorem settled_entry (i : Instr) (x : Ctx) (e : Nat) (he : e < 16) :
    (settled i x).entry e = if x.pendFree.getLsbD e then freed (x.entry e) else x.entry e := by
  rw [← entry_applyFrees x e he]
  unfold settled
  cases spOf i with
  | none => rfl
  | some m =>
    simp only [Option.isSome_some, ↓reduceIte]
    rw [entry_clearLatches, entry_applyFrees_none _ rfl e he, entry_clearLatches]

theorem settled_latch (i : Instr) (x : Ctx) (k : Nat) : ((settled i x).latches[Fin.ofNat 4 k]).valid = false := by
  unfold settled
  cases spOf i <;> simp [Ctx.clearLatches]

/-- The context at the end of an instruction without a latch result. -/
theorem stepped_ctx (i : Instr) (u : Uses) (s : State) (g : Group) (pc : DWord) (hv : u.vec = false) :
    ∃ es ls, (stepped i u s g pc).ctx = { g.ctx with pc := pc, entries := es, latches := ls, pendFree := 0, run := [] } ∧
      (∀ e < 16, (stepped i u s g pc).ctx.entry e = if g.ctx.pendFree.getLsbD e then freed (g.ctx.entry e) else g.ctx.entry e) ∧
      ∀ k < 4, ((stepped i u s g pc).ctx.latches[Fin.ofNat 4 k]).valid = false := by
  rw [stepped_plain i u s g pc hv]
  obtain ⟨es, ls, h⟩ := settled_frame i g.ctx
  refine ⟨es, ls, ?_, fun e he => ?_, fun k _ => ?_⟩
  · rw [h]
  · exact settled_entry i g.ctx e he
  · exact settled_latch i g.ctx k

/-- A UNI instruction completes as UniNext says. -/
theorem uni_completes {i : Instr} {l : UniSpec} {f : Ctx → Ctx} (hx : ∀ s, exec i s = runUni i l.reads l.writes f s)
    (hf : ∀ x, f x = { x with s := (f x).s, c := (f x).c, fpflags := x.fpflags ||| (l.flags x).setWidth 64 })
    (hs : ∀ x, ∀ k < 64, (f x).getS k = (l.s x k).getD (x.getS k)) (hc : ∀ x, ∀ k < 4, (f x).getC k = (l.c x k).getD (x.getC k)) :
    UniCompletes i l := by
  intro s g hR
  let g' : Group := { begun g l.uses with ctx := f (g.ctx.begin l.uses) }
  have hpc : (begun g l.uses).ctx.pc = g.ctx.pc := begin_pc _ _
  let body : State → Nat → Group → Eff := fun s gi g => .done (s.setCtx gi (f g.ctx))
  have hb : body (s.setGroup s.cur (begun g l.uses)) s.cur (begun g l.uses) = Eff.done (s.setGroup s.cur g') := by
    simp only [body, State.setCtx, setGroup_modGroup]
    rfl
  have hfin : exec i s = .next (s.setGroup s.cur (stepped i l.uses s g' (nextPc i g.ctx))) := by
    rw [hx]
    have := runInstr_ready hR body
    rw [hb] at this
    refine Eq.trans (Eq.refl _) (this.trans ?_)
    show Host.Outcome.next (complete i l.uses (s.setGroup s.cur g') s.cur ((begun g l.uses).ctx.pc + BitVec.ofNat 64 (instrBytes i))) = _
    rw [hpc]
    exact congrArg Host.Outcome.next (complete_setGroup i l.uses s s.cur g' _ hR.running hR.once hR.plain)
  refine ⟨_, hfin, ⟨rfl, rfl, rfl⟩, ?_⟩
  obtain ⟨es, ls, h1, h2, h3⟩ := stepped_ctx i l.uses s g' (nextPc i g.ctx) rfl
  have hg : g'.ctx = f (g.ctx.begin l.uses) := rfl
  rw [hg] at h1 h2
  have hs' := hs (g.ctx.begin l.uses)
  have hc' := hc (g.ctx.begin l.uses)
  obtain ⟨rs, cs, hy⟩ : ∃ rs cs, f (g.ctx.begin l.uses) =
      { (g.ctx.begin l.uses) with s := rs, c := cs, fpflags := (g.ctx.begin l.uses).fpflags ||| (l.flags (g.ctx.begin l.uses)).setWidth 64 } :=
    ⟨_, _, hf _⟩
  rw [hy] at h1 h2 hs' hc'
  constructor
  · rw [h1]
    simp only [nextPc, begin_pc]
  · intro k hk
    rw [h1]
    exact hs' k hk
  · intro k hk
    rw [h1]
    exact hc' k hk
  · constructor
    · intro e he
      have hz : (g.ctx.begin l.uses).pendFree ||| 0 = (g.ctx.begin l.uses).pendFree := BitVec.or_zero
      rw [h2 e he, hz]
      rfl
    · exact h3
    · rw [h1]
  · rw [h1]
  · rw [h1]

/-- A thread instruction with predicate destinations completes as PredNext says. -/
theorem pred_completes {i : Instr} {l : PredSpec} {f : Ctx → Ctx} (hx : ∀ s, exec i s = runPred i l.srcs f s)
    (hf : ∀ x, f x = { x with preds := (f x).preds, fpflags := x.fpflags ||| (l.flags x).setWidth 64 })
    (hp : ∀ x, ∀ p < 8, ∀ t < 256, ((f x).preds[Fin.ofNat 8 p]).getLsbD t =
      if x.active.getLsbD t then l.new x p t else (x.preds[Fin.ofNat 8 p]).getLsbD t) : PredCompletes i l := by
  intro s g hR hl
  let g' : Group := { begun g l.uses with ctx := (f (g.ctx.begin l.uses)).consume l.srcs }
  have hpc : (begun g l.uses).ctx.pc = g.ctx.pc := begin_pc _ _
  let body : State → Nat → Group → Eff := fun s gi g =>
    if !g.ctx.latchesOk l.srcs then .trap (trapOf i g .illegalOperand) else .done (s.setCtx gi ((f g.ctx).consume l.srcs))
  have hb : body (s.setGroup s.cur (begun g l.uses)) s.cur (begun g l.uses) = Eff.done (s.setGroup s.cur g') := by
    have h1 : (begun g l.uses).ctx.latchesOk l.srcs = true := by
      show (g.ctx.begin l.uses).latchesOk l.srcs = true
      rw [latchesOk_begin, hl]
    simp only [body, h1, State.setCtx, setGroup_modGroup, Bool.not_true, Bool.false_eq_true, ↓reduceIte]
    rfl
  have hfin : exec i s = .next (s.setGroup s.cur (stepped i l.uses s g' (nextPc i g.ctx))) := by
    rw [hx]
    have := runInstr_ready hR body
    rw [hb] at this
    refine Eq.trans ?_ (this.trans ?_)
    · rfl
    · show Host.Outcome.next (complete i l.uses (s.setGroup s.cur g') s.cur ((begun g l.uses).ctx.pc + BitVec.ofNat 64 (instrBytes i))) = _
      rw [hpc]
      exact congrArg Host.Outcome.next (complete_setGroup i l.uses s s.cur g' _ hR.running hR.once hR.plain)
  refine ⟨_, hfin, ⟨rfl, rfl, rfl⟩, ?_⟩
  obtain ⟨es, ls, h1, h2, h3⟩ := stepped_ctx i l.uses s g' (nextPc i g.ctx) rfl
  have hfx := hf (g.ctx.begin l.uses)
  have hg : g'.ctx = ((f (g.ctx.begin l.uses)).applyFrees).free (srcFrees l.srcs) := rfl
  have hgp : g'.ctx.pendFree = 0 := rfl
  have hent : ∀ e < 16, g'.ctx.entry e =
      if ((g.ctx.begin l.uses).pendFree ||| srcFrees l.srcs).getLsbD e then freed ((g.ctx.begin l.uses).entry e) else (g.ctx.begin l.uses).entry e := by
    intro e he
    have hz : (f (g.ctx.begin l.uses)).applyFrees.entry e =
        if (g.ctx.begin l.uses).pendFree.getLsbD e then freed ((g.ctx.begin l.uses).entry e) else (g.ctx.begin l.uses).entry e := by
      have := entry_free (f (g.ctx.begin l.uses)) (f (g.ctx.begin l.uses)).pendFree e he
      refine Eq.trans (Eq.trans ?_ this) ?_
      · rfl
      · rw [hfx]
        rfl
    rw [hg, entry_free _ _ _ he, hz, BitVec.getLsbD_or]
    cases (g.ctx.begin l.uses).pendFree.getLsbD e <;> cases (srcFrees l.srcs).getLsbD e <;> rfl
  obtain ⟨ps, es', hframe⟩ : ∃ ps es', g'.ctx = { (g.ctx.begin l.uses) with preds := ps, entries := es', pendFree := 0, fpflags := (g.ctx.begin l.uses).fpflags ||| (l.flags (g.ctx.begin l.uses)).setWidth 64 } := by
    refine ⟨(f (g.ctx.begin l.uses)).preds, g'.ctx.entries, ?_⟩
    have h : g'.ctx = { f (g.ctx.begin l.uses) with entries := g'.ctx.entries, pendFree := 0 } := rfl
    generalize g'.ctx.entries = es' at h ⊢
    rw [h, hfx]
  have hps : g'.ctx.preds = (f (g.ctx.begin l.uses)).preds := rfl
  have hp' := hp (g.ctx.begin l.uses)
  rw [← hps] at hp'
  rw [hframe] at h1 h2 hent hp'
  constructor
  · rw [h1]
    simp only [nextPc, begin_pc]
  · intro p hq t ht
    rw [h1]
    exact hp' p hq t ht
  · constructor
    · intro e he
      rw [h2 e he, hent e he]
      simp
    · exact h3
    · rw [h1]
  · rw [h1]
  · rw [h1]

end Sys2Proof.Laws
end

