-- ==== Sys2Proof/Laws/Control.lean ====
section
/-! SUPPORT. What an instruction that does its own work and goes on leaves, and what taking a trap does, once for every instruction. -/

namespace Sys2Proof.Laws

open Machine Spec

/-- An instruction's own work, done. -/
theorem does_of {i : Instr} {u : Uses} {s t : State} {g g1 : Group} {z : Ctx} {pc : DWord} {body : State → Nat → Group → Eff}
    (hx : exec i s = runInstr i u s body) (hR : Ready i u s g) (hv : u.vec = false)
    (hb : finish i u (s.setGroup s.cur (begun g u)) s.cur (begun g u) (body (s.setGroup s.cur (begun g u)) s.cur (begun g u)) none =
      complete i u (t.setGroup s.cur { g1 with ctx := z }) s.cur pc)
    (hst : stopAt i t g1 = stopAt i s g1) (hr : g1.status = .running) (ho : g1.again = none) (hp : g1.rebuild = none) :
    Does i s g1 pc t 0 z := by
  have h1 := runInstr_ready hR body
  rw [hb] at h1
  have h2 := complete_setGroup i u t s.cur { g1 with ctx := z } pc hr ho hp
  have hs : stopAt i t { g1 with ctx := z } = stopAt i s g1 := hst
  refine ⟨stepped i u t { g1 with ctx := z } pc, ?_, ⟨rfl, hs, rfl⟩, ?_⟩
  · rw [hx, h1, h2]
  · obtain ⟨es, ls, h3, h4, h5⟩ := stepped_ctx i u t { g1 with ctx := z } pc hv
    rw [h3] at h4 h5 ⊢
    refine ⟨rfl, ⟨fun e he => ?_, h5, rfl⟩, rfl⟩
    rw [h4 e he]
    simp

/-- An instruction that changes its group's context alone. -/
theorem moves_of {i : Instr} {u : Uses} {s : State} {g : Group} {z : Ctx} {pc : DWord} {body : State → Nat → Group → Eff}
    (hx : exec i s = runInstr i u s body) (hR : Ready i u s g) (hv : u.vec = false)
    (hb : finish i u (s.setGroup s.cur (begun g u)) s.cur (begun g u) (body (s.setGroup s.cur (begun g u)) s.cur (begun g u)) none =
      complete i u (s.setGroup s.cur { g with ctx := z }) s.cur pc) : Moves i s g pc z :=
  does_of hx hR hv hb rfl hR.running hR.once hR.plain

theorem setCtx_setGroup (s : State) (gi : Nat) (g : Group) (z : Ctx) : (s.setGroup gi g).setCtx gi z = s.setGroup gi { g with ctx := z } :=
  setGroup_modGroup s gi g _

theorem found_eq (g : Group) (u : Uses) (h : u.latches = []) : g.ctx.begin u = found g := by
  simp [found, Ctx.begin, h]

end Sys2Proof.Laws
end

