-- ==== Sys2Proof/Laws/Lists.lean ====
section
/-! SUPPORT. What the fragment-list engine and the unit that writes for a device leave alone. -/

namespace Sys2Proof.Laws

open Machine

/-- Groups and teams are as before. -/
def Kept (s t : State) : Prop := t.groups = s.groups ∧ t.teams = s.teams

theorem Kept.trans {a b c : State} (h : Kept a b) (k : Kept b c) : Kept a c := ⟨k.1.trans h.1, k.2.trans h.2⟩

theorem bind_ok {α β : Type} {x : Dev α} {f : α → Dev β} {b : β} (h : x.bind f = .ok b) : ∃ a, x = .ok a ∧ f a = .ok b := by
  cases x with
  | ok a => exact ⟨a, rfl, h⟩
  | fail _ _ => cases h
  | wait => cases h

theorem sendAt_kept (s : State) (pa cls : Nat) : Kept s (s.sendAt pa cls) := by
  unfold State.sendAt
  split <;> exact ⟨rfl, rfl⟩

theorem claimLine_kept (s : State) (job line : Nat) : Kept s (s.claimLine job line) := by
  unfold State.claimLine
  split <;> exact ⟨rfl, rfl⟩

theorem foldl_kept {α : Type} (f : State → α → State) (hf : ∀ s a, Kept s (f s a)) (l : List α) (s : State) : Kept s (l.foldl f s) := by
  induction l generalizing s with
  | nil => exact ⟨rfl, rfl⟩
  | cons a l ih => exact (hf s a).trans (ih (f s a))

theorem claim_kept (s : State) (job pa n : Nat) : Kept s (s.claim job pa n) := by
  unfold State.claim
  split
  · exact foldl_kept _ (fun s k => claimLine_kept s job _) _ s
  · exact ⟨rfl, rfl⟩

theorem pokeFor_kept (s : State) (job pa : Nat) (bs : List (BitVec 8)) : Kept s (s.pokeFor job pa bs) := claim_kept s job pa bs.length

theorem homeWrite_kept {s t : State} {job : Nat} {va : DWord} {bs : List (BitVec 8)} (h : s.homeWrite job va bs = .ok t) : Kept s t := by
  obtain ⟨pa, -, h⟩ := bind_ok h
  split at h <;> cases h
  · exact ⟨rfl, rfl⟩
  · exact (sendAt_kept s pa 1).trans (pokeFor_kept _ job pa bs)

theorem devWrite_kept {s t : State} {job : Nat} {va : DWord} {bs : List (BitVec 8)} (h : s.devWrite job va bs = .ok t) : Kept s t := by
  obtain ⟨pa, -, h⟩ := bind_ok h
  split at h
  · cases h
  · exact homeWrite_kept h

theorem placeWrite_kept {s t : State} {job n v : Nat} {p : Place} (h : s.placeWrite job n v p = .ok t) : Kept s t := by
  cases p with
  | core c off => cases h; exact ⟨rfl, rfl⟩
  | mem va => exact devWrite_kept h

theorem relink_kept {p : Pass} {tile : Nat} (l : List Node4) {s t : State} (h : s.relink p tile l = .ok t) : Kept s t := by
  induction l generalizing s with
  | nil => cases h; exact ⟨rfl, rfl⟩
  | cons x l ih =>
    unfold State.relink at h
    split at h
    · exact ih h
    · obtain ⟨u, hu, h⟩ := bind_ok h
      exact (placeWrite_kept hu).trans (ih h)

theorem writeNew_kept {p : Pass} {tile : Nat} {f : ListFrag} {got : Option Nat} {s t : State} (h : s.writeNew p tile f got = .ok t) :
    Kept s t := by
  cases got with
  | none => cases h; exact ⟨rfl, rfl⟩
  | some i =>
    obtain ⟨u, hu, h⟩ := bind_ok h
    exact (placeWrite_kept hu).trans (placeWrite_kept h)

theorem insertFrag_kept {s : State} {ps : Nat} {f : ListFrag} {r : Inserted} (h : insertFrag s ps f = .ok r) : Kept s r.s := by
  unfold insertFrag at h
  split at h
  · cases h; exact ⟨rfl, rfl⟩
  · obtain ⟨head, -, h⟩ := bind_ok h
    obtain ⟨old, -, h⟩ := bind_ok h
    have done {l : List Node4} {g : Pass → Pass} {ok empty taken : Bool} {p q : Pass} {a b n v : Nat} {got : Option Nat} {ts : List Place}
        (h : ((s.writeNew p a f got).bind fun s => (s.relink p a l).bind fun s => (s.tileWrite q b n 8 v).bind fun s =>
          Dev.ok (⟨s.modPass ps g, ok, empty, taken, ts⟩ : Inserted)) = .ok r) : Kept s r.s := by
      obtain ⟨x, hx, h⟩ := bind_ok h
      obtain ⟨u, hu, h⟩ := bind_ok h
      obtain ⟨w, hw, h⟩ := bind_ok h
      cases h
      have hk : Kept u w := placeWrite_kept hw
      exact (writeNew_kept hx).trans ((relink_kept l hu).trans hk)
    dsimp only at h
    repeat' (first | (split at h) | exact done h | (cases h; exact ⟨rfl, rfl⟩))

theorem forget_kept (s : State) (core job : Nat) (l : List Place) : Kept s (s.forget core job l) := by
  unfold State.forget
  dsimp only
  split <;> exact ⟨rfl, rfl⟩

theorem insertAt_kept {s : State} {core ps : Nat} {f : ListFrag} {r : Inserted} (h : insertAt s core ps f = .ok r) : Kept s r.s := by
  obtain ⟨q, hq, h⟩ := bind_ok h
  cases h
  exact (insertFrag_kept hq).trans (forget_kept _ _ _ _)

theorem insertLanes_kept {core ps : Nat} {pc : DWord} (l : List (Nat × ListFrag)) {s t : State} {oks : List Nat} {es : List HeldFail}
    (h : insertLanes s core ps pc l = (t, oks, es)) : Kept s t := by
  induction l generalizing s t oks es with
  | nil => cases h; exact ⟨rfl, rfl⟩
  | cons x l ih =>
    have one : Kept s (insertOne s core ps pc x.1 x.2).1 := by
      unfold insertOne
      split
      · exact insertAt_kept (by assumption)
      · exact ⟨rfl, rfl⟩
      · exact ⟨rfl, rfl⟩
    have rest := ih (s := (insertOne s core ps pc x.1 x.2).1) rfl
    have ht : t = (insertLanes (insertOne s core ps pc x.1 x.2).1 core ps pc l).1 := (congrArg Prod.fst h).symm
    exact one.trans (ht ▸ rest)

theorem zeroAt_kept {job : Nat} {log : DWord} (l : List Nat) {s t : State} (h : s.zeroAt job log l = .ok t) : Kept s t := by
  induction l generalizing s with
  | nil => cases h; exact ⟨rfl, rfl⟩
  | cons o l ih =>
    obtain ⟨u, hu, h⟩ := bind_ok h
    exact (devWrite_kept hu).trans (ih h)

theorem overflow_kept (s : State) (job : Nat) (va : DWord) : Kept s (s.overflow job va) := by
  unfold State.overflow
  split
  · split
    · exact homeWrite_kept (by assumption)
    · exact ⟨rfl, rfl⟩
  · exact ⟨rfl, rfl⟩

theorem readDone_kept {job : Nat} {log : DWord} (l : List Nat) {s t : State} (h : s.readDone job log l = .ok t) : Kept s t := by
  induction l generalizing s with
  | nil => cases h; exact ⟨rfl, rfl⟩
  | cons o l ih =>
    obtain ⟨e, -, h⟩ := bind_ok h
    split at h
    · exact (devWrite_kept (by assumption)).trans (ih h)
    · exact Kept.trans (b := (s.overflow job (log + BitVec.ofNat 64 (colOffset o))).postError job 12 _)
        ⟨(overflow_kept s job _).1, (overflow_kept s job _).2⟩ (ih h)
    · cases h

/-- With no open run of any job, closing the runs of a job does nothing. -/
theorem closeRuns_nil (s : State) (job : Nat) (h : s.runs = []) : s.closeRuns job = s := by
  unfold State.closeRuns
  rw [h]
  show ({ s with runs := [] } : State) = s
  rw [← h]

theorem setLog_kept (s : State) (job : Nat) (m : LogMode) (h : s.runs = []) : Kept s (s.setLog job m) := by
  unfold State.setLog
  rw [closeRuns_nil s job h]
  exact ⟨rfl, rfl⟩

end Sys2Proof.Laws
end

