-- ==== Sys2Proof/Laws/State.lean ====
section
/-! SUPPORT. What each update of a record leaves: one lemma for each field of the record and each update, so that no proof unfolds one. -/

namespace Sys2Proof.Laws

open Machine

/-! ## State.setCore -/

@[simp] theorem State_setCore_mem (s : State) (c : Nat) (x : Core) : (s.setCore c x).mem = s.mem := rfl
@[simp] theorem State_setCore_poison (s : State) (c : Nat) (x : Core) : (s.setCore c x).poison = s.poison := rfl
@[simp] theorem State_setCore_cores (s : State) (c : Nat) (x : Core) : (s.setCore c x).cores = s.cores.set (coreIx c) x := rfl
@[simp] theorem State_setCore_gddrTop (s : State) (c : Nat) (x : Core) : (s.setCore c x).gddrTop = s.gddrTop := rfl
@[simp] theorem State_setCore_direct (s : State) (c : Nat) (x : Core) : (s.setCore c x).direct = s.direct := rfl
@[simp] theorem State_setCore_ats (s : State) (c : Nat) (x : Core) : (s.setCore c x).ats = s.ats := rfl
@[simp] theorem State_setCore_priRefused (s : State) (c : Nat) (x : Core) : (s.setCore c x).priRefused = s.priRefused := rfl
@[simp] theorem State_setCore_l2tlb (s : State) (c : Nat) (x : Core) : (s.setCore c x).l2tlb = s.l2tlb := rfl
@[simp] theorem State_setCore_groups (s : State) (c : Nat) (x : Core) : (s.setCore c x).groups = s.groups := rfl
@[simp] theorem State_setCore_teams (s : State) (c : Nat) (x : Core) : (s.setCore c x).teams = s.teams := rfl
@[simp] theorem State_setCore_launches (s : State) (c : Nat) (x : Core) : (s.setCore c x).launches = s.launches := rfl
@[simp] theorem State_setCore_jobs (s : State) (c : Nat) (x : Core) : (s.setCore c x).jobs = s.jobs := rfl
@[simp] theorem State_setCore_graphs (s : State) (c : Nat) (x : Core) : (s.setCore c x).graphs = s.graphs := rfl
@[simp] theorem State_setCore_phases (s : State) (c : Nat) (x : Core) : (s.setCore c x).phases = s.phases := rfl
@[simp] theorem State_setCore_slots (s : State) (c : Nat) (x : Core) : (s.setCore c x).slots = s.slots := rfl
@[simp] theorem State_setCore_queues (s : State) (c : Nat) (x : Core) : (s.setCore c x).queues = s.queues := rfl
@[simp] theorem State_setCore_events (s : State) (c : Nat) (x : Core) : (s.setCore c x).events = s.events := rfl
@[simp] theorem State_setCore_pages (s : State) (c : Nat) (x : Core) : (s.setCore c x).pages = s.pages := rfl
@[simp] theorem State_setCore_columns (s : State) (c : Nat) (x : Core) : (s.setCore c x).columns = s.columns := rfl
@[simp] theorem State_setCore_sliceMap (s : State) (c : Nat) (x : Core) : (s.setCore c x).sliceMap = s.sliceMap := rfl
@[simp] theorem State_setCore_stalled (s : State) (c : Nat) (x : Core) : (s.setCore c x).stalled = s.stalled := rfl
@[simp] theorem State_setCore_methods (s : State) (c : Nat) (x : Core) : (s.setCore c x).methods = s.methods := rfl
@[simp] theorem State_setCore_objects (s : State) (c : Nat) (x : Core) : (s.setCore c x).objects = s.objects := rfl
@[simp] theorem State_setCore_arrivals (s : State) (c : Nat) (x : Core) : (s.setCore c x).arrivals = s.arrivals := rfl
@[simp] theorem State_setCore_runs (s : State) (c : Nat) (x : Core) : (s.setCore c x).runs = s.runs := rfl
@[simp] theorem State_setCore_gates (s : State) (c : Nat) (x : Core) : (s.setCore c x).gates = s.gates := rfl
@[simp] theorem State_setCore_ports (s : State) (c : Nat) (x : Core) : (s.setCore c x).ports = s.ports := rfl
@[simp] theorem State_setCore_outSeq (s : State) (c : Nat) (x : Core) : (s.setCore c x).outSeq = s.outSeq := rfl
@[simp] theorem State_setCore_inStreams (s : State) (c : Nat) (x : Core) : (s.setCore c x).inStreams = s.inStreams := rfl
@[simp] theorem State_setCore_lost (s : State) (c : Nat) (x : Core) : (s.setCore c x).lost = s.lost := rfl
@[simp] theorem State_setCore_colls (s : State) (c : Nat) (x : Core) : (s.setCore c x).colls = s.colls := rfl
@[simp] theorem State_setCore_whorls (s : State) (c : Nat) (x : Core) : (s.setCore c x).whorls = s.whorls := rfl
@[simp] theorem State_setCore_passes (s : State) (c : Nat) (x : Core) : (s.setCore c x).passes = s.passes := rfl
@[simp] theorem State_setCore_fences (s : State) (c : Nat) (x : Core) : (s.setCore c x).fences = s.fences := rfl
@[simp] theorem State_setCore_power (s : State) (c : Nat) (x : Core) : (s.setCore c x).power = s.power := rfl
@[simp] theorem State_setCore_secBlocks (s : State) (c : Nat) (x : Core) : (s.setCore c x).secBlocks = s.secBlocks := rfl
@[simp] theorem State_setCore_sys (s : State) (c : Nat) (x : Core) : (s.setCore c x).sys = s.sys := rfl
@[simp] theorem State_setCore_atomics (s : State) (c : Nat) (x : Core) : (s.setCore c x).atomics = s.atomics := rfl
@[simp] theorem State_setCore_cur (s : State) (c : Nat) (x : Core) : (s.setCore c x).cur = s.cur := rfl
@[simp] theorem State_setCore_agenda (s : State) (c : Nat) (x : Core) : (s.setCore c x).agenda = s.agenda := rfl
@[simp] theorem State_setCore_turn (s : State) (c : Nat) (x : Core) : (s.setCore c x).turn = s.turn := rfl
@[simp] theorem State_setCore_free (s : State) (c : Nat) (x : Core) : (s.setCore c x).free = s.free := rfl
@[simp] theorem State_setCore_noticed (s : State) (c : Nat) (x : Core) : (s.setCore c x).noticed = s.noticed := rfl
@[simp] theorem State_setCore_keyed (s : State) (c : Nat) (x : Core) : (s.setCore c x).keyed = s.keyed := rfl

/-! ## State.modCore -/

@[simp] theorem State_modCore_mem (s : State) (c : Nat) (f : Core → Core) : (s.modCore c f).mem = s.mem := rfl
@[simp] theorem State_modCore_poison (s : State) (c : Nat) (f : Core → Core) : (s.modCore c f).poison = s.poison := rfl
@[simp] theorem State_modCore_cores (s : State) (c : Nat) (f : Core → Core) : (s.modCore c f).cores = s.cores.set (coreIx c) (f (s.core c)) := rfl
@[simp] theorem State_modCore_gddrTop (s : State) (c : Nat) (f : Core → Core) : (s.modCore c f).gddrTop = s.gddrTop := rfl
@[simp] theorem State_modCore_direct (s : State) (c : Nat) (f : Core → Core) : (s.modCore c f).direct = s.direct := rfl
@[simp] theorem State_modCore_ats (s : State) (c : Nat) (f : Core → Core) : (s.modCore c f).ats = s.ats := rfl
@[simp] theorem State_modCore_priRefused (s : State) (c : Nat) (f : Core → Core) : (s.modCore c f).priRefused = s.priRefused := rfl
@[simp] theorem State_modCore_l2tlb (s : State) (c : Nat) (f : Core → Core) : (s.modCore c f).l2tlb = s.l2tlb := rfl
@[simp] theorem State_modCore_groups (s : State) (c : Nat) (f : Core → Core) : (s.modCore c f).groups = s.groups := rfl
@[simp] theorem State_modCore_teams (s : State) (c : Nat) (f : Core → Core) : (s.modCore c f).teams = s.teams := rfl
@[simp] theorem State_modCore_launches (s : State) (c : Nat) (f : Core → Core) : (s.modCore c f).launches = s.launches := rfl
@[simp] theorem State_modCore_jobs (s : State) (c : Nat) (f : Core → Core) : (s.modCore c f).jobs = s.jobs := rfl
@[simp] theorem State_modCore_graphs (s : State) (c : Nat) (f : Core → Core) : (s.modCore c f).graphs = s.graphs := rfl
@[simp] theorem State_modCore_phases (s : State) (c : Nat) (f : Core → Core) : (s.modCore c f).phases = s.phases := rfl
@[simp] theorem State_modCore_slots (s : State) (c : Nat) (f : Core → Core) : (s.modCore c f).slots = s.slots := rfl
@[simp] theorem State_modCore_queues (s : State) (c : Nat) (f : Core → Core) : (s.modCore c f).queues = s.queues := rfl
@[simp] theorem State_modCore_events (s : State) (c : Nat) (f : Core → Core) : (s.modCore c f).events = s.events := rfl
@[simp] theorem State_modCore_pages (s : State) (c : Nat) (f : Core → Core) : (s.modCore c f).pages = s.pages := rfl
@[simp] theorem State_modCore_columns (s : State) (c : Nat) (f : Core → Core) : (s.modCore c f).columns = s.columns := rfl
@[simp] theorem State_modCore_sliceMap (s : State) (c : Nat) (f : Core → Core) : (s.modCore c f).sliceMap = s.sliceMap := rfl
@[simp] theorem State_modCore_stalled (s : State) (c : Nat) (f : Core → Core) : (s.modCore c f).stalled = s.stalled := rfl
@[simp] theorem State_modCore_methods (s : State) (c : Nat) (f : Core → Core) : (s.modCore c f).methods = s.methods := rfl
@[simp] theorem State_modCore_objects (s : State) (c : Nat) (f : Core → Core) : (s.modCore c f).objects = s.objects := rfl
@[simp] theorem State_modCore_arrivals (s : State) (c : Nat) (f : Core → Core) : (s.modCore c f).arrivals = s.arrivals := rfl
@[simp] theorem State_modCore_runs (s : State) (c : Nat) (f : Core → Core) : (s.modCore c f).runs = s.runs := rfl
@[simp] theorem State_modCore_gates (s : State) (c : Nat) (f : Core → Core) : (s.modCore c f).gates = s.gates := rfl
@[simp] theorem State_modCore_ports (s : State) (c : Nat) (f : Core → Core) : (s.modCore c f).ports = s.ports := rfl
@[simp] theorem State_modCore_outSeq (s : State) (c : Nat) (f : Core → Core) : (s.modCore c f).outSeq = s.outSeq := rfl
@[simp] theorem State_modCore_inStreams (s : State) (c : Nat) (f : Core → Core) : (s.modCore c f).inStreams = s.inStreams := rfl
@[simp] theorem State_modCore_lost (s : State) (c : Nat) (f : Core → Core) : (s.modCore c f).lost = s.lost := rfl
@[simp] theorem State_modCore_colls (s : State) (c : Nat) (f : Core → Core) : (s.modCore c f).colls = s.colls := rfl
@[simp] theorem State_modCore_whorls (s : State) (c : Nat) (f : Core → Core) : (s.modCore c f).whorls = s.whorls := rfl
@[simp] theorem State_modCore_passes (s : State) (c : Nat) (f : Core → Core) : (s.modCore c f).passes = s.passes := rfl
@[simp] theorem State_modCore_fences (s : State) (c : Nat) (f : Core → Core) : (s.modCore c f).fences = s.fences := rfl
@[simp] theorem State_modCore_power (s : State) (c : Nat) (f : Core → Core) : (s.modCore c f).power = s.power := rfl
@[simp] theorem State_modCore_secBlocks (s : State) (c : Nat) (f : Core → Core) : (s.modCore c f).secBlocks = s.secBlocks := rfl
@[simp] theorem State_modCore_sys (s : State) (c : Nat) (f : Core → Core) : (s.modCore c f).sys = s.sys := rfl
@[simp] theorem State_modCore_atomics (s : State) (c : Nat) (f : Core → Core) : (s.modCore c f).atomics = s.atomics := rfl
@[simp] theorem State_modCore_cur (s : State) (c : Nat) (f : Core → Core) : (s.modCore c f).cur = s.cur := rfl
@[simp] theorem State_modCore_agenda (s : State) (c : Nat) (f : Core → Core) : (s.modCore c f).agenda = s.agenda := rfl
@[simp] theorem State_modCore_turn (s : State) (c : Nat) (f : Core → Core) : (s.modCore c f).turn = s.turn := rfl
@[simp] theorem State_modCore_free (s : State) (c : Nat) (f : Core → Core) : (s.modCore c f).free = s.free := rfl
@[simp] theorem State_modCore_noticed (s : State) (c : Nat) (f : Core → Core) : (s.modCore c f).noticed = s.noticed := rfl
@[simp] theorem State_modCore_keyed (s : State) (c : Nat) (f : Core → Core) : (s.modCore c f).keyed = s.keyed := rfl

/-! ## State.setGroup -/

@[simp] theorem State_setGroup_mem (s : State) (i : Nat) (x : Group) : (s.setGroup i x).mem = s.mem := rfl
@[simp] theorem State_setGroup_poison (s : State) (i : Nat) (x : Group) : (s.setGroup i x).poison = s.poison := rfl
@[simp] theorem State_setGroup_cores (s : State) (i : Nat) (x : Group) : (s.setGroup i x).cores = s.cores := rfl
@[simp] theorem State_setGroup_gddrTop (s : State) (i : Nat) (x : Group) : (s.setGroup i x).gddrTop = s.gddrTop := rfl
@[simp] theorem State_setGroup_direct (s : State) (i : Nat) (x : Group) : (s.setGroup i x).direct = s.direct := rfl
@[simp] theorem State_setGroup_ats (s : State) (i : Nat) (x : Group) : (s.setGroup i x).ats = s.ats := rfl
@[simp] theorem State_setGroup_priRefused (s : State) (i : Nat) (x : Group) : (s.setGroup i x).priRefused = s.priRefused := rfl
@[simp] theorem State_setGroup_l2tlb (s : State) (i : Nat) (x : Group) : (s.setGroup i x).l2tlb = s.l2tlb := rfl
@[simp] theorem State_setGroup_groups (s : State) (i : Nat) (x : Group) : (s.setGroup i x).groups = s.groups.set i x := rfl
@[simp] theorem State_setGroup_teams (s : State) (i : Nat) (x : Group) : (s.setGroup i x).teams = s.teams := rfl
@[simp] theorem State_setGroup_launches (s : State) (i : Nat) (x : Group) : (s.setGroup i x).launches = s.launches := rfl
@[simp] theorem State_setGroup_jobs (s : State) (i : Nat) (x : Group) : (s.setGroup i x).jobs = s.jobs := rfl
@[simp] theorem State_setGroup_graphs (s : State) (i : Nat) (x : Group) : (s.setGroup i x).graphs = s.graphs := rfl
@[simp] theorem State_setGroup_phases (s : State) (i : Nat) (x : Group) : (s.setGroup i x).phases = s.phases := rfl
@[simp] theorem State_setGroup_slots (s : State) (i : Nat) (x : Group) : (s.setGroup i x).slots = s.slots := rfl
@[simp] theorem State_setGroup_queues (s : State) (i : Nat) (x : Group) : (s.setGroup i x).queues = s.queues := rfl
@[simp] theorem State_setGroup_events (s : State) (i : Nat) (x : Group) : (s.setGroup i x).events = s.events := rfl
@[simp] theorem State_setGroup_pages (s : State) (i : Nat) (x : Group) : (s.setGroup i x).pages = s.pages := rfl
@[simp] theorem State_setGroup_columns (s : State) (i : Nat) (x : Group) : (s.setGroup i x).columns = s.columns := rfl
@[simp] theorem State_setGroup_sliceMap (s : State) (i : Nat) (x : Group) : (s.setGroup i x).sliceMap = s.sliceMap := rfl
@[simp] theorem State_setGroup_stalled (s : State) (i : Nat) (x : Group) : (s.setGroup i x).stalled = s.stalled := rfl
@[simp] theorem State_setGroup_methods (s : State) (i : Nat) (x : Group) : (s.setGroup i x).methods = s.methods := rfl
@[simp] theorem State_setGroup_objects (s : State) (i : Nat) (x : Group) : (s.setGroup i x).objects = s.objects := rfl
@[simp] theorem State_setGroup_arrivals (s : State) (i : Nat) (x : Group) : (s.setGroup i x).arrivals = s.arrivals := rfl
@[simp] theorem State_setGroup_runs (s : State) (i : Nat) (x : Group) : (s.setGroup i x).runs = s.runs := rfl
@[simp] theorem State_setGroup_gates (s : State) (i : Nat) (x : Group) : (s.setGroup i x).gates = s.gates := rfl
@[simp] theorem State_setGroup_ports (s : State) (i : Nat) (x : Group) : (s.setGroup i x).ports = s.ports := rfl
@[simp] theorem State_setGroup_outSeq (s : State) (i : Nat) (x : Group) : (s.setGroup i x).outSeq = s.outSeq := rfl
@[simp] theorem State_setGroup_inStreams (s : State) (i : Nat) (x : Group) : (s.setGroup i x).inStreams = s.inStreams := rfl
@[simp] theorem State_setGroup_lost (s : State) (i : Nat) (x : Group) : (s.setGroup i x).lost = s.lost := rfl
@[simp] theorem State_setGroup_colls (s : State) (i : Nat) (x : Group) : (s.setGroup i x).colls = s.colls := rfl
@[simp] theorem State_setGroup_whorls (s : State) (i : Nat) (x : Group) : (s.setGroup i x).whorls = s.whorls := rfl
@[simp] theorem State_setGroup_passes (s : State) (i : Nat) (x : Group) : (s.setGroup i x).passes = s.passes := rfl
@[simp] theorem State_setGroup_fences (s : State) (i : Nat) (x : Group) : (s.setGroup i x).fences = s.fences := rfl
@[simp] theorem State_setGroup_power (s : State) (i : Nat) (x : Group) : (s.setGroup i x).power = s.power := rfl
@[simp] theorem State_setGroup_secBlocks (s : State) (i : Nat) (x : Group) : (s.setGroup i x).secBlocks = s.secBlocks := rfl
@[simp] theorem State_setGroup_sys (s : State) (i : Nat) (x : Group) : (s.setGroup i x).sys = s.sys := rfl
@[simp] theorem State_setGroup_atomics (s : State) (i : Nat) (x : Group) : (s.setGroup i x).atomics = s.atomics := rfl
@[simp] theorem State_setGroup_cur (s : State) (i : Nat) (x : Group) : (s.setGroup i x).cur = s.cur := rfl
@[simp] theorem State_setGroup_agenda (s : State) (i : Nat) (x : Group) : (s.setGroup i x).agenda = s.agenda := rfl
@[simp] theorem State_setGroup_turn (s : State) (i : Nat) (x : Group) : (s.setGroup i x).turn = s.turn := rfl
@[simp] theorem State_setGroup_free (s : State) (i : Nat) (x : Group) : (s.setGroup i x).free = s.free := rfl
@[simp] theorem State_setGroup_noticed (s : State) (i : Nat) (x : Group) : (s.setGroup i x).noticed = s.noticed := rfl
@[simp] theorem State_setGroup_keyed (s : State) (i : Nat) (x : Group) : (s.setGroup i x).keyed = s.keyed := rfl

/-! ## State.modGroup -/

@[simp] theorem State_modGroup_mem (s : State) (i : Nat) (f : Group → Group) : (s.modGroup i f).mem = s.mem := rfl
@[simp] theorem State_modGroup_poison (s : State) (i : Nat) (f : Group → Group) : (s.modGroup i f).poison = s.poison := rfl
@[simp] theorem State_modGroup_cores (s : State) (i : Nat) (f : Group → Group) : (s.modGroup i f).cores = s.cores := rfl
@[simp] theorem State_modGroup_gddrTop (s : State) (i : Nat) (f : Group → Group) : (s.modGroup i f).gddrTop = s.gddrTop := rfl
@[simp] theorem State_modGroup_direct (s : State) (i : Nat) (f : Group → Group) : (s.modGroup i f).direct = s.direct := rfl
@[simp] theorem State_modGroup_ats (s : State) (i : Nat) (f : Group → Group) : (s.modGroup i f).ats = s.ats := rfl
@[simp] theorem State_modGroup_priRefused (s : State) (i : Nat) (f : Group → Group) : (s.modGroup i f).priRefused = s.priRefused := rfl
@[simp] theorem State_modGroup_l2tlb (s : State) (i : Nat) (f : Group → Group) : (s.modGroup i f).l2tlb = s.l2tlb := rfl
@[simp] theorem State_modGroup_groups (s : State) (i : Nat) (f : Group → Group) : (s.modGroup i f).groups = s.groups.modify i f := rfl
@[simp] theorem State_modGroup_teams (s : State) (i : Nat) (f : Group → Group) : (s.modGroup i f).teams = s.teams := rfl
@[simp] theorem State_modGroup_launches (s : State) (i : Nat) (f : Group → Group) : (s.modGroup i f).launches = s.launches := rfl
@[simp] theorem State_modGroup_jobs (s : State) (i : Nat) (f : Group → Group) : (s.modGroup i f).jobs = s.jobs := rfl
@[simp] theorem State_modGroup_graphs (s : State) (i : Nat) (f : Group → Group) : (s.modGroup i f).graphs = s.graphs := rfl
@[simp] theorem State_modGroup_phases (s : State) (i : Nat) (f : Group → Group) : (s.modGroup i f).phases = s.phases := rfl
@[simp] theorem State_modGroup_slots (s : State) (i : Nat) (f : Group → Group) : (s.modGroup i f).slots = s.slots := rfl
@[simp] theorem State_modGroup_queues (s : State) (i : Nat) (f : Group → Group) : (s.modGroup i f).queues = s.queues := rfl
@[simp] theorem State_modGroup_events (s : State) (i : Nat) (f : Group → Group) : (s.modGroup i f).events = s.events := rfl
@[simp] theorem State_modGroup_pages (s : State) (i : Nat) (f : Group → Group) : (s.modGroup i f).pages = s.pages := rfl
@[simp] theorem State_modGroup_columns (s : State) (i : Nat) (f : Group → Group) : (s.modGroup i f).columns = s.columns := rfl
@[simp] theorem State_modGroup_sliceMap (s : State) (i : Nat) (f : Group → Group) : (s.modGroup i f).sliceMap = s.sliceMap := rfl
@[simp] theorem State_modGroup_stalled (s : State) (i : Nat) (f : Group → Group) : (s.modGroup i f).stalled = s.stalled := rfl
@[simp] theorem State_modGroup_methods (s : State) (i : Nat) (f : Group → Group) : (s.modGroup i f).methods = s.methods := rfl
@[simp] theorem State_modGroup_objects (s : State) (i : Nat) (f : Group → Group) : (s.modGroup i f).objects = s.objects := rfl
@[simp] theorem State_modGroup_arrivals (s : State) (i : Nat) (f : Group → Group) : (s.modGroup i f).arrivals = s.arrivals := rfl
@[simp] theorem State_modGroup_runs (s : State) (i : Nat) (f : Group → Group) : (s.modGroup i f).runs = s.runs := rfl
@[simp] theorem State_modGroup_gates (s : State) (i : Nat) (f : Group → Group) : (s.modGroup i f).gates = s.gates := rfl
@[simp] theorem State_modGroup_ports (s : State) (i : Nat) (f : Group → Group) : (s.modGroup i f).ports = s.ports := rfl
@[simp] theorem State_modGroup_outSeq (s : State) (i : Nat) (f : Group → Group) : (s.modGroup i f).outSeq = s.outSeq := rfl
@[simp] theorem State_modGroup_inStreams (s : State) (i : Nat) (f : Group → Group) : (s.modGroup i f).inStreams = s.inStreams := rfl
@[simp] theorem State_modGroup_lost (s : State) (i : Nat) (f : Group → Group) : (s.modGroup i f).lost = s.lost := rfl
@[simp] theorem State_modGroup_colls (s : State) (i : Nat) (f : Group → Group) : (s.modGroup i f).colls = s.colls := rfl
@[simp] theorem State_modGroup_whorls (s : State) (i : Nat) (f : Group → Group) : (s.modGroup i f).whorls = s.whorls := rfl
@[simp] theorem State_modGroup_passes (s : State) (i : Nat) (f : Group → Group) : (s.modGroup i f).passes = s.passes := rfl
@[simp] theorem State_modGroup_fences (s : State) (i : Nat) (f : Group → Group) : (s.modGroup i f).fences = s.fences := rfl
@[simp] theorem State_modGroup_power (s : State) (i : Nat) (f : Group → Group) : (s.modGroup i f).power = s.power := rfl
@[simp] theorem State_modGroup_secBlocks (s : State) (i : Nat) (f : Group → Group) : (s.modGroup i f).secBlocks = s.secBlocks := rfl
@[simp] theorem State_modGroup_sys (s : State) (i : Nat) (f : Group → Group) : (s.modGroup i f).sys = s.sys := rfl
@[simp] theorem State_modGroup_atomics (s : State) (i : Nat) (f : Group → Group) : (s.modGroup i f).atomics = s.atomics := rfl
@[simp] theorem State_modGroup_cur (s : State) (i : Nat) (f : Group → Group) : (s.modGroup i f).cur = s.cur := rfl
@[simp] theorem State_modGroup_agenda (s : State) (i : Nat) (f : Group → Group) : (s.modGroup i f).agenda = s.agenda := rfl
@[simp] theorem State_modGroup_turn (s : State) (i : Nat) (f : Group → Group) : (s.modGroup i f).turn = s.turn := rfl
@[simp] theorem State_modGroup_free (s : State) (i : Nat) (f : Group → Group) : (s.modGroup i f).free = s.free := rfl
@[simp] theorem State_modGroup_noticed (s : State) (i : Nat) (f : Group → Group) : (s.modGroup i f).noticed = s.noticed := rfl
@[simp] theorem State_modGroup_keyed (s : State) (i : Nat) (f : Group → Group) : (s.modGroup i f).keyed = s.keyed := rfl

/-! ## State.setCtx -/

@[simp] theorem State_setCtx_mem (s : State) (i : Nat) (x : Ctx) : (s.setCtx i x).mem = s.mem := rfl
@[simp] theorem State_setCtx_poison (s : State) (i : Nat) (x : Ctx) : (s.setCtx i x).poison = s.poison := rfl
@[simp] theorem State_setCtx_cores (s : State) (i : Nat) (x : Ctx) : (s.setCtx i x).cores = s.cores := rfl
@[simp] theorem State_setCtx_gddrTop (s : State) (i : Nat) (x : Ctx) : (s.setCtx i x).gddrTop = s.gddrTop := rfl
@[simp] theorem State_setCtx_direct (s : State) (i : Nat) (x : Ctx) : (s.setCtx i x).direct = s.direct := rfl
@[simp] theorem State_setCtx_ats (s : State) (i : Nat) (x : Ctx) : (s.setCtx i x).ats = s.ats := rfl
@[simp] theorem State_setCtx_priRefused (s : State) (i : Nat) (x : Ctx) : (s.setCtx i x).priRefused = s.priRefused := rfl
@[simp] theorem State_setCtx_l2tlb (s : State) (i : Nat) (x : Ctx) : (s.setCtx i x).l2tlb = s.l2tlb := rfl
@[simp] theorem State_setCtx_groups (s : State) (i : Nat) (x : Ctx) : (s.setCtx i x).groups = s.groups.modify i fun g => { g with ctx := x } := rfl
@[simp] theorem State_setCtx_teams (s : State) (i : Nat) (x : Ctx) : (s.setCtx i x).teams = s.teams := rfl
@[simp] theorem State_setCtx_launches (s : State) (i : Nat) (x : Ctx) : (s.setCtx i x).launches = s.launches := rfl
@[simp] theorem State_setCtx_jobs (s : State) (i : Nat) (x : Ctx) : (s.setCtx i x).jobs = s.jobs := rfl
@[simp] theorem State_setCtx_graphs (s : State) (i : Nat) (x : Ctx) : (s.setCtx i x).graphs = s.graphs := rfl
@[simp] theorem State_setCtx_phases (s : State) (i : Nat) (x : Ctx) : (s.setCtx i x).phases = s.phases := rfl
@[simp] theorem State_setCtx_slots (s : State) (i : Nat) (x : Ctx) : (s.setCtx i x).slots = s.slots := rfl
@[simp] theorem State_setCtx_queues (s : State) (i : Nat) (x : Ctx) : (s.setCtx i x).queues = s.queues := rfl
@[simp] theorem State_setCtx_events (s : State) (i : Nat) (x : Ctx) : (s.setCtx i x).events = s.events := rfl
@[simp] theorem State_setCtx_pages (s : State) (i : Nat) (x : Ctx) : (s.setCtx i x).pages = s.pages := rfl
@[simp] theorem State_setCtx_columns (s : State) (i : Nat) (x : Ctx) : (s.setCtx i x).columns = s.columns := rfl
@[simp] theorem State_setCtx_sliceMap (s : State) (i : Nat) (x : Ctx) : (s.setCtx i x).sliceMap = s.sliceMap := rfl
@[simp] theorem State_setCtx_stalled (s : State) (i : Nat) (x : Ctx) : (s.setCtx i x).stalled = s.stalled := rfl
@[simp] theorem State_setCtx_methods (s : State) (i : Nat) (x : Ctx) : (s.setCtx i x).methods = s.methods := rfl
@[simp] theorem State_setCtx_objects (s : State) (i : Nat) (x : Ctx) : (s.setCtx i x).objects = s.objects := rfl
@[simp] theorem State_setCtx_arrivals (s : State) (i : Nat) (x : Ctx) : (s.setCtx i x).arrivals = s.arrivals := rfl
@[simp] theorem State_setCtx_runs (s : State) (i : Nat) (x : Ctx) : (s.setCtx i x).runs = s.runs := rfl
@[simp] theorem State_setCtx_gates (s : State) (i : Nat) (x : Ctx) : (s.setCtx i x).gates = s.gates := rfl
@[simp] theorem State_setCtx_ports (s : State) (i : Nat) (x : Ctx) : (s.setCtx i x).ports = s.ports := rfl
@[simp] theorem State_setCtx_outSeq (s : State) (i : Nat) (x : Ctx) : (s.setCtx i x).outSeq = s.outSeq := rfl
@[simp] theorem State_setCtx_inStreams (s : State) (i : Nat) (x : Ctx) : (s.setCtx i x).inStreams = s.inStreams := rfl
@[simp] theorem State_setCtx_lost (s : State) (i : Nat) (x : Ctx) : (s.setCtx i x).lost = s.lost := rfl
@[simp] theorem State_setCtx_colls (s : State) (i : Nat) (x : Ctx) : (s.setCtx i x).colls = s.colls := rfl
@[simp] theorem State_setCtx_whorls (s : State) (i : Nat) (x : Ctx) : (s.setCtx i x).whorls = s.whorls := rfl
@[simp] theorem State_setCtx_passes (s : State) (i : Nat) (x : Ctx) : (s.setCtx i x).passes = s.passes := rfl
@[simp] theorem State_setCtx_fences (s : State) (i : Nat) (x : Ctx) : (s.setCtx i x).fences = s.fences := rfl
@[simp] theorem State_setCtx_power (s : State) (i : Nat) (x : Ctx) : (s.setCtx i x).power = s.power := rfl
@[simp] theorem State_setCtx_secBlocks (s : State) (i : Nat) (x : Ctx) : (s.setCtx i x).secBlocks = s.secBlocks := rfl
@[simp] theorem State_setCtx_sys (s : State) (i : Nat) (x : Ctx) : (s.setCtx i x).sys = s.sys := rfl
@[simp] theorem State_setCtx_atomics (s : State) (i : Nat) (x : Ctx) : (s.setCtx i x).atomics = s.atomics := rfl
@[simp] theorem State_setCtx_cur (s : State) (i : Nat) (x : Ctx) : (s.setCtx i x).cur = s.cur := rfl
@[simp] theorem State_setCtx_agenda (s : State) (i : Nat) (x : Ctx) : (s.setCtx i x).agenda = s.agenda := rfl
@[simp] theorem State_setCtx_turn (s : State) (i : Nat) (x : Ctx) : (s.setCtx i x).turn = s.turn := rfl
@[simp] theorem State_setCtx_free (s : State) (i : Nat) (x : Ctx) : (s.setCtx i x).free = s.free := rfl
@[simp] theorem State_setCtx_noticed (s : State) (i : Nat) (x : Ctx) : (s.setCtx i x).noticed = s.noticed := rfl
@[simp] theorem State_setCtx_keyed (s : State) (i : Nat) (x : Ctx) : (s.setCtx i x).keyed = s.keyed := rfl

/-! ## State.setTeam -/

@[simp] theorem State_setTeam_mem (s : State) (i : Nat) (x : Team) : (s.setTeam i x).mem = s.mem := rfl
@[simp] theorem State_setTeam_poison (s : State) (i : Nat) (x : Team) : (s.setTeam i x).poison = s.poison := rfl
@[simp] theorem State_setTeam_cores (s : State) (i : Nat) (x : Team) : (s.setTeam i x).cores = s.cores := rfl
@[simp] theorem State_setTeam_gddrTop (s : State) (i : Nat) (x : Team) : (s.setTeam i x).gddrTop = s.gddrTop := rfl
@[simp] theorem State_setTeam_direct (s : State) (i : Nat) (x : Team) : (s.setTeam i x).direct = s.direct := rfl
@[simp] theorem State_setTeam_ats (s : State) (i : Nat) (x : Team) : (s.setTeam i x).ats = s.ats := rfl
@[simp] theorem State_setTeam_priRefused (s : State) (i : Nat) (x : Team) : (s.setTeam i x).priRefused = s.priRefused := rfl
@[simp] theorem State_setTeam_l2tlb (s : State) (i : Nat) (x : Team) : (s.setTeam i x).l2tlb = s.l2tlb := rfl
@[simp] theorem State_setTeam_groups (s : State) (i : Nat) (x : Team) : (s.setTeam i x).groups = s.groups := rfl
@[simp] theorem State_setTeam_teams (s : State) (i : Nat) (x : Team) : (s.setTeam i x).teams = s.teams.set i x := rfl
@[simp] theorem State_setTeam_launches (s : State) (i : Nat) (x : Team) : (s.setTeam i x).launches = s.launches := rfl
@[simp] theorem State_setTeam_jobs (s : State) (i : Nat) (x : Team) : (s.setTeam i x).jobs = s.jobs := rfl
@[simp] theorem State_setTeam_graphs (s : State) (i : Nat) (x : Team) : (s.setTeam i x).graphs = s.graphs := rfl
@[simp] theorem State_setTeam_phases (s : State) (i : Nat) (x : Team) : (s.setTeam i x).phases = s.phases := rfl
@[simp] theorem State_setTeam_slots (s : State) (i : Nat) (x : Team) : (s.setTeam i x).slots = s.slots := rfl
@[simp] theorem State_setTeam_queues (s : State) (i : Nat) (x : Team) : (s.setTeam i x).queues = s.queues := rfl
@[simp] theorem State_setTeam_events (s : State) (i : Nat) (x : Team) : (s.setTeam i x).events = s.events := rfl
@[simp] theorem State_setTeam_pages (s : State) (i : Nat) (x : Team) : (s.setTeam i x).pages = s.pages := rfl
@[simp] theorem State_setTeam_columns (s : State) (i : Nat) (x : Team) : (s.setTeam i x).columns = s.columns := rfl
@[simp] theorem State_setTeam_sliceMap (s : State) (i : Nat) (x : Team) : (s.setTeam i x).sliceMap = s.sliceMap := rfl
@[simp] theorem State_setTeam_stalled (s : State) (i : Nat) (x : Team) : (s.setTeam i x).stalled = s.stalled := rfl
@[simp] theorem State_setTeam_methods (s : State) (i : Nat) (x : Team) : (s.setTeam i x).methods = s.methods := rfl
@[simp] theorem State_setTeam_objects (s : State) (i : Nat) (x : Team) : (s.setTeam i x).objects = s.objects := rfl
@[simp] theorem State_setTeam_arrivals (s : State) (i : Nat) (x : Team) : (s.setTeam i x).arrivals = s.arrivals := rfl
@[simp] theorem State_setTeam_runs (s : State) (i : Nat) (x : Team) : (s.setTeam i x).runs = s.runs := rfl
@[simp] theorem State_setTeam_gates (s : State) (i : Nat) (x : Team) : (s.setTeam i x).gates = s.gates := rfl
@[simp] theorem State_setTeam_ports (s : State) (i : Nat) (x : Team) : (s.setTeam i x).ports = s.ports := rfl
@[simp] theorem State_setTeam_outSeq (s : State) (i : Nat) (x : Team) : (s.setTeam i x).outSeq = s.outSeq := rfl
@[simp] theorem State_setTeam_inStreams (s : State) (i : Nat) (x : Team) : (s.setTeam i x).inStreams = s.inStreams := rfl
@[simp] theorem State_setTeam_lost (s : State) (i : Nat) (x : Team) : (s.setTeam i x).lost = s.lost := rfl
@[simp] theorem State_setTeam_colls (s : State) (i : Nat) (x : Team) : (s.setTeam i x).colls = s.colls := rfl
@[simp] theorem State_setTeam_whorls (s : State) (i : Nat) (x : Team) : (s.setTeam i x).whorls = s.whorls := rfl
@[simp] theorem State_setTeam_passes (s : State) (i : Nat) (x : Team) : (s.setTeam i x).passes = s.passes := rfl
@[simp] theorem State_setTeam_fences (s : State) (i : Nat) (x : Team) : (s.setTeam i x).fences = s.fences := rfl
@[simp] theorem State_setTeam_power (s : State) (i : Nat) (x : Team) : (s.setTeam i x).power = s.power := rfl
@[simp] theorem State_setTeam_secBlocks (s : State) (i : Nat) (x : Team) : (s.setTeam i x).secBlocks = s.secBlocks := rfl
@[simp] theorem State_setTeam_sys (s : State) (i : Nat) (x : Team) : (s.setTeam i x).sys = s.sys := rfl
@[simp] theorem State_setTeam_atomics (s : State) (i : Nat) (x : Team) : (s.setTeam i x).atomics = s.atomics := rfl
@[simp] theorem State_setTeam_cur (s : State) (i : Nat) (x : Team) : (s.setTeam i x).cur = s.cur := rfl
@[simp] theorem State_setTeam_agenda (s : State) (i : Nat) (x : Team) : (s.setTeam i x).agenda = s.agenda := rfl
@[simp] theorem State_setTeam_turn (s : State) (i : Nat) (x : Team) : (s.setTeam i x).turn = s.turn := rfl
@[simp] theorem State_setTeam_free (s : State) (i : Nat) (x : Team) : (s.setTeam i x).free = s.free := rfl
@[simp] theorem State_setTeam_noticed (s : State) (i : Nat) (x : Team) : (s.setTeam i x).noticed = s.noticed := rfl
@[simp] theorem State_setTeam_keyed (s : State) (i : Nat) (x : Team) : (s.setTeam i x).keyed = s.keyed := rfl

/-! ## State.modTeam -/

@[simp] theorem State_modTeam_mem (s : State) (i : Nat) (f : Team → Team) : (s.modTeam i f).mem = s.mem := rfl
@[simp] theorem State_modTeam_poison (s : State) (i : Nat) (f : Team → Team) : (s.modTeam i f).poison = s.poison := rfl
@[simp] theorem State_modTeam_cores (s : State) (i : Nat) (f : Team → Team) : (s.modTeam i f).cores = s.cores := rfl
@[simp] theorem State_modTeam_gddrTop (s : State) (i : Nat) (f : Team → Team) : (s.modTeam i f).gddrTop = s.gddrTop := rfl
@[simp] theorem State_modTeam_direct (s : State) (i : Nat) (f : Team → Team) : (s.modTeam i f).direct = s.direct := rfl
@[simp] theorem State_modTeam_ats (s : State) (i : Nat) (f : Team → Team) : (s.modTeam i f).ats = s.ats := rfl
@[simp] theorem State_modTeam_priRefused (s : State) (i : Nat) (f : Team → Team) : (s.modTeam i f).priRefused = s.priRefused := rfl
@[simp] theorem State_modTeam_l2tlb (s : State) (i : Nat) (f : Team → Team) : (s.modTeam i f).l2tlb = s.l2tlb := rfl
@[simp] theorem State_modTeam_groups (s : State) (i : Nat) (f : Team → Team) : (s.modTeam i f).groups = s.groups := rfl
@[simp] theorem State_modTeam_teams (s : State) (i : Nat) (f : Team → Team) : (s.modTeam i f).teams = s.teams.modify i f := rfl
@[simp] theorem State_modTeam_launches (s : State) (i : Nat) (f : Team → Team) : (s.modTeam i f).launches = s.launches := rfl
@[simp] theorem State_modTeam_jobs (s : State) (i : Nat) (f : Team → Team) : (s.modTeam i f).jobs = s.jobs := rfl
@[simp] theorem State_modTeam_graphs (s : State) (i : Nat) (f : Team → Team) : (s.modTeam i f).graphs = s.graphs := rfl
@[simp] theorem State_modTeam_phases (s : State) (i : Nat) (f : Team → Team) : (s.modTeam i f).phases = s.phases := rfl
@[simp] theorem State_modTeam_slots (s : State) (i : Nat) (f : Team → Team) : (s.modTeam i f).slots = s.slots := rfl
@[simp] theorem State_modTeam_queues (s : State) (i : Nat) (f : Team → Team) : (s.modTeam i f).queues = s.queues := rfl
@[simp] theorem State_modTeam_events (s : State) (i : Nat) (f : Team → Team) : (s.modTeam i f).events = s.events := rfl
@[simp] theorem State_modTeam_pages (s : State) (i : Nat) (f : Team → Team) : (s.modTeam i f).pages = s.pages := rfl
@[simp] theorem State_modTeam_columns (s : State) (i : Nat) (f : Team → Team) : (s.modTeam i f).columns = s.columns := rfl
@[simp] theorem State_modTeam_sliceMap (s : State) (i : Nat) (f : Team → Team) : (s.modTeam i f).sliceMap = s.sliceMap := rfl
@[simp] theorem State_modTeam_stalled (s : State) (i : Nat) (f : Team → Team) : (s.modTeam i f).stalled = s.stalled := rfl
@[simp] theorem State_modTeam_methods (s : State) (i : Nat) (f : Team → Team) : (s.modTeam i f).methods = s.methods := rfl
@[simp] theorem State_modTeam_objects (s : State) (i : Nat) (f : Team → Team) : (s.modTeam i f).objects = s.objects := rfl
@[simp] theorem State_modTeam_arrivals (s : State) (i : Nat) (f : Team → Team) : (s.modTeam i f).arrivals = s.arrivals := rfl
@[simp] theorem State_modTeam_runs (s : State) (i : Nat) (f : Team → Team) : (s.modTeam i f).runs = s.runs := rfl
@[simp] theorem State_modTeam_gates (s : State) (i : Nat) (f : Team → Team) : (s.modTeam i f).gates = s.gates := rfl
@[simp] theorem State_modTeam_ports (s : State) (i : Nat) (f : Team → Team) : (s.modTeam i f).ports = s.ports := rfl
@[simp] theorem State_modTeam_outSeq (s : State) (i : Nat) (f : Team → Team) : (s.modTeam i f).outSeq = s.outSeq := rfl
@[simp] theorem State_modTeam_inStreams (s : State) (i : Nat) (f : Team → Team) : (s.modTeam i f).inStreams = s.inStreams := rfl
@[simp] theorem State_modTeam_lost (s : State) (i : Nat) (f : Team → Team) : (s.modTeam i f).lost = s.lost := rfl
@[simp] theorem State_modTeam_colls (s : State) (i : Nat) (f : Team → Team) : (s.modTeam i f).colls = s.colls := rfl
@[simp] theorem State_modTeam_whorls (s : State) (i : Nat) (f : Team → Team) : (s.modTeam i f).whorls = s.whorls := rfl
@[simp] theorem State_modTeam_passes (s : State) (i : Nat) (f : Team → Team) : (s.modTeam i f).passes = s.passes := rfl
@[simp] theorem State_modTeam_fences (s : State) (i : Nat) (f : Team → Team) : (s.modTeam i f).fences = s.fences := rfl
@[simp] theorem State_modTeam_power (s : State) (i : Nat) (f : Team → Team) : (s.modTeam i f).power = s.power := rfl
@[simp] theorem State_modTeam_secBlocks (s : State) (i : Nat) (f : Team → Team) : (s.modTeam i f).secBlocks = s.secBlocks := rfl
@[simp] theorem State_modTeam_sys (s : State) (i : Nat) (f : Team → Team) : (s.modTeam i f).sys = s.sys := rfl
@[simp] theorem State_modTeam_atomics (s : State) (i : Nat) (f : Team → Team) : (s.modTeam i f).atomics = s.atomics := rfl
@[simp] theorem State_modTeam_cur (s : State) (i : Nat) (f : Team → Team) : (s.modTeam i f).cur = s.cur := rfl
@[simp] theorem State_modTeam_agenda (s : State) (i : Nat) (f : Team → Team) : (s.modTeam i f).agenda = s.agenda := rfl
@[simp] theorem State_modTeam_turn (s : State) (i : Nat) (f : Team → Team) : (s.modTeam i f).turn = s.turn := rfl
@[simp] theorem State_modTeam_free (s : State) (i : Nat) (f : Team → Team) : (s.modTeam i f).free = s.free := rfl
@[simp] theorem State_modTeam_noticed (s : State) (i : Nat) (f : Team → Team) : (s.modTeam i f).noticed = s.noticed := rfl
@[simp] theorem State_modTeam_keyed (s : State) (i : Nat) (f : Team → Team) : (s.modTeam i f).keyed = s.keyed := rfl

/-! ## State.modLaunch -/

@[simp] theorem State_modLaunch_mem (s : State) (i : Nat) (f : Launch → Launch) : (s.modLaunch i f).mem = s.mem := rfl
@[simp] theorem State_modLaunch_poison (s : State) (i : Nat) (f : Launch → Launch) : (s.modLaunch i f).poison = s.poison := rfl
@[simp] theorem State_modLaunch_cores (s : State) (i : Nat) (f : Launch → Launch) : (s.modLaunch i f).cores = s.cores := rfl
@[simp] theorem State_modLaunch_gddrTop (s : State) (i : Nat) (f : Launch → Launch) : (s.modLaunch i f).gddrTop = s.gddrTop := rfl
@[simp] theorem State_modLaunch_direct (s : State) (i : Nat) (f : Launch → Launch) : (s.modLaunch i f).direct = s.direct := rfl
@[simp] theorem State_modLaunch_ats (s : State) (i : Nat) (f : Launch → Launch) : (s.modLaunch i f).ats = s.ats := rfl
@[simp] theorem State_modLaunch_priRefused (s : State) (i : Nat) (f : Launch → Launch) : (s.modLaunch i f).priRefused = s.priRefused := rfl
@[simp] theorem State_modLaunch_l2tlb (s : State) (i : Nat) (f : Launch → Launch) : (s.modLaunch i f).l2tlb = s.l2tlb := rfl
@[simp] theorem State_modLaunch_groups (s : State) (i : Nat) (f : Launch → Launch) : (s.modLaunch i f).groups = s.groups := rfl
@[simp] theorem State_modLaunch_teams (s : State) (i : Nat) (f : Launch → Launch) : (s.modLaunch i f).teams = s.teams := rfl
@[simp] theorem State_modLaunch_launches (s : State) (i : Nat) (f : Launch → Launch) : (s.modLaunch i f).launches = s.launches.modify i f := rfl
@[simp] theorem State_modLaunch_jobs (s : State) (i : Nat) (f : Launch → Launch) : (s.modLaunch i f).jobs = s.jobs := rfl
@[simp] theorem State_modLaunch_graphs (s : State) (i : Nat) (f : Launch → Launch) : (s.modLaunch i f).graphs = s.graphs := rfl
@[simp] theorem State_modLaunch_phases (s : State) (i : Nat) (f : Launch → Launch) : (s.modLaunch i f).phases = s.phases := rfl
@[simp] theorem State_modLaunch_slots (s : State) (i : Nat) (f : Launch → Launch) : (s.modLaunch i f).slots = s.slots := rfl
@[simp] theorem State_modLaunch_queues (s : State) (i : Nat) (f : Launch → Launch) : (s.modLaunch i f).queues = s.queues := rfl
@[simp] theorem State_modLaunch_events (s : State) (i : Nat) (f : Launch → Launch) : (s.modLaunch i f).events = s.events := rfl
@[simp] theorem State_modLaunch_pages (s : State) (i : Nat) (f : Launch → Launch) : (s.modLaunch i f).pages = s.pages := rfl
@[simp] theorem State_modLaunch_columns (s : State) (i : Nat) (f : Launch → Launch) : (s.modLaunch i f).columns = s.columns := rfl
@[simp] theorem State_modLaunch_sliceMap (s : State) (i : Nat) (f : Launch → Launch) : (s.modLaunch i f).sliceMap = s.sliceMap := rfl
@[simp] theorem State_modLaunch_stalled (s : State) (i : Nat) (f : Launch → Launch) : (s.modLaunch i f).stalled = s.stalled := rfl
@[simp] theorem State_modLaunch_methods (s : State) (i : Nat) (f : Launch → Launch) : (s.modLaunch i f).methods = s.methods := rfl
@[simp] theorem State_modLaunch_objects (s : State) (i : Nat) (f : Launch → Launch) : (s.modLaunch i f).objects = s.objects := rfl
@[simp] theorem State_modLaunch_arrivals (s : State) (i : Nat) (f : Launch → Launch) : (s.modLaunch i f).arrivals = s.arrivals := rfl
@[simp] theorem State_modLaunch_runs (s : State) (i : Nat) (f : Launch → Launch) : (s.modLaunch i f).runs = s.runs := rfl
@[simp] theorem State_modLaunch_gates (s : State) (i : Nat) (f : Launch → Launch) : (s.modLaunch i f).gates = s.gates := rfl
@[simp] theorem State_modLaunch_ports (s : State) (i : Nat) (f : Launch → Launch) : (s.modLaunch i f).ports = s.ports := rfl
@[simp] theorem State_modLaunch_outSeq (s : State) (i : Nat) (f : Launch → Launch) : (s.modLaunch i f).outSeq = s.outSeq := rfl
@[simp] theorem State_modLaunch_inStreams (s : State) (i : Nat) (f : Launch → Launch) : (s.modLaunch i f).inStreams = s.inStreams := rfl
@[simp] theorem State_modLaunch_lost (s : State) (i : Nat) (f : Launch → Launch) : (s.modLaunch i f).lost = s.lost := rfl
@[simp] theorem State_modLaunch_colls (s : State) (i : Nat) (f : Launch → Launch) : (s.modLaunch i f).colls = s.colls := rfl
@[simp] theorem State_modLaunch_whorls (s : State) (i : Nat) (f : Launch → Launch) : (s.modLaunch i f).whorls = s.whorls := rfl
@[simp] theorem State_modLaunch_passes (s : State) (i : Nat) (f : Launch → Launch) : (s.modLaunch i f).passes = s.passes := rfl
@[simp] theorem State_modLaunch_fences (s : State) (i : Nat) (f : Launch → Launch) : (s.modLaunch i f).fences = s.fences := rfl
@[simp] theorem State_modLaunch_power (s : State) (i : Nat) (f : Launch → Launch) : (s.modLaunch i f).power = s.power := rfl
@[simp] theorem State_modLaunch_secBlocks (s : State) (i : Nat) (f : Launch → Launch) : (s.modLaunch i f).secBlocks = s.secBlocks := rfl
@[simp] theorem State_modLaunch_sys (s : State) (i : Nat) (f : Launch → Launch) : (s.modLaunch i f).sys = s.sys := rfl
@[simp] theorem State_modLaunch_atomics (s : State) (i : Nat) (f : Launch → Launch) : (s.modLaunch i f).atomics = s.atomics := rfl
@[simp] theorem State_modLaunch_cur (s : State) (i : Nat) (f : Launch → Launch) : (s.modLaunch i f).cur = s.cur := rfl
@[simp] theorem State_modLaunch_agenda (s : State) (i : Nat) (f : Launch → Launch) : (s.modLaunch i f).agenda = s.agenda := rfl
@[simp] theorem State_modLaunch_turn (s : State) (i : Nat) (f : Launch → Launch) : (s.modLaunch i f).turn = s.turn := rfl
@[simp] theorem State_modLaunch_free (s : State) (i : Nat) (f : Launch → Launch) : (s.modLaunch i f).free = s.free := rfl
@[simp] theorem State_modLaunch_noticed (s : State) (i : Nat) (f : Launch → Launch) : (s.modLaunch i f).noticed = s.noticed := rfl
@[simp] theorem State_modLaunch_keyed (s : State) (i : Nat) (f : Launch → Launch) : (s.modLaunch i f).keyed = s.keyed := rfl

/-! ## State.modJob -/

@[simp] theorem State_modJob_mem (s : State) (i : Nat) (f : Job → Job) : (s.modJob i f).mem = s.mem := rfl
@[simp] theorem State_modJob_poison (s : State) (i : Nat) (f : Job → Job) : (s.modJob i f).poison = s.poison := rfl
@[simp] theorem State_modJob_cores (s : State) (i : Nat) (f : Job → Job) : (s.modJob i f).cores = s.cores := rfl
@[simp] theorem State_modJob_gddrTop (s : State) (i : Nat) (f : Job → Job) : (s.modJob i f).gddrTop = s.gddrTop := rfl
@[simp] theorem State_modJob_direct (s : State) (i : Nat) (f : Job → Job) : (s.modJob i f).direct = s.direct := rfl
@[simp] theorem State_modJob_ats (s : State) (i : Nat) (f : Job → Job) : (s.modJob i f).ats = s.ats := rfl
@[simp] theorem State_modJob_priRefused (s : State) (i : Nat) (f : Job → Job) : (s.modJob i f).priRefused = s.priRefused := rfl
@[simp] theorem State_modJob_l2tlb (s : State) (i : Nat) (f : Job → Job) : (s.modJob i f).l2tlb = s.l2tlb := rfl
@[simp] theorem State_modJob_groups (s : State) (i : Nat) (f : Job → Job) : (s.modJob i f).groups = s.groups := rfl
@[simp] theorem State_modJob_teams (s : State) (i : Nat) (f : Job → Job) : (s.modJob i f).teams = s.teams := rfl
@[simp] theorem State_modJob_launches (s : State) (i : Nat) (f : Job → Job) : (s.modJob i f).launches = s.launches := rfl
@[simp] theorem State_modJob_jobs (s : State) (i : Nat) (f : Job → Job) : (s.modJob i f).jobs = s.jobs.modify i f := rfl
@[simp] theorem State_modJob_graphs (s : State) (i : Nat) (f : Job → Job) : (s.modJob i f).graphs = s.graphs := rfl
@[simp] theorem State_modJob_phases (s : State) (i : Nat) (f : Job → Job) : (s.modJob i f).phases = s.phases := rfl
@[simp] theorem State_modJob_slots (s : State) (i : Nat) (f : Job → Job) : (s.modJob i f).slots = s.slots := rfl
@[simp] theorem State_modJob_queues (s : State) (i : Nat) (f : Job → Job) : (s.modJob i f).queues = s.queues := rfl
@[simp] theorem State_modJob_events (s : State) (i : Nat) (f : Job → Job) : (s.modJob i f).events = s.events := rfl
@[simp] theorem State_modJob_pages (s : State) (i : Nat) (f : Job → Job) : (s.modJob i f).pages = s.pages := rfl
@[simp] theorem State_modJob_columns (s : State) (i : Nat) (f : Job → Job) : (s.modJob i f).columns = s.columns := rfl
@[simp] theorem State_modJob_sliceMap (s : State) (i : Nat) (f : Job → Job) : (s.modJob i f).sliceMap = s.sliceMap := rfl
@[simp] theorem State_modJob_stalled (s : State) (i : Nat) (f : Job → Job) : (s.modJob i f).stalled = s.stalled := rfl
@[simp] theorem State_modJob_methods (s : State) (i : Nat) (f : Job → Job) : (s.modJob i f).methods = s.methods := rfl
@[simp] theorem State_modJob_objects (s : State) (i : Nat) (f : Job → Job) : (s.modJob i f).objects = s.objects := rfl
@[simp] theorem State_modJob_arrivals (s : State) (i : Nat) (f : Job → Job) : (s.modJob i f).arrivals = s.arrivals := rfl
@[simp] theorem State_modJob_runs (s : State) (i : Nat) (f : Job → Job) : (s.modJob i f).runs = s.runs := rfl
@[simp] theorem State_modJob_gates (s : State) (i : Nat) (f : Job → Job) : (s.modJob i f).gates = s.gates := rfl
@[simp] theorem State_modJob_ports (s : State) (i : Nat) (f : Job → Job) : (s.modJob i f).ports = s.ports := rfl
@[simp] theorem State_modJob_outSeq (s : State) (i : Nat) (f : Job → Job) : (s.modJob i f).outSeq = s.outSeq := rfl
@[simp] theorem State_modJob_inStreams (s : State) (i : Nat) (f : Job → Job) : (s.modJob i f).inStreams = s.inStreams := rfl
@[simp] theorem State_modJob_lost (s : State) (i : Nat) (f : Job → Job) : (s.modJob i f).lost = s.lost := rfl
@[simp] theorem State_modJob_colls (s : State) (i : Nat) (f : Job → Job) : (s.modJob i f).colls = s.colls := rfl
@[simp] theorem State_modJob_whorls (s : State) (i : Nat) (f : Job → Job) : (s.modJob i f).whorls = s.whorls := rfl
@[simp] theorem State_modJob_passes (s : State) (i : Nat) (f : Job → Job) : (s.modJob i f).passes = s.passes := rfl
@[simp] theorem State_modJob_fences (s : State) (i : Nat) (f : Job → Job) : (s.modJob i f).fences = s.fences := rfl
@[simp] theorem State_modJob_power (s : State) (i : Nat) (f : Job → Job) : (s.modJob i f).power = s.power := rfl
@[simp] theorem State_modJob_secBlocks (s : State) (i : Nat) (f : Job → Job) : (s.modJob i f).secBlocks = s.secBlocks := rfl
@[simp] theorem State_modJob_sys (s : State) (i : Nat) (f : Job → Job) : (s.modJob i f).sys = s.sys := rfl
@[simp] theorem State_modJob_atomics (s : State) (i : Nat) (f : Job → Job) : (s.modJob i f).atomics = s.atomics := rfl
@[simp] theorem State_modJob_cur (s : State) (i : Nat) (f : Job → Job) : (s.modJob i f).cur = s.cur := rfl
@[simp] theorem State_modJob_agenda (s : State) (i : Nat) (f : Job → Job) : (s.modJob i f).agenda = s.agenda := rfl
@[simp] theorem State_modJob_turn (s : State) (i : Nat) (f : Job → Job) : (s.modJob i f).turn = s.turn := rfl
@[simp] theorem State_modJob_free (s : State) (i : Nat) (f : Job → Job) : (s.modJob i f).free = s.free := rfl
@[simp] theorem State_modJob_noticed (s : State) (i : Nat) (f : Job → Job) : (s.modJob i f).noticed = s.noticed := rfl
@[simp] theorem State_modJob_keyed (s : State) (i : Nat) (f : Job → Job) : (s.modJob i f).keyed = s.keyed := rfl

/-! ## State.modPass -/

@[simp] theorem State_modPass_mem (s : State) (i : Nat) (f : Pass → Pass) : (s.modPass i f).mem = s.mem := rfl
@[simp] theorem State_modPass_poison (s : State) (i : Nat) (f : Pass → Pass) : (s.modPass i f).poison = s.poison := rfl
@[simp] theorem State_modPass_cores (s : State) (i : Nat) (f : Pass → Pass) : (s.modPass i f).cores = s.cores := rfl
@[simp] theorem State_modPass_gddrTop (s : State) (i : Nat) (f : Pass → Pass) : (s.modPass i f).gddrTop = s.gddrTop := rfl
@[simp] theorem State_modPass_direct (s : State) (i : Nat) (f : Pass → Pass) : (s.modPass i f).direct = s.direct := rfl
@[simp] theorem State_modPass_ats (s : State) (i : Nat) (f : Pass → Pass) : (s.modPass i f).ats = s.ats := rfl
@[simp] theorem State_modPass_priRefused (s : State) (i : Nat) (f : Pass → Pass) : (s.modPass i f).priRefused = s.priRefused := rfl
@[simp] theorem State_modPass_l2tlb (s : State) (i : Nat) (f : Pass → Pass) : (s.modPass i f).l2tlb = s.l2tlb := rfl
@[simp] theorem State_modPass_groups (s : State) (i : Nat) (f : Pass → Pass) : (s.modPass i f).groups = s.groups := rfl
@[simp] theorem State_modPass_teams (s : State) (i : Nat) (f : Pass → Pass) : (s.modPass i f).teams = s.teams := rfl
@[simp] theorem State_modPass_launches (s : State) (i : Nat) (f : Pass → Pass) : (s.modPass i f).launches = s.launches := rfl
@[simp] theorem State_modPass_jobs (s : State) (i : Nat) (f : Pass → Pass) : (s.modPass i f).jobs = s.jobs := rfl
@[simp] theorem State_modPass_graphs (s : State) (i : Nat) (f : Pass → Pass) : (s.modPass i f).graphs = s.graphs := rfl
@[simp] theorem State_modPass_phases (s : State) (i : Nat) (f : Pass → Pass) : (s.modPass i f).phases = s.phases := rfl
@[simp] theorem State_modPass_slots (s : State) (i : Nat) (f : Pass → Pass) : (s.modPass i f).slots = s.slots := rfl
@[simp] theorem State_modPass_queues (s : State) (i : Nat) (f : Pass → Pass) : (s.modPass i f).queues = s.queues := rfl
@[simp] theorem State_modPass_events (s : State) (i : Nat) (f : Pass → Pass) : (s.modPass i f).events = s.events := rfl
@[simp] theorem State_modPass_pages (s : State) (i : Nat) (f : Pass → Pass) : (s.modPass i f).pages = s.pages := rfl
@[simp] theorem State_modPass_columns (s : State) (i : Nat) (f : Pass → Pass) : (s.modPass i f).columns = s.columns := rfl
@[simp] theorem State_modPass_sliceMap (s : State) (i : Nat) (f : Pass → Pass) : (s.modPass i f).sliceMap = s.sliceMap := rfl
@[simp] theorem State_modPass_stalled (s : State) (i : Nat) (f : Pass → Pass) : (s.modPass i f).stalled = s.stalled := rfl
@[simp] theorem State_modPass_methods (s : State) (i : Nat) (f : Pass → Pass) : (s.modPass i f).methods = s.methods := rfl
@[simp] theorem State_modPass_objects (s : State) (i : Nat) (f : Pass → Pass) : (s.modPass i f).objects = s.objects := rfl
@[simp] theorem State_modPass_arrivals (s : State) (i : Nat) (f : Pass → Pass) : (s.modPass i f).arrivals = s.arrivals := rfl
@[simp] theorem State_modPass_runs (s : State) (i : Nat) (f : Pass → Pass) : (s.modPass i f).runs = s.runs := rfl
@[simp] theorem State_modPass_gates (s : State) (i : Nat) (f : Pass → Pass) : (s.modPass i f).gates = s.gates := rfl
@[simp] theorem State_modPass_ports (s : State) (i : Nat) (f : Pass → Pass) : (s.modPass i f).ports = s.ports := rfl
@[simp] theorem State_modPass_outSeq (s : State) (i : Nat) (f : Pass → Pass) : (s.modPass i f).outSeq = s.outSeq := rfl
@[simp] theorem State_modPass_inStreams (s : State) (i : Nat) (f : Pass → Pass) : (s.modPass i f).inStreams = s.inStreams := rfl
@[simp] theorem State_modPass_lost (s : State) (i : Nat) (f : Pass → Pass) : (s.modPass i f).lost = s.lost := rfl
@[simp] theorem State_modPass_colls (s : State) (i : Nat) (f : Pass → Pass) : (s.modPass i f).colls = s.colls := rfl
@[simp] theorem State_modPass_whorls (s : State) (i : Nat) (f : Pass → Pass) : (s.modPass i f).whorls = s.whorls := rfl
@[simp] theorem State_modPass_passes (s : State) (i : Nat) (f : Pass → Pass) : (s.modPass i f).passes = s.passes.modify i f := rfl
@[simp] theorem State_modPass_fences (s : State) (i : Nat) (f : Pass → Pass) : (s.modPass i f).fences = s.fences := rfl
@[simp] theorem State_modPass_power (s : State) (i : Nat) (f : Pass → Pass) : (s.modPass i f).power = s.power := rfl
@[simp] theorem State_modPass_secBlocks (s : State) (i : Nat) (f : Pass → Pass) : (s.modPass i f).secBlocks = s.secBlocks := rfl
@[simp] theorem State_modPass_sys (s : State) (i : Nat) (f : Pass → Pass) : (s.modPass i f).sys = s.sys := rfl
@[simp] theorem State_modPass_atomics (s : State) (i : Nat) (f : Pass → Pass) : (s.modPass i f).atomics = s.atomics := rfl
@[simp] theorem State_modPass_cur (s : State) (i : Nat) (f : Pass → Pass) : (s.modPass i f).cur = s.cur := rfl
@[simp] theorem State_modPass_agenda (s : State) (i : Nat) (f : Pass → Pass) : (s.modPass i f).agenda = s.agenda := rfl
@[simp] theorem State_modPass_turn (s : State) (i : Nat) (f : Pass → Pass) : (s.modPass i f).turn = s.turn := rfl
@[simp] theorem State_modPass_free (s : State) (i : Nat) (f : Pass → Pass) : (s.modPass i f).free = s.free := rfl
@[simp] theorem State_modPass_noticed (s : State) (i : Nat) (f : Pass → Pass) : (s.modPass i f).noticed = s.noticed := rfl
@[simp] theorem State_modPass_keyed (s : State) (i : Nat) (f : Pass → Pass) : (s.modPass i f).keyed = s.keyed := rfl

/-! ## State.modSlot -/

@[simp] theorem State_modSlot_mem (s : State) (i : Nat) (f : Slot → Slot) : (s.modSlot i f).mem = s.mem := rfl
@[simp] theorem State_modSlot_poison (s : State) (i : Nat) (f : Slot → Slot) : (s.modSlot i f).poison = s.poison := rfl
@[simp] theorem State_modSlot_cores (s : State) (i : Nat) (f : Slot → Slot) : (s.modSlot i f).cores = s.cores := rfl
@[simp] theorem State_modSlot_gddrTop (s : State) (i : Nat) (f : Slot → Slot) : (s.modSlot i f).gddrTop = s.gddrTop := rfl
@[simp] theorem State_modSlot_direct (s : State) (i : Nat) (f : Slot → Slot) : (s.modSlot i f).direct = s.direct := rfl
@[simp] theorem State_modSlot_ats (s : State) (i : Nat) (f : Slot → Slot) : (s.modSlot i f).ats = s.ats := rfl
@[simp] theorem State_modSlot_priRefused (s : State) (i : Nat) (f : Slot → Slot) : (s.modSlot i f).priRefused = s.priRefused := rfl
@[simp] theorem State_modSlot_l2tlb (s : State) (i : Nat) (f : Slot → Slot) : (s.modSlot i f).l2tlb = s.l2tlb := rfl
@[simp] theorem State_modSlot_groups (s : State) (i : Nat) (f : Slot → Slot) : (s.modSlot i f).groups = s.groups := rfl
@[simp] theorem State_modSlot_teams (s : State) (i : Nat) (f : Slot → Slot) : (s.modSlot i f).teams = s.teams := rfl
@[simp] theorem State_modSlot_launches (s : State) (i : Nat) (f : Slot → Slot) : (s.modSlot i f).launches = s.launches := rfl
@[simp] theorem State_modSlot_jobs (s : State) (i : Nat) (f : Slot → Slot) : (s.modSlot i f).jobs = s.jobs := rfl
@[simp] theorem State_modSlot_graphs (s : State) (i : Nat) (f : Slot → Slot) : (s.modSlot i f).graphs = s.graphs := rfl
@[simp] theorem State_modSlot_phases (s : State) (i : Nat) (f : Slot → Slot) : (s.modSlot i f).phases = s.phases := rfl
@[simp] theorem State_modSlot_slots (s : State) (i : Nat) (f : Slot → Slot) : (s.modSlot i f).slots = s.slots.set (slotIx i) (f s.slots[slotIx i]) := rfl
@[simp] theorem State_modSlot_queues (s : State) (i : Nat) (f : Slot → Slot) : (s.modSlot i f).queues = s.queues := rfl
@[simp] theorem State_modSlot_events (s : State) (i : Nat) (f : Slot → Slot) : (s.modSlot i f).events = s.events := rfl
@[simp] theorem State_modSlot_pages (s : State) (i : Nat) (f : Slot → Slot) : (s.modSlot i f).pages = s.pages := rfl
@[simp] theorem State_modSlot_columns (s : State) (i : Nat) (f : Slot → Slot) : (s.modSlot i f).columns = s.columns := rfl
@[simp] theorem State_modSlot_sliceMap (s : State) (i : Nat) (f : Slot → Slot) : (s.modSlot i f).sliceMap = s.sliceMap := rfl
@[simp] theorem State_modSlot_stalled (s : State) (i : Nat) (f : Slot → Slot) : (s.modSlot i f).stalled = s.stalled := rfl
@[simp] theorem State_modSlot_methods (s : State) (i : Nat) (f : Slot → Slot) : (s.modSlot i f).methods = s.methods := rfl
@[simp] theorem State_modSlot_objects (s : State) (i : Nat) (f : Slot → Slot) : (s.modSlot i f).objects = s.objects := rfl
@[simp] theorem State_modSlot_arrivals (s : State) (i : Nat) (f : Slot → Slot) : (s.modSlot i f).arrivals = s.arrivals := rfl
@[simp] theorem State_modSlot_runs (s : State) (i : Nat) (f : Slot → Slot) : (s.modSlot i f).runs = s.runs := rfl
@[simp] theorem State_modSlot_gates (s : State) (i : Nat) (f : Slot → Slot) : (s.modSlot i f).gates = s.gates := rfl
@[simp] theorem State_modSlot_ports (s : State) (i : Nat) (f : Slot → Slot) : (s.modSlot i f).ports = s.ports := rfl
@[simp] theorem State_modSlot_outSeq (s : State) (i : Nat) (f : Slot → Slot) : (s.modSlot i f).outSeq = s.outSeq := rfl
@[simp] theorem State_modSlot_inStreams (s : State) (i : Nat) (f : Slot → Slot) : (s.modSlot i f).inStreams = s.inStreams := rfl
@[simp] theorem State_modSlot_lost (s : State) (i : Nat) (f : Slot → Slot) : (s.modSlot i f).lost = s.lost := rfl
@[simp] theorem State_modSlot_colls (s : State) (i : Nat) (f : Slot → Slot) : (s.modSlot i f).colls = s.colls := rfl
@[simp] theorem State_modSlot_whorls (s : State) (i : Nat) (f : Slot → Slot) : (s.modSlot i f).whorls = s.whorls := rfl
@[simp] theorem State_modSlot_passes (s : State) (i : Nat) (f : Slot → Slot) : (s.modSlot i f).passes = s.passes := rfl
@[simp] theorem State_modSlot_fences (s : State) (i : Nat) (f : Slot → Slot) : (s.modSlot i f).fences = s.fences := rfl
@[simp] theorem State_modSlot_power (s : State) (i : Nat) (f : Slot → Slot) : (s.modSlot i f).power = s.power := rfl
@[simp] theorem State_modSlot_secBlocks (s : State) (i : Nat) (f : Slot → Slot) : (s.modSlot i f).secBlocks = s.secBlocks := rfl
@[simp] theorem State_modSlot_sys (s : State) (i : Nat) (f : Slot → Slot) : (s.modSlot i f).sys = s.sys := rfl
@[simp] theorem State_modSlot_atomics (s : State) (i : Nat) (f : Slot → Slot) : (s.modSlot i f).atomics = s.atomics := rfl
@[simp] theorem State_modSlot_cur (s : State) (i : Nat) (f : Slot → Slot) : (s.modSlot i f).cur = s.cur := rfl
@[simp] theorem State_modSlot_agenda (s : State) (i : Nat) (f : Slot → Slot) : (s.modSlot i f).agenda = s.agenda := rfl
@[simp] theorem State_modSlot_turn (s : State) (i : Nat) (f : Slot → Slot) : (s.modSlot i f).turn = s.turn := rfl
@[simp] theorem State_modSlot_free (s : State) (i : Nat) (f : Slot → Slot) : (s.modSlot i f).free = s.free := rfl
@[simp] theorem State_modSlot_noticed (s : State) (i : Nat) (f : Slot → Slot) : (s.modSlot i f).noticed = s.noticed := rfl
@[simp] theorem State_modSlot_keyed (s : State) (i : Nat) (f : Slot → Slot) : (s.modSlot i f).keyed = s.keyed := rfl

/-! ## State.modQueue -/

@[simp] theorem State_modQueue_mem (s : State) (i : Nat) (f : Queue → Queue) : (s.modQueue i f).mem = s.mem := rfl
@[simp] theorem State_modQueue_poison (s : State) (i : Nat) (f : Queue → Queue) : (s.modQueue i f).poison = s.poison := rfl
@[simp] theorem State_modQueue_cores (s : State) (i : Nat) (f : Queue → Queue) : (s.modQueue i f).cores = s.cores := rfl
@[simp] theorem State_modQueue_gddrTop (s : State) (i : Nat) (f : Queue → Queue) : (s.modQueue i f).gddrTop = s.gddrTop := rfl
@[simp] theorem State_modQueue_direct (s : State) (i : Nat) (f : Queue → Queue) : (s.modQueue i f).direct = s.direct := rfl
@[simp] theorem State_modQueue_ats (s : State) (i : Nat) (f : Queue → Queue) : (s.modQueue i f).ats = s.ats := rfl
@[simp] theorem State_modQueue_priRefused (s : State) (i : Nat) (f : Queue → Queue) : (s.modQueue i f).priRefused = s.priRefused := rfl
@[simp] theorem State_modQueue_l2tlb (s : State) (i : Nat) (f : Queue → Queue) : (s.modQueue i f).l2tlb = s.l2tlb := rfl
@[simp] theorem State_modQueue_groups (s : State) (i : Nat) (f : Queue → Queue) : (s.modQueue i f).groups = s.groups := rfl
@[simp] theorem State_modQueue_teams (s : State) (i : Nat) (f : Queue → Queue) : (s.modQueue i f).teams = s.teams := rfl
@[simp] theorem State_modQueue_launches (s : State) (i : Nat) (f : Queue → Queue) : (s.modQueue i f).launches = s.launches := rfl
@[simp] theorem State_modQueue_jobs (s : State) (i : Nat) (f : Queue → Queue) : (s.modQueue i f).jobs = s.jobs := rfl
@[simp] theorem State_modQueue_graphs (s : State) (i : Nat) (f : Queue → Queue) : (s.modQueue i f).graphs = s.graphs := rfl
@[simp] theorem State_modQueue_phases (s : State) (i : Nat) (f : Queue → Queue) : (s.modQueue i f).phases = s.phases := rfl
@[simp] theorem State_modQueue_slots (s : State) (i : Nat) (f : Queue → Queue) : (s.modQueue i f).slots = s.slots := rfl
@[simp] theorem State_modQueue_queues (s : State) (i : Nat) (f : Queue → Queue) : (s.modQueue i f).queues = s.queues.modify i f := rfl
@[simp] theorem State_modQueue_events (s : State) (i : Nat) (f : Queue → Queue) : (s.modQueue i f).events = s.events := rfl
@[simp] theorem State_modQueue_pages (s : State) (i : Nat) (f : Queue → Queue) : (s.modQueue i f).pages = s.pages := rfl
@[simp] theorem State_modQueue_columns (s : State) (i : Nat) (f : Queue → Queue) : (s.modQueue i f).columns = s.columns := rfl
@[simp] theorem State_modQueue_sliceMap (s : State) (i : Nat) (f : Queue → Queue) : (s.modQueue i f).sliceMap = s.sliceMap := rfl
@[simp] theorem State_modQueue_stalled (s : State) (i : Nat) (f : Queue → Queue) : (s.modQueue i f).stalled = s.stalled := rfl
@[simp] theorem State_modQueue_methods (s : State) (i : Nat) (f : Queue → Queue) : (s.modQueue i f).methods = s.methods := rfl
@[simp] theorem State_modQueue_objects (s : State) (i : Nat) (f : Queue → Queue) : (s.modQueue i f).objects = s.objects := rfl
@[simp] theorem State_modQueue_arrivals (s : State) (i : Nat) (f : Queue → Queue) : (s.modQueue i f).arrivals = s.arrivals := rfl
@[simp] theorem State_modQueue_runs (s : State) (i : Nat) (f : Queue → Queue) : (s.modQueue i f).runs = s.runs := rfl
@[simp] theorem State_modQueue_gates (s : State) (i : Nat) (f : Queue → Queue) : (s.modQueue i f).gates = s.gates := rfl
@[simp] theorem State_modQueue_ports (s : State) (i : Nat) (f : Queue → Queue) : (s.modQueue i f).ports = s.ports := rfl
@[simp] theorem State_modQueue_outSeq (s : State) (i : Nat) (f : Queue → Queue) : (s.modQueue i f).outSeq = s.outSeq := rfl
@[simp] theorem State_modQueue_inStreams (s : State) (i : Nat) (f : Queue → Queue) : (s.modQueue i f).inStreams = s.inStreams := rfl
@[simp] theorem State_modQueue_lost (s : State) (i : Nat) (f : Queue → Queue) : (s.modQueue i f).lost = s.lost := rfl
@[simp] theorem State_modQueue_colls (s : State) (i : Nat) (f : Queue → Queue) : (s.modQueue i f).colls = s.colls := rfl
@[simp] theorem State_modQueue_whorls (s : State) (i : Nat) (f : Queue → Queue) : (s.modQueue i f).whorls = s.whorls := rfl
@[simp] theorem State_modQueue_passes (s : State) (i : Nat) (f : Queue → Queue) : (s.modQueue i f).passes = s.passes := rfl
@[simp] theorem State_modQueue_fences (s : State) (i : Nat) (f : Queue → Queue) : (s.modQueue i f).fences = s.fences := rfl
@[simp] theorem State_modQueue_power (s : State) (i : Nat) (f : Queue → Queue) : (s.modQueue i f).power = s.power := rfl
@[simp] theorem State_modQueue_secBlocks (s : State) (i : Nat) (f : Queue → Queue) : (s.modQueue i f).secBlocks = s.secBlocks := rfl
@[simp] theorem State_modQueue_sys (s : State) (i : Nat) (f : Queue → Queue) : (s.modQueue i f).sys = s.sys := rfl
@[simp] theorem State_modQueue_atomics (s : State) (i : Nat) (f : Queue → Queue) : (s.modQueue i f).atomics = s.atomics := rfl
@[simp] theorem State_modQueue_cur (s : State) (i : Nat) (f : Queue → Queue) : (s.modQueue i f).cur = s.cur := rfl
@[simp] theorem State_modQueue_agenda (s : State) (i : Nat) (f : Queue → Queue) : (s.modQueue i f).agenda = s.agenda := rfl
@[simp] theorem State_modQueue_turn (s : State) (i : Nat) (f : Queue → Queue) : (s.modQueue i f).turn = s.turn := rfl
@[simp] theorem State_modQueue_free (s : State) (i : Nat) (f : Queue → Queue) : (s.modQueue i f).free = s.free := rfl
@[simp] theorem State_modQueue_noticed (s : State) (i : Nat) (f : Queue → Queue) : (s.modQueue i f).noticed = s.noticed := rfl
@[simp] theorem State_modQueue_keyed (s : State) (i : Nat) (f : Queue → Queue) : (s.modQueue i f).keyed = s.keyed := rfl

/-! ## State.modColumn -/

@[simp] theorem State_modColumn_mem (s : State) (i : Nat) (f : Column → Column) : (s.modColumn i f).mem = s.mem := rfl
@[simp] theorem State_modColumn_poison (s : State) (i : Nat) (f : Column → Column) : (s.modColumn i f).poison = s.poison := rfl
@[simp] theorem State_modColumn_cores (s : State) (i : Nat) (f : Column → Column) : (s.modColumn i f).cores = s.cores := rfl
@[simp] theorem State_modColumn_gddrTop (s : State) (i : Nat) (f : Column → Column) : (s.modColumn i f).gddrTop = s.gddrTop := rfl
@[simp] theorem State_modColumn_direct (s : State) (i : Nat) (f : Column → Column) : (s.modColumn i f).direct = s.direct := rfl
@[simp] theorem State_modColumn_ats (s : State) (i : Nat) (f : Column → Column) : (s.modColumn i f).ats = s.ats := rfl
@[simp] theorem State_modColumn_priRefused (s : State) (i : Nat) (f : Column → Column) : (s.modColumn i f).priRefused = s.priRefused := rfl
@[simp] theorem State_modColumn_l2tlb (s : State) (i : Nat) (f : Column → Column) : (s.modColumn i f).l2tlb = s.l2tlb := rfl
@[simp] theorem State_modColumn_groups (s : State) (i : Nat) (f : Column → Column) : (s.modColumn i f).groups = s.groups := rfl
@[simp] theorem State_modColumn_teams (s : State) (i : Nat) (f : Column → Column) : (s.modColumn i f).teams = s.teams := rfl
@[simp] theorem State_modColumn_launches (s : State) (i : Nat) (f : Column → Column) : (s.modColumn i f).launches = s.launches := rfl
@[simp] theorem State_modColumn_jobs (s : State) (i : Nat) (f : Column → Column) : (s.modColumn i f).jobs = s.jobs := rfl
@[simp] theorem State_modColumn_graphs (s : State) (i : Nat) (f : Column → Column) : (s.modColumn i f).graphs = s.graphs := rfl
@[simp] theorem State_modColumn_phases (s : State) (i : Nat) (f : Column → Column) : (s.modColumn i f).phases = s.phases := rfl
@[simp] theorem State_modColumn_slots (s : State) (i : Nat) (f : Column → Column) : (s.modColumn i f).slots = s.slots := rfl
@[simp] theorem State_modColumn_queues (s : State) (i : Nat) (f : Column → Column) : (s.modColumn i f).queues = s.queues := rfl
@[simp] theorem State_modColumn_events (s : State) (i : Nat) (f : Column → Column) : (s.modColumn i f).events = s.events := rfl
@[simp] theorem State_modColumn_pages (s : State) (i : Nat) (f : Column → Column) : (s.modColumn i f).pages = s.pages := rfl
@[simp] theorem State_modColumn_sliceMap (s : State) (i : Nat) (f : Column → Column) : (s.modColumn i f).sliceMap = s.sliceMap := rfl
@[simp] theorem State_modColumn_stalled (s : State) (i : Nat) (f : Column → Column) : (s.modColumn i f).stalled = s.stalled := rfl
@[simp] theorem State_modColumn_methods (s : State) (i : Nat) (f : Column → Column) : (s.modColumn i f).methods = s.methods := rfl
@[simp] theorem State_modColumn_objects (s : State) (i : Nat) (f : Column → Column) : (s.modColumn i f).objects = s.objects := rfl
@[simp] theorem State_modColumn_arrivals (s : State) (i : Nat) (f : Column → Column) : (s.modColumn i f).arrivals = s.arrivals := rfl
@[simp] theorem State_modColumn_runs (s : State) (i : Nat) (f : Column → Column) : (s.modColumn i f).runs = s.runs := rfl
@[simp] theorem State_modColumn_gates (s : State) (i : Nat) (f : Column → Column) : (s.modColumn i f).gates = s.gates := rfl
@[simp] theorem State_modColumn_ports (s : State) (i : Nat) (f : Column → Column) : (s.modColumn i f).ports = s.ports := rfl
@[simp] theorem State_modColumn_outSeq (s : State) (i : Nat) (f : Column → Column) : (s.modColumn i f).outSeq = s.outSeq := rfl
@[simp] theorem State_modColumn_inStreams (s : State) (i : Nat) (f : Column → Column) : (s.modColumn i f).inStreams = s.inStreams := rfl
@[simp] theorem State_modColumn_lost (s : State) (i : Nat) (f : Column → Column) : (s.modColumn i f).lost = s.lost := rfl
@[simp] theorem State_modColumn_colls (s : State) (i : Nat) (f : Column → Column) : (s.modColumn i f).colls = s.colls := rfl
@[simp] theorem State_modColumn_whorls (s : State) (i : Nat) (f : Column → Column) : (s.modColumn i f).whorls = s.whorls := rfl
@[simp] theorem State_modColumn_passes (s : State) (i : Nat) (f : Column → Column) : (s.modColumn i f).passes = s.passes := rfl
@[simp] theorem State_modColumn_fences (s : State) (i : Nat) (f : Column → Column) : (s.modColumn i f).fences = s.fences := rfl
@[simp] theorem State_modColumn_power (s : State) (i : Nat) (f : Column → Column) : (s.modColumn i f).power = s.power := rfl
@[simp] theorem State_modColumn_secBlocks (s : State) (i : Nat) (f : Column → Column) : (s.modColumn i f).secBlocks = s.secBlocks := rfl
@[simp] theorem State_modColumn_sys (s : State) (i : Nat) (f : Column → Column) : (s.modColumn i f).sys = s.sys := rfl
@[simp] theorem State_modColumn_atomics (s : State) (i : Nat) (f : Column → Column) : (s.modColumn i f).atomics = s.atomics := rfl
@[simp] theorem State_modColumn_cur (s : State) (i : Nat) (f : Column → Column) : (s.modColumn i f).cur = s.cur := rfl
@[simp] theorem State_modColumn_agenda (s : State) (i : Nat) (f : Column → Column) : (s.modColumn i f).agenda = s.agenda := rfl
@[simp] theorem State_modColumn_turn (s : State) (i : Nat) (f : Column → Column) : (s.modColumn i f).turn = s.turn := rfl
@[simp] theorem State_modColumn_free (s : State) (i : Nat) (f : Column → Column) : (s.modColumn i f).free = s.free := rfl
@[simp] theorem State_modColumn_noticed (s : State) (i : Nat) (f : Column → Column) : (s.modColumn i f).noticed = s.noticed := rfl
@[simp] theorem State_modColumn_keyed (s : State) (i : Nat) (f : Column → Column) : (s.modColumn i f).keyed = s.keyed := rfl

/-! ## State.modWhorl -/

@[simp] theorem State_modWhorl_mem (s : State) (i : Nat) (f : Whorl → Whorl) : (s.modWhorl i f).mem = s.mem := rfl
@[simp] theorem State_modWhorl_poison (s : State) (i : Nat) (f : Whorl → Whorl) : (s.modWhorl i f).poison = s.poison := rfl
@[simp] theorem State_modWhorl_cores (s : State) (i : Nat) (f : Whorl → Whorl) : (s.modWhorl i f).cores = s.cores := rfl
@[simp] theorem State_modWhorl_gddrTop (s : State) (i : Nat) (f : Whorl → Whorl) : (s.modWhorl i f).gddrTop = s.gddrTop := rfl
@[simp] theorem State_modWhorl_direct (s : State) (i : Nat) (f : Whorl → Whorl) : (s.modWhorl i f).direct = s.direct := rfl
@[simp] theorem State_modWhorl_ats (s : State) (i : Nat) (f : Whorl → Whorl) : (s.modWhorl i f).ats = s.ats := rfl
@[simp] theorem State_modWhorl_priRefused (s : State) (i : Nat) (f : Whorl → Whorl) : (s.modWhorl i f).priRefused = s.priRefused := rfl
@[simp] theorem State_modWhorl_l2tlb (s : State) (i : Nat) (f : Whorl → Whorl) : (s.modWhorl i f).l2tlb = s.l2tlb := rfl
@[simp] theorem State_modWhorl_groups (s : State) (i : Nat) (f : Whorl → Whorl) : (s.modWhorl i f).groups = s.groups := rfl
@[simp] theorem State_modWhorl_teams (s : State) (i : Nat) (f : Whorl → Whorl) : (s.modWhorl i f).teams = s.teams := rfl
@[simp] theorem State_modWhorl_launches (s : State) (i : Nat) (f : Whorl → Whorl) : (s.modWhorl i f).launches = s.launches := rfl
@[simp] theorem State_modWhorl_jobs (s : State) (i : Nat) (f : Whorl → Whorl) : (s.modWhorl i f).jobs = s.jobs := rfl
@[simp] theorem State_modWhorl_graphs (s : State) (i : Nat) (f : Whorl → Whorl) : (s.modWhorl i f).graphs = s.graphs := rfl
@[simp] theorem State_modWhorl_phases (s : State) (i : Nat) (f : Whorl → Whorl) : (s.modWhorl i f).phases = s.phases := rfl
@[simp] theorem State_modWhorl_slots (s : State) (i : Nat) (f : Whorl → Whorl) : (s.modWhorl i f).slots = s.slots := rfl
@[simp] theorem State_modWhorl_queues (s : State) (i : Nat) (f : Whorl → Whorl) : (s.modWhorl i f).queues = s.queues := rfl
@[simp] theorem State_modWhorl_events (s : State) (i : Nat) (f : Whorl → Whorl) : (s.modWhorl i f).events = s.events := rfl
@[simp] theorem State_modWhorl_pages (s : State) (i : Nat) (f : Whorl → Whorl) : (s.modWhorl i f).pages = s.pages := rfl
@[simp] theorem State_modWhorl_columns (s : State) (i : Nat) (f : Whorl → Whorl) : (s.modWhorl i f).columns = s.columns := rfl
@[simp] theorem State_modWhorl_sliceMap (s : State) (i : Nat) (f : Whorl → Whorl) : (s.modWhorl i f).sliceMap = s.sliceMap := rfl
@[simp] theorem State_modWhorl_stalled (s : State) (i : Nat) (f : Whorl → Whorl) : (s.modWhorl i f).stalled = s.stalled := rfl
@[simp] theorem State_modWhorl_methods (s : State) (i : Nat) (f : Whorl → Whorl) : (s.modWhorl i f).methods = s.methods := rfl
@[simp] theorem State_modWhorl_objects (s : State) (i : Nat) (f : Whorl → Whorl) : (s.modWhorl i f).objects = s.objects := rfl
@[simp] theorem State_modWhorl_arrivals (s : State) (i : Nat) (f : Whorl → Whorl) : (s.modWhorl i f).arrivals = s.arrivals := rfl
@[simp] theorem State_modWhorl_runs (s : State) (i : Nat) (f : Whorl → Whorl) : (s.modWhorl i f).runs = s.runs := rfl
@[simp] theorem State_modWhorl_gates (s : State) (i : Nat) (f : Whorl → Whorl) : (s.modWhorl i f).gates = s.gates := rfl
@[simp] theorem State_modWhorl_ports (s : State) (i : Nat) (f : Whorl → Whorl) : (s.modWhorl i f).ports = s.ports := rfl
@[simp] theorem State_modWhorl_outSeq (s : State) (i : Nat) (f : Whorl → Whorl) : (s.modWhorl i f).outSeq = s.outSeq := rfl
@[simp] theorem State_modWhorl_inStreams (s : State) (i : Nat) (f : Whorl → Whorl) : (s.modWhorl i f).inStreams = s.inStreams := rfl
@[simp] theorem State_modWhorl_lost (s : State) (i : Nat) (f : Whorl → Whorl) : (s.modWhorl i f).lost = s.lost := rfl
@[simp] theorem State_modWhorl_colls (s : State) (i : Nat) (f : Whorl → Whorl) : (s.modWhorl i f).colls = s.colls := rfl
@[simp] theorem State_modWhorl_whorls (s : State) (i : Nat) (f : Whorl → Whorl) : (s.modWhorl i f).whorls = s.whorls.set (whorlIx i) (f s.whorls[whorlIx i]) := rfl
@[simp] theorem State_modWhorl_passes (s : State) (i : Nat) (f : Whorl → Whorl) : (s.modWhorl i f).passes = s.passes := rfl
@[simp] theorem State_modWhorl_fences (s : State) (i : Nat) (f : Whorl → Whorl) : (s.modWhorl i f).fences = s.fences := rfl
@[simp] theorem State_modWhorl_power (s : State) (i : Nat) (f : Whorl → Whorl) : (s.modWhorl i f).power = s.power := rfl
@[simp] theorem State_modWhorl_secBlocks (s : State) (i : Nat) (f : Whorl → Whorl) : (s.modWhorl i f).secBlocks = s.secBlocks := rfl
@[simp] theorem State_modWhorl_sys (s : State) (i : Nat) (f : Whorl → Whorl) : (s.modWhorl i f).sys = s.sys := rfl
@[simp] theorem State_modWhorl_atomics (s : State) (i : Nat) (f : Whorl → Whorl) : (s.modWhorl i f).atomics = s.atomics := rfl
@[simp] theorem State_modWhorl_cur (s : State) (i : Nat) (f : Whorl → Whorl) : (s.modWhorl i f).cur = s.cur := rfl
@[simp] theorem State_modWhorl_agenda (s : State) (i : Nat) (f : Whorl → Whorl) : (s.modWhorl i f).agenda = s.agenda := rfl
@[simp] theorem State_modWhorl_turn (s : State) (i : Nat) (f : Whorl → Whorl) : (s.modWhorl i f).turn = s.turn := rfl
@[simp] theorem State_modWhorl_free (s : State) (i : Nat) (f : Whorl → Whorl) : (s.modWhorl i f).free = s.free := rfl
@[simp] theorem State_modWhorl_noticed (s : State) (i : Nat) (f : Whorl → Whorl) : (s.modWhorl i f).noticed = s.noticed := rfl
@[simp] theorem State_modWhorl_keyed (s : State) (i : Nat) (f : Whorl → Whorl) : (s.modWhorl i f).keyed = s.keyed := rfl

/-! ## State.modFn -/

@[simp] theorem State_modFn_mem (s : State) (i : Nat) (f : Fn → Fn) : (s.modFn i f).mem = s.mem := rfl
@[simp] theorem State_modFn_poison (s : State) (i : Nat) (f : Fn → Fn) : (s.modFn i f).poison = s.poison := rfl
@[simp] theorem State_modFn_cores (s : State) (i : Nat) (f : Fn → Fn) : (s.modFn i f).cores = s.cores := rfl
@[simp] theorem State_modFn_gddrTop (s : State) (i : Nat) (f : Fn → Fn) : (s.modFn i f).gddrTop = s.gddrTop := rfl
@[simp] theorem State_modFn_direct (s : State) (i : Nat) (f : Fn → Fn) : (s.modFn i f).direct = s.direct := rfl
@[simp] theorem State_modFn_ats (s : State) (i : Nat) (f : Fn → Fn) : (s.modFn i f).ats = s.ats := rfl
@[simp] theorem State_modFn_priRefused (s : State) (i : Nat) (f : Fn → Fn) : (s.modFn i f).priRefused = s.priRefused := rfl
@[simp] theorem State_modFn_l2tlb (s : State) (i : Nat) (f : Fn → Fn) : (s.modFn i f).l2tlb = s.l2tlb := rfl
@[simp] theorem State_modFn_groups (s : State) (i : Nat) (f : Fn → Fn) : (s.modFn i f).groups = s.groups := rfl
@[simp] theorem State_modFn_teams (s : State) (i : Nat) (f : Fn → Fn) : (s.modFn i f).teams = s.teams := rfl
@[simp] theorem State_modFn_launches (s : State) (i : Nat) (f : Fn → Fn) : (s.modFn i f).launches = s.launches := rfl
@[simp] theorem State_modFn_jobs (s : State) (i : Nat) (f : Fn → Fn) : (s.modFn i f).jobs = s.jobs := rfl
@[simp] theorem State_modFn_graphs (s : State) (i : Nat) (f : Fn → Fn) : (s.modFn i f).graphs = s.graphs := rfl
@[simp] theorem State_modFn_phases (s : State) (i : Nat) (f : Fn → Fn) : (s.modFn i f).phases = s.phases := rfl
@[simp] theorem State_modFn_slots (s : State) (i : Nat) (f : Fn → Fn) : (s.modFn i f).slots = s.slots := rfl
@[simp] theorem State_modFn_queues (s : State) (i : Nat) (f : Fn → Fn) : (s.modFn i f).queues = s.queues := rfl
@[simp] theorem State_modFn_events (s : State) (i : Nat) (f : Fn → Fn) : (s.modFn i f).events = s.events := rfl
@[simp] theorem State_modFn_pages (s : State) (i : Nat) (f : Fn → Fn) : (s.modFn i f).pages = s.pages := rfl
@[simp] theorem State_modFn_columns (s : State) (i : Nat) (f : Fn → Fn) : (s.modFn i f).columns = s.columns := rfl
@[simp] theorem State_modFn_sliceMap (s : State) (i : Nat) (f : Fn → Fn) : (s.modFn i f).sliceMap = s.sliceMap := rfl
@[simp] theorem State_modFn_stalled (s : State) (i : Nat) (f : Fn → Fn) : (s.modFn i f).stalled = s.stalled := rfl
@[simp] theorem State_modFn_methods (s : State) (i : Nat) (f : Fn → Fn) : (s.modFn i f).methods = s.methods := rfl
@[simp] theorem State_modFn_objects (s : State) (i : Nat) (f : Fn → Fn) : (s.modFn i f).objects = s.objects := rfl
@[simp] theorem State_modFn_arrivals (s : State) (i : Nat) (f : Fn → Fn) : (s.modFn i f).arrivals = s.arrivals := rfl
@[simp] theorem State_modFn_runs (s : State) (i : Nat) (f : Fn → Fn) : (s.modFn i f).runs = s.runs := rfl
@[simp] theorem State_modFn_gates (s : State) (i : Nat) (f : Fn → Fn) : (s.modFn i f).gates = s.gates := rfl
@[simp] theorem State_modFn_ports (s : State) (i : Nat) (f : Fn → Fn) : (s.modFn i f).ports = s.ports := rfl
@[simp] theorem State_modFn_outSeq (s : State) (i : Nat) (f : Fn → Fn) : (s.modFn i f).outSeq = s.outSeq := rfl
@[simp] theorem State_modFn_inStreams (s : State) (i : Nat) (f : Fn → Fn) : (s.modFn i f).inStreams = s.inStreams := rfl
@[simp] theorem State_modFn_lost (s : State) (i : Nat) (f : Fn → Fn) : (s.modFn i f).lost = s.lost := rfl
@[simp] theorem State_modFn_colls (s : State) (i : Nat) (f : Fn → Fn) : (s.modFn i f).colls = s.colls := rfl
@[simp] theorem State_modFn_whorls (s : State) (i : Nat) (f : Fn → Fn) : (s.modFn i f).whorls = s.whorls := rfl
@[simp] theorem State_modFn_passes (s : State) (i : Nat) (f : Fn → Fn) : (s.modFn i f).passes = s.passes := rfl
@[simp] theorem State_modFn_fences (s : State) (i : Nat) (f : Fn → Fn) : (s.modFn i f).fences = s.fences := rfl
@[simp] theorem State_modFn_power (s : State) (i : Nat) (f : Fn → Fn) : (s.modFn i f).power = s.power := rfl
@[simp] theorem State_modFn_secBlocks (s : State) (i : Nat) (f : Fn → Fn) : (s.modFn i f).secBlocks = s.secBlocks := rfl
@[simp] theorem State_modFn_sys (s : State) (i : Nat) (f : Fn → Fn) : (s.modFn i f).sys = { s.sys with fns := s.sys.fns.set (fnIx i) (f (s.fn i)) } := rfl
@[simp] theorem State_modFn_atomics (s : State) (i : Nat) (f : Fn → Fn) : (s.modFn i f).atomics = s.atomics := rfl
@[simp] theorem State_modFn_cur (s : State) (i : Nat) (f : Fn → Fn) : (s.modFn i f).cur = s.cur := rfl
@[simp] theorem State_modFn_agenda (s : State) (i : Nat) (f : Fn → Fn) : (s.modFn i f).agenda = s.agenda := rfl
@[simp] theorem State_modFn_turn (s : State) (i : Nat) (f : Fn → Fn) : (s.modFn i f).turn = s.turn := rfl
@[simp] theorem State_modFn_free (s : State) (i : Nat) (f : Fn → Fn) : (s.modFn i f).free = s.free := rfl
@[simp] theorem State_modFn_noticed (s : State) (i : Nat) (f : Fn → Fn) : (s.modFn i f).noticed = s.noticed := rfl
@[simp] theorem State_modFn_keyed (s : State) (i : Nat) (f : Fn → Fn) : (s.modFn i f).keyed = s.keyed := rfl

/-! ## State.post -/

@[simp] theorem State_post_mem (s : State) (e : HostEvent) : (s.post e).mem = s.mem := rfl
@[simp] theorem State_post_poison (s : State) (e : HostEvent) : (s.post e).poison = s.poison := rfl
@[simp] theorem State_post_cores (s : State) (e : HostEvent) : (s.post e).cores = s.cores := rfl
@[simp] theorem State_post_gddrTop (s : State) (e : HostEvent) : (s.post e).gddrTop = s.gddrTop := rfl
@[simp] theorem State_post_direct (s : State) (e : HostEvent) : (s.post e).direct = s.direct := rfl
@[simp] theorem State_post_ats (s : State) (e : HostEvent) : (s.post e).ats = s.ats := rfl
@[simp] theorem State_post_priRefused (s : State) (e : HostEvent) : (s.post e).priRefused = s.priRefused := rfl
@[simp] theorem State_post_l2tlb (s : State) (e : HostEvent) : (s.post e).l2tlb = s.l2tlb := rfl
@[simp] theorem State_post_groups (s : State) (e : HostEvent) : (s.post e).groups = s.groups := rfl
@[simp] theorem State_post_teams (s : State) (e : HostEvent) : (s.post e).teams = s.teams := rfl
@[simp] theorem State_post_launches (s : State) (e : HostEvent) : (s.post e).launches = s.launches := rfl
@[simp] theorem State_post_jobs (s : State) (e : HostEvent) : (s.post e).jobs = s.jobs := rfl
@[simp] theorem State_post_graphs (s : State) (e : HostEvent) : (s.post e).graphs = s.graphs := rfl
@[simp] theorem State_post_phases (s : State) (e : HostEvent) : (s.post e).phases = s.phases := rfl
@[simp] theorem State_post_slots (s : State) (e : HostEvent) : (s.post e).slots = s.slots := rfl
@[simp] theorem State_post_queues (s : State) (e : HostEvent) : (s.post e).queues = s.queues := rfl
@[simp] theorem State_post_events (s : State) (e : HostEvent) : (s.post e).events = s.events ++ [e] := rfl
@[simp] theorem State_post_pages (s : State) (e : HostEvent) : (s.post e).pages = s.pages := rfl
@[simp] theorem State_post_columns (s : State) (e : HostEvent) : (s.post e).columns = s.columns := rfl
@[simp] theorem State_post_sliceMap (s : State) (e : HostEvent) : (s.post e).sliceMap = s.sliceMap := rfl
@[simp] theorem State_post_stalled (s : State) (e : HostEvent) : (s.post e).stalled = s.stalled := rfl
@[simp] theorem State_post_methods (s : State) (e : HostEvent) : (s.post e).methods = s.methods := rfl
@[simp] theorem State_post_objects (s : State) (e : HostEvent) : (s.post e).objects = s.objects := rfl
@[simp] theorem State_post_arrivals (s : State) (e : HostEvent) : (s.post e).arrivals = s.arrivals := rfl
@[simp] theorem State_post_runs (s : State) (e : HostEvent) : (s.post e).runs = s.runs := rfl
@[simp] theorem State_post_gates (s : State) (e : HostEvent) : (s.post e).gates = s.gates := rfl
@[simp] theorem State_post_ports (s : State) (e : HostEvent) : (s.post e).ports = s.ports := rfl
@[simp] theorem State_post_outSeq (s : State) (e : HostEvent) : (s.post e).outSeq = s.outSeq := rfl
@[simp] theorem State_post_inStreams (s : State) (e : HostEvent) : (s.post e).inStreams = s.inStreams := rfl
@[simp] theorem State_post_lost (s : State) (e : HostEvent) : (s.post e).lost = s.lost := rfl
@[simp] theorem State_post_colls (s : State) (e : HostEvent) : (s.post e).colls = s.colls := rfl
@[simp] theorem State_post_whorls (s : State) (e : HostEvent) : (s.post e).whorls = s.whorls := rfl
@[simp] theorem State_post_passes (s : State) (e : HostEvent) : (s.post e).passes = s.passes := rfl
@[simp] theorem State_post_fences (s : State) (e : HostEvent) : (s.post e).fences = s.fences := rfl
@[simp] theorem State_post_power (s : State) (e : HostEvent) : (s.post e).power = s.power := rfl
@[simp] theorem State_post_secBlocks (s : State) (e : HostEvent) : (s.post e).secBlocks = s.secBlocks := rfl
@[simp] theorem State_post_sys (s : State) (e : HostEvent) : (s.post e).sys = s.sys := rfl
@[simp] theorem State_post_atomics (s : State) (e : HostEvent) : (s.post e).atomics = s.atomics := rfl
@[simp] theorem State_post_cur (s : State) (e : HostEvent) : (s.post e).cur = s.cur := rfl
@[simp] theorem State_post_agenda (s : State) (e : HostEvent) : (s.post e).agenda = s.agenda := rfl
@[simp] theorem State_post_turn (s : State) (e : HostEvent) : (s.post e).turn = s.turn := rfl
@[simp] theorem State_post_free (s : State) (e : HostEvent) : (s.post e).free = s.free := rfl
@[simp] theorem State_post_noticed (s : State) (e : HostEvent) : (s.post e).noticed = s.noticed := rfl
@[simp] theorem State_post_keyed (s : State) (e : HostEvent) : (s.post e).keyed = s.keyed := rfl

/-! ## State.take -/

@[simp] theorem State_take_mem (s : State) : (s.take).2.mem = s.mem := rfl
@[simp] theorem State_take_poison (s : State) : (s.take).2.poison = s.poison := rfl
@[simp] theorem State_take_cores (s : State) : (s.take).2.cores = s.cores := rfl
@[simp] theorem State_take_gddrTop (s : State) : (s.take).2.gddrTop = s.gddrTop := rfl
@[simp] theorem State_take_direct (s : State) : (s.take).2.direct = s.direct := rfl
@[simp] theorem State_take_ats (s : State) : (s.take).2.ats = s.ats := rfl
@[simp] theorem State_take_priRefused (s : State) : (s.take).2.priRefused = s.priRefused := rfl
@[simp] theorem State_take_l2tlb (s : State) : (s.take).2.l2tlb = s.l2tlb := rfl
@[simp] theorem State_take_groups (s : State) : (s.take).2.groups = s.groups := rfl
@[simp] theorem State_take_teams (s : State) : (s.take).2.teams = s.teams := rfl
@[simp] theorem State_take_launches (s : State) : (s.take).2.launches = s.launches := rfl
@[simp] theorem State_take_jobs (s : State) : (s.take).2.jobs = s.jobs := rfl
@[simp] theorem State_take_graphs (s : State) : (s.take).2.graphs = s.graphs := rfl
@[simp] theorem State_take_phases (s : State) : (s.take).2.phases = s.phases := rfl
@[simp] theorem State_take_slots (s : State) : (s.take).2.slots = s.slots := rfl
@[simp] theorem State_take_queues (s : State) : (s.take).2.queues = s.queues := rfl
@[simp] theorem State_take_events (s : State) : (s.take).2.events = s.events := rfl
@[simp] theorem State_take_pages (s : State) : (s.take).2.pages = s.pages := rfl
@[simp] theorem State_take_columns (s : State) : (s.take).2.columns = s.columns := rfl
@[simp] theorem State_take_sliceMap (s : State) : (s.take).2.sliceMap = s.sliceMap := rfl
@[simp] theorem State_take_stalled (s : State) : (s.take).2.stalled = s.stalled := rfl
@[simp] theorem State_take_methods (s : State) : (s.take).2.methods = s.methods := rfl
@[simp] theorem State_take_objects (s : State) : (s.take).2.objects = s.objects := rfl
@[simp] theorem State_take_arrivals (s : State) : (s.take).2.arrivals = s.arrivals := rfl
@[simp] theorem State_take_runs (s : State) : (s.take).2.runs = s.runs := rfl
@[simp] theorem State_take_gates (s : State) : (s.take).2.gates = s.gates := rfl
@[simp] theorem State_take_ports (s : State) : (s.take).2.ports = s.ports := rfl
@[simp] theorem State_take_outSeq (s : State) : (s.take).2.outSeq = s.outSeq := rfl
@[simp] theorem State_take_inStreams (s : State) : (s.take).2.inStreams = s.inStreams := rfl
@[simp] theorem State_take_lost (s : State) : (s.take).2.lost = s.lost := rfl
@[simp] theorem State_take_colls (s : State) : (s.take).2.colls = s.colls := rfl
@[simp] theorem State_take_whorls (s : State) : (s.take).2.whorls = s.whorls := rfl
@[simp] theorem State_take_passes (s : State) : (s.take).2.passes = s.passes := rfl
@[simp] theorem State_take_fences (s : State) : (s.take).2.fences = s.fences := rfl
@[simp] theorem State_take_power (s : State) : (s.take).2.power = s.power := rfl
@[simp] theorem State_take_secBlocks (s : State) : (s.take).2.secBlocks = s.secBlocks := rfl
@[simp] theorem State_take_sys (s : State) : (s.take).2.sys = s.sys := rfl
@[simp] theorem State_take_atomics (s : State) : (s.take).2.atomics = s.atomics := rfl
@[simp] theorem State_take_cur (s : State) : (s.take).2.cur = s.cur := rfl
@[simp] theorem State_take_agenda (s : State) : (s.take).2.agenda = s.agenda := rfl
@[simp] theorem State_take_turn (s : State) : (s.take).2.turn = s.turn := rfl
@[simp] theorem State_take_free (s : State) : (s.take).2.free = s.free + 1 := rfl

/-! ## Group.setCtx -/

@[simp] theorem Group_setCtx_ctx (g : Group) (x : Ctx) : (g.setCtx x).ctx = x := rfl
@[simp] theorem Group_setCtx_kind (g : Group) (x : Ctx) : (g.setCtx x).kind = g.kind := rfl
@[simp] theorem Group_setCtx_status (g : Group) (x : Ctx) : (g.setCtx x).status = g.status := rfl
@[simp] theorem Group_setCtx_job (g : Group) (x : Ctx) : (g.setCtx x).job = g.job := rfl
@[simp] theorem Group_setCtx_launch (g : Group) (x : Ctx) : (g.setCtx x).launch = g.launch := rfl
@[simp] theorem Group_setCtx_team (g : Group) (x : Ctx) : (g.setCtx x).team = g.team := rfl
@[simp] theorem Group_setCtx_number (g : Group) (x : Ctx) : (g.setCtx x).number = g.number := rfl
@[simp] theorem Group_setCtx_spawnSeq (g : Group) (x : Ctx) : (g.setCtx x).spawnSeq = g.spawnSeq := rfl
@[simp] theorem Group_setCtx_spawnArea (g : Group) (x : Ctx) : (g.setCtx x).spawnArea = g.spawnArea := rfl
@[simp] theorem Group_setCtx_core (g : Group) (x : Ctx) : (g.setCtx x).core = g.core := rfl
@[simp] theorem Group_setCtx_part (g : Group) (x : Ctx) : (g.setCtx x).part = g.part := rfl
@[simp] theorem Group_setCtx_rslot (g : Group) (x : Ctx) : (g.setCtx x).rslot = g.rslot := rfl
@[simp] theorem Group_setCtx_regs (g : Group) (x : Ctx) : (g.setCtx x).regs = g.regs := rfl
@[simp] theorem Group_setCtx_prio (g : Group) (x : Ctx) : (g.setCtx x).prio = g.prio := rfl
@[simp] theorem Group_setCtx_hasSlot (g : Group) (x : Ctx) : (g.setCtx x).hasSlot = g.hasSlot := rfl
@[simp] theorem Group_setCtx_since (g : Group) (x : Ctx) : (g.setCtx x).since = g.since := rfl
@[simp] theorem Group_setCtx_board (g : Group) (x : Ctx) : (g.setCtx x).board = g.board := rfl
@[simp] theorem Group_setCtx_block (g : Group) (x : Ctx) : (g.setCtx x).block = g.block := rfl
@[simp] theorem Group_setCtx_posts (g : Group) (x : Ctx) : (g.setCtx x).posts = g.posts := rfl
@[simp] theorem Group_setCtx_postSeq (g : Group) (x : Ctx) : (g.setCtx x).postSeq = g.postSeq := rfl
@[simp] theorem Group_setCtx_deferred (g : Group) (x : Ctx) : (g.setCtx x).deferred = g.deferred := rfl
@[simp] theorem Group_setCtx_handler (g : Group) (x : Ctx) : (g.setCtx x).handler = g.handler := rfl
@[simp] theorem Group_setCtx_retry (g : Group) (x : Ctx) : (g.setCtx x).retry = g.retry := rfl
@[simp] theorem Group_setCtx_trapSave (g : Group) (x : Ctx) : (g.setCtx x).trapSave = g.trapSave := rfl
@[simp] theorem Group_setCtx_rebuild (g : Group) (x : Ctx) : (g.setCtx x).rebuild = g.rebuild := rfl
@[simp] theorem Group_setCtx_again (g : Group) (x : Ctx) : (g.setCtx x).again = g.again := rfl
@[simp] theorem Group_setCtx_resumeAs (g : Group) (x : Ctx) : (g.setCtx x).resumeAs = g.resumeAs := rfl
@[simp] theorem Group_setCtx_saved (g : Group) (x : Ctx) : (g.setCtx x).saved = g.saved := rfl
@[simp] theorem Group_setCtx_seen (g : Group) (x : Ctx) : (g.setCtx x).seen = g.seen := rfl
@[simp] theorem Group_setCtx_ownBars (g : Group) (x : Ctx) : (g.setCtx x).ownBars = g.ownBars := rfl
@[simp] theorem Group_setCtx_batch (g : Group) (x : Ctx) : (g.setCtx x).batch = g.batch := rfl
@[simp] theorem Group_setCtx_batches (g : Group) (x : Ctx) : (g.setCtx x).batches = g.batches := rfl
@[simp] theorem Group_setCtx_taskrec (g : Group) (x : Ctx) : (g.setCtx x).taskrec = g.taskrec := rfl
@[simp] theorem Group_setCtx_markNum (g : Group) (x : Ctx) : (g.setCtx x).markNum = g.markNum := rfl
@[simp] theorem Group_setCtx_xchg (g : Group) (x : Ctx) : (g.setCtx x).xchg = g.xchg := rfl
@[simp] theorem Group_setCtx_area (g : Group) (x : Ctx) : (g.setCtx x).area = g.area := rfl
@[simp] theorem Group_setCtx_privLimit (g : Group) (x : Ctx) : (g.setCtx x).privLimit = g.privLimit := rfl
@[simp] theorem Group_setCtx_absent (g : Group) (x : Ctx) : (g.setCtx x).absent = g.absent := rfl
@[simp] theorem Group_setCtx_gfx (g : Group) (x : Ctx) : (g.setCtx x).gfx = g.gfx := rfl
@[simp] theorem Group_setCtx_icount (g : Group) (x : Ctx) : (g.setCtx x).icount = g.icount := rfl
@[simp] theorem Group_setCtx_mainAt (g : Group) (x : Ctx) : (g.setCtx x).mainAt = g.mainAt := rfl

/-! ## Group.setSlot -/

@[simp] theorem Group_setSlot_ctx (g : Group) (k : Nat) (p : Option Pend) : (g.setSlot k p).ctx = g.ctx := rfl
@[simp] theorem Group_setSlot_kind (g : Group) (k : Nat) (p : Option Pend) : (g.setSlot k p).kind = g.kind := rfl
@[simp] theorem Group_setSlot_status (g : Group) (k : Nat) (p : Option Pend) : (g.setSlot k p).status = g.status := rfl
@[simp] theorem Group_setSlot_job (g : Group) (k : Nat) (p : Option Pend) : (g.setSlot k p).job = g.job := rfl
@[simp] theorem Group_setSlot_launch (g : Group) (k : Nat) (p : Option Pend) : (g.setSlot k p).launch = g.launch := rfl
@[simp] theorem Group_setSlot_team (g : Group) (k : Nat) (p : Option Pend) : (g.setSlot k p).team = g.team := rfl
@[simp] theorem Group_setSlot_number (g : Group) (k : Nat) (p : Option Pend) : (g.setSlot k p).number = g.number := rfl
@[simp] theorem Group_setSlot_spawnSeq (g : Group) (k : Nat) (p : Option Pend) : (g.setSlot k p).spawnSeq = g.spawnSeq := rfl
@[simp] theorem Group_setSlot_spawnArea (g : Group) (k : Nat) (p : Option Pend) : (g.setSlot k p).spawnArea = g.spawnArea := rfl
@[simp] theorem Group_setSlot_core (g : Group) (k : Nat) (p : Option Pend) : (g.setSlot k p).core = g.core := rfl
@[simp] theorem Group_setSlot_part (g : Group) (k : Nat) (p : Option Pend) : (g.setSlot k p).part = g.part := rfl
@[simp] theorem Group_setSlot_rslot (g : Group) (k : Nat) (p : Option Pend) : (g.setSlot k p).rslot = g.rslot := rfl
@[simp] theorem Group_setSlot_regs (g : Group) (k : Nat) (p : Option Pend) : (g.setSlot k p).regs = g.regs := rfl
@[simp] theorem Group_setSlot_prio (g : Group) (k : Nat) (p : Option Pend) : (g.setSlot k p).prio = g.prio := rfl
@[simp] theorem Group_setSlot_hasSlot (g : Group) (k : Nat) (p : Option Pend) : (g.setSlot k p).hasSlot = g.hasSlot := rfl
@[simp] theorem Group_setSlot_since (g : Group) (k : Nat) (p : Option Pend) : (g.setSlot k p).since = g.since := rfl
@[simp] theorem Group_setSlot_board (g : Group) (k : Nat) (p : Option Pend) : (g.setSlot k p).board = g.board.set (Fin.ofNat 32 k) p := rfl
@[simp] theorem Group_setSlot_block (g : Group) (k : Nat) (p : Option Pend) : (g.setSlot k p).block = g.block := rfl
@[simp] theorem Group_setSlot_posts (g : Group) (k : Nat) (p : Option Pend) : (g.setSlot k p).posts = g.posts := rfl
@[simp] theorem Group_setSlot_postSeq (g : Group) (k : Nat) (p : Option Pend) : (g.setSlot k p).postSeq = g.postSeq := rfl
@[simp] theorem Group_setSlot_deferred (g : Group) (k : Nat) (p : Option Pend) : (g.setSlot k p).deferred = g.deferred := rfl
@[simp] theorem Group_setSlot_handler (g : Group) (k : Nat) (p : Option Pend) : (g.setSlot k p).handler = g.handler := rfl
@[simp] theorem Group_setSlot_retry (g : Group) (k : Nat) (p : Option Pend) : (g.setSlot k p).retry = g.retry := rfl
@[simp] theorem Group_setSlot_trapSave (g : Group) (k : Nat) (p : Option Pend) : (g.setSlot k p).trapSave = g.trapSave := rfl
@[simp] theorem Group_setSlot_rebuild (g : Group) (k : Nat) (p : Option Pend) : (g.setSlot k p).rebuild = g.rebuild := rfl
@[simp] theorem Group_setSlot_again (g : Group) (k : Nat) (p : Option Pend) : (g.setSlot k p).again = g.again := rfl
@[simp] theorem Group_setSlot_resumeAs (g : Group) (k : Nat) (p : Option Pend) : (g.setSlot k p).resumeAs = g.resumeAs := rfl
@[simp] theorem Group_setSlot_saved (g : Group) (k : Nat) (p : Option Pend) : (g.setSlot k p).saved = g.saved := rfl
@[simp] theorem Group_setSlot_seen (g : Group) (k : Nat) (p : Option Pend) : (g.setSlot k p).seen = g.seen := rfl
@[simp] theorem Group_setSlot_ownBars (g : Group) (k : Nat) (p : Option Pend) : (g.setSlot k p).ownBars = g.ownBars := rfl
@[simp] theorem Group_setSlot_batch (g : Group) (k : Nat) (p : Option Pend) : (g.setSlot k p).batch = g.batch := rfl
@[simp] theorem Group_setSlot_batches (g : Group) (k : Nat) (p : Option Pend) : (g.setSlot k p).batches = g.batches := rfl
@[simp] theorem Group_setSlot_taskrec (g : Group) (k : Nat) (p : Option Pend) : (g.setSlot k p).taskrec = g.taskrec := rfl
@[simp] theorem Group_setSlot_markNum (g : Group) (k : Nat) (p : Option Pend) : (g.setSlot k p).markNum = g.markNum := rfl
@[simp] theorem Group_setSlot_xchg (g : Group) (k : Nat) (p : Option Pend) : (g.setSlot k p).xchg = g.xchg := rfl
@[simp] theorem Group_setSlot_area (g : Group) (k : Nat) (p : Option Pend) : (g.setSlot k p).area = g.area := rfl
@[simp] theorem Group_setSlot_privLimit (g : Group) (k : Nat) (p : Option Pend) : (g.setSlot k p).privLimit = g.privLimit := rfl
@[simp] theorem Group_setSlot_absent (g : Group) (k : Nat) (p : Option Pend) : (g.setSlot k p).absent = g.absent := rfl
@[simp] theorem Group_setSlot_gfx (g : Group) (k : Nat) (p : Option Pend) : (g.setSlot k p).gfx = g.gfx := rfl
@[simp] theorem Group_setSlot_icount (g : Group) (k : Nat) (p : Option Pend) : (g.setSlot k p).icount = g.icount := rfl
@[simp] theorem Group_setSlot_mainAt (g : Group) (k : Nat) (p : Option Pend) : (g.setSlot k p).mainAt = g.mainAt := rfl

/-! ## Ctx.setS -/

@[simp] theorem Ctx_setS_pc (x : Ctx) (d : Nat) (v : DWord) : (x.setS d v).pc = x.pc := rfl
@[simp] theorem Ctx_setS_active (x : Ctx) (d : Nat) (v : DWord) : (x.setS d v).active = x.active := rfl
@[simp] theorem Ctx_setS_killed (x : Ctx) (d : Nat) (v : DWord) : (x.setS d v).killed = x.killed := rfl
@[simp] theorem Ctx_setS_preds (x : Ctx) (d : Nat) (v : DWord) : (x.setS d v).preds = x.preds := rfl
@[simp] theorem Ctx_setS_s (x : Ctx) (d : Nat) (v : DWord) : (x.setS d v).s = x.s.set (Fin.ofNat 64 d) v := rfl
@[simp] theorem Ctx_setS_c (x : Ctx) (d : Nat) (v : DWord) : (x.setS d v).c = x.c := rfl
@[simp] theorem Ctx_setS_ix (x : Ctx) (d : Nat) (v : DWord) : (x.setS d v).ix = x.ix := rfl
@[simp] theorem Ctx_setS_dstack (x : Ctx) (d : Nat) (v : DWord) : (x.setS d v).dstack = x.dstack := rfl
@[simp] theorem Ctx_setS_cstack (x : Ctx) (d : Nat) (v : DWord) : (x.setS d v).cstack = x.cstack := rfl
@[simp] theorem Ctx_setS_fpmode (x : Ctx) (d : Nat) (v : DWord) : (x.setS d v).fpmode = x.fpmode := rfl
@[simp] theorem Ctx_setS_fpflags (x : Ctx) (d : Nat) (v : DWord) : (x.setS d v).fpflags = x.fpflags := rfl
@[simp] theorem Ctx_setS_storehash (x : Ctx) (d : Nat) (v : DWord) : (x.setS d v).storehash = x.storehash := rfl
@[simp] theorem Ctx_setS_main (x : Ctx) (d : Nat) (v : DWord) : (x.setS d v).main = x.main := rfl
@[simp] theorem Ctx_setS_entries (x : Ctx) (d : Nat) (v : DWord) : (x.setS d v).entries = x.entries := rfl
@[simp] theorem Ctx_setS_slots (x : Ctx) (d : Nat) (v : DWord) : (x.setS d v).slots = x.slots := rfl
@[simp] theorem Ctx_setS_latches (x : Ctx) (d : Nat) (v : DWord) : (x.setS d v).latches = x.latches := rfl
@[simp] theorem Ctx_setS_pendFree (x : Ctx) (d : Nat) (v : DWord) : (x.setS d v).pendFree = x.pendFree := rfl
@[simp] theorem Ctx_setS_run (x : Ctx) (d : Nat) (v : DWord) : (x.setS d v).run = x.run := rfl

/-! ## Ctx.setC -/

@[simp] theorem Ctx_setC_pc (x : Ctx) (d : Nat) (v : Bool) : (x.setC d v).pc = x.pc := rfl
@[simp] theorem Ctx_setC_active (x : Ctx) (d : Nat) (v : Bool) : (x.setC d v).active = x.active := rfl
@[simp] theorem Ctx_setC_killed (x : Ctx) (d : Nat) (v : Bool) : (x.setC d v).killed = x.killed := rfl
@[simp] theorem Ctx_setC_preds (x : Ctx) (d : Nat) (v : Bool) : (x.setC d v).preds = x.preds := rfl
@[simp] theorem Ctx_setC_s (x : Ctx) (d : Nat) (v : Bool) : (x.setC d v).s = x.s := rfl
@[simp] theorem Ctx_setC_c (x : Ctx) (d : Nat) (v : Bool) : (x.setC d v).c = x.c.set (Fin.ofNat 4 d) v := rfl
@[simp] theorem Ctx_setC_ix (x : Ctx) (d : Nat) (v : Bool) : (x.setC d v).ix = x.ix := rfl
@[simp] theorem Ctx_setC_dstack (x : Ctx) (d : Nat) (v : Bool) : (x.setC d v).dstack = x.dstack := rfl
@[simp] theorem Ctx_setC_cstack (x : Ctx) (d : Nat) (v : Bool) : (x.setC d v).cstack = x.cstack := rfl
@[simp] theorem Ctx_setC_fpmode (x : Ctx) (d : Nat) (v : Bool) : (x.setC d v).fpmode = x.fpmode := rfl
@[simp] theorem Ctx_setC_fpflags (x : Ctx) (d : Nat) (v : Bool) : (x.setC d v).fpflags = x.fpflags := rfl
@[simp] theorem Ctx_setC_storehash (x : Ctx) (d : Nat) (v : Bool) : (x.setC d v).storehash = x.storehash := rfl
@[simp] theorem Ctx_setC_main (x : Ctx) (d : Nat) (v : Bool) : (x.setC d v).main = x.main := rfl
@[simp] theorem Ctx_setC_entries (x : Ctx) (d : Nat) (v : Bool) : (x.setC d v).entries = x.entries := rfl
@[simp] theorem Ctx_setC_slots (x : Ctx) (d : Nat) (v : Bool) : (x.setC d v).slots = x.slots := rfl
@[simp] theorem Ctx_setC_latches (x : Ctx) (d : Nat) (v : Bool) : (x.setC d v).latches = x.latches := rfl
@[simp] theorem Ctx_setC_pendFree (x : Ctx) (d : Nat) (v : Bool) : (x.setC d v).pendFree = x.pendFree := rfl
@[simp] theorem Ctx_setC_run (x : Ctx) (d : Nat) (v : Bool) : (x.setC d v).run = x.run := rfl

/-! ## Ctx.setEntry -/

@[simp] theorem Ctx_setEntry_pc (x : Ctx) (e : Nat) (v : Entry) : (x.setEntry e v).pc = x.pc := rfl
@[simp] theorem Ctx_setEntry_active (x : Ctx) (e : Nat) (v : Entry) : (x.setEntry e v).active = x.active := rfl
@[simp] theorem Ctx_setEntry_killed (x : Ctx) (e : Nat) (v : Entry) : (x.setEntry e v).killed = x.killed := rfl
@[simp] theorem Ctx_setEntry_preds (x : Ctx) (e : Nat) (v : Entry) : (x.setEntry e v).preds = x.preds := rfl
@[simp] theorem Ctx_setEntry_s (x : Ctx) (e : Nat) (v : Entry) : (x.setEntry e v).s = x.s := rfl
@[simp] theorem Ctx_setEntry_c (x : Ctx) (e : Nat) (v : Entry) : (x.setEntry e v).c = x.c := rfl
@[simp] theorem Ctx_setEntry_ix (x : Ctx) (e : Nat) (v : Entry) : (x.setEntry e v).ix = x.ix := rfl
@[simp] theorem Ctx_setEntry_dstack (x : Ctx) (e : Nat) (v : Entry) : (x.setEntry e v).dstack = x.dstack := rfl
@[simp] theorem Ctx_setEntry_cstack (x : Ctx) (e : Nat) (v : Entry) : (x.setEntry e v).cstack = x.cstack := rfl
@[simp] theorem Ctx_setEntry_fpmode (x : Ctx) (e : Nat) (v : Entry) : (x.setEntry e v).fpmode = x.fpmode := rfl
@[simp] theorem Ctx_setEntry_fpflags (x : Ctx) (e : Nat) (v : Entry) : (x.setEntry e v).fpflags = x.fpflags := rfl
@[simp] theorem Ctx_setEntry_storehash (x : Ctx) (e : Nat) (v : Entry) : (x.setEntry e v).storehash = x.storehash := rfl
@[simp] theorem Ctx_setEntry_main (x : Ctx) (e : Nat) (v : Entry) : (x.setEntry e v).main = x.main := rfl
@[simp] theorem Ctx_setEntry_entries (x : Ctx) (e : Nat) (v : Entry) : (x.setEntry e v).entries = x.entries.set (Fin.ofNat 16 e) v := rfl
@[simp] theorem Ctx_setEntry_slots (x : Ctx) (e : Nat) (v : Entry) : (x.setEntry e v).slots = x.slots := rfl
@[simp] theorem Ctx_setEntry_latches (x : Ctx) (e : Nat) (v : Entry) : (x.setEntry e v).latches = x.latches := rfl
@[simp] theorem Ctx_setEntry_pendFree (x : Ctx) (e : Nat) (v : Entry) : (x.setEntry e v).pendFree = x.pendFree := rfl
@[simp] theorem Ctx_setEntry_run (x : Ctx) (e : Nat) (v : Entry) : (x.setEntry e v).run = x.run := rfl

/-! ## Ctx.orFlags -/

@[simp] theorem Ctx_orFlags_pc (x : Ctx) (f : FFlags) : (x.orFlags f).pc = x.pc := rfl
@[simp] theorem Ctx_orFlags_active (x : Ctx) (f : FFlags) : (x.orFlags f).active = x.active := rfl
@[simp] theorem Ctx_orFlags_killed (x : Ctx) (f : FFlags) : (x.orFlags f).killed = x.killed := rfl
@[simp] theorem Ctx_orFlags_preds (x : Ctx) (f : FFlags) : (x.orFlags f).preds = x.preds := rfl
@[simp] theorem Ctx_orFlags_s (x : Ctx) (f : FFlags) : (x.orFlags f).s = x.s := rfl
@[simp] theorem Ctx_orFlags_c (x : Ctx) (f : FFlags) : (x.orFlags f).c = x.c := rfl
@[simp] theorem Ctx_orFlags_ix (x : Ctx) (f : FFlags) : (x.orFlags f).ix = x.ix := rfl
@[simp] theorem Ctx_orFlags_dstack (x : Ctx) (f : FFlags) : (x.orFlags f).dstack = x.dstack := rfl
@[simp] theorem Ctx_orFlags_cstack (x : Ctx) (f : FFlags) : (x.orFlags f).cstack = x.cstack := rfl
@[simp] theorem Ctx_orFlags_fpmode (x : Ctx) (f : FFlags) : (x.orFlags f).fpmode = x.fpmode := rfl
@[simp] theorem Ctx_orFlags_fpflags (x : Ctx) (f : FFlags) : (x.orFlags f).fpflags = x.fpflags ||| f.setWidth 64 := rfl
@[simp] theorem Ctx_orFlags_storehash (x : Ctx) (f : FFlags) : (x.orFlags f).storehash = x.storehash := rfl
@[simp] theorem Ctx_orFlags_main (x : Ctx) (f : FFlags) : (x.orFlags f).main = x.main := rfl
@[simp] theorem Ctx_orFlags_entries (x : Ctx) (f : FFlags) : (x.orFlags f).entries = x.entries := rfl
@[simp] theorem Ctx_orFlags_slots (x : Ctx) (f : FFlags) : (x.orFlags f).slots = x.slots := rfl
@[simp] theorem Ctx_orFlags_latches (x : Ctx) (f : FFlags) : (x.orFlags f).latches = x.latches := rfl
@[simp] theorem Ctx_orFlags_pendFree (x : Ctx) (f : FFlags) : (x.orFlags f).pendFree = x.pendFree := rfl
@[simp] theorem Ctx_orFlags_run (x : Ctx) (f : FFlags) : (x.orFlags f).run = x.run := rfl

/-! ## Ctx.free -/

@[simp] theorem Ctx_free_pc (x : Ctx) (m : BitVec 16) : (x.free m).pc = x.pc := rfl
@[simp] theorem Ctx_free_active (x : Ctx) (m : BitVec 16) : (x.free m).active = x.active := rfl
@[simp] theorem Ctx_free_killed (x : Ctx) (m : BitVec 16) : (x.free m).killed = x.killed := rfl
@[simp] theorem Ctx_free_preds (x : Ctx) (m : BitVec 16) : (x.free m).preds = x.preds := rfl
@[simp] theorem Ctx_free_s (x : Ctx) (m : BitVec 16) : (x.free m).s = x.s := rfl
@[simp] theorem Ctx_free_c (x : Ctx) (m : BitVec 16) : (x.free m).c = x.c := rfl
@[simp] theorem Ctx_free_ix (x : Ctx) (m : BitVec 16) : (x.free m).ix = x.ix := rfl
@[simp] theorem Ctx_free_dstack (x : Ctx) (m : BitVec 16) : (x.free m).dstack = x.dstack := rfl
@[simp] theorem Ctx_free_cstack (x : Ctx) (m : BitVec 16) : (x.free m).cstack = x.cstack := rfl
@[simp] theorem Ctx_free_fpmode (x : Ctx) (m : BitVec 16) : (x.free m).fpmode = x.fpmode := rfl
@[simp] theorem Ctx_free_fpflags (x : Ctx) (m : BitVec 16) : (x.free m).fpflags = x.fpflags := rfl
@[simp] theorem Ctx_free_storehash (x : Ctx) (m : BitVec 16) : (x.free m).storehash = x.storehash := rfl
@[simp] theorem Ctx_free_main (x : Ctx) (m : BitVec 16) : (x.free m).main = x.main := rfl
@[simp] theorem Ctx_free_slots (x : Ctx) (m : BitVec 16) : (x.free m).slots = x.slots := rfl
@[simp] theorem Ctx_free_latches (x : Ctx) (m : BitVec 16) : (x.free m).latches = x.latches := rfl
@[simp] theorem Ctx_free_pendFree (x : Ctx) (m : BitVec 16) : (x.free m).pendFree = x.pendFree := rfl
@[simp] theorem Ctx_free_run (x : Ctx) (m : BitVec 16) : (x.free m).run = x.run := rfl

/-! ## Ctx.applyFrees -/

@[simp] theorem Ctx_applyFrees_pc (x : Ctx) : (x.applyFrees).pc = x.pc := rfl
@[simp] theorem Ctx_applyFrees_active (x : Ctx) : (x.applyFrees).active = x.active := rfl
@[simp] theorem Ctx_applyFrees_killed (x : Ctx) : (x.applyFrees).killed = x.killed := rfl
@[simp] theorem Ctx_applyFrees_preds (x : Ctx) : (x.applyFrees).preds = x.preds := rfl
@[simp] theorem Ctx_applyFrees_s (x : Ctx) : (x.applyFrees).s = x.s := rfl
@[simp] theorem Ctx_applyFrees_c (x : Ctx) : (x.applyFrees).c = x.c := rfl
@[simp] theorem Ctx_applyFrees_ix (x : Ctx) : (x.applyFrees).ix = x.ix := rfl
@[simp] theorem Ctx_applyFrees_dstack (x : Ctx) : (x.applyFrees).dstack = x.dstack := rfl
@[simp] theorem Ctx_applyFrees_cstack (x : Ctx) : (x.applyFrees).cstack = x.cstack := rfl
@[simp] theorem Ctx_applyFrees_fpmode (x : Ctx) : (x.applyFrees).fpmode = x.fpmode := rfl
@[simp] theorem Ctx_applyFrees_fpflags (x : Ctx) : (x.applyFrees).fpflags = x.fpflags := rfl
@[simp] theorem Ctx_applyFrees_storehash (x : Ctx) : (x.applyFrees).storehash = x.storehash := rfl
@[simp] theorem Ctx_applyFrees_main (x : Ctx) : (x.applyFrees).main = x.main := rfl
@[simp] theorem Ctx_applyFrees_entries (x : Ctx) : (x.applyFrees).entries = (x.free x.pendFree).entries := rfl
@[simp] theorem Ctx_applyFrees_slots (x : Ctx) : (x.applyFrees).slots = x.slots := rfl
@[simp] theorem Ctx_applyFrees_latches (x : Ctx) : (x.applyFrees).latches = x.latches := rfl
@[simp] theorem Ctx_applyFrees_pendFree (x : Ctx) : (x.applyFrees).pendFree = 0 := rfl
@[simp] theorem Ctx_applyFrees_run (x : Ctx) : (x.applyFrees).run = x.run := rfl

/-! ## Ctx.clearLatches -/

@[simp] theorem Ctx_clearLatches_pc (x : Ctx) : (x.clearLatches).pc = x.pc := rfl
@[simp] theorem Ctx_clearLatches_active (x : Ctx) : (x.clearLatches).active = x.active := rfl
@[simp] theorem Ctx_clearLatches_killed (x : Ctx) : (x.clearLatches).killed = x.killed := rfl
@[simp] theorem Ctx_clearLatches_preds (x : Ctx) : (x.clearLatches).preds = x.preds := rfl
@[simp] theorem Ctx_clearLatches_s (x : Ctx) : (x.clearLatches).s = x.s := rfl
@[simp] theorem Ctx_clearLatches_c (x : Ctx) : (x.clearLatches).c = x.c := rfl
@[simp] theorem Ctx_clearLatches_ix (x : Ctx) : (x.clearLatches).ix = x.ix := rfl
@[simp] theorem Ctx_clearLatches_dstack (x : Ctx) : (x.clearLatches).dstack = x.dstack := rfl
@[simp] theorem Ctx_clearLatches_cstack (x : Ctx) : (x.clearLatches).cstack = x.cstack := rfl
@[simp] theorem Ctx_clearLatches_fpmode (x : Ctx) : (x.clearLatches).fpmode = x.fpmode := rfl
@[simp] theorem Ctx_clearLatches_fpflags (x : Ctx) : (x.clearLatches).fpflags = x.fpflags := rfl
@[simp] theorem Ctx_clearLatches_storehash (x : Ctx) : (x.clearLatches).storehash = x.storehash := rfl
@[simp] theorem Ctx_clearLatches_main (x : Ctx) : (x.clearLatches).main = x.main := rfl
@[simp] theorem Ctx_clearLatches_entries (x : Ctx) : (x.clearLatches).entries = x.entries := rfl
@[simp] theorem Ctx_clearLatches_slots (x : Ctx) : (x.clearLatches).slots = x.slots := rfl
@[simp] theorem Ctx_clearLatches_pendFree (x : Ctx) : (x.clearLatches).pendFree = x.pendFree := rfl
@[simp] theorem Ctx_clearLatches_run (x : Ctx) : (x.clearLatches).run = [] := rfl

/-! ## Ctx.writeBack -/

@[simp] theorem Ctx_writeBack_pc (x : Ctx) : (x.writeBack).pc = x.pc := rfl
@[simp] theorem Ctx_writeBack_active (x : Ctx) : (x.writeBack).active = x.active := rfl
@[simp] theorem Ctx_writeBack_killed (x : Ctx) : (x.writeBack).killed = x.killed := rfl
@[simp] theorem Ctx_writeBack_preds (x : Ctx) : (x.writeBack).preds = x.preds := rfl
@[simp] theorem Ctx_writeBack_s (x : Ctx) : (x.writeBack).s = x.s := rfl
@[simp] theorem Ctx_writeBack_c (x : Ctx) : (x.writeBack).c = x.c := rfl
@[simp] theorem Ctx_writeBack_ix (x : Ctx) : (x.writeBack).ix = x.ix := rfl
@[simp] theorem Ctx_writeBack_dstack (x : Ctx) : (x.writeBack).dstack = x.dstack := rfl
@[simp] theorem Ctx_writeBack_cstack (x : Ctx) : (x.writeBack).cstack = x.cstack := rfl
@[simp] theorem Ctx_writeBack_fpmode (x : Ctx) : (x.writeBack).fpmode = x.fpmode := rfl
@[simp] theorem Ctx_writeBack_fpflags (x : Ctx) : (x.writeBack).fpflags = x.fpflags := rfl
@[simp] theorem Ctx_writeBack_storehash (x : Ctx) : (x.writeBack).storehash = x.storehash := rfl
@[simp] theorem Ctx_writeBack_entries (x : Ctx) : (x.writeBack).entries = x.entries := rfl
@[simp] theorem Ctx_writeBack_slots (x : Ctx) : (x.writeBack).slots = x.slots := rfl
@[simp] theorem Ctx_writeBack_latches (x : Ctx) : (x.writeBack).latches = x.latches := rfl
@[simp] theorem Ctx_writeBack_pendFree (x : Ctx) : (x.writeBack).pendFree = x.pendFree := rfl
@[simp] theorem Ctx_writeBack_run (x : Ctx) : (x.writeBack).run = x.run := rfl

/-! ## Ctx.writeEntry -/

@[simp] theorem Ctx_writeEntry_pc (x : Ctx) (e : Nat) (m : LaneMask) (f : Nat → Word) : (x.writeEntry e m f).pc = x.pc := rfl
@[simp] theorem Ctx_writeEntry_active (x : Ctx) (e : Nat) (m : LaneMask) (f : Nat → Word) : (x.writeEntry e m f).active = x.active := rfl
@[simp] theorem Ctx_writeEntry_killed (x : Ctx) (e : Nat) (m : LaneMask) (f : Nat → Word) : (x.writeEntry e m f).killed = x.killed := rfl
@[simp] theorem Ctx_writeEntry_preds (x : Ctx) (e : Nat) (m : LaneMask) (f : Nat → Word) : (x.writeEntry e m f).preds = x.preds := rfl
@[simp] theorem Ctx_writeEntry_s (x : Ctx) (e : Nat) (m : LaneMask) (f : Nat → Word) : (x.writeEntry e m f).s = x.s := rfl
@[simp] theorem Ctx_writeEntry_c (x : Ctx) (e : Nat) (m : LaneMask) (f : Nat → Word) : (x.writeEntry e m f).c = x.c := rfl
@[simp] theorem Ctx_writeEntry_ix (x : Ctx) (e : Nat) (m : LaneMask) (f : Nat → Word) : (x.writeEntry e m f).ix = x.ix := rfl
@[simp] theorem Ctx_writeEntry_dstack (x : Ctx) (e : Nat) (m : LaneMask) (f : Nat → Word) : (x.writeEntry e m f).dstack = x.dstack := rfl
@[simp] theorem Ctx_writeEntry_cstack (x : Ctx) (e : Nat) (m : LaneMask) (f : Nat → Word) : (x.writeEntry e m f).cstack = x.cstack := rfl
@[simp] theorem Ctx_writeEntry_fpmode (x : Ctx) (e : Nat) (m : LaneMask) (f : Nat → Word) : (x.writeEntry e m f).fpmode = x.fpmode := rfl
@[simp] theorem Ctx_writeEntry_fpflags (x : Ctx) (e : Nat) (m : LaneMask) (f : Nat → Word) : (x.writeEntry e m f).fpflags = x.fpflags := rfl
@[simp] theorem Ctx_writeEntry_storehash (x : Ctx) (e : Nat) (m : LaneMask) (f : Nat → Word) : (x.writeEntry e m f).storehash = x.storehash := rfl
@[simp] theorem Ctx_writeEntry_main (x : Ctx) (e : Nat) (m : LaneMask) (f : Nat → Word) : (x.writeEntry e m f).main = x.main := rfl
@[simp] theorem Ctx_writeEntry_slots (x : Ctx) (e : Nat) (m : LaneMask) (f : Nat → Word) : (x.writeEntry e m f).slots = x.slots := rfl
@[simp] theorem Ctx_writeEntry_latches (x : Ctx) (e : Nat) (m : LaneMask) (f : Nat → Word) : (x.writeEntry e m f).latches = x.latches := rfl
@[simp] theorem Ctx_writeEntry_pendFree (x : Ctx) (e : Nat) (m : LaneMask) (f : Nat → Word) : (x.writeEntry e m f).pendFree = x.pendFree := rfl
@[simp] theorem Ctx_writeEntry_run (x : Ctx) (e : Nat) (m : LaneMask) (f : Nat → Word) : (x.writeEntry e m f).run = x.run := rfl

/-! ## What an update puts -/

@[simp] theorem core_setCore (s : State) (c : Nat) (x : Core) : (s.setCore c x).core c = x := by
  simp [State.setCore, State.core]

@[simp] theorem core_setGroup (s : State) (c i : Nat) (x : Group) : (s.setGroup i x).core c = s.core c := rfl

@[simp] theorem core_modGroup (s : State) (c i : Nat) (f : Group → Group) : (s.modGroup i f).core c = s.core c := rfl

@[simp] theorem group_setGroup (s : State) (i : Nat) (g x : Group) (h : s.groups[i]? = some g) : (s.setGroup i x).groups[i]? = some x := by
  have hi : i < s.groups.length := (List.getElem?_eq_some_iff.mp h).1
  simp [State.setGroup, hi]

theorem group_setGroup_ne (s : State) (i j : Nat) (x : Group) (h : i ≠ j) : (s.setGroup i x).groups[j]? = s.groups[j]? := by
  simp [State.setGroup, h]

@[simp] theorem group_modGroup (s : State) (i : Nat) (f : Group → Group) : (s.modGroup i f).groups[i]? = s.groups[i]?.map f := by
  simp [State.modGroup]

theorem group_modGroup_ne (s : State) (i j : Nat) (f : Group → Group) (h : i ≠ j) : (s.modGroup i f).groups[j]? = s.groups[j]? := by
  simp [State.modGroup, h]

@[simp] theorem modGroup_length (s : State) (i : Nat) (f : Group → Group) : (s.modGroup i f).groups.length = s.groups.length := by
  simp [State.modGroup]

@[simp] theorem setGroup_length (s : State) (i : Nat) (x : Group) : (s.setGroup i x).groups.length = s.groups.length := by
  simp [State.setGroup]

@[simp] theorem getS_setS (x : Ctx) (d : Nat) (v : DWord) : (x.setS d v).getS d = v := by
  simp [Ctx.setS, Ctx.getS]

@[simp] theorem getC_setC (x : Ctx) (d : Nat) (v : Bool) : (x.setC d v).getC d = v := by
  simp [Ctx.setC, Ctx.getC]

@[simp] theorem entry_setEntry (x : Ctx) (e : Nat) (v : Entry) : (x.setEntry e v).entry e = v := by
  simp [Ctx.setEntry, Ctx.entry]

theorem entry_setEntry_ne (x : Ctx) (e k : Nat) (v : Entry) (he : e < 16) (hk : k < 16) (h : e ≠ k) : (x.setEntry e v).entry k = x.entry k := by
  simp only [Ctx.setEntry, Ctx.entry, Fin.getElem_fin, Fin.ofNat, Vector.getElem_set, Nat.mod_eq_of_lt he, Nat.mod_eq_of_lt hk]
  simp [h]

end Sys2Proof.Laws
end

