-- ==== Sys2Proof/Laws/Memory.lean ====
section
/-! SUPPORT. The laws of the sparse store: a read after a write, and that every operation over memory and over the arrays of a core
keeps the canonical form. -/

namespace Sys2Proof.Laws

open Machine

/-! ## One key -/

@[simp] theorem get_nil {w : Nat} (a : Nat) : SMap.get ([] : SMap w) a = 0 := rfl

/-- Every key of a canonical list is at or above its bound, so a key below reads as an unlisted one. -/
theorem get_below {w : Nat} (m : SMap w) (lo a : Nat) (h : SMap.wfFrom lo m = true) (ha : a < lo) : SMap.get m a = 0 := by
  induction m generalizing lo with
  | nil => rfl
  | cons p l ih =>
    obtain ⟨k, v⟩ := p
    simp only [SMap.wfFrom, Bool.and_eq_true, decide_eq_true_eq] at h
    rw [SMap.get, if_neg (by omega), ih (k + 1) h.2 (by omega)]

theorem wfFrom_cons {w : Nat} (lo k : Nat) (v : BitVec w) (l : SMap w) :
    SMap.wfFrom lo ((k, v) :: l) = true ↔ lo ≤ k ∧ v ≠ 0 ∧ SMap.wfFrom (k + 1) l = true := by
  rw [SMap.wfFrom, Bool.and_eq_true, Bool.and_eq_true, decide_eq_true_eq, bne_iff_ne, and_assoc]

theorem wfFrom_mono {w : Nat} (m : SMap w) (lo lo' : Nat) (hl : lo' ≤ lo) (h : SMap.wfFrom lo m = true) : SMap.wfFrom lo' m = true := by
  cases m with
  | nil => rfl
  | cons p l =>
    obtain ⟨k, v⟩ := p
    rw [wfFrom_cons] at h ⊢
    exact ⟨by omega, h.2⟩

theorem wfFrom_set {w : Nat} (m : SMap w) (lo a : Nat) (v : BitVec w) (h : SMap.wfFrom lo m = true) (ha : lo ≤ a) :
    SMap.wfFrom lo (SMap.set m a v) = true := by
  induction m generalizing lo with
  | nil =>
    rw [SMap.set]
    split
    · rfl
    · exact (wfFrom_cons ..).mpr ⟨ha, ‹_›, rfl⟩
  | cons p l ih =>
    obtain ⟨k, x⟩ := p
    have h' := h
    rw [wfFrom_cons] at h
    unfold SMap.set
    split
    · split
      · exact h'
      · exact (wfFrom_cons ..).mpr ⟨ha, ‹_›, (wfFrom_cons ..).mpr ⟨by omega, h.2⟩⟩
    · split
      · split
        · exact wfFrom_mono l _ _ (by omega) h.2.2
        · exact (wfFrom_cons ..).mpr ⟨h.1, ‹_›, h.2.2⟩
      · exact (wfFrom_cons ..).mpr ⟨h.1, h.2.1, ih (k + 1) h.2.2 (by omega)⟩

/-- A write keeps the canonical form. -/
theorem wf_set {w : Nat} (m : SMap w) (a : Nat) (v : BitVec w) (h : Memory.wf m = true) : Memory.wf (SMap.set m a v) = true :=
  wfFrom_set m 0 a v h (Nat.zero_le a)

theorem get_set_from {w : Nat} (m : SMap w) (lo a b : Nat) (v : BitVec w) (h : SMap.wfFrom lo m = true) :
    SMap.get (SMap.set m a v) b = if b = a then v else SMap.get m b := by
  induction m generalizing lo with
  | nil =>
    rw [SMap.set]
    by_cases hb : b = a
    · rw [if_pos hb]
      split
      · next hv => exact hv.symm
      · rw [SMap.get, if_pos hb.symm]
    · rw [if_neg hb]
      split
      · rfl
      · exact if_neg (Ne.symm hb)
  | cons p l ih =>
    obtain ⟨k, x⟩ := p
    rw [wfFrom_cons] at h
    obtain ⟨hk, hx, hr⟩ := h
    unfold SMap.set
    split
    · next hlt =>
      split
      · next hv =>
        by_cases hb : b = a
        · rw [SMap.get, if_neg (by omega), if_pos hb, hv, get_below l (k + 1) b hr (by omega)]
        · rw [if_neg hb]
      · by_cases hb : b = a
        · simp [SMap.get, hb]
        · rw [SMap.get, if_neg (Ne.symm hb), if_neg hb]
    · split
      · next hak =>
        split
        · next hv =>
          by_cases hb : b = a
          · rw [if_pos hb, hv, get_below l (k + 1) b hr (by omega)]
          · rw [if_neg hb, SMap.get, if_neg (by omega)]
        · by_cases hb : b = a
          · rw [SMap.get, if_pos (by omega), if_pos hb]
          · rw [SMap.get, if_neg (by omega), if_neg hb, SMap.get, if_neg (by omega)]
      · by_cases hb : k = b
        · rw [SMap.get, if_pos hb, SMap.get, if_pos hb, if_neg (by omega)]
        · rw [SMap.get, if_neg hb, SMap.get, if_neg hb, ih (k + 1) hr]

/-- A read after a write gives the value written at its key, and what was there at any other. -/
theorem get_set {w : Nat} (m : SMap w) (a b : Nat) (v : BitVec w) (h : Memory.wf m = true) :
    SMap.get (SMap.set m a v) b = if b = a then v else SMap.get m b := get_set_from m 0 a b v h

/-! ## Runs of keys -/

theorem wf_setList {w : Nat} (m : SMap w) (a : Nat) (l : List (BitVec w)) (h : Memory.wf m = true) : Memory.wf (SMap.setList m a l) = true := by
  induction l generalizing m a with
  | nil => exact h
  | cons b l ih => exact ih _ _ (wf_set m a b h)

/-- A run written reads back within it, and every other key as before. -/
theorem get_setList {w : Nat} (m : SMap w) (a b : Nat) (l : List (BitVec w)) (h : Memory.wf m = true) :
    SMap.get (SMap.setList m a l) b = if a ≤ b ∧ b < a + l.length then l.getD (b - a) 0 else SMap.get m b := by
  induction l generalizing m a with
  | nil => exact (if_neg fun ⟨h1, h2⟩ => Nat.lt_irrefl b (Nat.lt_of_lt_of_le h2 h1)).symm
  | cons c l ih =>
    rw [SMap.setList, ih _ _ (wf_set m a c h), get_set m a b c h]
    by_cases hb : b = a
    · subst hb
      rw [if_neg (by omega), if_pos rfl, if_pos (by simp only [List.length_cons]; omega), Nat.sub_self]
      rfl
    · by_cases h1 : a + 1 ≤ b ∧ b < a + 1 + l.length
      · rw [if_pos h1, if_pos (by simp only [List.length_cons]; omega)]
        rw [show b - a = (b - (a + 1)) + 1 by omega, List.getD_cons_succ]
      · rw [if_neg h1, if_neg hb, if_neg (by simp only [List.length_cons]; omega)]

theorem wfFrom_filter {w : Nat} (f : Nat × BitVec w → Bool) (m : SMap w) (lo : Nat) (h : SMap.wfFrom lo m = true) :
    SMap.wfFrom lo (m.filter f) = true := by
  induction m generalizing lo with
  | nil => rfl
  | cons p l ih =>
    obtain ⟨k, v⟩ := p
    rw [wfFrom_cons] at h
    have hl := ih (k + 1) h.2.2
    by_cases hf : f (k, v) = true
    · rw [List.filter_cons_of_pos hf]
      exact (wfFrom_cons ..).mpr ⟨h.1, h.2.1, hl⟩
    · rw [List.filter_cons_of_neg hf]
      exact wfFrom_mono _ _ _ (by omega) hl

theorem wf_filter {w : Nat} (f : Nat × BitVec w → Bool) (m : SMap w) (h : Memory.wf m = true) : Memory.wf (m.filter f) = true :=
  wfFrom_filter f m 0 h

theorem wf_clear {w : Nat} (m : SMap w) (a n : Nat) (h : Memory.wf m = true) : Memory.wf (SMap.clear m a n) = true := wf_filter _ m h

theorem wf_memSet (m : SMap 8) (a n x : Nat) (h : Memory.wf m = true) : Memory.wf (memSet m a n x) = true := wf_setList m a _ h

@[simp] theorem leBytes_length (n x : Nat) : (leBytes n x).length = n := by
  induction n generalizing x with
  | zero => rfl
  | succ n ih => simp [leBytes, ih]

/-! ## The operations over memory -/

theorem reset_mem_wf : Memory.wf State.reset.mem = true := rfl

theorem poke_wf (s : State) (pa : Nat) (bs : List (BitVec 8)) (h : Memory.wf s.mem = true) : Memory.wf (s.poke pa bs).mem = true :=
  wf_setList s.mem pa bs h

/-- A byte of memory after a write at the point of coherence. -/
theorem poke_get (s : State) (pa a : Nat) (bs : List (BitVec 8)) (h : Memory.wf s.mem = true) :
    SMap.get (s.poke pa bs).mem a = if pa ≤ a ∧ a < pa + bs.length then bs.getD (a - pa) 0 else SMap.get s.mem a :=
  get_setList s.mem pa a bs h

theorem claimLine_wf (s : State) (job line : Nat) (h : Memory.wf s.mem = true) : Memory.wf (s.claimLine job line).mem = true := by
  unfold State.claimLine
  split
  · exact h
  · show Memory.wf (if _ then _ else s.mem) = true
    split
    · exact wf_setList _ _ _ h
    · exact h

/-- Enciphering the lines of a write under its job's key keeps the form. -/
theorem claim_wf (s : State) (job pa n : Nat) (h : Memory.wf s.mem = true) : Memory.wf (s.claim job pa n).mem = true := by
  unfold State.claim
  split
  · rename_i hc
    clear hc
    generalize List.range _ = l
    induction l generalizing s with
    | nil => exact h
    | cons k l ih => exact ih (s.claimLine job (pa / 128 + k)) (claimLine_wf s job _ h)
  · exact h

/-- A write of a job that is not secure enciphers nothing. -/
theorem claim_plain (s : State) (job pa n : Nat) (h : s.jobSecure job = false) : s.claim job pa n = s := by
  simp [State.claim, h]

theorem pokeFor_wf (s : State) (job pa : Nat) (bs : List (BitVec 8)) (h : Memory.wf s.mem = true) :
    Memory.wf (s.pokeFor job pa bs).mem = true := poke_wf _ pa bs (claim_wf s job pa bs.length h)

/-- A job that is not secure reads memory as it stands. -/
theorem plain_insecure (s : State) (job pa : Nat) (h : s.jobSecure job = false) : s.plain job pa = SMap.get s.mem pa := by
  simp [State.plain, State.foreign, h]

theorem settlePf_mem (s : State) (core line : Nat) : (s.settlePf core line).mem = s.mem := by
  unfold State.settlePf
  simp only
  split <;> rfl

theorem store_wf (s : State) (core pa : Nat) (bs : List (BitVec 8)) (h : Memory.wf s.mem = true) : Memory.wf (s.store core pa bs).mem = true :=
  poke_wf _ pa bs ((settlePf_mem s core (pa / 128)).symm ▸ h)

theorem lineBack_wf (s : State) (l : L1Line) (h : Memory.wf s.mem = true) : Memory.wf (s.lineBack l).mem = true := by
  unfold State.lineBack
  split
  · exact wf_setList _ _ _ h
  · exact h

theorem evict_wf (s : State) (core k : Nat) (h : Memory.wf s.mem = true) : Memory.wf (s.evict core k).mem = true := by
  unfold State.evict
  split
  · exact h
  · exact lineBack_wf s _ h

theorem allocLine_wf (s : State) (core : Nat) (l : L1Line) (h : Memory.wf s.mem = true) : Memory.wf (s.allocLine core l).mem = true := by
  unfold State.allocLine State.take
  simp only
  rw [State_modCore_mem]
  split <;> exact evict_wf _ _ _ h

/-- The line of a demand enters L1; memory changes only by the line that leaves. -/
theorem demand_wf (s : State) (core job : Nat) (c : Bool) (line : Nat) (h : Memory.wf s.mem = true) : Memory.wf (s.demand core job c line).mem = true := by
  unfold State.demand
  split
  · exact h
  · have hs : Memory.wf (s.settlePf core line).mem = true := (settlePf_mem s core line).symm ▸ h
    simp only
    split
    · exact hs
    · exact allocLine_wf _ core _ hs

theorem later_mem (s : State) (w : Waiting) : (s.later w).mem = s.mem := by
  unfold State.later
  split <;> rfl

theorem startRemap_mem (s : State) (slice vault : Nat) : (s.startRemap slice vault).mem = s.mem := by
  unfold State.startRemap
  exact later_mem _ _

theorem retarget_mem (s : State) : s.retarget.mem = s.mem := by
  unfold State.retarget
  simp only
  generalize List.zipIdx _ = l
  induction l generalizing s with
  | nil => rfl
  | cons p l ih =>
    rw [List.foldl_cons, ih]
    split
    · rfl
    · exact startRemap_mem s _ _

theorem returnVaults_wf (s : State) (m : BitVec 512) (h : Memory.wf s.mem = true) : Memory.wf (s.returnVaults m).mem = true := by
  unfold State.returnVaults
  split
  · exact h
  · split
    · exact (later_mem s _).symm ▸ h
    · simp only [retarget_mem]
      exact wf_filter _ _ h

theorem coldReset_wf (s : State) (h : Memory.wf s.mem = true) : Memory.wf s.coldReset.mem = true := wf_filter _ _ h

theorem zeroSecure_wf (s : State) (h : Memory.wf s.mem = true) : Memory.wf s.zeroSecure.mem = true := wf_filter _ _ h

/-! ## The arrays of a core -/

theorem arraySet_wf (c : Core) (a : Nat) (bs : List (BitVec 8)) (h : Memory.wf c.array = true) : Memory.wf (c.arraySet a bs).array = true :=
  wf_setList _ _ _ h

theorem tileSet_wf (c : Core) (tile e : Nat) (l : List Word) (h : Memory.wf c.tiles = true) : Memory.wf (c.tileSet tile e l).tiles = true :=
  wf_setList _ _ _ h

theorem zeroed_array_wf (c : Core) : Memory.wf c.zeroed.array = true := rfl

theorem grantGranules_array_wf (s : State) (core first n : Nat) (zero : Bool) (k : Nat) (h : ∀ k, Memory.wf (s.core k).array = true) :
    Memory.wf ((s.grantGranules core first n zero).core k).array = true := by
  unfold State.grantGranules State.core
  simp only [State.modCore, State.setCore, State.core, Vector.getElem_set, Fin.getElem_fin]
  split
  · exact wf_clear _ _ _ (h core)
  · exact h k

theorem loseTile_tiles_wf (s : State) (core tile : Nat) (zero : Bool) (k : Nat) (h : ∀ k, Memory.wf (s.core k).tiles = true) :
    Memory.wf ((s.loseTile core tile zero).core k).tiles = true := by
  unfold State.loseTile State.core
  simp only [State.modCore, State.setCore, State.core, Vector.getElem_set, Fin.getElem_fin]
  split
  · exact wf_clear _ _ _ (h core)
  · exact h k

end Sys2Proof.Laws
end

