-- ==== Sys2Proof/Laws/Messages.lean ====
section
/-! SUPPORT. What a message between blocks can change: stamps, and nothing else (R290). -/

namespace Sys2Proof.Laws

open Machine

/-- Two states that differ in the stamps of blocks only, which lie in the cores, the columns, the ports and the package. -/
def StampsOnly (s t : State) : Prop := t = { s with cores := t.cores, columns := t.columns, ports := t.ports, sys := t.sys }

theorem StampsOnly.refl (s : State) : StampsOnly s s := rfl

theorem StampsOnly.trans {s t u : State} (h : StampsOnly s t) (k : StampsOnly t u) : StampsOnly s u := by
  unfold StampsOnly at h k ⊢
  rw [k, h]

theorem StampsOnly.mem {s t : State} (h : StampsOnly s t) : t.mem = s.mem := by rw [h]
theorem StampsOnly.groups {s t : State} (h : StampsOnly s t) : t.groups = s.groups := by rw [h]
theorem StampsOnly.teams {s t : State} (h : StampsOnly s t) : t.teams = s.teams := by rw [h]
theorem StampsOnly.atomics {s t : State} (h : StampsOnly s t) : t.atomics = s.atomics := by rw [h]
theorem StampsOnly.objects {s t : State} (h : StampsOnly s t) : t.objects = s.objects := by rw [h]

theorem hears_stamps (s : State) (b : Clocked) (v : BitVec 48) : StampsOnly s (s.hears b v) := by cases b <;> rfl

theorem tell_stamps (s : State) (a b : Clocked) : StampsOnly s (s.tell a b) := hears_stamps s b _

theorem exchange_stamps (s : State) (a : Clocked) (pa : Nat) : StampsOnly s (s.exchange a pa) := by
  unfold State.exchange
  split
  · exact (tell_stamps s a _).trans (tell_stamps _ _ a)
  · exact .refl s

theorem message_stamps (s : State) (n : Nat) : StampsOnly s (s.message n) := tell_stamps s _ _

/-- The block that hears a stamp is past it, and past what it had, where neither wraps. -/
theorem stampMax_lt (own got : BitVec 48) (ho : own.toNat + 1 < 2 ^ 48) (hg : got.toNat + 1 < 2 ^ 48) :
    own < stampMax own got ∧ got < stampMax own got := by
  simp only [stampMax, BitVec.lt_def]
  split <;> rw [BitVec.toNat_add, show (1 : BitVec 48).toNat = 1 from rfl] <;> omega

end Sys2Proof.Laws
end

