-- ==== Sys2Proof/Laws/PerInstr.lean ====
section
/-! SUPPORT. One fact of every instruction's encoding, per constructor: the first word of a 32-bit instruction has bit 1 set exactly
where a safe-point word follows, and a 16-bit one has none (R137, R151). -/

namespace Sys2Proof.Laws

/-- Bit `k` of a number below 2^32, as a word. -/
theorem bitAt_ofNat (n k : Nat) : bitAt (BitVec.ofNat 32 n) k = (n % 2 ^ 32 / 2 ^ k % 2 == 1) := by
  rw [bitAt, BitVec.toNat_ofNat]

/-- A number whose two lowest bits are 1 and the safe-point bit gives a word with them. -/
theorem flag_ofNat (n r : Nat) (sp : Sp) (h : n = 1 + spBit sp + 4 * r) :
    bitAt (BitVec.ofNat 32 n) 0 = true ∧ bitAt (BitVec.ofNat 32 n) 1 = sp.isSome := by
  rw [bitAt_ofNat, bitAt_ofNat, h]
  cases sp with
  | none =>
    simp only [spBit, Option.isSome_none, Bool.false_eq_true, ↓reduceIte, beq_iff_eq, beq_eq_false_iff_ne]
    omega
  | some m =>
    simp only [spBit, Option.isSome_some, ↓reduceIte, beq_iff_eq]
    omega

/-- What every instruction's first word says. -/
def FlagOk (ws : List Word) (sp : Sp) : Prop :=
  match ws with
  | [] => sp = none
  | w :: _ => if bitAt w 0 then bitAt w 1 = sp.isSome else sp = none

theorem flagOk_of {w : Word} {sp : Sp} (l : List Word) (h : bitAt w 0 = true ∧ bitAt w 1 = sp.isSome) : FlagOk (w :: l) sp := by
  rw [FlagOk, if_pos h.1]
  exact h.2

theorem flagOk_short (op : Nat) (x : H16) (l : List Word) : FlagOk (encH16 op x :: l) none := by
  have h : bitAt (encH16 op x) 0 = false := by
    rw [encH16, bitAt_ofNat, beq_eq_false_iff_ne]
    omega
  rw [FlagOk, h]
  rfl

theorem flagOk_v3 (op : Nat) (x : V3) (l : List Word) : FlagOk (encV3 op x :: l) x.sp :=
  flagOk_of l (flag_ofNat _ (2 ^ 3 * op + 2 ^ 7 * x.d.toNat + 2 ^ 11 * x.w.toNat + 2 ^ 12 * x.a.toNat + 2 ^ 18 * x.b.toNat +
    2 ^ 24 * x.c.toNat) _ (by omega))

theorem flagOk_choose (x : ChooseArgs) (l : List Word) : FlagOk (encChoose x :: l) x.sp :=
  flagOk_of l (flag_ofNat _ (2 ^ 3 * 6 + 2 ^ 7 * x.d.toNat + 2 ^ 11 * x.w.toNat + 2 ^ 12 * x.a.toNat + 2 ^ 18 * x.b.toNat +
    2 ^ 24 * encPred x.p) _ (by omega))

theorem flagOk_v2 (op : Nat) (x : V2) (l : List Word) : FlagOk (encV2 op x :: l) x.sp :=
  flagOk_of l (flag_ofNat _ (1 + 2 ^ 3 * op + 2 ^ 9 * x.mod.toNat + 2 ^ 12 * x.d.toNat + 2 ^ 16 * x.w.toNat + 2 ^ 17 * x.a.toNat +
    2 ^ 23 * x.b.toNat + 2 ^ 29 * x.s.toNat) _ (by omega))

theorem flagOk_vi (op : Nat) (x : VI) (l : List Word) : FlagOk (encVI op x :: l) x.sp :=
  flagOk_of l (flag_ofNat _ (2 + 2 ^ 3 * op + 2 ^ 7 * x.d.toNat + 2 ^ 11 * x.w.toNat + 2 ^ 12 * x.a.toNat + 2 ^ 18 * x.imm.toNat) _
    (by omega))

theorem flagOk_mem (op : Nat) (x : Mem) (l : List Word) : FlagOk (encMem op x ++ l) x.sp :=
  flagOk_of (x.disp.toList ++ l) (flag_ofNat _ (3 + 2 ^ 3 * op + 2 ^ 8 * x.d.toNat + 2 ^ 12 * x.w.toNat + 2 ^ 13 * x.a.toNat +
    2 ^ 19 * x.b.toNat + 2 ^ 25 * x.g.toNat + 2 ^ 28 * x.m.toNat) _ (by omega))

theorem flagOk_uni (op : Nat) (x : Uni) (l : List Word) : FlagOk (encUni op x :: l) x.sp :=
  flagOk_of l (flag_ofNat _ (4 + 2 ^ 3 * op + 2 ^ 9 * x.d.toNat + 2 ^ 15 * x.a.toNat + 2 ^ 21 * x.b.toNat + 2 ^ 27 * x.mod.toNat) _
    (by omega))

theorem flagOk_asy (op : Nat) (x : Asy) (l : List Word) : FlagOk (encAsy op x :: l) x.sp :=
  flagOk_of l (flag_ofNat _ (6 + 2 ^ 3 * op + 2 ^ 9 * x.d.toNat + 2 ^ 13 * x.w.toNat + 2 ^ 14 * x.a.toNat + 2 ^ 20 * x.b.toNat +
    2 ^ 26 * x.sub.toNat) _ (by omega))

theorem flagOk_ctl (op r : Nat) (sp : Sp) (rest : Nat) (l : List Word) (h : rest = 2 ^ 10 * r) : FlagOk (encCtl op sp rest :: l) sp :=
  flagOk_of l (flag_ofNat _ (5 + 2 ^ 3 * op + 2 ^ 8 * r) sp (by omega))

/-- The first word of an instruction says whether a safe-point word follows. -/
def Encoding.Statement (i : Instr) : Prop := FlagOk (encode i) (spOf i)

theorem Encoding.nop : Encoding.Statement .nop := rfl
theorem Encoding.mov16 x0 : Encoding.Statement (.mov16 x0) := flagOk_short _ _ _
theorem Encoding.iadd16 x0 : Encoding.Statement (.iadd16 x0) := flagOk_short _ _ _
theorem Encoding.isub16 x0 : Encoding.Statement (.isub16 x0) := flagOk_short _ _ _
theorem Encoding.imul16 x0 : Encoding.Statement (.imul16 x0) := flagOk_short _ _ _
theorem Encoding.and16 x0 : Encoding.Statement (.and16 x0) := flagOk_short _ _ _
theorem Encoding.or16 x0 : Encoding.Statement (.or16 x0) := flagOk_short _ _ _
theorem Encoding.xor16 x0 : Encoding.Statement (.xor16 x0) := flagOk_short _ _ _
theorem Encoding.shl16 x0 : Encoding.Statement (.shl16 x0) := flagOk_short _ _ _
theorem Encoding.shr16 x0 : Encoding.Statement (.shr16 x0) := flagOk_short _ _ _
theorem Encoding.sar16 x0 : Encoding.Statement (.sar16 x0) := flagOk_short _ _ _
theorem Encoding.fadd16 x0 : Encoding.Statement (.fadd16 x0) := flagOk_short _ _ _
theorem Encoding.fsub16 x0 : Encoding.Statement (.fsub16 x0) := flagOk_short _ _ _
theorem Encoding.fmul16 x0 : Encoding.Statement (.fmul16 x0) := flagOk_short _ _ _
theorem Encoding.fmin16 x0 : Encoding.Statement (.fmin16 x0) := flagOk_short _ _ _
theorem Encoding.fmax16 x0 : Encoding.Statement (.fmax16 x0) := flagOk_short _ _ _
theorem Encoding.imin16 x0 : Encoding.Statement (.imin16 x0) := flagOk_short _ _ _
theorem Encoding.fma32 x0 : Encoding.Statement (.fma32 x0) := flagOk_v3 _ _ _
theorem Encoding.fma64 x0 : Encoding.Statement (.fma64 x0) := flagOk_v3 _ _ _
theorem Encoding.fmah2 x0 : Encoding.Statement (.fmah2 x0) := flagOk_v3 _ _ _
theorem Encoding.fmab2 x0 : Encoding.Statement (.fmab2 x0) := flagOk_v3 _ _ _
theorem Encoding.muladd x0 : Encoding.Statement (.muladd x0) := flagOk_v3 _ _ _
theorem Encoding.muladdh x0 : Encoding.Statement (.muladdh x0) := flagOk_v3 _ _ _
theorem Encoding.choose x0 : Encoding.Statement (.choose x0) := flagOk_choose _ _
theorem Encoding.bitins x0 : Encoding.Statement (.bitins x0) := flagOk_v3 _ _ _
theorem Encoding.shrcat x0 : Encoding.Statement (.shrcat x0) := flagOk_v3 _ _ _
theorem Encoding.dp4s8 x0 : Encoding.Statement (.dp4s8 x0) := flagOk_v3 _ _ _
theorem Encoding.dp4u8 x0 : Encoding.Statement (.dp4u8 x0) := flagOk_v3 _ _ _
theorem Encoding.dp8s4 x0 : Encoding.Statement (.dp8s4 x0) := flagOk_v3 _ _ _
theorem Encoding.dp4e4 x0 : Encoding.Statement (.dp4e4 x0) := flagOk_v3 _ _ _
theorem Encoding.dp4e5 x0 : Encoding.Statement (.dp4e5 x0) := flagOk_v3 _ _ _
theorem Encoding.dp8f4 x0 : Encoding.Statement (.dp8f4 x0) := flagOk_v3 _ _ _
theorem Encoding.dp2h x0 : Encoding.Statement (.dp2h x0) := flagOk_v3 _ _ _
theorem Encoding.mov x0 : Encoding.Statement (.mov x0) := flagOk_v2 _ _ _
theorem Encoding.iadd x0 : Encoding.Statement (.iadd x0) := flagOk_v2 _ _ _
theorem Encoding.isub x0 : Encoding.Statement (.isub x0) := flagOk_v2 _ _ _
theorem Encoding.imul x0 : Encoding.Statement (.imul x0) := flagOk_v2 _ _ _
theorem Encoding.imulhi x0 : Encoding.Statement (.imulhi x0) := flagOk_v2 _ _ _
theorem Encoding.imin x0 : Encoding.Statement (.imin x0) := flagOk_v2 _ _ _
theorem Encoding.imax x0 : Encoding.Statement (.imax x0) := flagOk_v2 _ _ _
theorem Encoding.iabs x0 : Encoding.Statement (.iabs x0) := flagOk_v2 _ _ _
theorem Encoding.and x0 : Encoding.Statement (.and x0) := flagOk_v2 _ _ _
theorem Encoding.or x0 : Encoding.Statement (.or x0) := flagOk_v2 _ _ _
theorem Encoding.xor x0 : Encoding.Statement (.xor x0) := flagOk_v2 _ _ _
theorem Encoding.andn x0 : Encoding.Statement (.andn x0) := flagOk_v2 _ _ _
theorem Encoding.shl x0 : Encoding.Statement (.shl x0) := flagOk_v2 _ _ _
theorem Encoding.shr x0 : Encoding.Statement (.shr x0) := flagOk_v2 _ _ _
theorem Encoding.sar x0 : Encoding.Statement (.sar x0) := flagOk_v2 _ _ _
theorem Encoding.rot x0 : Encoding.Statement (.rot x0) := flagOk_v2 _ _ _
theorem Encoding.popc x0 : Encoding.Statement (.popc x0) := flagOk_v2 _ _ _
theorem Encoding.clz x0 : Encoding.Statement (.clz x0) := flagOk_v2 _ _ _
theorem Encoding.brev x0 : Encoding.Statement (.brev x0) := flagOk_v2 _ _ _
theorem Encoding.bfx x0 : Encoding.Statement (.bfx x0) := flagOk_v2 _ _ _
theorem Encoding.lea x0 : Encoding.Statement (.lea x0) := flagOk_v2 _ _ _
theorem Encoding.iadd64 x0 : Encoding.Statement (.iadd64 x0) := flagOk_v2 _ _ _
theorem Encoding.icmp x0 : Encoding.Statement (.icmp x0) := flagOk_v2 _ _ _
theorem Encoding.pmov x0 : Encoding.Statement (.pmov x0) := flagOk_v2 _ _ _
theorem Encoding.fadd x0 : Encoding.Statement (.fadd x0) := flagOk_v2 _ _ _
theorem Encoding.fsub x0 : Encoding.Statement (.fsub x0) := flagOk_v2 _ _ _
theorem Encoding.fmul x0 : Encoding.Statement (.fmul x0) := flagOk_v2 _ _ _
theorem Encoding.fmin x0 : Encoding.Statement (.fmin x0) := flagOk_v2 _ _ _
theorem Encoding.fmax x0 : Encoding.Statement (.fmax x0) := flagOk_v2 _ _ _
theorem Encoding.fcmp x0 : Encoding.Statement (.fcmp x0) := flagOk_v2 _ _ _
theorem Encoding.fclass x0 : Encoding.Statement (.fclass x0) := flagOk_v2 _ _ _
theorem Encoding.fint x0 : Encoding.Statement (.fint x0) := flagOk_v2 _ _ _
theorem Encoding.frcp x0 : Encoding.Statement (.frcp x0) := flagOk_v2 _ _ _
theorem Encoding.frsq x0 : Encoding.Statement (.frsq x0) := flagOk_v2 _ _ _
theorem Encoding.fsqrt x0 : Encoding.Statement (.fsqrt x0) := flagOk_v2 _ _ _
theorem Encoding.fexp2 x0 : Encoding.Statement (.fexp2 x0) := flagOk_v2 _ _ _
theorem Encoding.flog2 x0 : Encoding.Statement (.flog2 x0) := flagOk_v2 _ _ _
theorem Encoding.fsin x0 : Encoding.Statement (.fsin x0) := flagOk_v2 _ _ _
theorem Encoding.fcos x0 : Encoding.Statement (.fcos x0) := flagOk_v2 _ _ _
theorem Encoding.dadd x0 : Encoding.Statement (.dadd x0) := flagOk_v2 _ _ _
theorem Encoding.dmul x0 : Encoding.Statement (.dmul x0) := flagOk_v2 _ _ _
theorem Encoding.dmin x0 : Encoding.Statement (.dmin x0) := flagOk_v2 _ _ _
theorem Encoding.dmax x0 : Encoding.Statement (.dmax x0) := flagOk_v2 _ _ _
theorem Encoding.dcmp x0 : Encoding.Statement (.dcmp x0) := flagOk_v2 _ _ _
theorem Encoding.drcp x0 : Encoding.Statement (.drcp x0) := flagOk_v2 _ _ _
theorem Encoding.dsqrt x0 : Encoding.Statement (.dsqrt x0) := flagOk_v2 _ _ _
theorem Encoding.hadd2 x0 : Encoding.Statement (.hadd2 x0) := flagOk_v2 _ _ _
theorem Encoding.hmul2 x0 : Encoding.Statement (.hmul2 x0) := flagOk_v2 _ _ _
theorem Encoding.badd2 x0 : Encoding.Statement (.badd2 x0) := flagOk_v2 _ _ _
theorem Encoding.bmul2 x0 : Encoding.Statement (.bmul2 x0) := flagOk_v2 _ _ _
theorem Encoding.cvt x0 : Encoding.Statement (.cvt x0) := flagOk_v2 _ _ _
theorem Encoding.pack x0 : Encoding.Statement (.pack x0) := flagOk_v2 _ _ _
theorem Encoding.unpack x0 : Encoding.Statement (.unpack x0) := flagOk_v2 _ _ _
theorem Encoding.xlane x0 : Encoding.Statement (.xlane x0) := flagOk_v2 _ _ _
theorem Encoding.poll x0 : Encoding.Statement (.poll x0) := flagOk_v2 _ _ _
theorem Encoding.scan x0 : Encoding.Statement (.scan x0) := flagOk_v2 _ _ _
theorem Encoding.lred x0 : Encoding.Statement (.lred x0) := flagOk_v2 _ _ _
theorem Encoding.movx x0 : Encoding.Statement (.movx x0) := flagOk_v2 _ _ _
theorem Encoding.stx x0 : Encoding.Statement (.stx x0) := flagOk_v2 _ _ _
theorem Encoding.pcomb x0 : Encoding.Statement (.pcomb x0) := flagOk_v2 _ _ _
theorem Encoding.hmin2 x0 : Encoding.Statement (.hmin2 x0) := flagOk_v2 _ _ _
theorem Encoding.hmax2 x0 : Encoding.Statement (.hmax2 x0) := flagOk_v2 _ _ _
theorem Encoding.hcmp2 x0 : Encoding.Statement (.hcmp2 x0) := flagOk_v2 _ _ _
theorem Encoding.iaddi x0 : Encoding.Statement (.iaddi x0) := flagOk_vi _ _ _
theorem Encoding.andi x0 : Encoding.Statement (.andi x0) := flagOk_vi _ _ _
theorem Encoding.ori x0 : Encoding.Statement (.ori x0) := flagOk_vi _ _ _
theorem Encoding.xori x0 : Encoding.Statement (.xori x0) := flagOk_vi _ _ _
theorem Encoding.shli x0 : Encoding.Statement (.shli x0) := flagOk_vi _ _ _
theorem Encoding.shri x0 : Encoding.Statement (.shri x0) := flagOk_vi _ _ _
theorem Encoding.sari x0 : Encoding.Statement (.sari x0) := flagOk_vi _ _ _
theorem Encoding.imuli x0 : Encoding.Statement (.imuli x0) := flagOk_vi _ _ _
theorem Encoding.icmpi x0 : Encoding.Statement (.icmpi x0) := flagOk_vi _ _ _
theorem Encoding.movi x0 : Encoding.Statement (.movi x0) := flagOk_vi _ _ _
theorem Encoding.movw x0 x1 : Encoding.Statement (.movw x0 x1) := flagOk_vi _ _ _
theorem Encoding.leai x0 : Encoding.Statement (.leai x0) := flagOk_vi _ _ _
theorem Encoding.faddw x0 x1 : Encoding.Statement (.faddw x0 x1) := flagOk_vi _ _ _
theorem Encoding.fmulw x0 x1 : Encoding.Statement (.fmulw x0 x1) := flagOk_vi _ _ _
theorem Encoding.iaddw x0 x1 : Encoding.Statement (.iaddw x0 x1) := flagOk_vi _ _ _
theorem Encoding.ld8 x0 : Encoding.Statement (.ld8 x0) := flagOk_mem _ _ _
theorem Encoding.ld8s x0 : Encoding.Statement (.ld8s x0) := flagOk_mem _ _ _
theorem Encoding.ld16 x0 : Encoding.Statement (.ld16 x0) := flagOk_mem _ _ _
theorem Encoding.ld16s x0 : Encoding.Statement (.ld16s x0) := flagOk_mem _ _ _
theorem Encoding.ld32 x0 : Encoding.Statement (.ld32 x0) := flagOk_mem _ _ _
theorem Encoding.ld64 x0 : Encoding.Statement (.ld64 x0) := flagOk_mem _ _ _
theorem Encoding.ld128 x0 : Encoding.Statement (.ld128 x0) := flagOk_mem _ _ _
theorem Encoding.st8 x0 : Encoding.Statement (.st8 x0) := flagOk_mem _ _ _
theorem Encoding.st16 x0 : Encoding.Statement (.st16 x0) := flagOk_mem _ _ _
theorem Encoding.st32 x0 : Encoding.Statement (.st32 x0) := flagOk_mem _ _ _
theorem Encoding.st64 x0 : Encoding.Statement (.st64 x0) := flagOk_mem _ _ _
theorem Encoding.st128 x0 : Encoding.Statement (.st128 x0) := flagOk_mem _ _ _
theorem Encoding.lda x0 x1 : Encoding.Statement (.lda x0 x1) := by
  rw [Encoding.Statement, encode, encodeWords, List.append_assoc]
  exact flagOk_mem _ _ _
theorem Encoding.stl x0 x1 : Encoding.Statement (.stl x0 x1) := by
  rw [Encoding.Statement, encode, encodeWords, List.append_assoc]
  exact flagOk_mem _ _ _
theorem Encoding.atom x0 x1 : Encoding.Statement (.atom x0 x1) := by
  rw [Encoding.Statement, encode, encodeWords, List.append_assoc]
  exact flagOk_mem _ _ _
theorem Encoding.red x0 x1 : Encoding.Statement (.red x0 x1) := by
  rw [Encoding.Statement, encode, encodeWords, List.append_assoc]
  exact flagOk_mem _ _ _
theorem Encoding.callm x0 x1 : Encoding.Statement (.callm x0 x1) := by
  rw [Encoding.Statement, encode, encodeWords, List.append_assoc]
  exact flagOk_mem _ _ _
theorem Encoding.postm x0 x1 : Encoding.Statement (.postm x0 x1) := by
  rw [Encoding.Statement, encode, encodeWords, List.append_assoc]
  exact flagOk_mem _ _ _
theorem Encoding.lds x0 : Encoding.Statement (.lds x0) := flagOk_mem _ _ _
theorem Encoding.sts x0 : Encoding.Statement (.sts x0) := flagOk_mem _ _ _
theorem Encoding.atoms x0 x1 : Encoding.Statement (.atoms x0 x1) := by
  rw [Encoding.Statement, encode, encodeWords, List.append_assoc]
  exact flagOk_mem _ _ _
theorem Encoding.ldp x0 : Encoding.Statement (.ldp x0) := flagOk_mem _ _ _
theorem Encoding.stp x0 : Encoding.Statement (.stp x0) := flagOk_mem _ _ _
theorem Encoding.ldpk x0 : Encoding.Statement (.ldpk x0) := flagOk_mem _ _ _
theorem Encoding.pref x0 : Encoding.Statement (.pref x0) := flagOk_mem _ _ _
theorem Encoding.fence x0 x1 : Encoding.Statement (.fence x0 x1) := by
  rw [Encoding.Statement, encode, encodeWords, List.append_assoc]
  exact flagOk_mem _ _ _
theorem Encoding.smov x0 : Encoding.Statement (.smov x0) := flagOk_uni _ _ _
theorem Encoding.sadd x0 : Encoding.Statement (.sadd x0) := flagOk_uni _ _ _
theorem Encoding.ssub x0 : Encoding.Statement (.ssub x0) := flagOk_uni _ _ _
theorem Encoding.smul x0 : Encoding.Statement (.smul x0) := flagOk_uni _ _ _
theorem Encoding.smulhi x0 : Encoding.Statement (.smulhi x0) := flagOk_uni _ _ _
theorem Encoding.sand x0 : Encoding.Statement (.sand x0) := flagOk_uni _ _ _
theorem Encoding.sor x0 : Encoding.Statement (.sor x0) := flagOk_uni _ _ _
theorem Encoding.sxor x0 : Encoding.Statement (.sxor x0) := flagOk_uni _ _ _
theorem Encoding.sshl x0 : Encoding.Statement (.sshl x0) := flagOk_uni _ _ _
theorem Encoding.sshr x0 : Encoding.Statement (.sshr x0) := flagOk_uni _ _ _
theorem Encoding.ssar x0 : Encoding.Statement (.ssar x0) := flagOk_uni _ _ _
theorem Encoding.smin x0 : Encoding.Statement (.smin x0) := flagOk_uni _ _ _
theorem Encoding.smax x0 : Encoding.Statement (.smax x0) := flagOk_uni _ _ _
theorem Encoding.scmp x0 : Encoding.Statement (.scmp x0) := flagOk_uni _ _ _
theorem Encoding.ssel x0 : Encoding.Statement (.ssel x0) := flagOk_uni _ _ _
theorem Encoding.smovw x0 x1 : Encoding.Statement (.smovw x0 x1) := flagOk_uni _ _ _
theorem Encoding.smovd x0 x1 : Encoding.Statement (.smovd x0 x1) := flagOk_uni _ _ _
theorem Encoding.saddw x0 x1 : Encoding.Statement (.saddw x0 x1) := flagOk_uni _ _ _
theorem Encoding.sld x0 : Encoding.Statement (.sld x0) := flagOk_uni _ _ _
theorem Encoding.sst x0 : Encoding.Statement (.sst x0) := flagOk_uni _ _ _
theorem Encoding.slda x0 x1 : Encoding.Statement (.slda x0 x1) := flagOk_uni _ _ _
theorem Encoding.sstl x0 x1 : Encoding.Statement (.sstl x0 x1) := flagOk_uni _ _ _
theorem Encoding.satom x0 x1 : Encoding.Statement (.satom x0 x1) := flagOk_uni _ _ _
theorem Encoding.sread x0 : Encoding.Statement (.sread x0) := flagOk_uni _ _ _
theorem Encoding.swrite x0 : Encoding.Statement (.swrite x0) := flagOk_uni _ _ _
theorem Encoding.rdlane x0 : Encoding.Statement (.rdlane x0) := flagOk_uni _ _ _
theorem Encoding.bcast x0 : Encoding.Statement (.bcast x0) := flagOk_uni _ _ _
theorem Encoding.sfadd x0 : Encoding.Statement (.sfadd x0) := flagOk_uni _ _ _
theorem Encoding.sfmul x0 : Encoding.Statement (.sfmul x0) := flagOk_uni _ _ _
theorem Encoding.scvt x0 : Encoding.Statement (.scvt x0) := flagOk_uni _ _ _
theorem Encoding.spopc x0 : Encoding.Statement (.spopc x0) := flagOk_uni _ _ _
theorem Encoding.sclz x0 : Encoding.Statement (.sclz x0) := flagOk_uni _ _ _
theorem Encoding.actmask x0 : Encoding.Statement (.actmask x0) := flagOk_uni _ _ _
theorem Encoding.elect x0 : Encoding.Statement (.elect x0) := flagOk_uni _ _ _
theorem Encoding.sdadd x0 : Encoding.Statement (.sdadd x0) := flagOk_uni _ _ _
theorem Encoding.sdmul x0 : Encoding.Statement (.sdmul x0) := flagOk_uni _ _ _
theorem Encoding.bra x0 x1 : Encoding.Statement (.bra x0 x1) := flagOk_ctl _ (x1.toNat * 2 ^ 0) _ _ _ (by omega)
theorem Encoding.brc x0 x1 x2 x3 : Encoding.Statement (.brc x0 x1 x2 x3) := flagOk_ctl _ (x1.val * 2 ^ 0 + x2.toNat * 2 ^ 2 + x3.toNat * 2 ^ 4) _ _ _ (by omega)
theorem Encoding.brd x0 x1 x2 x3 : Encoding.Statement (.brd x0 x1 x2 x3) := flagOk_ctl _ (encPred x1 * 2 ^ 0 + x2.toNat * 2 ^ 4) _ _ _ (by omega)
theorem Encoding.join x0 : Encoding.Statement (.join x0) := flagOk_ctl _ (0) _ _ _ (by omega)
theorem Encoding.call x0 x1 : Encoding.Statement (.call x0 x1) := flagOk_ctl _ (x1.toNat * 2 ^ 0) _ _ _ (by omega)
theorem Encoding.ret x0 : Encoding.Statement (.ret x0) := flagOk_ctl _ (0) _ _ _ (by omega)
theorem Encoding.calli x0 x1 : Encoding.Statement (.calli x0 x1) := flagOk_ctl _ (x1.toNat * 2 ^ 0) _ _ _ (by omega)
theorem Encoding.region x0 x1 : Encoding.Statement (.region x0 x1) := flagOk_ctl _ ((x1.length - 1) * 2 ^ 0) _ _ _ (by omega)
theorem Encoding.regionu x0 x1 : Encoding.Statement (.regionu x0 x1) := flagOk_ctl _ ((x1.length - 1) * 2 ^ 0) _ _ _ (by omega)
theorem Encoding.exit x0 : Encoding.Statement (.exit x0) := flagOk_ctl _ (0) _ _ _ (by omega)
theorem Encoding.yield x0 x1 x2 : Encoding.Statement (.yield x0 x1 x2) := flagOk_ctl _ (x1.toNat * 2 ^ 0 + x2.toNat * 2 ^ 4) _ _ _ (by omega)
theorem Encoding.barArrive x0 x1 : Encoding.Statement (.barArrive x0 x1) := flagOk_ctl _ (x1.toNat * 2 ^ 0) _ _ _ (by omega)
theorem Encoding.barWait x0 x1 : Encoding.Statement (.barWait x0 x1) := flagOk_ctl _ (x1.toNat * 2 ^ 0 + 2 ^ 4) _ _ _ (by omega)
theorem Encoding.barArrivewait x0 x1 : Encoding.Statement (.barArrivewait x0 x1) := flagOk_ctl _ (x1.toNat * 2 ^ 0 + 2 * 2 ^ 4) _ _ _ (by omega)
theorem Encoding.barinit x0 x1 x2 : Encoding.Statement (.barinit x0 x1 x2) := flagOk_ctl _ (x1.toNat * 2 ^ 0 + x2.toNat * 2 ^ 4) _ _ _ (by omega)
theorem Encoding.carve x0 x1 x2 : Encoding.Statement (.carve x0 x1 x2) := flagOk_ctl _ (x1.toNat * 2 ^ 0 + x2.toNat * 2 ^ 4) _ _ _ (by omega)
theorem Encoding.ixset x0 x1 x2 x3 : Encoding.Statement (.ixset x0 x1 x2 x3) := flagOk_ctl _ (x1.val * 2 ^ 0 + x2.toNat * 2 ^ 2 + x3.toNat * 2 ^ 10) _ _ _ (by omega)
theorem Encoding.spawn x0 x1 x2 : Encoding.Statement (.spawn x0 x1 x2) := flagOk_ctl _ (x1.toNat * 2 ^ 0 + x2.toNat * 2 ^ 6) _ _ _ (by omega)
theorem Encoding.trap x0 x1 : Encoding.Statement (.trap x0 x1) := flagOk_ctl _ (x1.toNat * 2 ^ 0) _ _ _ (by omega)
theorem Encoding.tret x0 : Encoding.Statement (.tret x0) := flagOk_ctl _ (0) _ _ _ (by omega)
theorem Encoding.bkpt x0 : Encoding.Statement (.bkpt x0) := flagOk_ctl _ (0) _ _ _ (by omega)
theorem Encoding.setfpm x0 x1 : Encoding.Statement (.setfpm x0 x1) := flagOk_ctl _ (x1.toNat * 2 ^ 0) _ _ _ (by omega)
theorem Encoding.kill x0 x1 : Encoding.Statement (.kill x0 x1) := flagOk_ctl _ (encPred x1 * 2 ^ 0) _ _ _ (by omega)
theorem Encoding.nop32 x0 : Encoding.Statement (.nop32 x0) := flagOk_ctl _ (0) _ _ _ (by omega)
theorem Encoding.idemStart x0 : Encoding.Statement (.idemStart x0) := flagOk_ctl _ (0) _ _ _ (by omega)
theorem Encoding.idemCommit x0 : Encoding.Statement (.idemCommit x0) := flagOk_ctl _ (2 ^ 0) _ _ _ (by omega)
theorem Encoding.copy x0 x1 : Encoding.Statement (.copy x0 x1) := flagOk_asy _ _ _
theorem Encoding.copyg x0 x1 : Encoding.Statement (.copyg x0 x1) := flagOk_asy _ _ _
theorem Encoding.sqfence x0 : Encoding.Statement (.sqfence x0) := flagOk_asy _ _ _
theorem Encoding.stream x0 x1 : Encoding.Statement (.stream x0 x1) := flagOk_asy _ _ _
theorem Encoding.mma x0 x1 : Encoding.Statement (.mma x0 x1) := flagOk_asy _ _ _
theorem Encoding.mbatch x0 : Encoding.Statement (.mbatch x0) := flagOk_asy _ _ _
theorem Encoding.mwait x0 x1 : Encoding.Statement (.mwait x0 x1) := flagOk_asy _ _ _
theorem Encoding.mdrain x0 x1 : Encoding.Statement (.mdrain x0 x1) := flagOk_asy _ _ _
theorem Encoding.mfill x0 x1 : Encoding.Statement (.mfill x0 x1) := flagOk_asy _ _ _
theorem Encoding.mzero x0 : Encoding.Statement (.mzero x0) := flagOk_asy _ _ _
theorem Encoding.neval x0 x1 : Encoding.Statement (.neval x0 x1) := flagOk_asy _ _ _
theorem Encoding.tex x0 x1 : Encoding.Statement (.tex x0 x1) := flagOk_asy _ _ _
theorem Encoding.texf x0 x1 : Encoding.Statement (.texf x0 x1) := flagOk_asy _ _ _
theorem Encoding.texq x0 : Encoding.Statement (.texq x0) := flagOk_asy _ _ _
theorem Encoding.trace x0 : Encoding.Statement (.trace x0) := flagOk_asy _ _ _
theorem Encoding.flins x0 : Encoding.Statement (.flins x0) := flagOk_asy _ _ _
theorem Encoding.flres x0 : Encoding.Statement (.flres x0) := flagOk_asy _ _ _
theorem Encoding.ordent x0 : Encoding.Statement (.ordent x0) := flagOk_asy _ _ _
theorem Encoding.ordlv x0 : Encoding.Statement (.ordlv x0) := flagOk_asy _ _ _
theorem Encoding.patch x0 : Encoding.Statement (.patch x0) := flagOk_asy _ _ _
theorem Encoding.gvtx x0 x1 : Encoding.Statement (.gvtx x0 x1) := flagOk_asy _ _ _
theorem Encoding.tkpush x0 x1 : Encoding.Statement (.tkpush x0 x1) := flagOk_asy _ _ _
theorem Encoding.tkpop x0 x1 : Encoding.Statement (.tkpop x0 x1) := flagOk_asy _ _ _
theorem Encoding.tksteal x0 x1 : Encoding.Statement (.tksteal x0 x1) := flagOk_asy _ _ _
theorem Encoding.tkdone x0 x1 : Encoding.Statement (.tkdone x0 x1) := flagOk_asy _ _ _
theorem Encoding.xchg x0 : Encoding.Statement (.xchg x0) := flagOk_asy _ _ _
theorem Encoding.cred x0 x1 : Encoding.Statement (.cred x0 x1) := flagOk_asy _ _ _
theorem Encoding.rlogDisable x0 : Encoding.Statement (.rlogDisable x0) := flagOk_asy _ _ _
theorem Encoding.rlogRecord x0 : Encoding.Statement (.rlogRecord x0) := flagOk_asy _ _ _
theorem Encoding.rlogReplay x0 : Encoding.Statement (.rlogReplay x0) := flagOk_asy _ _ _
theorem Encoding.rlogMark x0 : Encoding.Statement (.rlogMark x0) := flagOk_asy _ _ _
theorem Encoding.launch x0 x1 : Encoding.Statement (.launch x0 x1) := rfl
theorem Encoding.launch2 x0 x1 x2 x3 : Encoding.Statement (.launch2 x0 x1 x2 x3) := rfl
theorem Encoding.ib x0 x1 x2 : Encoding.Statement (.ib x0 x1 x2) := rfl
theorem Encoding.pred x0 x1 x2 : Encoding.Statement (.pred x0 x1 x2) := rfl
theorem Encoding.loop x0 x1 x2 : Encoding.Statement (.loop x0 x1 x2) := rfl
theorem Encoding.wait x0 x1 : Encoding.Statement (.wait x0 x1) := rfl
theorem Encoding.signal x0 x1 x2 x3 x4 x5 : Encoding.Statement (.signal x0 x1 x2 x3 x4 x5) := rfl
theorem Encoding.ffence x0 : Encoding.Statement (.ffence x0) := rfl
theorem Encoding.graph x0 x1 x2 x3 : Encoding.Statement (.graph x0 x1 x2 x3) := rfl
theorem Encoding.phase x0 x1 x2 : Encoding.Statement (.phase x0 x1 x2) := rfl
theorem Encoding.passBegin x0 x1 : Encoding.Statement (.passBegin x0 x1) := rfl
theorem Encoding.passNext x0 : Encoding.Statement (.passNext x0) := rfl
theorem Encoding.passEnd x0 : Encoding.Statement (.passEnd x0) := rfl
theorem Encoding.nopp x0 : Encoding.Statement (.nopp x0) := rfl
theorem Encoding.waitRecheck x0 : Encoding.Statement (.waitRecheck x0) := rfl
theorem Encoding.writeOffsetReread x0 : Encoding.Statement (.writeOffsetReread x0) := rfl
theorem Encoding.slotRelease x0 : Encoding.Statement (.slotRelease x0) := rfl
theorem Encoding.bindRound : Encoding.Statement .bindRound := rfl
theorem Encoding.parkConditionEval x0 : Encoding.Statement (.parkConditionEval x0) := rfl
theorem Encoding.cancelWordWrite x0 : Encoding.Statement (.cancelWordWrite x0) := rfl
theorem Encoding.groupKill x0 : Encoding.Statement (.groupKill x0) := rfl
theorem Encoding.teamAdmit x0 : Encoding.Statement (.teamAdmit x0) := rfl
theorem Encoding.slotMaskReserve x0 : Encoding.Statement (.slotMaskReserve x0) := rfl
theorem Encoding.launchComplete x0 : Encoding.Statement (.launchComplete x0) := rfl
theorem Encoding.prologueRun x0 : Encoding.Statement (.prologueRun x0) := rfl
theorem Encoding.teamEnd x0 : Encoding.Statement (.teamEnd x0) := rfl
theorem Encoding.groupStorageDrain x0 : Encoding.Statement (.groupStorageDrain x0) := rfl
theorem Encoding.operandSlotGrant x0 : Encoding.Statement (.operandSlotGrant x0) := rfl
theorem Encoding.barrierWaitReturn x0 : Encoding.Statement (.barrierWaitReturn x0) := rfl
theorem Encoding.yieldWake x0 : Encoding.Statement (.yieldWake x0) := rfl
theorem Encoding.xchgPairing x0 x1 : Encoding.Statement (.xchgPairing x0 x1) := rfl
theorem Encoding.carveArrival x0 : Encoding.Statement (.carveArrival x0) := rfl
theorem Encoding.splitPhaseResult x0 x1 : Encoding.Statement (.splitPhaseResult x0 x1) := rfl
theorem Encoding.trapEntry x0 : Encoding.Statement (.trapEntry x0) := rfl
theorem Encoding.preemptRequest x0 : Encoding.Statement (.preemptRequest x0) := rfl
theorem Encoding.preemptStop x0 : Encoding.Statement (.preemptStop x0) := rfl
theorem Encoding.teamContextSave x0 : Encoding.Statement (.teamContextSave x0) := rfl
theorem Encoding.graphicsKill x0 : Encoding.Statement (.graphicsKill x0) := rfl
theorem Encoding.graphicsReplay x0 : Encoding.Statement (.graphicsReplay x0) := rfl
theorem Encoding.patchDice x0 : Encoding.Statement (.patchDice x0) := rfl
theorem Encoding.gridGroupStart x0 : Encoding.Statement (.gridGroupStart x0) := rfl
theorem Encoding.sequenceWrap x0 : Encoding.Statement (.sequenceWrap x0) := rfl
theorem Encoding.binFlush x0 : Encoding.Statement (.binFlush x0) := rfl
theorem Encoding.micropolygonSample x0 : Encoding.Statement (.micropolygonSample x0) := rfl
theorem Encoding.fragmentGroupClose x0 : Encoding.Statement (.fragmentGroupClose x0) := rfl
theorem Encoding.sampleGroupStart x0 : Encoding.Statement (.sampleGroupStart x0) := rfl
theorem Encoding.fragmentListInsertion x0 : Encoding.Statement (.fragmentListInsertion x0) := rfl
theorem Encoding.tileResolve x0 x1 : Encoding.Statement (.tileResolve x0 x1) := rfl
theorem Encoding.pageWalk x0 x1 x2 : Encoding.Statement (.pageWalk x0 x1 x2) := rfl
theorem Encoding.priResponse x0 x1 x2 : Encoding.Statement (.priResponse x0 x1 x2) := rfl
theorem Encoding.atsInvalidation x0 x1 x2 : Encoding.Statement (.atsInvalidation x0 x1 x2) := rfl
theorem Encoding.hostSnoop x0 : Encoding.Statement (.hostSnoop x0) := rfl
theorem Encoding.hostMemoryAccess x0 x1 : Encoding.Statement (.hostMemoryAccess x0 x1) := rfl
theorem Encoding.peerMessageReceive x0 x1 x2 : Encoding.Statement (.peerMessageReceive x0 x1 x2) := rfl
theorem Encoding.peerLinkLoss x0 : Encoding.Statement (.peerLinkLoss x0) := rfl
theorem Encoding.peerDestinationTimeout x0 : Encoding.Statement (.peerDestinationTimeout x0) := rfl
theorem Encoding.gcmTagFailure x0 : Encoding.Statement (.gcmTagFailure x0) := rfl
theorem Encoding.brualLinkTraining x0 x1 : Encoding.Statement (.brualLinkTraining x0 x1) := rfl
theorem Encoding.homeRequestArrival x0 : Encoding.Statement (.homeRequestArrival x0) := rfl
theorem Encoding.combinerLaunch x0 : Encoding.Statement (.combinerLaunch x0) := rfl
theorem Encoding.combinerInstructionLimit x0 : Encoding.Statement (.combinerInstructionLimit x0) := rfl
theorem Encoding.burlAtomicUpdate x0 : Encoding.Statement (.burlAtomicUpdate x0) := rfl
theorem Encoding.edgeAtomic x0 : Encoding.Statement (.edgeAtomic x0) := rfl
theorem Encoding.sliceMapRemap x0 x1 : Encoding.Statement (.sliceMapRemap x0 x1) := rfl
theorem Encoding.columnPowerOff x0 : Encoding.Statement (.columnPowerOff x0) := rfl
theorem Encoding.columnPowerOn x0 : Encoding.Statement (.columnPowerOn x0) := rfl
theorem Encoding.patrolScrub x0 x1 : Encoding.Statement (.patrolScrub x0 x1) := rfl
theorem Encoding.streamEntryComplete x0 x1 : Encoding.Statement (.streamEntryComplete x0 x1) := rfl
theorem Encoding.streamFillBox x0 x1 : Encoding.Statement (.streamFillBox x0 x1) := rfl
theorem Encoding.streamDrainBox x0 x1 : Encoding.Statement (.streamDrainBox x0 x1) := rfl
theorem Encoding.tileOperationRetire x0 x1 : Encoding.Statement (.tileOperationRetire x0 x1) := rfl
theorem Encoding.aFetchResume x0 x1 : Encoding.Statement (.aFetchResume x0 x1) := rfl
theorem Encoding.whorlRequestArrival x0 : Encoding.Statement (.whorlRequestArrival x0) := rfl
theorem Encoding.whorlIdleTileForm x0 x1 : Encoding.Statement (.whorlIdleTileForm x0 x1) := rfl
theorem Encoding.whorlTileReturn x0 : Encoding.Statement (.whorlTileReturn x0) := rfl
theorem Encoding.collectiveCombine x0 : Encoding.Statement (.collectiveCombine x0) := rfl
theorem Encoding.createJob x0 x1 : Encoding.Statement (.createJob x0 x1) := rfl
theorem Encoding.destroyJob x0 : Encoding.Statement (.destroyJob x0) := rfl
theorem Encoding.cancelJob x0 : Encoding.Statement (.cancelJob x0) := rfl
theorem Encoding.registerQueue x0 x1 x2 : Encoding.Statement (.registerQueue x0 x1 x2) := rfl
theorem Encoding.unregisterQueue x0 x1 : Encoding.Statement (.unregisterQueue x0 x1) := rfl
theorem Encoding.invalidate x0 x1 x2 : Encoding.Statement (.invalidate x0 x1 x2) := rfl
theorem Encoding.resident x0 x1 x2 : Encoding.Statement (.resident x0 x1 x2) := rfl
theorem Encoding.collective x0 x1 : Encoding.Statement (.collective x0 x1) := rfl
theorem Encoding.attest x0 x1 x2 : Encoding.Statement (.attest x0 x1 x2) := rfl
theorem Encoding.debugAuth x0 x1 x2 : Encoding.Statement (.debugAuth x0 x1 x2) := rfl
theorem Encoding.flashUpdate x0 x1 x2 : Encoding.Statement (.flashUpdate x0 x1 x2) := rfl
theorem Encoding.wakeRegisterWrite x0 : Encoding.Statement (.wakeRegisterWrite x0) := rfl
theorem Encoding.wakeBufferReplay : Encoding.Statement .wakeBufferReplay := rfl
theorem Encoding.pfctlClear x0 x1 : Encoding.Statement (.pfctlClear x0 x1) := rfl
theorem Encoding.thermstatWrite x0 : Encoding.Statement (.thermstatWrite x0) := rfl
theorem Encoding.pwrctlWrite x0 : Encoding.Statement (.pwrctlWrite x0) := rfl
theorem Encoding.rcvctlGo x0 : Encoding.Statement (.rcvctlGo x0) := rfl
theorem Encoding.recoveryFetchDone : Encoding.Statement .recoveryFetchDone := rfl
theorem Encoding.registerWrite x0 x1 x2 : Encoding.Statement (.registerWrite x0 x1 x2) := rfl
theorem Encoding.debugAccess x0 x1 x2 : Encoding.Statement (.debugAccess x0 x1 x2) := rfl
theorem Encoding.resetNRise : Encoding.Statement .resetNRise := rfl
theorem Encoding.pcieLinkUp : Encoding.Statement .pcieLinkUp := rfl
theorem Encoding.railFault : Encoding.Statement .railFault := rfl
theorem Encoding.perstN : Encoding.Statement .perstN := rfl
theorem Encoding.d3coldEntry : Encoding.Statement .d3coldEntry := rfl
theorem Encoding.powerLimitEval x0 : Encoding.Statement (.powerLimitEval x0) := rfl
theorem Encoding.powerLimitNotMet x0 : Encoding.Statement (.powerLimitNotMet x0) := rfl
theorem Encoding.pmbusFault : Encoding.Statement .pmbusFault := rfl
theorem Encoding.thermalThrottleStep x0 x1 : Encoding.Statement (.thermalThrottleStep x0 x1) := rfl
theorem Encoding.thermalCritical x0 x1 : Encoding.Statement (.thermalCritical x0 x1) := rfl
theorem Encoding.thermalCriticalTimeout : Encoding.Statement .thermalCriticalTimeout := rfl
theorem Encoding.thermalTrip x0 x1 : Encoding.Statement (.thermalTrip x0 x1) := rfl
theorem Encoding.watchdogExpiry : Encoding.Statement .watchdogExpiry := rfl
theorem Encoding.spareTakeover : Encoding.Statement .spareTakeover := rfl
theorem Encoding.resetNFall : Encoding.Statement .resetNFall := rfl
theorem Encoding.d3hotEntry : Encoding.Statement .d3hotEntry := rfl
theorem Encoding.blockPowerStateChange x0 x1 : Encoding.Statement (.blockPowerStateChange x0 x1) := rfl
theorem Encoding.tdiIdeStateChange x0 x1 x2 : Encoding.Statement (.tdiIdeStateChange x0 x1 x2) := rfl
theorem Encoding.thermalRecovery x0 x1 : Encoding.Statement (.thermalRecovery x0 x1) := rfl

end Sys2Proof.Laws
end

