-- ==== Sys2Proof/Tests/Demo.lean ====
section
/-! SUPPORT. A small machine for the tests: one team of one group on core 0, whose first 2 MiB are mapped to themselves. -/

namespace Sys2Proof.Tests

open Machine Spec

/-- A context whose entries map v0 to v15, CLEAN. -/
def demoCtx : Ctx :=
  { Ctx.start 16 0x100000 with entries := Vector.ofFn fun e : Fin 16 => ⟨some (BitVec.ofNat 8 e), .clean, Lanes.zero⟩ }

/-- A running group with a trap area and a slot. -/
def demoGroup : Group :=
  { fetchGroup 0 0 0 with ctx := demoCtx, regs := 16, area := some 0x80000, privLimit := 16 }

def demoJob : Job := { fetchJob with handler := 0x1000 }

/-- The machine with a word at 0x10_0000, and the group at it. -/
def demoAt (w : Nat) (g : Group) : State :=
  { State.reset with
    mem := fetchMemory [] 32 w
    groups := [g], teams := [fetchTeam 0 0], launches := [fetchLaunch 0], jobs := [demoJob]
    agenda := [], turn := some 0
    sys := { Sys.reset with low := false, bring := .up, fwState := 1 } }

def demoOf (g : Group) : State := demoAt 0x000002B5 g
def demo : State := demoOf demoGroup

/-- The group stands between instructions, with nothing under way. -/
def idle (s : State) (g : Group) : Bool :=
  g.status == .running && g.hasSlot && (List.range 32).all (fun k => (g.board[Fin.ofNat 32 k]).isNone) && g.posts.isEmpty &&
    g.deferred.isEmpty && !s.outstanding s.cur && (s.engineError g s.cur).isNone && g.again.isNone && g.rebuild.isNone &&
    g.kind != .combiner && !g.inSection

theorem guards_nil (g : Group) (u : Uses) (h : (List.range 32).all (fun k => (g.board[Fin.ofNat 32 k]).isNone) = true) : g.guards u = [] := by
  unfold Group.guards
  rw [List.filterMap_eq_nil_iff]
  intro k hk
  have hn := List.all_eq_true.mp h k hk
  cases hb : g.board[Fin.ofNat 32 k] with
  | none => rfl
  | some p => rw [hb] at hn; exact absurd hn Bool.false_ne_true

/-- Every well-formed instruction may issue in a group that is idle. -/
theorem ready_of {i : Instr} {u : Uses} {s : State} {g : Group} (here : s.groups[s.cur]? = some g) (hi : idle s g = true) (hf : wf i = true) :
    Ready i u s g := by
  simp only [idle, Bool.and_eq_true, beq_iff_eq, bne_iff_ne, Bool.not_eq_true', List.isEmpty_iff, Option.isNone_iff_eq_none] at hi
  obtain ⟨⟨⟨⟨⟨⟨⟨⟨⟨⟨hr, hs⟩, hb⟩, hp⟩, hd⟩, ho⟩, he⟩, ha⟩, hq⟩, hk⟩, hx⟩ := hi
  exact {
    here := here, running := hr, slot := hs, formed := hf
    allowed := by rw [beq_eq_false_iff_ne.mpr hk, Bool.false_and]
    outside := by rw [hx, Bool.false_and]
    clear := guards_nil g u (by simpa using hb)
    quiet := fun _ => he
    answered := fun _ => ⟨hp, hd⟩
    performed := fun _ => ho
    once := ha
    plain := hq }

theorem canTrap_demo {g : Group} (hk : g.kind ≠ .combiner) (hh : g.handler = false) (hf : g.frame.isSome = true) (hj : g.job = 0)
    (hb : (List.range 32).all (fun k => (g.board[Fin.ofNat 32 k]).isNone) = true) (w : Nat) : CanTrap (demoAt w g) g where
  kind := hk
  first := hh
  frame := hf
  handler := ⟨demoJob, by rw [hj]; rfl, by decide⟩
  board := fun k hl => Option.isNone_iff_eq_none.mp (List.all_eq_true.mp hb k (List.mem_range.mpr hl))

/-- The demo group with another context. -/
def withCtx (f : Ctx → Ctx) : Group := { demoGroup with ctx := f demoCtx }

theorem canTrap_ctx (f : Ctx → Ctx) : CanTrap (demoOf (withCtx f)) (withCtx f) where
  kind := show demoGroup.kind ≠ .combiner by decide
  first := rfl
  frame := rfl
  handler := ⟨demoJob, rfl, by decide⟩
  board := show ∀ k < 32, demoGroup.board[Fin.ofNat 32 k] = none by decide

theorem canTrap_group : CanTrap demo demoGroup := canTrap_demo (by decide) rfl rfl rfl (by decide) _

theorem some_of_any {α : Type} {o : Option α} {p : α → Bool} (h : o.any p = true) : ∃ a, o = some a ∧ p a = true := by
  cases o with
  | none => exact absurd h Bool.false_ne_true
  | some a => exact ⟨a, rfl, h⟩

/-- A group of the demo machine with one active thread, thread 0. -/
def oneLane (f : Ctx → Ctx) : Group := withCtx fun x => f { x with active := 1 }

/-- The whole word `v` in entry `e`, for every thread. -/
def holding (e : Nat) (v : Word) (x : Ctx) : Ctx := x.setEntry e { x.entry e with val := Vector.replicate 256 v }

/-- What a sample group has, inside a replay region that holds some bytes. -/
def regionGfx (held : Nat) : Gfx :=
  { pass := 0, tile := 0, area := 0, patchId := 0, gridU := 0, gridV := 0, age := 0, gvtxDone := false, keys := [], entered := 0,
    released := 0, leaving := 0, inRegion := true, snap := demoCtx, snapKeys := (0, 0), snapGvtx := false, held := [], heldBytes := held,
    replay := false }

theorem dev_any {α : Type} {x : Dev α} {p : α → Bool} (h : (match x with | .ok a => p a | _ => false) = true) : ∃ a, x = .ok a ∧ p a = true := by
  cases x with
  | ok a => exact ⟨a, rfl, h⟩
  | fail _ _ => exact absurd h Bool.false_ne_true
  | wait => exact absurd h Bool.false_ne_true

theorem dev_moves {α : Type} {x : Dev α} (h : (match x with | .wait => false | _ => true) = true) : x ≠ .wait := by
  rintro rfl
  exact absurd h Bool.false_ne_true

/-- The unit's answer is there and passes a test. -/
def devTest {α : Type} (p : α → Bool) : Dev α → Bool
  | .ok a => p a
  | _ => false
theorem dev_test {α : Type} {p : α → Bool} {x : Dev α} (h : devTest p x = true) : ∃ a, x = .ok a ∧ p a = true := by
  cases x with
  | ok a => exact ⟨a, rfl, h⟩
  | fail _ _ => exact absurd h Bool.false_ne_true
  | wait => exact absurd h Bool.false_ne_true

theorem pairNone_of {α β : Type} {x : α × Option β} (h : x.2.isNone = true) : x = (x.1, none) := by
  obtain ⟨a, b⟩ := x
  exact congrArg _ (Option.isNone_iff_eq_none.mp h)

end Sys2Proof.Tests
end

