-- ==== Sys2Proof/Tests/Slice0.lean ====
section
/-! SUPPORT. Tests of the author: words written out from the field tables of the spec for every instruction, an ill-formed term for each
check of WellFormed, and the spec's own worked examples run through one instruction. -/

namespace Sys2Proof.Tests

set_option Elab.async false

open Machine Spec

/-! ## Words -/

/-- Words of R138, each beside the instruction it stands for. -/
def wordsShort0 : List (Nat × Nat × Instr) :=
  [(16, 0x0000, .nop),
   (16, 0x21E0, .mov16 ⟨false, false, 16, 15⟩),
   (16, 0xC3C2, .iadd16 ⟨true, true, 1, 14⟩),
   (16, 0xA5A4, .isub16 ⟨true, false, 18, 13⟩),
   (16, 0x2786, .imul16 ⟨false, false, 19, 12⟩),
   (16, 0xA968, .and16 ⟨true, false, 20, 11⟩),
   (16, 0xCB4A, .or16 ⟨true, true, 5, 10⟩),
   (16, 0x2D2C, .xor16 ⟨false, false, 22, 9⟩),
   (16, 0xAF0E, .shl16 ⟨true, false, 23, 8⟩),
   (16, 0xB0F0, .shr16 ⟨true, false, 24, 7⟩),
   (16, 0x52D2, .sar16 ⟨false, true, 9, 6⟩),
   (16, 0xB4B4, .fadd16 ⟨true, false, 26, 5⟩),
   (16, 0xB696, .fsub16 ⟨true, false, 27, 4⟩),
   (16, 0x3878, .fmul16 ⟨false, false, 28, 3⟩),
   (16, 0xDA5A, .fmin16 ⟨true, true, 13, 2⟩),
   (16, 0xBC3C, .fmax16 ⟨true, false, 30, 1⟩)]

theorem test_wordsShort0 : (wordsShort0.map fun r => decodeTableWord r.1 r.2.1) = wordsShort0.map fun r => some r.2.2 := by decide +kernel

def wordsShort1 : List (Nat × Nat × Instr) :=
  [(16, 0x3E1E, .imin16 ⟨false, false, 31, 0⟩)]

theorem test_wordsShort1 : (wordsShort1.map fun r => decodeTableWord r.1 r.2.1) = wordsShort1.map fun r => some r.2.2 := by decide +kernel

/-- Words of R152, each beside the instruction it stands for. -/
def wordsV3 : List (Nat × Nat × Instr) :=
  [(32, 0x5C286C01, .fma32 ⟨none, 6, true, 33, 2, 23⟩),
   (32, 0x5D48AC21, .fma64 ⟨none, 6, true, 34, 20, 23⟩),
   (32, 0x5C286841, .fmah2 ⟨none, 4, true, 33, 2, 23⟩),
   (32, 0x5C286A61, .fmab2 ⟨none, 5, true, 33, 2, 23⟩),
   (64, 0x040100035C286483, .muladd ⟨some 0x04010003, 2, true, 33, 2, 23⟩),
   (32, 0x5C2866A1, .muladdh ⟨none, 3, true, 33, 2, 23⟩),
   (32, 0x342860C1, .choose ⟨none, 0, true, 33, 2, ⟨5, true⟩⟩),
   (32, 0x5C2862E1, .bitins ⟨none, 1, true, 33, 2, 23⟩),
   (32, 0x5C287D01, .shrcat ⟨none, 14, true, 33, 2, 23⟩),
   (32, 0x5C287F21, .dp4s8 ⟨none, 15, true, 33, 2, 23⟩),
   (32, 0x5C287941, .dp4u8 ⟨none, 12, true, 33, 2, 23⟩),
   (32, 0x5C287B61, .dp8s4 ⟨none, 13, true, 33, 2, 23⟩),
   (32, 0x5C287581, .dp4e4 ⟨none, 10, true, 33, 2, 23⟩),
   (32, 0x5C2877A1, .dp4e5 ⟨none, 11, true, 33, 2, 23⟩),
   (32, 0x5C2871C1, .dp8f4 ⟨none, 8, true, 33, 2, 23⟩),
   (32, 0x5C2873E1, .dp2h ⟨none, 9, true, 33, 2, 23⟩)]

theorem test_wordsV3 : (wordsV3.map fun r => decodeTableWord r.1 r.2.1) = wordsV3.map fun r => some r.2.2 := by decide +kernel

/-- Words of R153, each beside the instruction it stands for. -/
def wordsV2a0 : List (Nat × Nat × Instr) :=
  [(32, 0x0C150805, .mov ⟨none, 1, 4, true, 2, 6, false⟩),
   (32, 0xC214C825, .iadd ⟨none, 1, 3, true, 2, 33, true⟩),
   (32, 0x4214C045, .isub ⟨none, 0, 3, true, 2, 33, false⟩),
   (32, 0x4214C065, .imul ⟨none, 0, 3, true, 2, 33, false⟩),
   (32, 0xC210C085, .imulhi ⟨none, 0, 3, false, 2, 33, true⟩),
   (32, 0xC210C0A5, .imin ⟨none, 0, 3, false, 2, 33, true⟩),
   (32, 0xC210C0C5, .imax ⟨none, 0, 3, false, 2, 33, true⟩),
   (32, 0x011E40E5, .iabs ⟨none, 0, 9, true, 35, 0, false⟩),
   (32, 0x4214C105, .and ⟨none, 0, 3, true, 2, 33, false⟩),
   (32, 0x4214C125, .or ⟨none, 0, 3, true, 2, 33, false⟩),
   (32, 0x4214C145, .xor ⟨none, 0, 3, true, 2, 33, false⟩),
   (32, 0x4214C165, .andn ⟨none, 0, 3, true, 2, 33, false⟩),
   (32, 0x42150985, .shl ⟨none, 1, 4, true, 2, 33, false⟩),
   (32, 0x4214C1A5, .shr ⟨none, 0, 3, true, 2, 33, false⟩),
   (32, 0x421509C5, .sar ⟨none, 1, 4, true, 2, 33, false⟩),
   (32, 0x4214C1E5, .rot ⟨none, 0, 3, true, 2, 33, false⟩)]

theorem test_wordsV2a0 : (wordsV2a0.map fun r => decodeTableWord r.1 r.2.1) = wordsV2a0.map fun r => some r.2.2 := by decide +kernel

def wordsV2a1 : List (Nat × Nat × Instr) :=
  [(32, 0x011E4205, .popc ⟨none, 0, 9, true, 35, 0, false⟩),
   (32, 0x011E4225, .clz ⟨none, 0, 9, true, 35, 0, false⟩),
   (32, 0x011E4245, .brev ⟨none, 0, 9, true, 35, 0, false⟩),
   (32, 0xC214C265, .bfx ⟨none, 0, 3, true, 2, 33, true⟩),
   (32, 0x42151285, .lea ⟨none, 2, 4, true, 2, 33, false⟩),
   (32, 0x481502A5, .iadd64 ⟨none, 0, 4, true, 2, 36, false⟩),
   (32, 0xC2125AC5, .icmp ⟨none, 3, 9, false, 2, 33, true⟩),
   (32, 0x01180AE5, .pmov ⟨none, 1, 0, false, 35, 0, false⟩),
   (32, 0xC215EB05, .fadd ⟨none, 5, 7, true, 2, 33, true⟩),
   (32, 0xC215EB25, .fsub ⟨none, 5, 7, true, 2, 33, true⟩),
   (32, 0xC215EB45, .fmul ⟨none, 5, 7, true, 2, 33, true⟩),
   (32, 0xC215EB65, .fmin ⟨none, 5, 7, true, 2, 33, true⟩),
   (32, 0xC215EB85, .fmax ⟨none, 5, 7, true, 2, 33, true⟩),
   (32, 0x4214BBA5, .fcmp ⟨none, 7, 2, true, 2, 33, false⟩),
   (32, 0x01154BC5, .fclass ⟨none, 1, 5, true, 34, 0, false⟩),
   (32, 0x011D63E5, .fint ⟨none, 4, 5, true, 35, 0, false⟩)]

theorem test_wordsV2a1 : (wordsV2a1.map fun r => decodeTableWord r.1 r.2.1) = wordsV2a1.map fun r => some r.2.2 := by decide +kernel

/-- Words of R153, each beside the instruction it stands for. -/
def wordsV2b0 : List (Nat × Nat × Instr) :=
  [(32, 0x011D4405, .frcp ⟨none, 0, 5, true, 35, 0, false⟩),
   (32, 0x011D4425, .frsq ⟨none, 0, 5, true, 35, 0, false⟩),
   (32, 0x011D4445, .fsqrt ⟨none, 0, 5, true, 35, 0, false⟩),
   (32, 0x011D4465, .fexp2 ⟨none, 0, 5, true, 35, 0, false⟩),
   (32, 0x011D4485, .flog2 ⟨none, 0, 5, true, 35, 0, false⟩),
   (32, 0x011D44A5, .fsin ⟨none, 0, 5, true, 35, 0, false⟩),
   (32, 0x011D44C5, .fcos ⟨none, 0, 5, true, 35, 0, false⟩),
   (32, 0x481504E5, .dadd ⟨none, 0, 4, true, 2, 36, false⟩),
   (32, 0x48150505, .dmul ⟨none, 0, 4, true, 2, 36, false⟩),
   (32, 0x48150525, .dmin ⟨none, 0, 4, true, 2, 36, false⟩),
   (32, 0x48150545, .dmax ⟨none, 0, 4, true, 2, 36, false⟩),
   (32, 0x48125565, .dcmp ⟨none, 2, 9, false, 2, 36, false⟩),
   (32, 0x01150585, .drcp ⟨none, 0, 4, true, 34, 0, false⟩),
   (32, 0x011505A5, .dsqrt ⟨none, 0, 4, true, 34, 0, false⟩),
   (32, 0x4215C5C5, .hadd2 ⟨none, 0, 7, true, 2, 33, false⟩),
   (32, 0x4215C5E5, .hmul2 ⟨none, 0, 7, true, 2, 33, false⟩)]

theorem test_wordsV2b0 : (wordsV2b0.map fun r => decodeTableWord r.1 r.2.1) = wordsV2b0.map fun r => some r.2.2 := by decide +kernel

def wordsV2b1 : List (Nat × Nat × Instr) :=
  [(32, 0x4215C605, .badd2 ⟨none, 0, 7, true, 2, 33, false⟩),
   (32, 0x4215C625, .bmul2 ⟨none, 0, 7, true, 2, 33, false⟩),
   (32, 0x10150645, .cvt ⟨none, 0, 4, true, 2, 8, false⟩),
   (32, 0x0A150665, .pack ⟨none, 0, 4, true, 2, 5, false⟩),
   (32, 0x06151685, .unpack ⟨none, 2, 4, true, 2, 3, false⟩),
   (32, 0x0A1506A5, .xlane ⟨none, 0, 4, true, 2, 5, false⟩),
   (32, 0x004D06C5, .poll ⟨none, 0, 4, true, 9, 0, false⟩),
   (32, 0x001506E5, .scan ⟨none, 0, 4, true, 2, 0, false⟩),
   (32, 0x00150705, .lred ⟨none, 0, 4, true, 2, 0, false⟩),
   (32, 0x00151F25, .movx ⟨none, 3, 4, true, 2, 0, false⟩),
   (32, 0x0A101F45, .stx ⟨none, 3, 0, false, 2, 5, false⟩),
   (32, 0x0A5C8F65, .pcomb ⟨none, 1, 2, true, 11, 5, false⟩),
   (32, 0x8A150785, .hmin2 ⟨none, 0, 4, true, 2, 5, true⟩),
   (32, 0x0A1507A5, .hmax2 ⟨none, 0, 4, true, 2, 5, false⟩),
   (32, 0x0A1497C5, .hcmp2 ⟨none, 2, 2, true, 2, 5, false⟩)]

theorem test_wordsV2b1 : (wordsV2b1.map fun r => decodeTableWord r.1 r.2.1) = wordsV2b1.map fun r => some r.2.2 := by decide +kernel

/-- Words of R154, each beside the instruction it stands for. -/
def wordsVI : List (Nat × Nat × Instr) :=
  [(32, 0xABC8F409, .iaddi ⟨none, 10, true, 35, 0xABC⟩),
   (32, 0xABC8F429, .andi ⟨none, 10, true, 35, 0xABC⟩),
   (32, 0xABC8F449, .ori ⟨none, 10, true, 35, 0xABC⟩),
   (32, 0xABC8F469, .xori ⟨none, 10, true, 35, 0xABC⟩),
   (32, 0xABC8F489, .shli ⟨none, 10, true, 35, 0xABC⟩),
   (32, 0xABC8F4A9, .shri ⟨none, 10, true, 35, 0xABC⟩),
   (32, 0xABC8F4C9, .sari ⟨none, 10, true, 35, 0xABC⟩),
   (32, 0xABC8F4E9, .imuli ⟨none, 10, true, 35, 0xABC⟩),
   (32, 0xBFE8E509, .icmpi ⟨none, 2, true, 35, 0xBFE⟩),
   (32, 0xABC03529, .movi ⟨none, 10, true, 0, 0xABC⟩),
   (64, 0x3F80000100003549, .movw ⟨none, 10, true, 0, 0x000⟩ 0x3F800001),
   (32, 0xABC8B569, .leai ⟨none, 10, true, 34, 0xABC⟩),
   (64, 0x3F8000010008F589, .faddw ⟨none, 10, true, 35, 0x000⟩ 0x3F800001),
   (64, 0x3F8000010008F5A9, .fmulw ⟨none, 10, true, 35, 0x000⟩ 0x3F800001),
   (64, 0x3F8000010008F5C9, .iaddw ⟨none, 10, true, 35, 0x000⟩ 0x3F800001)]

theorem test_wordsVI : (wordsVI.map fun r => decodeTableWord r.1 r.2.1) = wordsVI.map fun r => some r.2.2 := by decide +kernel

/-- Words of R155, R156, each beside the instruction it stands for. -/
def wordsMEM0 : List (Nat × Nat × Instr) :=
  [(32, 0x3002E40D, .ld8 ⟨none, 9, true, 5, 0, 6, 0, none⟩),
   (32, 0x3002E42D, .ld8s ⟨none, 9, true, 5, 0, 6, 0, none⟩),
   (32, 0x3002E44D, .ld16 ⟨none, 9, true, 5, 0, 6, 0, none⟩),
   (64, 0xFFFFFFF0F002E46D, .ld16s ⟨none, 9, true, 5, 0, 6, 3, some 0xFFFFFFF0⟩),
   (32, 0x3002E48D, .ld32 ⟨none, 9, true, 5, 0, 6, 0, none⟩),
   (32, 0xB002E0AD, .ld64 ⟨none, 8, true, 5, 0, 6, 2, none⟩),
   (32, 0x3002E0CD, .ld128 ⟨none, 8, true, 5, 0, 6, 0, none⟩),
   (32, 0x310280ED, .st8 ⟨none, 0, false, 5, 8, 6, 0, none⟩),
   (32, 0x3102810D, .st16 ⟨none, 0, false, 5, 8, 6, 0, none⟩),
   (64, 0xFFFFFFF0F102812D, .st32 ⟨none, 0, false, 5, 8, 6, 3, some 0xFFFFFFF0⟩),
   (32, 0x3102814D, .st64 ⟨none, 0, false, 5, 8, 6, 0, none⟩),
   (32, 0x3102816D, .st128 ⟨none, 0, false, 5, 8, 6, 0, none⟩),
   (64, 0x000200214002618D, .lda ⟨none, 8, true, 4, 0, 0, 1, none⟩ ⟨0, 1, false, 0, 0, 1, 1⟩),
   (64, 0x0000005018C201AD, .stl ⟨none, 0, false, 4, 6, 3, 0, none⟩ ⟨0, 0, false, 0, 0, 2, 16⟩),
   (64, 0x0000516110C24DCD, .atom ⟨none, 3, true, 4, 6, 2, 0, none⟩ ⟨0, 0, false, 10, 1, 3, 1⟩),
   (64, 0x0001584890C201ED, .red ⟨none, 0, false, 4, 6, 2, 2, none⟩ ⟨0, 0, true, 11, 0, 2, 8⟩)]

theorem test_wordsMEM0 : (wordsMEM0.map fun r => decodeTableWord r.1 r.2.1) = wordsMEM0.map fun r => some r.2.2 := by decide +kernel

def wordsMEM1 : List (Nat × Nat × Instr) :=
  [(64, 0x0048006110C24E0D, .callm ⟨none, 3, true, 4, 6, 2, 0, none⟩ ⟨9, 0, false, 0, 0, 3, 1⟩),
   (64, 0x007A004110C2022D, .postm ⟨none, 0, false, 4, 6, 2, 0, none⟩ ⟨15, 1, false, 0, 0, 2, 1⟩),
   (32, 0x0802E24D, .lds ⟨none, 8, true, 5, 0, 1, 0, none⟩),
   (32, 0x1102826D, .sts ⟨none, 0, false, 5, 8, 2, 0, none⟩),
   (64, 0x0000200000E2E68D, .atoms ⟨none, 9, true, 5, 7, 0, 0, none⟩ ⟨0, 0, false, 4, 0, 0, 0⟩),
   (64, 0xFFFFFFF02002E6AD, .ldp ⟨none, 9, true, 5, 0, 4, 0, some 0xFFFFFFF0⟩),
   (32, 0x18E282CD, .stp ⟨none, 0, false, 5, 7, 3, 0, none⟩),
   (32, 0x3042E2ED, .ldpk ⟨none, 8, true, 5, 2, 6, 0, none⟩),
   (32, 0x3022830D, .pref ⟨none, 0, false, 5, 1, 6, 0, none⟩),
   (64, 0x000000930000032D, .fence ⟨none, 0, false, 0, 0, 0, 0, none⟩ ⟨0, 0, false, 0, 0, 4, 19⟩)]

theorem test_wordsMEM1 : (wordsMEM1.map fun r => decodeTableWord r.1 r.2.1) = wordsMEM1.map fun r => some r.2.2 := by decide +kernel

/-- Words of R157, each beside the instruction it stands for. -/
def wordsUNI0 : List (Nat × Nat × Instr) :=
  [(32, 0x0013F811, .smov ⟨none, 63, 9, 0, 0⟩),
   (32, 0x0513F831, .sadd ⟨none, 63, 9, 10, 0⟩),
   (32, 0x0513F851, .ssub ⟨none, 63, 9, 10, 0⟩),
   (32, 0x0513F871, .smul ⟨none, 63, 9, 10, 0⟩),
   (32, 0x2513F891, .smulhi ⟨none, 63, 9, 10, 1⟩),
   (32, 0x0513F8B1, .sand ⟨none, 63, 9, 10, 0⟩),
   (32, 0x0513F8D1, .sor ⟨none, 63, 9, 10, 0⟩),
   (32, 0x0513F8F1, .sxor ⟨none, 63, 9, 10, 0⟩),
   (32, 0x0513F911, .sshl ⟨none, 63, 9, 10, 0⟩),
   (32, 0x0513F931, .sshr ⟨none, 63, 9, 10, 0⟩),
   (32, 0x0513F951, .ssar ⟨none, 63, 9, 10, 0⟩),
   (32, 0x2513F971, .smin ⟨none, 63, 9, 10, 1⟩),
   (32, 0x0513F991, .smax ⟨none, 63, 9, 10, 0⟩),
   (32, 0xA51219B1, .scmp ⟨none, 3, 9, 10, 5⟩),
   (32, 0x4513F9D1, .ssel ⟨none, 63, 9, 10, 2⟩),
   (64, 0x800000012001F9F1, .smovw ⟨none, 63, 0, 0, 1⟩ 0x80000001)]

theorem test_wordsUNI0 : (wordsUNI0.map fun r => decodeTableWord r.1 r.2.1) = wordsUNI0.map fun r => some r.2.2 := by decide +kernel

def wordsUNI1 : List (Nat × Nat × Instr) :=
  [(96, 0x0123456789ABCDEF0001FA11, .smovd ⟨none, 63, 0, 0, 0⟩ 0x0123456789ABCDEF),
   (64, 0x800000010013FA31, .saddw ⟨none, 63, 9, 0, 0⟩ 0x80000001),
   (32, 0x4513FA51, .sld ⟨none, 63, 9, 10, 2⟩),
   (32, 0x6513FA71, .sst ⟨none, 63, 9, 10, 3⟩),
   (64, 0x000200210013FA91, .slda ⟨none, 63, 9, 0, 0⟩ ⟨0, 1, false, 0, 0, 1, 1⟩),
   (64, 0x000200410013FAB1, .sstl ⟨none, 63, 9, 0, 0⟩ ⟨0, 1, false, 0, 0, 2, 1⟩),
   (64, 0x000200610513FAD1, .satom ⟨none, 63, 9, 10, 0⟩ ⟨0, 1, false, 0, 0, 3, 1⟩),
   (32, 0x002FFAF1, .sread ⟨none, 63, 23, 0, 0⟩),
   (32, 0x05260311, .swrite ⟨none, 0, 19, 10, 0⟩),
   (32, 0x2545FB31, .rdlane ⟨none, 63, 34, 10, 1⟩),
   (32, 0x20127351, .bcast ⟨none, 14, 9, 0, 1⟩),
   (32, 0x0513FB71, .sfadd ⟨none, 63, 9, 10, 0⟩),
   (32, 0x0513FB91, .sfmul ⟨none, 63, 9, 10, 0⟩),
   (32, 0x0413FBB1, .scvt ⟨none, 63, 9, 8, 0⟩),
   (32, 0x0013FBD1, .spopc ⟨none, 63, 9, 0, 0⟩),
   (32, 0x0013FBF1, .sclz ⟨none, 63, 9, 0, 0⟩)]

theorem test_wordsUNI1 : (wordsUNI1.map fun r => decodeTableWord r.1 r.2.1) = wordsUNI1.map fun r => some r.2.2 := by decide +kernel

def wordsUNI2 : List (Nat × Nat × Instr) :=
  [(32, 0x0001E411, .actmask ⟨none, 60, 0, 0, 0⟩),
   (32, 0x0001FC31, .elect ⟨none, 63, 0, 0, 0⟩),
   (32, 0x0513FC51, .sdadd ⟨none, 63, 9, 10, 0⟩),
   (32, 0x0513FC71, .sdmul ⟨none, 63, 9, 10, 0⟩)]

theorem test_wordsUNI2 : (wordsUNI2.map fun r => decodeTableWord r.1 r.2.1) = wordsUNI2.map fun r => some r.2.2 := by decide +kernel

/-- Words of R146, R147, R158, each beside the instruction it stands for. -/
def wordsCTL0 : List (Nat × Nat × Instr) :=
  [(32, 0xFFFFF815, .bra none 0x3FFFFE),
   (32, 0x00015835, .brc none 2 true 5),
   (64, 0xFFFFFFFC0001EC55, .brd none ⟨3, true⟩ 7 0xFFFFFFFC),
   (32, 0x00000075, .join none),
   (32, 0x00002495, .call none 9),
   (32, 0x000000B5, .ret none),
   (32, 0x000044D5, .calli none 17),
   (96, 0x0000528010B800A8000008F5, .region none [⟨0, 10, true, false⟩, ⟨1, 11, true, false⟩, ⟨5, 40, false, false⟩]),
   (96, 0x000001FF031D0C4500000D15, .regionu none [⟨1, 5⟩, ⟨2, 6⟩, ⟨3, 7⟩, ⟨7, 63⟩]),
   (32, 0x00000135, .exit none),
   (32, 0x00019155, .yield none 4 6),
   (32, 0x00000D75, .barArrive none 3),
   (32, 0x00004D75, .barWait none 3),
   (32, 0x00008D75, .barArrivewait none 3),
   (32, 0x003FCD95, .barinit none 3 255),
   (32, 0x00084DB5, .carve none 3 33)]

theorem test_wordsCTL0 : (wordsCTL0.map fun r => decodeTableWord r.1 r.2.1) = wordsCTL0.map fun r => some r.2.2 := by decide +kernel

def wordsCTL1 : List (Nat × Nat × Instr) :=
  [(32, 0x020079D5, .ixset none 2 7 32),
   (32, 0x800131F5, .spawn none 12 0x8001),
   (32, 0x02FBBE15, .trap none 0xBEEF),
   (32, 0x00000235, .tret none),
   (32, 0x00000255, .bkpt none),
   (32, 0x00003675, .setfpm none 13),
   (32, 0x00002E95, .kill none ⟨3, true⟩),
   (32, 0x000002B5, .nop32 none),
   (32, 0x000002D5, .idemStart none),
   (32, 0x000006D5, .idemCommit none)]

theorem test_wordsCTL1 : (wordsCTL1.map fun r => decodeTableWord r.1 r.2.1) = wordsCTL1.map fun r => some r.2.2 := by decide +kernel

/-- Words of R159, each beside the instruction it stands for. -/
def wordsASY0 : List (Nat × Nat × Instr) :=
  [(64, 0x0000002210160019, .copy ⟨none, 0, false, 22, 0, 1⟩ 0x00000022),
   (64, 0x000001E910160039, .copyg ⟨none, 0, false, 22, 0, 1⟩ 0x000001E9),
   (32, 0x30000059, .sqfence ⟨none, 0, false, 0, 0, 3⟩),
   (64, 0x0002194B00160079, .stream ⟨none, 0, false, 22, 0, 0⟩ 0x0002194B),
   (64, 0x0000076925540099, .mma ⟨none, 0, false, 20, 21, 2⟩ 0x00000769),
   (32, 0x000000B9, .mbatch ⟨none, 0, false, 0, 0, 0⟩),
   (64, 0x00000103000000D9, .mwait ⟨none, 0, false, 0, 0, 0⟩ 0x00000103),
   (64, 0x0000005A3540C0F9, .mdrain ⟨none, 8, true, 0, 21, 3⟩ 0x0000005A),
   (64, 0x0000000430002119, .mfill ⟨none, 4, false, 0, 0, 3⟩ 0x00000004),
   (32, 0xF0000139, .mzero ⟨none, 0, false, 0, 0, 15⟩),
   (64, 0x00001CF400160159, .neval ⟨none, 0, false, 22, 0, 0⟩ 0x00001CF4),
   (64, 0x0000007155C0A179, .tex ⟨none, 4, true, 0, 23, 5⟩ 0x00000071),
   (64, 0x0000006505C0A199, .texf ⟨none, 4, true, 0, 23, 0⟩ 0x00000065),
   (32, 0x25C3A1B9, .texq ⟨none, 4, true, 3, 23, 2⟩),
   (32, 0x15C2C1D9, .trace ⟨none, 8, true, 2, 23, 1⟩),
   (32, 0x0004A9F9, .flins ⟨none, 5, true, 4, 0, 0⟩)]

theorem test_wordsASY0 : (wordsASY0.map fun r => decodeTableWord r.1 r.2.1) = wordsASY0.map fun r => some r.2.2 := by decide +kernel

def wordsASY1 : List (Nat × Nat × Instr) :=
  [(32, 0x0002C219, .flres ⟨none, 8, true, 2, 0, 0⟩),
   (32, 0x00020239, .ordent ⟨none, 0, false, 2, 0, 0⟩),
   (32, 0x00020259, .ordlv ⟨none, 0, false, 2, 0, 0⟩),
   (32, 0x00040279, .patch ⟨none, 0, false, 4, 0, 0⟩),
   (64, 0x0000000200000299, .gvtx ⟨none, 0, false, 0, 0, 0⟩ 0x00000002),
   (64, 0x00000025000002B9, .tkpush ⟨none, 0, false, 0, 0, 0⟩ 0x00000025),
   (64, 0x00000026000002D9, .tkpop ⟨none, 0, false, 0, 0, 0⟩ 0x00000026),
   (64, 0x00000027000002F9, .tksteal ⟨none, 0, false, 0, 0, 0⟩ 0x00000027),
   (64, 0x0000002400000319, .tkdone ⟨none, 0, false, 0, 0, 0⟩ 0x00000024),
   (32, 0x0503A339, .xchg ⟨none, 4, true, 3, 20, 0⟩),
   (64, 0x1234000905030359, .cred ⟨none, 0, false, 3, 20, 0⟩ 0x12340009),
   (32, 0x00000379, .rlogDisable ⟨none, 0, false, 0, 0, 0⟩),
   (32, 0x15000379, .rlogRecord ⟨none, 0, false, 0, 20, 1⟩),
   (32, 0x25000379, .rlogReplay ⟨none, 0, false, 0, 20, 2⟩),
   (32, 0x30000379, .rlogMark ⟨none, 0, false, 0, 0, 3⟩)]

theorem test_wordsASY1 : (wordsASY1.map fun r => decodeTableWord r.1 r.2.1) = wordsASY1.map fun r => some r.2.2 := by decide +kernel

/-- Words that R137 to R160 reserve: class 111, V2 op 63, VI op 15, MEM op 26, UNI op 36, CTL op 23, BAR mode 3, ASY op 28, RLOG sub 4. -/
def reservedWords : List Nat :=
  [0x0000001D, 0x000007E5, 0x000001E9, 0x0000034D, 0x00000491, 0x000002F5, 0x0000C175, 0x00000399, 0x40000379]

theorem test_reservedWords : (reservedWords.all fun w => (decodeTableWord 32 w).isNone) = true := by decide +kernel

/-- A 64-bit table word whose second word breaks R137: bits [31:23] of an order word, and bit [9] of a COPY word. -/
theorem test_reservedSecondWords : ([0x0080200108C151CD, 0x0000020010160019].all fun w => (decodeTableWord 64 w).isNone) = true := by decide +kernel

/-! ## What WellFormed refuses -/

def v2Bad : V2 := ⟨none, 0, 3, true, 2, 5, false⟩
def memBad : Mem := ⟨none, 8, true, 4, 0, 0, 0, none⟩
def orderBad : Order := ⟨0, 0, false, 0, 0, 0, 1⟩
def asyBad : Asy := ⟨none, 0, false, 0, 0, 0⟩

/-- Thread instructions: the reader knows the check by the field that breaks it. -/
def illVector : List Instr :=
  [.mov16 ⟨false, false, 0, 0⟩, .iadd16 ⟨true, true, 16, 0⟩,
   .fma32 ⟨none, 0, true, 48, 0, 0⟩, .fma32 ⟨some 0x08000000, 0, true, 0, 0, 0⟩, .fma64 ⟨none, 1, true, 0, 0, 0⟩, .fma64 ⟨none, 0, true, 1, 0, 0⟩,
   .choose ⟨none, 0, true, 0, 48, ⟨0, false⟩⟩,
   .mov { v2Bad with a := 16 }, .mov { v2Bad with mod := 1, d := 4 }, .iadd { v2Bad with s := true }, .isub { v2Bad with mod := 2 },
   .imul { v2Bad with s := true }, .imulhi { v2Bad with mod := 1 }, .iabs v2Bad, .shl { v2Bad with mod := 1 }, .popc v2Bad,
   .lea { v2Bad with a := 3 }, .iadd64 { v2Bad with d := 4, b := 5 }, .icmp { v2Bad with mod := 6 }, .icmp { v2Bad with d := 8 },
   .pmov { v2Bad with b := 0 }, .pmov { v2Bad with mod := 1, b := 0 }, .fclass { v2Bad with b := 0, mod := 4 }, .fint { v2Bad with b := 0, mod := 5 },
   .frcp v2Bad, .dadd v2Bad, .dcmp { v2Bad with b := 4, s := true }, .drcp { v2Bad with b := 0 }, .cvt { v2Bad with b := 11 },
   .cvt { v2Bad with b := 16 }, .cvt { v2Bad with mod := 2, a := 3, b := 0 }, .pack { v2Bad with mod := 5 }, .unpack { v2Bad with b := 2 },
   .xlane { v2Bad with mod := 4 }, .poll { v2Bad with a := 16, b := 0 }, .poll { v2Bad with mod := 5, b := 0 }, .scan { v2Bad with b := 2 },
   .lred { v2Bad with b := 0, s := true }, .movx { v2Bad with b := 0, mod := 4 }, .stx v2Bad, .pcomb { v2Bad with mod := 3 },
   .hmin2 { v2Bad with mod := 1 }, .hcmp2 v2Bad,
   .icmpi ⟨none, 0, false, 0, 0xC00⟩, .movi ⟨none, 0, true, 1, 0⟩, .movw ⟨none, 0, true, 0, 1⟩ 0, .leai ⟨none, 1, true, 0, 0⟩, .faddw ⟨none, 0, true, 0, 1⟩ 0]

theorem test_illVector : (illVector.all fun i => !wf i) = true := by decide +kernel

/-- Memory, uniform and control instructions. -/
def illMemory : List Instr :=
  [.ld32 { memBad with w := false }, .ld32 { memBad with m := 1, a := 5 }, .ld32 { memBad with m := 1, g := 1 }, .ld32 { memBad with m := 3 },
   .ld64 { memBad with d := 7 }, .ld128 { memBad with d := 6 }, .ld8 { memBad with b := 1 }, .st32 memBad, .st128 { memBad with d := 0, w := false, b := 16 },
   .lda memBad { orderBad with ord := 2 }, .lda memBad { orderBad with size := 3 }, .stl { memBad with d := 0, w := false } { orderBad with ord := 1 },
   .atom memBad { orderBad with mask := 0 }, .atom memBad { orderBad with aop := 14 }, .atom memBad { orderBad with size := 2 },
   .atom memBad { orderBad with reassoc := true }, .atom { memBad with a := 15 } { orderBad with aop := 10 }, .atom memBad { orderBad with fail := 1 },
   .red { memBad with d := 0, w := false } { orderBad with aop := 9 }, .callm memBad { orderBad with size := 2 }, .postm { memBad with d := 0, w := false } { orderBad with ord := 1 },
   .lds { memBad with m := 1 }, .lds { memBad with g := 4 }, .sts { memBad with d := 0 }, .atoms memBad orderBad, .ldp { memBad with d := 7, g := 1 },
   .stp { memBad with d := 0, w := false, b := 5, g := 2 }, .ldpk { memBad with b := 3 }, .pref { memBad with d := 0, w := false, b := 2 },
   .fence { memBad with d := 0, w := false, a := 0 } orderBad, .fence memBad { orderBad with ord := 1 },
   .smov ⟨none, 0, 0, 1, 0⟩, .sadd ⟨none, 0, 0, 0, 1⟩, .scmp ⟨none, 4, 0, 0, 0⟩, .smovw ⟨none, 0, 1, 0, 0⟩ 0, .sld ⟨none, 0, 0, 0, 7⟩, .sst ⟨none, 0, 0, 0, 4⟩,
   .slda ⟨none, 0, 0, 1, 0⟩ orderBad, .satom ⟨none, 0, 0, 0, 0⟩ { orderBad with size := 2, aop := 9 }, .sread ⟨none, 0, 25, 0, 0⟩, .swrite ⟨none, 0, 15, 0, 0⟩,
   .rdlane ⟨none, 0, 1, 0, 1⟩, .bcast ⟨none, 16, 0, 0, 0⟩, .scvt ⟨none, 0, 0, 11, 0⟩, .actmask ⟨none, 61, 0, 0, 0⟩, .elect ⟨none, 0, 1, 0, 0⟩,
   .region none [], .region none [⟨0, 1, true, false⟩, ⟨0, 2, true, false⟩], .regionu none [⟨1, 2⟩, ⟨1, 3⟩], .barinit none 0 0, .ixset none 0 0 0, .setfpm none 16,
   .join (some 0x80000000)]

theorem test_illMemory : (illMemory.all fun i => !wf i) = true := by decide +kernel

/-- Requests to engines and units. -/
def illEngine : List Instr :=
  [.copy { asyBad with a := 16 } 0, .copy { asyBad with a := 20 } 6, .copy { asyBad with a := 20 } (59 * 8), .copyg { asyBad with a := 20 } (62 * 8),
   .sqfence asyBad, .stream { asyBad with a := 20 } 0, .mma { asyBad with a := 20, b := 20 } 8, .mma { asyBad with a := 20, b := 20 } (7 * 4),
   .mbatch { asyBad with sub := 1 }, .mwait asyBad 0x400, .mdrain { asyBad with d := 9, w := true } 0, .mdrain { asyBad with w := true } 0x40,
   .mdrain { asyBad with a := 20 } 3, .mfill { asyBad with a := 20 } 0, .mzero { asyBad with a := 1 }, .neval { asyBad with a := 20 } 0,
   .tex { asyBad with w := true, b := 20 } 0xC, .tex { asyBad with w := true, b := 20 } 0xB, .tex { asyBad with w := true, a := 15, b := 20 } 1,
   .texf { asyBad with w := true, b := 20 } 8, .texq { asyBad with w := true, b := 20, sub := 3 }, .texq { asyBad with d := 14, w := true, b := 20 },
   .trace { asyBad with w := true, a := 9, b := 20 }, .trace { asyBad with w := true, b := 20, sub := 3 }, .flins { asyBad with w := true, d := 8 },
   .flres { asyBad with w := true, d := 12 }, .ordent { asyBad with a := 3 }, .ordlv { asyBad with a := 16 }, .patch { asyBad with a := 3 }, .gvtx asyBad 5,
   .gvtx { asyBad with a := 11 } 0, .tkpush asyBad (57 * 4), .tkpop { asyBad with d := 1 } 0, .xchg { asyBad with b := 20 }, .cred { asyBad with b := 20 } 3,
   .cred { asyBad with b := 20 } 0x10, .rlogDisable { asyBad with a := 20 }, .rlogRecord { asyBad with sub := 1 }, .rlogMark { asyBad with b := 20, sub := 3 },
   .bindRound]

theorem test_illEngine : (illEngine.all fun i => !wf i) = true := by decide +kernel

/-! ## The spec's worked examples, one instruction each -/

/-- Threads 0, 1 and 3 hold values in two entries of the demo group. -/
def laneList (l : List Word) : Lanes := Vector.ofFn fun t : Fin 256 => l.getD t.val 0
def twoEntries (active : LaneMask) (e1 : Nat) (l1 : List Word) (e2 : Nat) (l2 : List Word) : State :=
  demoOf (withCtx fun x =>
    let x := { x with active := active }
    let x := x.setEntry e1 { x.entry e1 with val := laneList l1 }
    x.setEntry e2 { x.entry e2 with val := laneList l2 })

/-- The group after one instruction, tested. -/
def groupAfter (i : Instr) (s : State) (f : Group → Bool) : Bool :=
  match exec i s with
  | .next t => (t.groups[0]?).any f
  | _ => false

/-- The values of an entry in the first threads after one instruction. -/
def entryAfter (i : Instr) (s : State) (e : Nat) (l : List Word) : Bool :=
  groupAfter i s fun g => (List.range l.length).all fun t => (g.ctx.entry e).val[Fin.ofNat 256 t] == l.getD t 0

/-- R146: FADD of 1.5 and 2.25 is 3.75. -/
theorem test_fadd16 : entryAfter (.fadd16 ⟨true, false, 1, 0⟩) (twoEntries 1 0 [0x3FC00000] 1 [0x40100000]) 0 [0x40700000] = true := by decide +kernel
/-- R108: SHL of 3 by a count of 33 shifts by 1. -/
theorem test_shl_count : entryAfter (.shl ⟨none, 0, 2, true, 0, 1, false⟩) (twoEntries 1 0 [3] 1 [33]) 2 [6] = true := by decide +kernel
/-- R126: four products of -128 by -128 and the addend 0x7FFF_FFFF, wrapping and saturating (R183). -/
def dotState : State :=
  demoOf (withCtx fun x => ((x.setEntry 0 { x.entry 0 with val := laneList [0x80808080] }).setEntry 1 { x.entry 1 with val := laneList [0x80808080] }).setEntry 3
    { x.entry 3 with val := laneList [0x7FFFFFFF] })
theorem test_dp4s8_wraps : entryAfter (.dp4s8 ⟨none, 2, true, 0, 1, 3⟩) dotState 2 [0x8000FFFF] = true := by decide +kernel
theorem test_dp4s8_saturates : entryAfter (.dp4s8 ⟨none, 2, true, 1, 0, 3⟩) dotState 2 [0x7FFFFFFF] = true := by decide +kernel
/-- R119: the binary16 sum 65504 + 16 overflows to infinity with overflow and inexact. -/
theorem test_hadd2_overflow : entryAfter (.hadd2 ⟨none, 0, 2, true, 0, 1, false⟩) (twoEntries 1 0 [0x7BFF] 1 [0x4C00]) 2 [0x7C00] = true := by decide +kernel
theorem test_hadd2_flags : groupAfter (.hadd2 ⟨none, 0, 2, true, 0, 1, false⟩) (twoEntries 1 0 [0x7BFF] 1 [0x4C00]) (fun g => g.ctx.fpflags == 0x14) = true := by decide +kernel
/-- R201: CVT.s32.f32 gives -3 for -3.7, and 0x7FFF_FFFF for 3.0e9 with invalid. -/
theorem test_cvt_s32 : entryAfter (.cvt ⟨none, 4, 2, true, 0, 0, false⟩) (twoEntries 3 0 [0xC06CCCCD, 0x4F32D05E] 1 []) 2 [0xFFFFFFFD, 0x7FFFFFFF] = true := by decide +kernel
/-- R201: CVT.e4m3.f32 of 470.0 writes 0x7F, and with .sat 0x7E (R122). -/
theorem test_cvt_e4m3 : entryAfter (.cvt ⟨none, 4, 2, true, 0, 8, false⟩) (twoEntries 1 0 [0x43EB0000] 1 []) 2 [0x7F] = true := by decide +kernel
theorem test_cvt_e4m3_sat : entryAfter (.cvt ⟨none, 4, 2, true, 0, 24, false⟩) (twoEntries 1 0 [0x43EB0000] 1 []) 2 [0x7E] = true := by decide +kernel
/-- R206: threads 0, 1 and 3 active; o1 holds 5, 7, 9 and 2; o2 holds 100. -/
def scanState : State := twoEntries 0xB 1 [5, 7, 9, 2] 2 [100, 100, 100, 100]
theorem test_scan_add : entryAfter (.scan ⟨none, 0, 2, true, 1, 0, false⟩) scanState 2 [5, 12, 100, 14] = true := by decide +kernel
theorem test_scan_excl : entryAfter (.scan ⟨none, 0, 2, true, 1, 1, false⟩) scanState 2 [0, 5, 100, 12] = true := by decide +kernel
theorem test_lred_add : entryAfter (.lred ⟨none, 0, 2, true, 1, 0, false⟩) scanState 2 [14, 14, 100, 14] = true := by decide +kernel
/-- R198: -0.4 rounds to -0 under .rne. -/
theorem test_fint_minus_zero : entryAfter (.fint ⟨none, 0, 2, true, 0, 0, false⟩) (twoEntries 1 0 [0xBECCCCCD] 1 []) 2 [0x80000000] = true := by decide +kernel
/-! ## Reset -/

/-- Memory has its canonical form right after reset. -/
theorem test_reset_memory : Memory.wf State.reset.mem = true := by decide
/-- R432, R440: at reset the part waits for the rise of RESET_N, which the outside world then brings. -/
theorem test_reset_agenda : State.reset.agenda = [.resetNRise] := by decide

end Sys2Proof.Tests
end

