-- ==== Sys2Proof/Tests/WitnessTexture.lean ====
section
/-! SUPPORT. States and operands that meet the hypotheses of the statement about textures. -/

namespace Sys2Proof.Tests

set_option Elab.async false

open Machine Spec

/-- A one-dimensional texture of one texel of 16 bytes at 0x10000, with its descriptor at 0x1000 and its sampler in a table of zeros. -/
def texMem : SMap 8 :=
  SMap.setList (fetchMemory [] 32 0x2B5) 0x1000 (leBytes 64 (0x10000 + 2 ^ 64 * 10 + 2 ^ 80 * 1 + 2 ^ 96 * 1 + 2 ^ 128 * 1 + 2 ^ 160 * 1 + 2 ^ 384 * 0x2000))

/-- Thread 0 is active, and w7 holds an address. -/
def texGroup (va : DWord) : Group := oneLane fun x => { x with slots := Vector.replicate 8 ⟨true, va⟩ }

/-- The machine with a translation of its first pages, and a carve. -/
def texAt (g : Group) : State :=
  { (demoOf g).modCore 0 (fun c => { c with mainLen := 32, tlb := [⟨0, 0, 32, 0xA7⟩] }) with mem := texMem }
def tex : Group := texGroup 0x1000
/-- Coordinates from the last entry, results to entry 3, the descriptor in w7. -/
def texOps (a : SrcField) (sub : BitVec 4) : Asy := ⟨none, 3, true, a, 27, sub⟩
def texTable : TexDesc := ⟨0x10000, 10, 0, 1, 1, 1, 1, 0x2000⟩
def texAcc : LaneAcc := ⟨0, 0x10000, 0x10000, false⟩

/-- What a record read leaves and reads. -/
def recState : RecRead → State
  | .ok s _ => s
  | .stop _ => State.reset
def recVal : RecRead → Nat
  | .ok _ v => v
  | .stop _ => 0
def recOk : RecRead → Bool
  | .ok _ _ => true
  | .stop _ => false
theorem rec_of {x : RecRead} (h : recOk x = true) : x = .ok (recState x) (recVal x) := by
  cases x with
  | ok s v => rfl
  | stop e => exact absurd h Bool.false_ne_true

def texDescRead (i : Instr) : RecRead := readRecord i (opened (texAt tex) tex) 0 (asFound tex) 0x1000 64
theorem descAt_tex (i : Instr) (a : SrcField) (sub : BitVec 4) (ho : recOk (texDescRead i) = true) (hv : texDesc (recVal (texDescRead i)) = some texTable) :
    DescAt i (texOps a sub) (texAt tex) tex (recState (texDescRead i)) texTable :=
  ⟨show (slotAt (found tex) 27).toNat % 64 = 0 by decide +kernel, _, rec_of ho, hv⟩

def texInstr : Instr := .tex (texOps 15 0) 0
def texSampler : RecRead := readRecord texInstr (recState (texDescRead texInstr)) 0 (asFound tex) 0x2000 16

theorem witness_Tex : ∃ s g x k slot t sm s1 s2 v l, Ready (.tex x k) { ents := entRange (selNat x.a) (texInputs k) ||| entRange x.d.toNat (texOutputs k) } s g ∧
    g.ctx.mappedAll (entRange x.d.toNat (texOutputs k)) = true ∧ DescAt (.tex x k) x s g s1 t ∧
    readRecord (.tex x k) s1 s.cur (asFound g) (BitVec.ofNat 64 (t.table + 16 * x.sub.toNat)) 16 = .ok s2 v ∧ sampler v = some sm ∧ t.dim = fld k 1 0 ∧
    TexelsReach s2 s.cur (asFound g) t (fun n => texelsOf (probesOf (found g) x k t sm n)) l ∧ g.freeSlot = some slot :=
  ⟨texAt tex, tex, texOps 15 0, 0, 0, texTable, ⟨0, 0, [0, 0, 0], 0, 0⟩, recState (texDescRead texInstr), recState texSampler, recVal texSampler, [texAcc],
    ready_of rfl (by decide) (by decide), by decide, descAt_tex _ _ _ (by decide +kernel) (by decide +kernel), rec_of (x := texSampler) (by decide +kernel),
    by decide +kernel, rfl, ⟨⟨by decide +kernel, by decide +kernel, by decide +kernel⟩, by decide +kernel⟩, by decide⟩

def texfInstr : Instr := .texf (texOps 15 0) 0

theorem witness_Texf : ∃ s g x k t s1 l, Ready (.texf x k) { ents := entRange (selNat x.a) (texfInputs k) ||| entRange x.d.toNat (texOutputs k) } s g ∧
    g.ctx.mappedAll (entRange x.d.toNat (texOutputs k)) = true ∧ DescAt (.texf x k) x s g s1 t ∧ t.dim = fld k 1 0 ∧
    TexelsReach s1 s.cur (asFound g) t (fun n => (texfTexel t (wordsFrom (found g) (selNat x.a) (texCoords k) n)
      (if fld k 3 2 = 1 then ((found g).entry (selNat x.a + texCoords k)).at n |>.toNat else 0)).toList) l :=
  ⟨texAt tex, tex, texOps 15 0, 0, texTable, recState (texDescRead texfInstr), [texAcc],
    ready_of rfl (by decide) (by decide), by decide, descAt_tex _ _ _ (by decide +kernel) (by decide +kernel), rfl,
    ⟨⟨by decide +kernel, by decide +kernel, by decide +kernel⟩, by decide +kernel⟩⟩

theorem witness_Texq : ∃ s g x v t, Ready (.texq x) { ents := entRange (selNat x.a) 1 ||| entRange x.d.toNat (if x.sub = 0 then 3 else 1) } s g ∧
    g.ctx.mappedAll (entRange x.d.toNat (if x.sub = 0 then 3 else 1)) = true ∧ (slotAt (found g) x.b).toNat % 64 = 0 ∧
    (opened s g).queryWaits s.cur (asFound g) (slotAt (found g) x.b) = false ∧
    (opened s g).queryDesc s.cur (asFound g) (slotAt (found g) x.b) = some v ∧ texDesc v = some t := by
  obtain ⟨v, hv, ht⟩ := some_of_any (o := (opened (texAt tex) tex).queryDesc 0 (asFound tex) 0x1000) (p := fun v => texDesc v == some texTable) (by decide +kernel)
  exact ⟨texAt tex, tex, texOps 15 2, v, texTable, ready_of rfl (by decide) (by decide), by decide, by decide +kernel, by decide +kernel, hv, eq_of_beq ht⟩

/-- A descriptor outside the mapped addresses. -/
def lostTex : Group := texGroup 0x7FFFFFC0

theorem witness_TexqUnreadable : ∃ s g x, Ready (.texq x) { ents := entRange (selNat x.a) 1 ||| entRange x.d.toNat (if x.sub = 0 then 3 else 1) } s g ∧
    g.ctx.mappedAll (entRange x.d.toNat (if x.sub = 0 then 3 else 1)) = true ∧ (slotAt (found g) x.b).toNat % 64 = 0 ∧
    (opened s g).queryWaits s.cur (asFound g) (slotAt (found g) x.b) = false ∧
    (opened s g).queryDesc s.cur (asFound g) (slotAt (found g) x.b) = none :=
  ⟨texAt lostTex, lostTex, texOps 15 0, ready_of rfl (by decide) (by decide), by decide, by decide +kernel, by decide +kernel, by decide +kernel⟩

def oddTex : Group := texGroup 0x1020

theorem witness_TexAlign : ∃ s g x k, Ready (.tex x k) { ents := entRange (selNat x.a) (texInputs k) ||| entRange x.d.toNat (texOutputs k) } s g ∧
    g.ctx.mappedAll (entRange x.d.toNat (texOutputs k)) = true ∧ CanTrap s g ∧ (slotAt (found g) x.b).toNat % 64 ≠ 0 :=
  ⟨texAt oddTex, oddTex, texOps 15 0, 0, ready_of rfl (by decide) (by decide), by decide,
    ⟨by decide, rfl, rfl, ⟨demoJob, rfl, by decide⟩, by decide⟩, by decide +kernel⟩

end Sys2Proof.Tests
end

