-- ==== Sys2Proof/Tests/WitnessLists.lean ====
section
/-! SUPPORT. States and operands that meet the hypotheses of the statements about rays, fragment lists and ordered sections. -/

namespace Sys2Proof.Tests

set_option Elab.async false

open Machine Spec

/-- An IMMEDIATE pass of one tile, with its planes at 0x30000 and a pool without a node. -/
def demoBlock : PassBlock :=
  { immediate := true, logS := 0, motion := false, defocus := false, persistent := false, width := 64, height := 64, budget := 1, depthFn := 1,
    merge := 0, rayScale := 0x3F800000, rayBias := 0, pool := 0x20000, poolPages := 0, nodeLimit := 0, tilePages := 0, view := [], origin := [],
    clearDepth := 0x3F800000, clearColour := 0, args := 0x1234, colourAt := 0x60000, pitch := 256, colourFmt := 0, depthAt := 0, spill := 0x50000,
    bin := 0, binBytes := 16, plane := 0x30000, statusAt := 0x1040, privBase := 0x70000, privZ := 16, areaLog := 4 }

def demoPass : Pass :=
  { live := true, job := 0, queue := 0, slot := 0, mask := 1, block := demoBlock, pattern := List.replicate 16 [0, 0, 0, 0, 0],
    gridKernel := { Kernel.none with entry := 0x100000 }, sampleKernel := none, resolveKernel := none, stage := .draw, sub := 0,
    resolveFail := false, guard := false, seqwrap := false, binflush := false, poolEmpty := false, gridSeq := 0, binUsed := 0, flushing := false,
    patches := [], diced := [], grids := [], used := [], reserved := [], toLists := [], opened := [], closed := [], tiles := [] }

/-- The machine with an open pass, to which the launch belongs, and a group. -/
def passAt (p : Pass) (g : Group) : State :=
  { (texAt g) with passes := [p], launches := [{ fetchLaunch 0 with pass := some 0 }] }

/-- Thread 0 is active, entries from a number hold words, and w7 holds an address. -/
def wordsGroup (va : DWord) (l : List (Nat × Word)) : Group :=
  oneLane fun x => l.foldl (fun x p => holding p.1 p.2 x) { x with slots := Vector.replicate 8 ⟨true, va⟩ }

/-! ## Rays -/

def bvhMem : SMap 8 :=
  let f (k : Nat) (v : Nat) : Nat := 2 ^ (32 * k) * v
  let one := 0x3F800000
  let node := f 3 one + f 4 one + f 5 one + f 24 (2 ^ 31 + 2)
  let leaf := f 2 (one - 2 ^ 23) + f 3 one + f 5 (one - 2 ^ 23) + f 7 one + f 8 (one - 2 ^ 23) + f 9 7 + f 10 0x3C000000
  SMap.setList (SMap.setList (SMap.setList (fetchMemory [] 32 0x2B5) 0x1000 (leBytes 128 node)) 0x1080 (leBytes 64 leaf)) 0x43FF8 (leBytes 8 noNode)

/-- A ray along z from the corner of a triangle, in entries 4 to 11, with the key of pixel (63, 63), whose list is empty, and a sequence
after it. -/
def rayGroup : Group :=
  wordsGroup 0x1000 [(4, 0x3E800000), (5, 0x3E800000), (6, 0), (7, 0), (8, 0), (9, 0x3F800000), (10, 0), (11, 0x7F800000), (12, 0x003F003F), (13, 0), (14, 5)]
def rayAt : State := { passAt demoPass rayGroup with mem := bvhMem }
def rayOps (sub : BitVec 4) : Asy := ⟨none, 0, true, 4, 27, sub⟩

theorem hit_head {l : List Met} (h : (match l with | .hit _ :: _ => true | _ => false) = true) : ∃ h rest, l = .hit h :: rest := by
  cases l with
  | nil => exact absurd h Bool.false_ne_true
  | cons m rest => cases m with
    | hit k => exact ⟨k, rest, rfl⟩
    | fault _ _ => exact absurd h Bool.false_ne_true
    | wait => exact absurd h Bool.false_ne_true
    | read _ => exact absurd h Bool.false_ne_true

theorem pair_of {α β : Type} {x : α × List β} (h : x.2.isEmpty = true) : x = (x.1, []) := by
  obtain ⟨a, b⟩ := x
  exact congrArg _ (List.isEmpty_iff.mp h)

theorem ray_lanes : (found rayGroup).lanes = [0] := by decide +kernel

theorem witness_Trace : ∃ s g x slot, x.sub ≠ 2 ∧ Ready (.trace x) { ents := entRange (selNat x.a) 8 ||| entRange x.d.toNat 4 } s g ∧
    g.ctx.mappedAll (entRange x.d.toNat 4) = true ∧ (slotAt (found g) x.b).toNat % 128 = 0 ∧ g.acquiring = false ∧ g.freeSlot = some slot ∧
    (∀ n ∈ (found g).lanes, laneWaits (decide (x.sub = 1)) (metBy s g x n) = false) ∧
    ∀ n ∈ (found g).lanes, ∃ h rest, metBy s g x n = .hit h :: rest :=
  ⟨rayAt, rayGroup, rayOps 0, 0, by decide, ready_of rfl (by decide) (by decide), by decide, by decide +kernel, by decide, by decide, by decide +kernel, fun n h => by
    rw [ray_lanes] at h
    rw [List.mem_singleton.mp h]
    exact hit_head (by decide +kernel)⟩

theorem passAt_demo {s : State} {g : Group} {p : Pass} (h : (opened s g).passIx (asFound g) = some 0) (hp : s.passes[0]? = some p) : PassAt s g 0 p := ⟨h, hp⟩

def rayPend : Pend := pendOf (.trace (rayOps 2)) (asFound rayGroup) (.entries 0 1) 1 true
def rayWork : List (Nat × List ListFrag × Bool) := appended rayAt rayGroup (rayOps 2) demoBlock
def rayDone : State × List HeldFail :=
  appendHits ((rayReads rayAt rayGroup (rayOps 2) false).setGroup 0 { rayGroup.setSlot 0 (some rayPend) with ctx := (found rayGroup).free (usedUp 4 11) })
    0 0 0 (found rayGroup).pc 0 rayWork

theorem witness_TraceAppend : ∃ s g x slot ps b, x.sub = 2 ∧ Ready (.trace x) { ents := entRange (selNat x.a) 11 ||| entRange x.d.toNat 1 } s g ∧
    g.ctx.mappedAll (entRange x.d.toNat 1) = true ∧ PassAt s g ps b ∧ (∀ n ∈ (found g).lanes, keyAllowed b g ((found g).keyAt (selNat x.a + 8) n) = true) ∧
    (slotAt (found g) x.b).toNat % 128 = 0 ∧ g.acquiring = false ∧ g.freeSlot = some slot ∧ g.inRegion = false ∧ g.doneLanes = 0 ∧
    (∀ n ∈ (found g).lanes, ∀ m ∈ metBy s g x n, ∃ h, m = .hit h) ∧
    insertsWait (opened s g) s.cur ps ((appended s g x b.block).flatMap fun w => w.2.1) = false ∧
    ∃ p t h, Issued (.trace x) (found g) (found g).lanes (.entries x.d.toNat 1) p ∧ p.vals = [] ∧ p.causes = [] ∧
      appendHits ((rayReads s g x false).setGroup s.cur { g.setSlot slot (some p) with ctx := (found g).free (usedUp x.a 11) }) g.core s.cur ps
        (found g).pc slot (appended s g x b.block) = (t, []) ∧ t.groups[s.cur]? = some h ∧ h.status = .running ∧ h.again = none ∧ h.rebuild = none ∧ h.kind = g.kind ∧
      h.team = g.team ∧ t.teams = s.teams := by
  obtain ⟨h, hg, hh⟩ := some_of_any (o := rayDone.1.groups[0]?) (p := fun h => h.status == .running && h.again == none && h.rebuild == none &&
    h.kind == rayGroup.kind && h.team == rayGroup.team) (by decide +kernel)
  simp only [Bool.and_eq_true, beq_iff_eq] at hh
  obtain ⟨⟨⟨⟨h1, h2⟩, h3⟩, h4⟩, h5⟩ := hh
  refine ⟨rayAt, rayGroup, rayOps 2, 0, 0, demoPass, rfl, ready_of rfl (by decide) (by decide), by decide, passAt_demo (by decide +kernel) rfl,
    by decide +kernel, by decide +kernel, by decide, by decide, by decide, by decide, fun n hn m hm => ?_, ?_, rayPend, rayDone.1, h,
    ⟨⟨rfl, by decide +kernel⟩, rfl, by decide +kernel⟩, rfl, rfl, ?_, hg, h1, h2, h3, h4, h5, by decide +kernel⟩
  · rw [ray_lanes] at hn
    rw [List.mem_singleton.mp hn] at hm
    have ha : (metBy rayAt rayGroup (rayOps 2) 0).all (fun m => match m with | .hit _ => true | _ => false) = true := by decide +kernel
    have hb := List.all_eq_true.mp ha m hm
    cases m with
    | hit h => exact ⟨h, rfl⟩
    | fault _ _ => exact absurd hb Bool.false_ne_true
    | wait => exact absurd hb Bool.false_ne_true
    | read _ => exact absurd hb Bool.false_ne_true
  · decide +kernel
  · exact pair_of (x := rayDone) (by decide +kernel)

/-! ## Fragment lists -/

/-- One fragment at the last pixel, in entries 10 to 15. -/
def fragGroup : Group :=
  wordsGroup 0 [(10, 0x003F003F), (11, 0), (12, 0x3F000000), (13, 9), (14, 0x3C003C00), (15, 0x3C003C00)]
def fragAt : State := { passAt demoPass fragGroup with mem := bvhMem }
def fragOps (d : BitVec 4) (w : Bool) (a : SrcField) : Asy := ⟨none, d, w, a, 0, 0⟩
def fragDone : State × List Nat × List HeldFail := insertLanes (opened fragAt fragGroup) 0 0 (found fragGroup).pc (fragsOf (found fragGroup) (fragOps 7 true 10))

theorem triple_of {α β γ : Type} {x : α × β × List γ} (h : x.2.2.isEmpty = true) : x = (x.1, x.2.1, []) := by
  obtain ⟨a, b, c⟩ := x
  exact congrArg (fun c => (a, b, c)) (List.isEmpty_iff.mp h)

theorem frag_done : insertLanes (opened fragAt fragGroup) 0 0 (found fragGroup).pc (fragsOf (found fragGroup) (fragOps 7 true 10)) =
    (fragDone.1, fragDone.2.1, []) := triple_of (x := fragDone) (by decide +kernel)

theorem witness_Flins : ∃ s g x ps b t oks, Ready (.flins x) { ents := entRange (selNat x.a) 6 } s g ∧ PassAt s g ps b ∧
    (∀ n ∈ (found g).lanes, keyAllowed b g ((found g).keyAt (selNat x.a) n) = true) ∧ g.inRegion = false ∧
    g.acquiring = false ∧ insertsWait (opened s g) s.cur ps ((fragsOf (found g) x).map fun f => f.2) = false ∧
    insertLanes (opened s g) g.core ps (found g).pc (fragsOf (found g) x) = (t, oks, []) ∧ t.groups = (opened s g).groups ∧ t.teams = s.teams :=
  ⟨fragAt, fragGroup, fragOps 7 true 10, 0, demoPass, fragDone.1, fragDone.2.1, ready_of rfl (by decide) (by decide),
    passAt_demo (by decide +kernel) rfl, by decide +kernel, by decide, by decide, by decide +kernel, frag_done,
    (Laws.insertLanes_kept _ frag_done).1, (Laws.insertLanes_kept _ frag_done).2⟩

/-- The same in a sample group inside a region with room for one more fragment. -/
def heldFrag : Group := { fragGroup with kind := .sample, gfx := some (regionGfx 32736) }
def heldAt : State := { passAt demoPass heldFrag with mem := bvhMem }

theorem witness_FlinsHeld : ∃ s g x ps b f, Ready (.flins x) { ents := entRange (selNat x.a) 6 } s g ∧ PassAt s g ps b ∧
    (∀ n ∈ (found g).lanes, keyAllowed b g ((found g).keyAt (selNat x.a) n) = true) ∧ HasRoom s g f (32 * (found g).lanes.length) :=
  ⟨heldAt, heldFrag, fragOps 0 true 10, 0, demoPass, regionGfx 32736, ready_of rfl (by decide) (by decide), passAt_demo (by decide +kernel) rfl,
    by decide +kernel, ⟨⟨rfl, rfl⟩, by decide +kernel, by decide +kernel⟩⟩

theorem frag_lanes : (found fragGroup).lanes = [0] := by decide +kernel

theorem witness_Flres : ∃ s g x slot ps b, Ready (.flres x) { ents := entRange (selNat x.a) 2 ||| entRange x.d.toNat 5 } s g ∧ PassAt s g ps b ∧
    g.ctx.mappedAll (entRange x.d.toNat 5) = true ∧ (∀ n ∈ (found g).lanes, keyAllowed b g ((found g).keyAt (selNat x.a) n) = true) ∧
    g.freeSlot = some slot ∧ g.acquiring = false ∧
    (∀ q ∈ (found g).lanes.flatMap fun n => ((opened s g).ownView (asFound g)).listPlaces b ((found g).keyAt (selNat x.a) n),
      (opened s g).placeBusy s.cur b.job q = false) ∧
    (∀ n ∈ (found g).lanes, ∃ l, ((opened s g).ownView (asFound g)).listOf b ((found g).keyAt (selNat x.a) n) = .ok l) :=
  ⟨fragAt, fragGroup, fragOps 11 true 10, 0, 0, demoPass, ready_of rfl (by decide) (by decide), passAt_demo (by decide +kernel) rfl, by decide,
    by decide +kernel, by decide, by decide, by decide +kernel, fun n h => by
      rw [frag_lanes] at h
      rw [List.mem_singleton.mp h]
      obtain ⟨l, hl, -⟩ := dev_any (x := ((opened fragAt fragGroup).ownView (asFound fragGroup)).listOf demoPass ((found fragGroup).keyAt 10 0)) (p := fun _ => true) (by decide +kernel)
      exact ⟨l, hl⟩⟩

/-- A TILED pass whose tile 1 stands with the team of core 0, in an array of zeros: every list begins at node 0 of two and has no entry. -/
def tiledPass : Pass :=
  { demoPass with block := { demoBlock with immediate := false, width := 128, tilePages := 1, pool := 0, nodeLimit := 2 }, tiles := [⟨1, some 0, false, [], false⟩] }
def tiledAt (p : Pass) : State := { passAt p fragGroup with mem := bvhMem, teams := [{ fetchTeam 0 0 with scrBase := 10, scrLen := 2 }] }
def tiledFrag : ListFrag := ⟨(127, 63, 0), 0x3F000000, 7, 2 ^ 32 - 1⟩

theorem leNat_zeros (l : List Nat) : leNat (l.map fun _ => (0 : BitVec 8)) = 0 := by
  induction l with
  | nil => rfl
  | cons _ l ih => rw [List.map_cons, leNat, ih]; rfl

theorem tiled_zero (p : Place) (hp : ∃ off, p = .core 0 off) (n : Nat) : (tiledAt tiledPass).placeRead 0 n p = .ok 0 := by
  obtain ⟨off, rfl⟩ := hp
  show Dev.ok (leNat ((List.range n).map fun i => ((tiledAt tiledPass).core 0).arrayByte 0 (off + i))) = _
  have h : ∀ a, ((tiledAt tiledPass).core 0).arrayByte 0 a = 0 := fun a => by
    unfold Core.arrayByte
    rw [show ((tiledAt tiledPass).core 0).array = [] by decide +kernel, show ((tiledAt tiledPass).core 0).granEpoch = [] by decide +kernel]
    rw [show SMap.get ([] : SMap 9) a = 0 by simp [SMap.get]]
    rfl
  simp only [h, leNat_zeros]

/-- From a head on that reads as 0, node 0 is reached, and it points at itself. -/
theorem reach_zero (n : Nat) (r : List Nat × Bool) (h : r = ([], true) ∨ r = ([0], true)) :
    (tiledAt tiledPass).reachFrom tiledPass 1 (n + 2) 0 r = ([0], true) := by
  have hn : (tiledAt tiledPass).placeRead 0 3 ((tiledAt tiledPass).nodePlace tiledPass 1 0 16) = .ok 0 := tiled_zero _ ⟨_, rfl⟩ 3
  rcases h with rfl | rfl
  · rw [State.reachFrom, if_neg (by decide), show tiledPass.job = 0 from rfl, hn]
    show State.reachFrom _ _ _ (n + 1) 0 _ = _
    rw [State.reachFrom, if_pos (by decide)]
  · rw [State.reachFrom, if_pos (by decide)]

/-- Every head leads to node 0 alone. -/
theorem fold_zero {f : List Nat × Bool → Nat → List Nat × Bool} (hf : ∀ r i, r = ([], true) ∨ r = ([0], true) → f r i = ([0], true)) (l : List Nat)
    (r : List Nat × Bool) (h : r = ([], true) ∨ r = ([0], true)) (hl : l ≠ [] ∨ r = ([0], true)) : l.foldl f r = ([0], true) := by
  induction l generalizing r with
  | nil => exact hl.resolve_left fun h => h rfl
  | cons i l ih =>
    rw [List.foldl_cons, hf r i h]
    exact ih _ (.inr rfl) (.inr rfl)

theorem head_zero (r : List Nat × Bool) (h : r = ([], true) ∨ r = ([0], true)) :
    (tiledAt tiledPass).reachFrom tiledPass 1 noNode (0 % 2 ^ 24) r = ([0], true) := by
  rw [show noNode = 16777213 + 2 by decide, Nat.zero_mod]
  exact reach_zero 16777213 r h

theorem taken_of (s : State) (p : Pass) (tile : Nat) (ht : p.block.poolTiles tile = [tile]) (hs : 4096 * p.block.S ≠ 0)
    (h0 : ∀ off, s.tileRead p tile off 8 = .ok 0)
    (hr : ∀ r, r = ([], true) ∨ r = ([0], true) → s.reachFrom p tile noNode (0 % 2 ^ 24) r = ([0], true)) : s.poolTaken p tile = [0] := by
  unfold State.poolTaken
  simp only [ht, List.foldl_cons, List.foldl_nil]
  rw [fold_zero (fun r i h => by rw [h0]; exact hr r h) _ _ (.inl rfl) (.inl fun h => absurd (List.range_eq_nil.mp h) hs)]
  rfl

theorem taken_zero : (tiledAt tiledPass).poolTaken tiledPass 1 = [0] :=
  taken_of _ _ _ rfl (by decide +kernel) (fun _ => tiled_zero _ ⟨_, rfl⟩ 8) head_zero

theorem tiled_allocates : (tiledAt tiledPass).allocate tiledPass 1 = some 1 := by
  unfold State.allocate
  rw [taken_zero]
  rfl

theorem witness_InsertEmpty : ∃ (s : State) (ps : Nat) (b : Pass) (f : ListFrag) (ti : TileSt) (k : Nat) (tm : Team) (head i : Nat), s.passes[ps]? = some b ∧
    b.block.immediate = false ∧ b.block.keyOk f.key = true ∧ (b.tiles.find? fun t => t.tile == b.block.tileOf f.key) = some ti ∧ ti.team = some k ∧
    s.teams[k]? = some tm ∧ s.tileRead b (b.block.tileOf f.key) (headOff b.block (b.block.sampleIx f.key)) 8 = .ok head ∧ head / 2 ^ 24 % 256 = 0 ∧
    1 ≤ b.block.budget ∧ s.allocate b (b.block.tileOf f.key) = some i ∧ i < 2 ^ 24 - 1 ∧ f.seq < 2 ^ 32 := by
  obtain ⟨v, hv, h0⟩ := dev_any (x := (tiledAt tiledPass).tileRead tiledPass 1 (headOff tiledPass.block (tiledPass.block.sampleIx (127, 63, 0))) 8)
    (p := fun v => decide (v / 2 ^ 24 % 256 = 0)) (by decide +kernel)
  exact ⟨tiledAt tiledPass, 0, tiledPass, tiledFrag, _, 0, _, v, 1, rfl, rfl, by decide, rfl, rfl, rfl, hv, of_decide_eq_true h0, by decide, tiled_allocates,
    by decide, by decide⟩

/-- A pass with one fragment of core 0 that waits for the list engine. -/
def waitingFrag : Frag := ⟨0, 0, (63, 63, 0), 9, 0x3F000000, 1, [0x3C003C003C003C00]⟩
def waitingPass : Pass := { demoPass with toLists := [waitingFrag], reserved := [(0, (63, 63, 0), 9)] }
def waitingAt : State := { passAt waitingPass fragGroup with mem := bvhMem }
theorem onlyPass_of {s : State} {p : Pass} (h : s.passes = [p]) (hl : p.live = true) : OnlyPass s 0 p where
  here := by rw [h]; exact ⟨rfl, hl⟩
  alone := fun k q hq _ => by
    rw [h] at hq
    cases k with
    | zero => rfl
    | succ k => exact absurd hq (by simp)

theorem witness_ListInsertion : ∃ s ps b core f rest r, OnlyPass s ps b ∧ b.toLists = f :: rest ∧ f.core = core ∧
    insertFrag s ps ⟨f.key, f.depth, f.colours.getD 0 0, f.seq⟩ = .ok r := by
  obtain ⟨r, hr, -⟩ := dev_any (x := insertFrag waitingAt 0 ⟨(63, 63, 0), 0x3F000000, 0x3C003C003C003C00, 9⟩) (p := fun _ => true) (by decide +kernel)
  exact ⟨waitingAt, 0, waitingPass, 0, waitingFrag, [], r, onlyPass_of rfl rfl, rfl, rfl, hr⟩

/-- Passes about to be resolved, by default and by a resolve team. -/
def endingPass : Pass := { demoPass with stage := .finish }
def resolvedPass : Pass := { endingPass with resolveKernel := some { Kernel.none with regs := 8 } }
def resolvedAt : State := passAt resolvedPass fragGroup

theorem witness_TileResolve : ∃ (s : State) (ps : Nat) (b : Pass) (tile : Nat), s.passes[ps]? = some b ∧ b.live = true ∧ b.stage = .finish ∧
    b.flushing = false ∧ tile < b.block.tiles ∧ b.patches = [] ∧ b.diced = [] ∧ b.grids = [] ∧ b.reserved = [] ∧
    (∀ t ∈ b.tiles, t.resolved = false) ∧ b.resolveKernel = none :=
  ⟨passAt endingPass fragGroup, 0, endingPass, 0, rfl, rfl, rfl, rfl, by decide, rfl, rfl, rfl, rfl, by decide, rfl⟩

theorem witness_TileResolveTeam : ∃ (s : State) (ps : Nat) (b : Pass) (tile : Nat) (k : Kernel) (u : State) (core ti : Nat) (w : State) (l : List Nat),
    s.passes[ps]? = some b ∧ b.live = true ∧ b.stage = .finish ∧ b.flushing = false ∧ tile < b.block.tiles ∧ b.patches = [] ∧ b.diced = [] ∧
    b.grids = [] ∧ b.reserved = [] ∧ (∀ t ∈ b.tiles, t.resolved = false) ∧ b.resolveKernel = some k ∧ (∀ t ∈ b.tiles, t.resolving = []) ∧
    s.resolvePlace b k tile = some (u, core, ti) ∧ u.startResolve ps b k tile core ti k.groups [] = some (w, l) := by
  obtain ⟨⟨u, core, ti⟩, hu, hw⟩ := some_of_any (o := resolvedAt.resolvePlace resolvedPass { Kernel.none with regs := 8 } 0)
    (p := fun q => (q.1.startResolve 0 resolvedPass { Kernel.none with regs := 8 } 0 q.2.1 q.2.2 1 []).isSome) (by decide +kernel)
  obtain ⟨⟨w, l⟩, hw⟩ := Option.isSome_iff_exists.mp hw
  exact ⟨resolvedAt, 0, resolvedPass, 0, _, u, core, ti, w, l, rfl, rfl, rfl, rfl, by decide, rfl, rfl, rfl, rfl, by decide, rfl, by decide, hu, hw⟩

theorem witness_IdemStart : ∃ s g sp, Ready (.idemStart sp) {} s g ∧ g.gfx = none :=
  ⟨demo, demoGroup, none, ready_of rfl (by decide) (by decide), rfl⟩

theorem witness_IdemCommit : ∃ s g sp, Ready (.idemCommit sp) {} s g ∧ g.gfx = none :=
  ⟨demo, demoGroup, none, ready_of rfl (by decide) (by decide), rfl⟩

/-- A sample group in a region that holds one store of four bytes. -/
def storing : Gfx := { regionGfx 16 with held := [.store 0x2000 [1, 2, 3, 4] false 0x2000] }
def storingGroup : Group := { demoGroup with kind := .sample, gfx := some storing }
def storingAt : State := passAt demoPass storingGroup
def committed : State × Option TrapInfo := commitHeld (opened storingAt storingGroup) 0

theorem committed_demo : ∃ h y, Committed storingAt committed.1 storingGroup h ∧ h.gfx = some y := by
  obtain ⟨h, hg, hh⟩ := some_of_any (o := committed.1.groups[0]?) (p := fun h => h.status == .running && h.again == none && h.rebuild == none &&
    h.ctx.pendFree == 0 && h.kind == storingGroup.kind && h.team == storingGroup.team && h.gfx.isSome) (by decide +kernel)
  simp only [Bool.and_eq_true, beq_iff_eq] at hh
  obtain ⟨⟨⟨⟨⟨⟨h1, h2⟩, h3⟩, h4⟩, h5⟩, h6⟩, h7⟩ := hh
  obtain ⟨y, hy⟩ := Option.isSome_iff_exists.mp h7
  exact ⟨h, y, ⟨show (opened storingAt storingGroup).commitWaits 0 = false by decide +kernel, pairNone_of (x := committed) (by decide +kernel), hg, ⟨h1, h2, h3, h4, h5, h6⟩, by decide +kernel, by decide +kernel⟩, hy⟩

theorem witness_IdemStartGraphics : ∃ s g sp t h y, Ready (.idemStart sp) {} s g ∧ g.gfx ≠ none ∧ Committed s t g h ∧ h.gfx = some y ∧ s.preempting g = false := by
  obtain ⟨h, y, hc, hy⟩ := committed_demo
  exact ⟨storingAt, storingGroup, none, _, h, y, ready_of rfl (by decide) (by decide), by decide, hc, hy, by decide⟩

theorem witness_IdemCommitGraphics : ∃ s g sp t h y, Ready (.idemCommit sp) {} s g ∧ g.gfx ≠ none ∧ Committed s t g h ∧ h.gfx = some y := by
  obtain ⟨h, y, hc, hy⟩ := committed_demo
  exact ⟨storingAt, storingGroup, none, _, h, y, ready_of rfl (by decide) (by decide), by decide, hc, hy⟩

theorem witness_CommitNothing : ∃ (s : State) (g : Group) (f : Gfx), s.groups[s.cur]? = some g ∧ g.gfx = some f ∧ f.held = [] :=
  ⟨heldAt, heldFrag, regionGfx 32736, rfl, rfl, rfl⟩

end Sys2Proof.Tests
end

