-- ==== Sys2Proof/Tests/WitnessPackets.lean ====
section
/-! SUPPORT. States and operands that meet the hypotheses of the statements about queues and launches. -/

namespace Sys2Proof.Tests

set_option Elab.async false

open Machine Spec

/-- A ring of 64 bytes, filled, whose first packet stands at 0. -/
def demoNest : Nest := ⟨0x3000, 64, 64, 0, [], none, 0, 0⟩
def demoSlot : Slot := { Slot.empty with bound := true, qcb := 0x1000, mask := 1, len := 20, levels := [demoNest] }
def demoQueue : Queue := { live := true, qcb := 0x1000, job := 0, wake := 0, passCount := 0, phases := 0, pass := none, gen := none, lastBind := 0 }

/-- The machine with one queue, in slot 63. -/
def queueAt (x : Slot) (q : Queue) : State := { demo.modSlot 63 (fun _ => x) with queues := [q] }

theorem slot_of {s : State} {x : Slot} (h : s.slots = demo.slots.set (slotIx 63) x) : s.slot 63 = x := by
  unfold State.slot
  rw [h]
  simp
theorem slot_queueAt (x : Slot) (q : Queue) : (queueAt x q).slot 63 = x := slot_of rfl

theorem atPacket_of {x : Slot} {q : Queue} (hq : x.queue = 0) (hb : x.bound = true) (hf : x.stopped = none ∧ x.waiting = none ∧ x.levels ≠ []) :
    AtPacket (queueAt x q) 63 x q where
  slot := slot_queueAt x q
  queue := by rw [hq]; rfl
  bound := hb
  free := hf

theorem atPacket_demo (q : Queue) : AtPacket (queueAt demoSlot q) 63 demoSlot q := atPacket_of rfl rfl ⟨rfl, rfl, by decide⟩

theorem witness_Nopp : ∃ (s : State) (sl : Nat) (x : Slot) (q : Queue) (n : Nest) (u : State), AtPacket s sl x q ∧ Alone0 x n ∧
    (past s sl x n).devWrite q.job (q.qcb + 16) (leBytes 8 (n.pos + x.len)) = .ok u := by
  obtain ⟨u, hu, -⟩ := dev_any (x := (past (queueAt demoSlot demoQueue) 63 demoSlot demoNest).devWrite 0 0x1010 (leBytes 8 20)) (p := fun _ => true) (by decide +kernel)
  exact ⟨queueAt demoSlot demoQueue, 63, demoSlot, demoQueue, demoNest, u, atPacket_demo _, ⟨rfl, ⟨rfl, rfl, rfl⟩, ⟨rfl, rfl⟩⟩, hu⟩

theorem witness_Ffence : ∃ s sl x q, AtPacket s sl x q := ⟨_, 63, demoSlot, demoQueue, atPacket_demo _⟩

/-- Conditions on the word at 0x2000, which is 0. -/
def condAt (code : BitVec 3) : MemCond := ⟨code, false, 0x2000, 0⟩
theorem word_demo (x : Slot) (hx : x.job = 0) (q : Queue) (h : devTest (· == 0) ((queueAt x q).devRead 0 0x2000 4) = true) (code : BitVec 3) :
    (queueAt x q).devRead x.job (condAt code).addr (if (condAt code).wide then 8 else 4) = .ok 0 := by
  obtain ⟨v, hv, h0⟩ := dev_test h
  show (queueAt x q).devRead x.job 0x2000 4 = .ok 0
  rw [hx, hv, eq_of_beq h0]

theorem word_plain : devTest (· == 0) ((queueAt demoSlot demoQueue).devRead 0 0x2000 4) = true := by decide +kernel

theorem witness_WaitHolds : ∃ s sl x q c word, AtPacket s sl x q ∧ s.devRead x.job c.addr (if c.wide then 8 else 4) = .ok word ∧ CondTrue c word :=
  ⟨_, 63, demoSlot, demoQueue, condAt 0, 0, atPacket_demo _, word_demo _ rfl _ word_plain _, show BitVec.ofNat 32 0 = _ from rfl⟩
theorem witness_WaitParks : ∃ s sl x q c word, AtPacket s sl x q ∧ s.devRead x.job c.addr (if c.wide then 8 else 4) = .ok word ∧ ¬ CondTrue c word ∧
    (∀ n ∈ x.levels, n.loop = none) :=
  ⟨_, 63, demoSlot, demoQueue, condAt 1, 0, atPacket_demo _, word_demo _ rfl _ word_plain _, fun h => (show BitVec.ofNat 32 0 ≠ (0 : DWord).setWidth 32 from h) rfl,
    fun n h => by rw [List.mem_singleton.mp h]; rfl⟩

/-- A slot inside a loop body. -/
def loopSlot : Slot := { demoSlot with levels := [{ demoNest with loop := some ⟨0, 2, 2, 3⟩ }] }
theorem atPacket_loop : AtPacket (queueAt loopSlot demoQueue) 63 loopSlot demoQueue := atPacket_of rfl rfl ⟨rfl, rfl, by decide⟩
theorem witness_WaitInPlace : ∃ s sl x q c word, AtPacket s sl x q ∧ s.devRead x.job c.addr (if c.wide then 8 else 4) = .ok word ∧ ¬ CondTrue c word ∧
    (∃ n ∈ x.levels, n.loop ≠ none) :=
  ⟨_, 63, loopSlot, demoQueue, condAt 1, 0, atPacket_loop, word_demo _ rfl _ (by decide +kernel) _,
    fun h => (show BitVec.ofNat 32 0 ≠ (0 : DWord).setWidth 32 from h) rfl, _, List.mem_singleton.mpr rfl, by decide⟩

theorem witness_PredCovers : ∃ s sl x q c word m l, AtPacket s sl x q ∧ s.devRead x.job c.addr (if c.wide then 8 else 4) = .ok word ∧
    x.begin.levels = m :: l ∧ CondTrue c word ∧ m.loop = none :=
  ⟨_, 63, demoSlot, demoQueue, condAt 0, 0, _, _, atPacket_demo _, word_demo _ rfl _ word_plain _, rfl, show BitVec.ofNat 32 0 = _ from rfl, rfl⟩
theorem witness_PredInLoop : ∃ s sl x q c word m l, AtPacket s sl x q ∧ s.devRead x.job c.addr (if c.wide then 8 else 4) = .ok word ∧
    x.begin.levels = m :: l ∧ CondTrue c word ∧ m.loop ≠ none :=
  ⟨_, 63, loopSlot, demoQueue, condAt 0, 0, _, _, atPacket_loop, word_demo _ rfl _ (by decide +kernel) _, rfl, show BitVec.ofNat 32 0 = _ from rfl, by decide⟩
theorem witness_PredSkips : ∃ s sl x q c word m l, AtPacket s sl x q ∧ s.devRead x.job c.addr (if c.wide then 8 else 4) = .ok word ∧
    x.begin.levels = m :: l ∧ ¬ CondTrue c word :=
  ⟨_, 63, demoSlot, demoQueue, condAt 1, 0, _, _, atPacket_demo _, word_demo _ rfl _ word_plain _, rfl,
    fun h => (show BitVec.ofNat 32 0 ≠ (0 : DWord).setWidth 32 from h) rfl⟩

theorem witness_Loop : ∃ s sl x q m l, AtPacket s sl x q ∧ x.begin.levels = m :: l := ⟨_, 63, demoSlot, demoQueue, _, _, atPacket_demo _, rfl⟩
theorem witness_NestLeft : ∃ (n : Nest) (k : LoopSt), n.loop = some k ∧ 1 < k.left := ⟨{ demoNest with loop := some ⟨0, 2, 2, 1⟩ }, _, rfl, by decide⟩
theorem witness_NestAgain : ∃ (n : Nest) (k : LoopSt), n.loop = some k ∧ k.left ≤ 1 ∧ 1 < k.iters := ⟨{ demoNest with loop := some ⟨0, 2, 1, 2⟩ }, _, rfl, by decide, by decide⟩
theorem witness_NestEnds : ∃ (n : Nest) (k : LoopSt), n.loop = some k ∧ k.left ≤ 1 ∧ k.iters ≤ 1 := ⟨{ demoNest with loop := some ⟨0, 2, 1, 1⟩ }, _, rfl, by decide, by decide⟩
theorem witness_Ib : ∃ s sl x q n l, AtPacket s sl x q ∧ x.levels = n :: l := ⟨_, 63, demoSlot, demoQueue, _, _, atPacket_demo _, rfl⟩

/-- The queue's launch is complete. -/
def calm : State := { queueAt demoSlot demoQueue with launches := [{ fetchLaunch 0 with queue := some 0, complete := true }] }
theorem atPacket_calm : AtPacket calm 63 demoSlot demoQueue := ⟨slot_of rfl, rfl, rfl, rfl, rfl, by decide⟩
theorem witness_Signal : ∃ (s : State) (sl : Nat) (x : Slot) (q : Queue) (addr value : DWord) (op : BitVec 2) (wide : Bool) (old : Nat) (u : State),
    AtPacket s sl x q ∧ s.queueDone sl = true ∧ s.devRead x.job addr (if wide then 8 else 4) = .ok old ∧
    s.devWrite x.job addr (leBytes (if wide then 8 else 4) (signalled op old value.toNat)) = .ok u := by
  obtain ⟨v, hv, h0⟩ := dev_test (x := calm.devRead 0 0x2008 8) (p := (· == 0)) (by decide +kernel)
  obtain ⟨u, hu, -⟩ := dev_test (x := calm.devWrite 0 0x2008 (leBytes 8 (signalled 1 0 (2 ^ 64 - 1)))) (p := fun _ => true) (by decide +kernel)
  exact ⟨calm, 63, demoSlot, demoQueue, 0x2008, -1, 1, true, 0, u, atPacket_calm, by decide +kernel, (eq_of_beq h0) ▸ hv, hu⟩
/-- It is not. -/
def busy : State := { queueAt demoSlot demoQueue with launches := [{ fetchLaunch 0 with queue := some 0 }] }
theorem witness_SignalWaits : ∃ s sl x q, AtPacket s sl x q ∧ s.queueDone sl = false :=
  ⟨busy, 63, demoSlot, demoQueue, ⟨slot_of rfl, rfl, rfl, rfl, rfl, by decide⟩, by decide +kernel⟩

theorem witness_Phase : ∃ s sl x q, AtPacket s sl x q ∧ (∀ p ∈ s.phases, p.job = q.job → p.number ≠ q.phases) :=
  ⟨_, 63, demoSlot, demoQueue, atPacket_demo _, by decide⟩
def phasedAt : State := { queueAt demoSlot demoQueue with phases := [⟨0, 0, 0, 0, false, none⟩] }
theorem witness_PhaseOld : ∃ s sl x q, AtPacket s sl x q ∧ (∃ p ∈ s.phases, p.job = q.job ∧ p.number = q.phases) :=
  ⟨phasedAt, 63, demoSlot, demoQueue, ⟨slot_of rfl, rfl, rfl, rfl, rfl, by decide⟩, _, List.mem_singleton.mpr rfl, rfl, rfl⟩

/-! ## Launches -/

/-- A kernel record of one group of 8 registers at 0x2000, and a graph of one node at 0x2100. -/
def launchMem : SMap 8 :=
  SMap.setList (SMap.setList (fetchMemory [] 32 0x2B5) 0x2000 (leBytes 64 (2 ^ 64 * 1 + 2 ^ 96 * 8 + 2 ^ 112 * 1 + 2 ^ 384 * 2))) 0x2100 (leBytes 16 1)
def launchAt (x : Slot) (q : Queue) : State := { queueAt x q with mem := launchMem }
def demoPacket (desc : DWord) : LaunchPacket := ⟨desc, 0x1234, 2, 3, 4, 0, 0, 0, 0, false, 0, 0, 0⟩
theorem atPacket_launch : AtPacket (launchAt demoSlot demoQueue) 63 demoSlot demoQueue := ⟨slot_of rfl, rfl, rfl, rfl, rfl, by decide⟩

theorem witness_Launch : ∃ s sl x q p t l, AtPacket s sl x q ∧ s.phaseOpen q = true ∧ s.startLaunch p (s.slotSrc sl none) = .ok (t, l) := by
  obtain ⟨⟨t, l⟩, h, -⟩ := dev_test (x := (launchAt demoSlot demoQueue).startLaunch (demoPacket 0x2000) ((launchAt demoSlot demoQueue).slotSrc 63 none))
    (p := fun r => match r.1.launches with | [_, y] => !y.rejected && y.left == 24 | _ => false) (by decide +kernel)
  exact ⟨launchAt demoSlot demoQueue, 63, demoSlot, demoQueue, demoPacket 0x2000, t, l, atPacket_launch, by decide +kernel, h⟩

def demoSrc : LaunchSrc := { job := 0, queue := some 0, mask := 1, graph := none, phase := none, pass := none }
theorem witness_StartLaunch : ∃ (s : State) (p : LaunchPacket) (src : LaunchSrc) (j : Job) (k : Kernel) (start : DWord) (code : List (BitVec 8)),
    s.jobs[src.job]? = some j ∧ s.readKernel src.job p.desc = .ok (some (k, start, code)) := by
  obtain ⟨r, h, hr⟩ := dev_test (x := (launchAt demoSlot demoQueue).readKernel 0 0x2000) (p := fun r => r.isSome) (by decide +kernel)
  obtain ⟨⟨k, a, b⟩, rfl⟩ := Option.isSome_iff_exists.mp hr
  exact ⟨launchAt demoSlot demoQueue, demoPacket 0x2000, demoSrc, demoJob, k, a, b, rfl, h⟩
theorem witness_StartNothing : ∃ (s : State) (p : LaunchPacket) (src : LaunchSrc) (j : Job), s.jobs[src.job]? = some j ∧ s.readKernel src.job p.desc = .ok none := by
  obtain ⟨r, h, hr⟩ := dev_test (x := (launchAt demoSlot demoQueue).readKernel 0 0x2040) (p := fun r => r.isNone) (by decide +kernel)
  obtain rfl := Option.isNone_iff_eq_none.mp hr
  exact ⟨launchAt demoSlot demoQueue, demoPacket 0x2040, demoSrc, demoJob, rfl, h⟩

theorem witness_Launch2 : ∃ s sl x q, AtPacket s sl x q ∧ s.phaseOpen q = true ∧ s.phaseCancelled q = false :=
  ⟨_, 63, demoSlot, demoQueue, atPacket_launch, by decide +kernel, by decide +kernel⟩

theorem witness_Graph : ∃ (s : State) (sl : Nat) (x : Slot) (q : Queue) (table : DWord) (h : Nat) (nodes : List Node), AtPacket s sl x q ∧ s.phaseOpen q = true ∧
    s.devRead x.job table 16 = .ok h ∧ 1 ≤ h % 2 ^ 32 ∧ h % 2 ^ 32 ≤ 65536 ∧ s.readNodes x.job (table + 16) (h % 2 ^ 32) = .ok nodes ∧ countsOk nodes = true ∧
    s.phaseCancelled q = false ∧ s.wordSet x.job 0 = false := by
  obtain ⟨h, hh, h1⟩ := dev_test (x := (launchAt demoSlot demoQueue).devRead 0 0x2100 16) (p := (· == 1)) (by decide +kernel)
  obtain ⟨l, hl, hc⟩ := dev_test (x := (launchAt demoSlot demoQueue).readNodes 0 0x2110 1) (p := countsOk) (by decide +kernel)
  rw [eq_of_beq h1] at hh
  exact ⟨launchAt demoSlot demoQueue, 63, demoSlot, demoQueue, 0x2100, 1, l, atPacket_launch, by decide +kernel, hh, by decide, by decide, hl, hc, by decide +kernel, by decide +kernel⟩

/-- A queue with phases, whose second phase before the next is not complete. -/
def heldQueue : Queue := { demoQueue with phases := 2 }
def heldMem : SMap 8 := SMap.setList (fetchMemory [] 32 0x2B5) 0x1023 (leBytes 1 2)
def phaseHeld : State := { queueAt demoSlot heldQueue with mem := heldMem, phases := [⟨0, 0, 0, 0, false, none⟩, ⟨0, 1, 0, 0, false, none⟩] }
theorem witness_PhaseHeld : ∃ s sl x q, AtPacket s sl x q ∧ s.phaseOpen q = false :=
  ⟨phaseHeld, 63, demoSlot, heldQueue, ⟨slot_of rfl, rfl, rfl, rfl, rfl, by decide⟩, by decide +kernel⟩

/-- The second phase is open, and cancelled. -/
def phaseStopped : State := { phaseHeld with phases := [⟨0, 0, 0, 0, false, some .done⟩, ⟨0, 1, 0, 0, true, none⟩] }
theorem witness_Launch2Cancelled : ∃ s sl x q, AtPacket s sl x q ∧ s.phaseOpen q = true ∧ s.phaseCancelled q = true :=
  ⟨phaseStopped, 63, demoSlot, heldQueue, ⟨slot_of rfl, rfl, rfl, rfl, rfl, by decide⟩, by decide +kernel, by decide +kernel⟩

/-- A prologue at 0x2200 that sets s3 and exits, with the parameter block at 0x2300. -/
def demoPrologue (iter : Nat) : Prologue := { addr := 0x2200, params := 0x2300, arg := 0, iter := iter, waits := none, graph := (0, 0), isNode := false, at_ := 0 }
def prologueSlot (iter : Nat) : Slot := { demoSlot with prologues := [demoPrologue iter] }
def codeBytes (l : List Instr) : List (BitVec 8) := (l.flatMap encode).flatMap fun w => leBytes 4 w.toNat
def prologueMem (value : Word) : SMap 8 :=
  SMap.setList (SMap.setList (fetchMemory [] 32 0x2B5) 0x2200 (codeBytes [.smovw ⟨none, 3, 0, 0, 0⟩ value, .exit none])) 0x2304
    (leBytes 60 (0x2000 + 2 ^ 128 + 2 ^ 160 + 2 ^ 192))
def prologueAt (iter : Nat) (value : Word) : State := { queueAt (prologueSlot iter) demoQueue with mem := prologueMem value }

theorem slot_prologue (iter : Nat) (value : Word) : (prologueAt iter value).slot 63 = prologueSlot iter := slot_of rfl
theorem due_prologue (iter : Nat) (value : Word) : (prologueAt iter value).duePrologue ((prologueAt iter value).slot 63) = some (demoPrologue iter) := by
  rw [slot_prologue]; rfl

def exitTest (p : State → DWord → Bool) : PrologueEnd → Bool
  | .exit t v => p t v
  | _ => false
theorem exit_test {p : State → DWord → Bool} {x : PrologueEnd} (h : exitTest p x = true) : ∃ t v, x = .exit t v ∧ p t v = true := by
  cases x with
  | exit t v => exact ⟨t, v, rfl, h⟩
  | bad _ => exact absurd h Bool.false_ne_true
  | wait => exact absurd h Bool.false_ne_true
def badTest : PrologueEnd → Bool
  | .bad _ => true
  | _ => false
theorem bad_test {x : PrologueEnd} (h : badTest x = true) : ∃ t, x = .bad t := by
  cases x with
  | bad t => exact ⟨t, rfl⟩
  | exit _ _ => exact absurd h Bool.false_ne_true
  | wait => exact absurd h Bool.false_ne_true

theorem witness_PrologueEnds : ∃ (s : State) (sl : Nat) (p : Prologue) (t : State), s.duePrologue (s.slot sl) = some p ∧ s.runPrologue (s.slot sl).job p = .exit t 2 := by
  obtain ⟨t, v, h, hv⟩ := exit_test (x := (prologueAt 0 2).runPrologue 0 (demoPrologue 0)) (p := fun _ v => v == 2) (by decide +kernel)
  rw [eq_of_beq hv] at h
  exact ⟨prologueAt 0 2, 63, demoPrologue 0, t, due_prologue 0 2, by rw [slot_prologue]; exact h⟩

theorem witness_PrologueLaunches : ∃ (s : State) (sl : Nat) (p : Prologue) (t u : State), s.duePrologue (s.slot sl) = some p ∧ s.runPrologue (s.slot sl).job p = .exit t 0 ∧
    t.prologueLaunch sl (s.slot sl).job p false = some u := by
  obtain ⟨t, v, h, hv⟩ := exit_test (x := (prologueAt 0 0).runPrologue 0 (demoPrologue 0))
    (p := fun t v => v == 0 && (t.prologueLaunch 63 0 (demoPrologue 0) false).isSome) (by decide +kernel)
  simp only [Bool.and_eq_true] at hv
  obtain ⟨u, hu⟩ := Option.isSome_iff_exists.mp hv.2
  rw [eq_of_beq hv.1] at h
  exact ⟨prologueAt 0 0, 63, demoPrologue 0, t, u, due_prologue 0 0, by rw [slot_prologue]; exact h, by rw [slot_prologue]; exact hu⟩

theorem witness_PrologueAgain : ∃ (s : State) (sl : Nat) (p : Prologue) (t u : State), s.duePrologue (s.slot sl) = some p ∧ s.runPrologue (s.slot sl).job p = .exit t 1 ∧ p.iter < 65535 ∧
    t.prologueLaunch sl (s.slot sl).job p true = some u := by
  obtain ⟨t, v, h, hv⟩ := exit_test (x := (prologueAt 65534 1).runPrologue 0 (demoPrologue 65534))
    (p := fun t v => v == 1 && (t.prologueLaunch 63 0 (demoPrologue 65534) true).isSome) (by decide +kernel)
  simp only [Bool.and_eq_true] at hv
  obtain ⟨u, hu⟩ := Option.isSome_iff_exists.mp hv.2
  rw [eq_of_beq hv.1] at h
  exact ⟨prologueAt 65534 1, 63, demoPrologue 65534, t, u, due_prologue _ _, by rw [slot_prologue]; exact h, by decide, by rw [slot_prologue]; exact hu⟩

/-- Its address holds no instruction of a prologue. -/
def badMem : SMap 8 := SMap.setList (fetchMemory [] 32 0x2B5) 0x2200 (codeBytes [.kill none ⟨0, false⟩])
def badAt : State := { queueAt (prologueSlot 0) demoQueue with mem := badMem }
theorem witness_PrologueBad : ∃ (s : State) (sl : Nat) (p : Prologue) (t : State), s.duePrologue (s.slot sl) = some p ∧ s.runPrologue (s.slot sl).job p = .bad t := by
  obtain ⟨t, h⟩ := bad_test (x := badAt.runPrologue 0 (demoPrologue 0)) (by decide +kernel)
  exact ⟨badAt, 63, demoPrologue 0, t, by rw [show badAt.slot 63 = prologueSlot 0 from slot_of rfl]; rfl,
    by rw [show badAt.slot 63 = prologueSlot 0 from slot_of rfl]; exact h⟩

end Sys2Proof.Tests
end

