-- ==== Sys2Proof/Tests/WitnessBinding.lean ====
section
/-! SUPPORT. States and operands that meet the hypotheses of the statement about passes and binding. -/

namespace Sys2Proof.Tests

set_option Elab.async false

open Machine Spec

/-! ## A pass begins -/

/-- A job whose first 4 MiB the host translates to themselves, and the translation. -/
def hostJob : Job := { demoJob with hostShared := true }
def hostEntry : TlbEntry := ⟨0, 0, 64, 0xB7⟩

/-- The translation stands. -/
structure Translates (s : State) : Prop where
  jobs : s.jobs = [hostJob]
  ats : s.ats = [hostEntry]
  top : s.gddrTop = 0x5A00000000
  free : s.objects = [] ∧ s.stalled = 0 ∧ s.sys.regions = []

theorem devXlate_host {s : State} (h : Translates s) {va : DWord} (hv : va.toNat < 2 ^ 22) {a : Access} (ha : a = .write ∨ a = .read) :
    ∃ pa, s.devXlate 0 va a = .ok pa ∧ Machine.target s.gddrTop pa = .gddr ∧ deniedPa pa = false := by
  have hl : s.walkLeaf 0 va = some ⟨0xB7, 22⟩ := by
    unfold State.walkLeaf
    rw [h.jobs, h.ats]
    show tlbFind [hostEntry] 0 va = _
    have hp : pageOf va < 0 + 64 := by unfold pageOf; omega
    unfold tlbFind
    have hf : List.find? (fun e : TlbEntry => e.job == 0 && decide (e.page ≤ pageOf va) && decide (pageOf va < e.page + e.pages)) [hostEntry] =
        some hostEntry := List.find?_cons_of_pos (show (0 == 0 && decide (0 ≤ pageOf va) && decide (pageOf va < 0 + 64)) = true by
          simp only [decide_eq_true hp]; rfl)
    rw [hf]
    show some (⟨0xB7, 16 + Nat.log2 64⟩ : Leaf) = _
    rw [show Nat.log2 64 = 6 by decide]
  have hlow : Leaf.pa ⟨0xB7, 22⟩ va < 2 ^ 22 := by
    show 0xB7 / 2 ^ 22 * 2 ^ 22 % 2 ^ 52 + va.toNat % 2 ^ 22 < _
    omega
  have ht : Machine.target s.gddrTop (Leaf.pa ⟨0xB7, 22⟩ va) = .gddr := by
    rw [h.top]
    unfold Machine.target
    exact if_pos (by omega)
  have hr : s.reachable 0 (Leaf.pa ⟨0xB7, 22⟩ va) = true := by
    unfold State.reachable
    rw [ht]
  have hw : s.worldPa false (Leaf.pa ⟨0xB7, 22⟩ va) = Leaf.pa ⟨0xB7, 22⟩ va := by
    unfold State.worldPa State.secureAt
    rw [ht, h.free.2.2]
    rfl
  have hc : canonical va = true := by
    unfold canonical
    rw [show va.toNat / 2 ^ 56 = 0 by omega]
    rfl
  refine ⟨Leaf.pa ⟨0xB7, 22⟩ va, ?_, ht, decide_eq_false (by omega)⟩
  have hx : s.xlateWith 0 va a false (some ⟨0xB7, 22⟩) = .ok (s.worldPa false (Leaf.pa ⟨0xB7, 22⟩ va)) (s.viaCache ⟨0xB7, 22⟩ va) := by
    unfold State.xlateWith
    rw [hc, h.jobs]
    show (if !s.reachable 0 (Leaf.pa ⟨0xB7, 22⟩ va) then Xlat.fault .xlate
      else if a == .write && !Leaf.writable ⟨0xB7, 22⟩ then Xlat.fault .perm else if a == .fetch && !Leaf.executable ⟨0xB7, 22⟩ then Xlat.fault .perm
      else if a == .read && !Leaf.readable ⟨0xB7, 22⟩ then Xlat.fault .perm
      else Xlat.ok (s.worldPa false (Leaf.pa ⟨0xB7, 22⟩ va)) (s.viaCache ⟨0xB7, 22⟩ va)) = _
    rw [hr]
    rcases ha with rfl | rfl <;> rfl
  unfold State.devXlate
  rw [hl, hx, hw]

theorem edgeWaits_host {s : State} (h : Translates s) {pa : Nat} (ht : Machine.target s.gddrTop pa = .gddr) : s.edgeWaits 0 pa = false := by
  have hwait : s.peerWaits 0 pa = false := by unfold State.peerWaits; rw [ht]
  unfold State.edgeWaits State.locked State.isStalled
  rw [hwait, ht, h.free.1, h.free.2.1]
  simp

theorem devWrite_host {s : State} (h : Translates s) {va : DWord} (hv : va.toNat < 2 ^ 22) (bs : List (BitVec 8)) :
    ∃ t, s.devWrite 0 va bs = .ok t ∧ Translates t := by
  obtain ⟨pa, hp, ht, hd⟩ := devXlate_host h hv (.inl rfl)
  have hpeer : s.peerOf pa = none := by unfold State.peerOf; rw [ht]
  have hwait : s.peerWaits 0 pa = false := by unfold State.peerWaits; rw [ht]
  have hrefuse : s.peerRefused 0 pa = false := by unfold State.peerRefused; rw [ht]
  have hedge : s.edgeWaits 0 pa = false := edgeWaits_host h ht
  have hsend : s.sendAt pa 1 = s := by unfold State.sendAt; rw [hpeer]
  have hplain : s.pokeFor 0 pa bs = s.poke pa bs := by
    unfold State.pokeFor
    rw [Laws.claim_plain]
    unfold State.jobSecure
    rw [h.jobs]
    rfl
  refine ⟨s.poke pa bs, ?_, h.jobs, h.ats, h.top, h.free⟩
  unfold State.devWrite State.homeWrite State.homeXlate
  rw [hp]
  show (if s.edgeWaits 0 pa then Dev.wait else (if s.peerRefused 0 pa then Dev.fail .perm va else if s.peerWaits 0 pa then Dev.wait else Dev.ok pa).bind
    fun pa => if deniedPa pa then Dev.ok (s.countDenied pa 0) else Dev.ok ((s.sendAt pa 1).pokeFor 0 pa bs)) = _
  rw [hedge, hrefuse, hwait]
  show (if deniedPa pa then Dev.ok (s.countDenied pa 0) else Dev.ok ((s.sendAt pa 1).pokeFor 0 pa bs)) = _
  rw [hd, hsend, hplain]
  rfl

theorem writePieces_host (l : List (List (BitVec 8))) {s : State} (h : Translates s) {va : DWord} (hl : ∀ p ∈ l, p.length ≤ 8)
    (hv : va.toNat + 8 * l.length < 2 ^ 22) : ∃ t, s.writePieces 0 va l = .ok t := by
  induction l generalizing s va with
  | nil => exact ⟨s, rfl⟩
  | cons p l ih =>
    rw [List.length_cons] at hv
    obtain ⟨t, ht, h⟩ := devWrite_host h (va := va) (by omega) p
    have hp := hl p (List.mem_cons_self ..)
    obtain ⟨u, hu⟩ := ih h (va := va + BitVec.ofNat 64 p.length) (fun q hq => hl q (List.mem_cons_of_mem _ hq)) (by
      rw [BitVec.toNat_add, BitVec.toNat_ofNat]
      omega)
    exact ⟨u, by rw [State.writePieces, ht]; exact hu⟩

theorem startPlanes_short (b : PassBlock) (h : b.logS = 0) : (∀ p ∈ startPlanes b, p.length ≤ 8) ∧ (startPlanes b).length = 12288 := by
  have hn (n x : Nat) : (leBytes n x).length = n := Laws.leBytes_length n x
  constructor
  · intro p hp
    simp only [startPlanes, List.mem_append, List.mem_replicate] at hp
    rcases hp with (⟨-, rfl⟩ | ⟨-, rfl⟩) | ⟨-, rfl⟩ <;> rw [hn] <;> decide
  · simp only [startPlanes, PassBlock.S, h, List.length_append, List.length_replicate]
    rfl

/-- A pass state block at 0x1000: IMMEDIATE, of one pixel, with its planes at 0x30000 and a grid kernel at 0x2000. -/
def blockMem : SMap 8 :=
  let f (off : Nat) (v : Nat) : Nat := 2 ^ (8 * off) * v
  SMap.setList launchMem 0x1000 (leBytes 512
    (f 0 1 + f 4 1 + f 6 1 + f 8 1 + f 40 1 + f 232 0x2400 + f 240 0x2000 + f 320 0x30000 + f 336 0x70000 + f 344 19 + f 345 4))
def blockAt : State := { queueAt demoSlot demoQueue with mem := blockMem, jobs := [hostJob], ats := [hostEntry] }
theorem translates_block : Translates blockAt := ⟨rfl, rfl, rfl, rfl, rfl, rfl⟩

/-- What the block's bytes ask for is there: its fields are in range, and its pattern and its kernels can be read. -/
def readable (s : State) (bs : List (BitVec 8)) : Bool :=
  let r := blockOf (leNat bs)
  blockFault (leNat bs) == 0 && r.b.logS == 0 && r.b.tiles == 1 && (r.b.tileAt 0).toNat == 0x30000 && devTest (fun _ => true) (s.readRun 0 3 r.table (128 * r.b.S)) &&
    devTest (·.isSome) (s.passKernel 0 r.b false r.grid) && devTest (·.isSome) (s.passKernelOpt 0 r.b true r.sample) &&
    devTest (·.isSome) (s.passKernelOpt 0 r.b false r.resolve)

theorem witness_PassBegin : ∃ (s : State) (sl : Nat) (x : Slot) (q : Queue) (va : DWord) (t : State), AtPacket s sl x q ∧ s.queueDone sl = true ∧ s.openPassFrom sl x.job x.queue x.mask va = .ok (.ok t) := by
  obtain ⟨bs, hbs, hr⟩ := dev_test (x := blockAt.readRun 0 3 0x1000 512) (p := readable blockAt) (by decide +kernel)
  simp only [readable, Bool.and_eq_true, beq_iff_eq] at hr
  obtain ⟨⟨⟨⟨⟨⟨⟨hf, hs⟩, ht⟩, ha⟩, hp⟩, hg⟩, hk⟩, hq⟩ := hr
  obtain ⟨pat, hp, -⟩ := dev_test hp
  obtain ⟨g, hg, hg'⟩ := dev_test hg
  obtain ⟨k, hk, hk'⟩ := dev_test hk
  obtain ⟨q, hq, hq'⟩ := dev_test hq
  obtain ⟨g, rfl⟩ := Option.isSome_iff_exists.mp hg'
  obtain ⟨k, rfl⟩ := Option.isSome_iff_exists.mp hk'
  obtain ⟨q, rfl⟩ := Option.isSome_iff_exists.mp hq'
  have hl := startPlanes_short _ hs
  obtain ⟨u, hu⟩ := writePieces_host (startPlanes (blockOf (leNat bs)).b) translates_block (va := (blockOf (leNat bs)).b.tileAt 0) hl.1
    (by rw [hl.2, ha]; decide)
  have hst : blockAt.startTiles 0 (blockOf (leNat bs)).b 1 = .ok u := hu
  suffices h : ∃ t, blockAt.openPassFrom 63 0 0 1 0x1000 = .ok (.ok t) by
    obtain ⟨t, h⟩ := h
    exact ⟨blockAt, 63, demoSlot, demoQueue, 0x1000, t, ⟨slot_of rfl, rfl, rfl, rfl, rfl, by decide⟩, by decide +kernel, h⟩
  apply Exists.intro
  unfold State.openPassFrom
  rw [if_neg (by decide)]
  show (blockAt.readRun 0 3 0x1000 512).bind _ = _
  rw [hbs]
  simp only [Dev.bind, hf, bne_self_eq_false, Bool.false_eq_true, if_false]
  show (blockAt.readRun 0 3 (blockOf (leNat bs)).table (128 * (blockOf (leNat bs)).b.S)).bind _ = _
  rw [hp]
  show (blockAt.passKernel 0 (blockOf (leNat bs)).b false (blockOf (leNat bs)).grid).bind _ = _
  rw [hg]
  show (blockAt.passKernelOpt 0 (blockOf (leNat bs)).b true (blockOf (leNat bs)).sample).bind _ = _
  rw [hk]
  show (blockAt.passKernelOpt 0 (blockOf (leNat bs)).b false (blockOf (leNat bs)).resolve).bind _ = _
  rw [hq]
  show (blockAt.startTiles 0 (blockOf (leNat bs)).b (blockOf (leNat bs)).b.tiles).bind _ = _
  rw [ht, hst]
  rfl

/-- A queue whose pass is open, at a stage of it. -/
def passQueue : Queue := { demoQueue with pass := some 0 }
def stageAt (p : Pass) : State := { queueAt demoSlot passQueue with passes := [p] }
theorem atPacket_stage (p : Pass) : AtPacket (stageAt p) 63 demoSlot passQueue := ⟨slot_of rfl, rfl, rfl, rfl, rfl, by decide⟩
theorem openPass_stage (p : Pass) (h : p.live = true) : OpenPass (stageAt p) 63 0 p where
  ix := by unfold State.openPass; rw [(atPacket_stage p).slot]; rfl
  is_ := rfl
  live := h

theorem witness_PassAsks : ∃ s sl x q ps p, AtPacket s sl x q ∧ s.queueDone sl = true ∧ OpenPass s sl ps p ∧ p.stage = .draw :=
  ⟨stageAt demoPass, 63, demoSlot, passQueue, 0, demoPass, atPacket_stage _, by decide +kernel, openPass_stage _ rfl, rfl⟩

def nextPass : Pass := { demoPass with stage := .next, block := { demoBlock with persistent := true } }
theorem witness_PassNext : ∃ (s : State) (sl : Nat) (x : Slot) (q : Queue) (ps : Nat) (p : Pass) (u : State), AtPacket s sl x q ∧ s.queueDone sl = true ∧
    OpenPass s sl ps p ∧ p.stage = .next ∧ s.subDone ps p = true ∧
    (if p.block.persistent then u = s else s.startTiles x.job p.block p.block.tiles = .ok u) :=
  ⟨stageAt nextPass, 63, demoSlot, passQueue, 0, nextPass, stageAt nextPass, atPacket_stage _, by decide +kernel, openPass_stage _ rfl, rfl,
    by decide +kernel, rfl⟩

def lastPass : Pass := { demoPass with stage := .finish, tiles := [⟨0, none, false, [], true⟩] }
theorem witness_PassEnd : ∃ (s : State) (sl : Nat) (x : Slot) (q : Queue) (ps : Nat) (p : Pass) (u : State), AtPacket s sl x q ∧ s.queueDone sl = true ∧
    OpenPass s sl ps p ∧ p.stage = .finish ∧ s.subDone ps p = true ∧ p.resolvedAll = true ∧ p.block.statusAt ≠ 0 ∧
    s.devWrite x.job p.block.statusAt (leBytes 8 p.status) = .ok u := by
  obtain ⟨u, hu, -⟩ := dev_test (x := (stageAt lastPass).devWrite 0 0x1040 (leBytes 8 lastPass.status)) (p := fun _ => true) (by decide +kernel)
  exact ⟨stageAt lastPass, 63, demoSlot, passQueue, 0, lastPass, u, atPacket_stage _, by decide +kernel, openPass_stage _ rfl, rfl, by decide +kernel,
    by decide, by decide, hu⟩

/-! ## Waiting, releasing and binding -/

def pausedSlot (code : BitVec 3) : Slot := { loopSlot with waiting := some (condAt code) }
theorem word_paused (code : BitVec 3) (h : devTest (· == 0) ((queueAt (pausedSlot code) demoQueue).devRead 0 0x2000 4) = true) :
    (queueAt (pausedSlot code) demoQueue).devRead (pausedSlot code).job (condAt code).addr (if (condAt code).wide then 8 else 4) = .ok 0 :=
  word_demo _ rfl _ h code

theorem witness_Recheck : ∃ (s : State) (sl : Nat) (x : Slot) (c : MemCond) (word : Nat), s.slot sl = x ∧ x.waiting = some c ∧ x.bound = true ∧
    (∃ n ∈ x.levels, n.loop ≠ none) ∧ s.devRead x.job c.addr (if c.wide then 8 else 4) = .ok word ∧ CondTrue c word ∧ s.noticed.contains (.wait sl) = false :=
  ⟨queueAt (pausedSlot 0) demoQueue, 63, pausedSlot 0, condAt 0, 0, slot_of rfl, rfl, rfl, ⟨_, List.mem_singleton.mpr rfl, by decide⟩,
    word_paused 0 (by decide +kernel), show BitVec.ofNat 32 0 = _ from rfl, rfl⟩
theorem witness_RecheckWaits : ∃ (s : State) (sl : Nat) (x : Slot) (c : MemCond) (word : Nat), s.slot sl = x ∧ x.waiting = some c ∧ x.bound = true ∧
    (∃ n ∈ x.levels, n.loop ≠ none) ∧ s.devRead x.job c.addr (if c.wide then 8 else 4) = .ok word ∧ ¬ CondTrue c word ∧ s.noticed.contains (.wait sl) = false :=
  ⟨queueAt (pausedSlot 1) demoQueue, 63, pausedSlot 1, condAt 1, 0, slot_of rfl, rfl, rfl, ⟨_, List.mem_singleton.mpr rfl, by decide⟩,
    word_paused 1 (by decide +kernel), fun h => (show BitVec.ofNat 32 0 ≠ (0 : DWord).setWidth 32 from h) rfl, rfl⟩

/-- The slot has begun every packet of its ring. -/
def drySlot : Slot := { demoSlot with levels := [{ demoNest with pos := 64 }] }
theorem witness_Reread : ∃ (s : State) (sl : Nat) (x : Slot) (n : Nest) (q : Queue) (w : Nat), s.slot sl = x ∧ x.levels = [n] ∧ s.queues[x.queue]? = some q ∧
    x.bound = true ∧ x.stopped = none ∧ n.dry = true ∧ s.qcbNat q 35 1 % 2 = 0 ∧ s.qcbWritten q = .ok w := by
  obtain ⟨w, hw, -⟩ := dev_test (x := (queueAt drySlot demoQueue).qcbWritten demoQueue) (p := fun _ => true) (by decide +kernel)
  exact ⟨queueAt drySlot demoQueue, 63, drySlot, _, demoQueue, w, slot_of rfl, rfl, rfl, rfl, rfl, by decide, by decide +kernel, hw⟩

theorem witness_Release : ∃ (s : State) (sl : Nat) (x : Slot), s.slot sl = x ∧ x.bound = true ∧ s.leaves sl = true ∧ s.atBoundary sl = true ∧ x.waiting = none :=
  ⟨queueAt drySlot demoQueue, 63, drySlot, slot_of rfl, rfl, by decide +kernel, by decide +kernel, rfl⟩

/-- A parked queue that no slot holds, whose condition is on the word at 0x2000. -/
def parkedMem (flags : Nat) : SMap 8 :=
  SMap.setList (SMap.setList (fetchMemory [] 32 0x2B5) 0x1021 (leBytes 1 2)) 0x1023 (leBytes 9 (flags + 2 ^ 8 * 0x2000))
def parkedAt (flags : Nat) : State := { demo with queues := [demoQueue], mem := parkedMem flags }

def MeetsPark (flags : Nat) (c : MemCond) : Prop :=
  ∃ (s : State) (qi : Nat) (q : Queue) (word : Nat), s.queues[qi]? = some q ∧ s.unbound qi = true ∧ s.qcbState q = 2 ∧ s.updating q = false ∧ s.parkCond q = c ∧ c.code ≠ 7 ∧
    s.devRead q.job c.addr (if c.wide then 8 else 4) = .ok word ∧ (CondTrue c word ↔ flags = 0)
theorem witness_Park : MeetsPark 0 ⟨0, false, 0x2000, 0⟩ := by
  obtain ⟨v, hv, h0⟩ := dev_test (x := (parkedAt 0).devRead 0 0x2000 4) (p := (· == 0)) (by decide +kernel)
  exact ⟨parkedAt 0, 0, demoQueue, 0, rfl, by decide +kernel, by decide +kernel, rfl, by decide +kernel, by decide, by rw [eq_of_beq h0] at hv; exact hv,
    ⟨fun _ => rfl, fun _ => show BitVec.ofNat 32 0 = _ from rfl⟩⟩
theorem witness_ParkWaits : MeetsPark 16 ⟨1, false, 0x2000, 0⟩ := by
  obtain ⟨v, hv, h0⟩ := dev_test (x := (parkedAt 16).devRead 0 0x2000 4) (p := (· == 0)) (by decide +kernel)
  exact ⟨parkedAt 16, 0, demoQueue, 0, rfl, by decide +kernel, by decide +kernel, rfl, by decide +kernel, by decide, by rw [eq_of_beq h0] at hv; exact hv,
    ⟨fun h => absurd rfl (show BitVec.ofNat 32 0 ≠ (0 : DWord).setWidth 32 from h), fun h => absurd h (by decide)⟩⟩

/-- A launch of three teams, of which two have been admitted, passed over for the last time. -/
def waitingSlot : Slot := { demoSlot with launches := [0], passes := 256 }
def waitingLaunch : Launch := { fetchLaunch 0 with dx := 3, admitted := 2 }
def starvedAt : State := { queueAt waitingSlot demoQueue with launches := [waitingLaunch] }
theorem witness_Reserve : ∃ (s : State) (sl : Nat) (x : Slot) (li : Nat) (l : Launch), s.slot sl = x ∧ x.bound = true ∧ 256 ≤ x.passes ∧
    s.headLaunch x = some li ∧ s.launches[li]? = some l ∧ l.coResident = false :=
  ⟨starvedAt, 63, waitingSlot, 0, waitingLaunch, slot_of rfl, rfl, by decide, by decide +kernel, rfl, rfl⟩

theorem witness_BindRound : ∃ s : State, s.sys.fwState = 1 ∧ s.sys.dev = .d0 := ⟨demo, rfl, rfl⟩

/-- Only the last slot is empty. -/
def fullSlots : State := { demo with slots := (Vector.replicate 64 { demoSlot with queue := 1 }).set 63 Slot.empty, queues := [demoQueue] }
theorem witness_Bind : ∃ (s : State) (qi : Nat) (q : Queue) (j : Job) (sl : Nat), s.queues[qi]? = some q ∧ sl < 64 ∧ (s.slot sl).bound = false ∧
    (∀ k < sl, (s.slot k).bound = true) ∧ s.jobs[q.job]? = some j ∧ (∃ r, s.qcbRead q = .ok r) ∧ (∃ w, s.qcbWritten q = .ok w) := by
  obtain ⟨r, hr, -⟩ := dev_test (x := fullSlots.qcbRead demoQueue) (p := fun _ => true) (by decide +kernel)
  obtain ⟨w, hw, -⟩ := dev_test (x := fullSlots.qcbWritten demoQueue) (p := fun _ => true) (by decide +kernel)
  exact ⟨fullSlots, 0, demoQueue, demoJob, 63, rfl, by decide, by decide +kernel, by decide +kernel, rfl, ⟨r, hr⟩, ⟨w, hw⟩⟩

end Sys2Proof.Tests
end

