-- ==== Sys2Proof/Tests/WitnessControl.lean ====
section
/-! SUPPORT. States and operands that meet the hypotheses of the statements about control flow, barriers, ends and traps. -/

namespace Sys2Proof.Tests

set_option Elab.async false

open Machine Spec

/-! ## The divergence and call stacks -/

def someDiv (n : Nat) : List DivEntry := List.replicate n ⟨0x100000, 1, 1, 0x100010, false⟩
def someCall (n d : Nat) : List CallEntry := List.replicate n ⟨0x100000, d⟩

theorem witness_BrdPushes : ∃ s g sp p off joff, Ready (.brd sp p off joff) {} s g ∧ (found g).dstack.length < 32 :=
  ⟨demoOf (withCtx fun x => { x with dstack := someDiv 31 }), withCtx fun x => { x with dstack := someDiv 31 }, none, ⟨0, false⟩, 4, 8,
    ready_of rfl (by decide) (by decide), by decide⟩

theorem witness_JoinOther : ∃ s g sp e l, Ready (.join sp) {} s g ∧ (found g).dstack = e :: l ∧ (found g).pc = e.joinpc ∧ e.second = false ∧
    e.elsemask ≠ 0 :=
  ⟨demoOf (withCtx fun x => { x with dstack := someDiv 1 }), withCtx fun x => { x with dstack := someDiv 1 }, none, _, _,
    ready_of rfl (by decide) (by decide), rfl, rfl, rfl, by decide⟩

theorem witness_JoinPops : ∃ s g sp e l, Ready (.join sp) {} s g ∧ (found g).dstack = e :: l ∧ (found g).pc = e.joinpc ∧ e.elsemask = 0 :=
  ⟨demoOf (withCtx fun x => { x with dstack := [⟨0x100000, 1, 0, 0, false⟩] }), withCtx fun x => { x with dstack := [⟨0x100000, 1, 0, 0, false⟩] },
    none, _, _, ready_of rfl (by decide) (by decide), rfl, rfl, rfl⟩

theorem witness_BrdTraps : ∃ s g sp p off joff, Ready (.brd sp p off joff) {} s g ∧ CanTrap s g ∧ 32 ≤ (found g).dstack.length :=
  ⟨_, withCtx fun x => { x with dstack := someDiv 32 }, none, ⟨0, false⟩, 4, 8, ready_of rfl (by decide) (by decide), canTrap_ctx _, by decide⟩

theorem witness_JoinTraps : ∃ s g sp, Ready (.join sp) {} s g ∧ CanTrap s g ∧ (found g).dstack = [] :=
  ⟨demo, demoGroup, none, ready_of rfl (by decide) (by decide), canTrap_group, rfl⟩

theorem witness_JoinElsewhere : ∃ s g sp, Ready (.join sp) {} s g ∧ CanTrap s g ∧ ∃ e l, (found g).dstack = e :: l ∧ (found g).pc ≠ e.joinpc :=
  ⟨_, withCtx fun x => { x with dstack := [⟨0x100004, 1, 0, 0, false⟩] }, none, ready_of rfl (by decide) (by decide), canTrap_ctx _, _, _, rfl,
    by decide⟩

theorem witness_Branches : ∃ s g, Ready (.bra none 0x1FFFFF) {} s g ∧ Ready (.brc none 3 true 0x1FFFF) {} s g ∧ Ready .nop {} s g ∧
    Ready (.nop32 (some 0)) {} s g ∧ Ready (.setfpm none 15) {} s g :=
  ⟨demo, demoGroup, ready_of rfl (by decide) (by decide), ready_of rfl (by decide) (by decide), ready_of rfl (by decide) (by decide),
    ready_of rfl (by decide) (by decide), ready_of rfl (by decide) (by decide)⟩

theorem witness_Calls : ∃ s g, Ready (.call none 4) {} s g ∧ Ready (.calli none 63) { sregs := 1#64 <<< 63 } s g ∧
    (found g).cstack.length < 64 ∧ ((found g).getS 63).getLsbD 0 = false :=
  ⟨demoOf (withCtx fun x => { x with cstack := someCall 63 0 }), withCtx fun x => { x with cstack := someCall 63 0 },
    ready_of rfl (by decide) (by decide), ready_of rfl (by decide) (by decide), by decide, by decide⟩

theorem witness_Returns : ∃ s g sp e l, Ready (.ret sp) {} s g ∧ (found g).cstack = e :: l ∧ e.depth = (found g).dstack.length :=
  ⟨demoOf (withCtx fun x => { x with cstack := someCall 1 2, dstack := someDiv 2 }), withCtx fun x => { x with cstack := someCall 1 2, dstack := someDiv 2 },
    none, _, _, ready_of rfl (by decide) (by decide), rfl, rfl⟩

theorem witness_CallTraps : ∃ s g, Ready (.call none 4) {} s g ∧ Ready (.calli none 0) { sregs := 1#64 <<< 0 } s g ∧ CanTrap s g ∧
    64 ≤ (found g).cstack.length ∧ ((found g).getS 0).getLsbD 0 = false :=
  ⟨_, withCtx fun x => { x with cstack := someCall 64 0 }, ready_of rfl (by decide) (by decide), ready_of rfl (by decide) (by decide),
    canTrap_ctx _, by decide, by decide⟩

theorem witness_CalliOdd : ∃ s g sp k, Ready (.calli sp k) { sregs := 1#64 <<< k.toNat } s g ∧ CanTrap s g ∧ ((found g).getS k.toNat).getLsbD 0 = true :=
  ⟨_, withCtx fun x => x.setS 5 0x100001, none, 5, ready_of rfl (by decide) (by decide), canTrap_ctx _, by decide⟩

theorem witness_RetTraps : ∃ s g sp, Ready (.ret sp) {} s g ∧ CanTrap s g ∧ (found g).cstack = [] :=
  ⟨demo, demoGroup, none, ready_of rfl (by decide) (by decide), canTrap_group, rfl⟩

theorem witness_RetDepth : ∃ s g sp, Ready (.ret sp) {} s g ∧ CanTrap s g ∧ ∃ e l, (found g).cstack = e :: l ∧ e.depth ≠ (found g).dstack.length :=
  ⟨_, withCtx fun x => { x with cstack := someCall 1 1 }, none, ready_of rfl (by decide) (by decide), canTrap_ctx _, _, _, rfl, by decide⟩

/-! ## Regions -/

theorem witness_Region : ∃ s g sp items, Ready (.region sp items) { all := true, post := true } s g ∧ ∀ it ∈ items, it.v.toNat < g.regs :=
  ⟨demo, demoGroup, none, [⟨0, 15, true, false⟩, ⟨15, 0, false, false⟩], ready_of rfl (by decide) (by decide), by decide⟩

theorem witness_Regionu : ∃ s g sp items, Ready (.regionu sp items) { sregs := sregBits (items.map fun it => it.s.toNat) } s g :=
  ⟨demo, demoGroup, none, [⟨7, 63⟩], ready_of rfl (by decide) (by decide)⟩

theorem witness_Ixset : ∃ s g sp ix base len, Ready (.ixset sp ix base len) {} s g ∧ base.toNat + len.toNat ≤ g.regs :=
  ⟨demo, demoGroup, none, 3, 8, 8, ready_of rfl (by decide) (by decide), by decide⟩

theorem witness_RegionTraps : ∃ s g sp items, Ready (.region sp items) { all := true, post := true } s g ∧ CanTrap s g ∧
    ∃ it ∈ items, g.regs ≤ it.v.toNat :=
  ⟨demo, demoGroup, none, [⟨0, 16, false, false⟩], ready_of rfl (by decide) (by decide), canTrap_group, ⟨0, 16, false, false⟩, by decide, by decide⟩

theorem witness_IxsetTraps : ∃ s g sp ix base len, Ready (.ixset sp ix base len) {} s g ∧ CanTrap s g ∧ g.regs < base.toNat + len.toNat :=
  ⟨demo, demoGroup, none, 3, 8, 9, ready_of rfl (by decide) (by decide), canTrap_group, by decide⟩

/-! ## Barriers -/

theorem barrierIs_demo (g : Group) (hk : g.kind = .team) (ht : g.team = 0) (nb : Nat) : BarrierIs (demoOf g) g nb ⟨1, 0, 0, 0⟩ where
  own := fun h => by rw [hk] at h; exact absurd h (by decide)
  team := fun _ => ⟨fetchTeam 0 0, by rw [ht]; rfl, by simp [fetchTeam]⟩

theorem witness_BarArrive : ∃ s g b, Ready (.barArrive none 15) { rel := true, post := true } s g ∧ Ready (.barinit none 15 1) {} s g ∧ BarrierIs s g 15 b :=
  ⟨demo, demoGroup, _, ready_of rfl (by decide) (by decide), ready_of rfl (by decide) (by decide), barrierIs_demo _ rfl rfl _⟩

theorem witness_BarWaits : ∃ s g b, Ready (.barWait none 3) { post := true } s g ∧ BarrierIs s g 3 b ∧ b.phase = g.seen[Fin.ofNat 16 3] :=
  ⟨demo, demoGroup, _, ready_of rfl (by decide) (by decide), barrierIs_demo _ rfl rfl _, rfl⟩

theorem witness_BarPasses : ∃ s g b, Ready (.barWait none 3) { post := true } s g ∧ BarrierIs s g 3 b ∧ b.phase ≠ g.seen[Fin.ofNat 16 3] :=
  ⟨demoOf { demoGroup with seen := Vector.replicate 16 0xFFFF }, { demoGroup with seen := Vector.replicate 16 0xFFFF }, _,
    ready_of rfl (by decide) (by decide), barrierIs_demo _ rfl rfl _, by decide⟩

theorem witness_BarArrivePasses : ∃ s g b, Ready (.barArrivewait none 3) { rel := true, post := true } s g ∧ BarrierIs s g 3 b ∧
    (arrived b).phase ≠ g.seen[Fin.ofNat 16 3] :=
  ⟨demo, demoGroup, _, ready_of rfl (by decide) (by decide), barrierIs_demo _ rfl rfl _, by decide⟩

theorem witness_BarArriveWaits : ∃ s g b, Ready (.barArrivewait none 3) { rel := true, post := true } s g ∧ BarrierIs s g 3 b ∧
    (arrived b).phase = g.seen[Fin.ofNat 16 3] :=
  ⟨demoOf { demoGroup with seen := Vector.replicate 16 1 }, { demoGroup with seen := Vector.replicate 16 1 }, _,
    ready_of rfl (by decide) (by decide), barrierIs_demo _ rfl rfl _, by decide⟩

/-! ## YIELD and CARVE -/

theorem witness_Yield : ∃ s g sp nb off, Ready (.yield sp nb off) { post := true } s g :=
  ⟨demo, demoGroup, none, 15, 0x3FFF, ready_of rfl (by decide) (by decide)⟩

/-- The team holds granules 10 to 19, s1 asks for another count. -/
def carveTeam : Team := { fetchTeam 0 0 with scrBase := 10, scrLen := 10 }
def carveGroup (n : DWord) : Group := withCtx fun x => x.setS 1 n
def carveAt (n : DWord) : State := { demoOf (carveGroup n) with teams := [carveTeam] }

theorem witness_CarveSame : ∃ s g sp nb k tm b, Ready (.carve sp nb k) { sregs := 1#64 <<< k.toNat } s g ∧ s.teams[g.team]? = some tm ∧
    tm.twin = none ∧ tm.taskQ = 0 ∧ tm.carve = none ∧ BarrierIs s g nb.toNat b ∧ ((found g).getS k.toNat).toNat = tm.scrLen ∧
    ((found g).getS k.toNat).toNat ≤ 32 :=
  ⟨carveAt 10, carveGroup 10, none, 2, 1, _, ⟨1, 0, 0, 0⟩, ready_of rfl (by decide) (by decide), rfl, rfl, rfl, rfl,
    ⟨fun h => absurd h (by decide), fun _ => ⟨carveTeam, rfl, rfl⟩⟩, by decide, by decide⟩

theorem witness_CarveLess : ∃ s g sp nb k tm, Ready (.carve sp nb k) { sregs := 1#64 <<< k.toNat } s g ∧ s.teams[g.team]? = some tm ∧
    tm.twin = none ∧ tm.taskQ = 0 ∧ tm.carve = none ∧ ((found g).getS k.toNat).toNat < tm.scrLen ∧ ((found g).getS k.toNat).toNat ≤ 32 :=
  ⟨carveAt 0, carveGroup 0, none, 2, 1, _, ready_of rfl (by decide) (by decide), rfl, rfl, rfl, rfl, by decide, by decide⟩

theorem witness_CarveMore : ∃ s g sp nb k tm b, Ready (.carve sp nb k) { sregs := 1#64 <<< k.toNat } s g ∧ s.teams[g.team]? = some tm ∧
    tm.twin = none ∧ tm.taskQ = 0 ∧ tm.carve = none ∧ tm.scrLen < ((found g).getS k.toNat).toNat ∧ ((found g).getS k.toNat).toNat ≤ 32 ∧
    s.carveRun tm ((found g).getS k.toNat).toNat = some b :=
  ⟨carveAt 32, carveGroup 32, none, 2, 1, _, 10, ready_of rfl (by decide) (by decide), rfl, rfl, rfl, rfl, by decide, by decide, by decide +kernel⟩

theorem witness_CarveTooMany : ∃ s g sp nb k tm, Ready (.carve sp nb k) { sregs := 1#64 <<< k.toNat } s g ∧ s.teams[g.team]? = some tm ∧
    tm.twin = none ∧ tm.taskQ = 0 ∧ tm.carve = none ∧ CanTrap s g ∧ 32 < ((found g).getS k.toNat).toNat :=
  ⟨carveAt 33, carveGroup 33, none, 2, 1, _, ready_of rfl (by decide) (by decide), rfl, rfl, rfl, rfl,
    ⟨by decide, rfl, rfl, ⟨demoJob, rfl, by decide⟩, by decide⟩, by decide⟩

/-- The main file takes every granule but those of the team, so that no run of more is free. -/
def carveTight : State := (carveAt 11).modCore 0 fun c => { c with mainLen := 118 }
def tightTeam : Team := { carveTeam with scrBase := 118 }

theorem witness_CarveNoRun : ∃ s g sp nb k tm, Ready (.carve sp nb k) { sregs := 1#64 <<< k.toNat } s g ∧ s.teams[g.team]? = some tm ∧
    tm.twin = none ∧ tm.taskQ = 0 ∧ tm.carve = none ∧ CanTrap s g ∧ tm.scrLen < ((found g).getS k.toNat).toNat ∧
    ((found g).getS k.toNat).toNat ≤ 32 ∧ s.carveRun tm ((found g).getS k.toNat).toNat = none :=
  ⟨{ carveTight with teams := [tightTeam] }, carveGroup 11, none, 2, 1, _, ready_of rfl (by decide +kernel) (by decide), rfl, rfl, rfl, rfl,
    ⟨by decide, rfl, rfl, ⟨demoJob, rfl, by decide⟩, by decide⟩, by decide, by decide, by decide +kernel⟩

theorem witness_CarveDenied : ∃ s g sp nb k tm, Ready (.carve sp nb k) { sregs := 1#64 <<< k.toNat } s g ∧ s.teams[g.team]? = some tm ∧ CanTrap s g ∧
    tm.carve ≠ none ∧ ((found g).getS k.toNat).toNat ≤ 32 :=
  ⟨{ carveAt 32 with teams := [{ carveTeam with carve := some (0, 0, 10) }] }, carveGroup 32, none, 2, 1, _, ready_of rfl (by decide) (by decide), rfl,
    ⟨by decide, rfl, rfl, ⟨demoJob, rfl, by decide⟩, by decide⟩, by decide, by decide⟩

/-! ## Ends -/

theorem witness_Exit : ∃ s g sp, Ready (.exit sp) { post := true, eng := true } s g ∧ g.kind ≠ .combiner ∧ g.gfx = none :=
  ⟨demo, demoGroup, none, ready_of rfl (by decide) (by decide), by decide, rfl⟩

/-- A sample group of no pass. -/
def demoGfx : Gfx :=
  { pass := 0, tile := 0, area := 0, patchId := 0, gridU := 0, gridV := 0, age := 0, gvtxDone := false, keys := [(0, (0, 0, 0), 0)], entered := 0,
    released := 0, leaving := 0, inRegion := false, snap := demoCtx, snapKeys := (0, 0), snapGvtx := false, held := [], heldBytes := 0,
    replay := false }
def gfxGroup : Group := { demoGroup with kind := .sample, gfx := some demoGfx }

theorem witness_ExitGfx : ∃ s g sp x, Ready (.exit sp) { post := true, eng := true } s g ∧ g.kind ≠ .combiner ∧ g.gfx = some x ∧ x.held = [] :=
  ⟨demoOf gfxGroup, gfxGroup, none, _, ready_of rfl (by decide) (by decide), by decide, rfl, rfl⟩

/-- The group with threads 0 and 1 active and p3 true in thread 0, or in both. -/
def killGroup (p : LaneMask) (l : List DivEntry) : Group :=
  withCtx fun x => { x with active := 3, preds := x.preds.set 3 p, dstack := l }

theorem witness_Kill : ∃ s g sp p, Ready (.kill sp p) {} s g ∧ g.gfx = none ∧ (without (found g) (taken (found g) p)).active ≠ 0 :=
  ⟨demoOf (killGroup 1 []), killGroup 1 [], none, ⟨3, false⟩, ready_of rfl (by decide) (by decide), rfl, by decide⟩

theorem witness_KillJoins : ∃ s g sp p e l, Ready (.kill sp p) {} s g ∧ g.gfx = none ∧ (without (found g) (taken (found g) p)).active = 0 ∧
    pendingPath (without (found g) (taken (found g) p)).dstack = e :: l :=
  ⟨demoOf (killGroup 3 [⟨0x100000, 7, 0, 0, true⟩]), killGroup 3 [⟨0x100000, 7, 0, 0, true⟩], none, ⟨3, false⟩, _, _,
    ready_of rfl (by decide) (by decide), rfl, by decide, rfl⟩

theorem witness_KillEnds : ∃ s g sp p, Ready (.kill sp p) {} s g ∧ g.kind ≠ .combiner ∧ g.gfx = none ∧
    (without (found g) (taken (found g) p)).active = 0 ∧ pendingPath (without (found g) (taken (found g) p)).dstack = [] :=
  ⟨demoOf (killGroup 3 [⟨0x100000, 3, 0, 0, true⟩]), killGroup 3 [⟨0x100000, 3, 0, 0, true⟩], none, ⟨3, false⟩,
    ready_of rfl (by decide) (by decide), by decide, rfl, by decide, by decide⟩

/-! ## SPAWN -/

/-- The launch has one entry, whose address is 0x100000, and the core a pool of 8. -/
def spawnLaunch : Launch := { fetchLaunch 0 with kernel := { Kernel.none with regs := 16, groups := 1, entries := 1, entryTable := 0x100008 } }
def spawnGroup (n : DWord) : Group := withCtx fun x => x.setS 1 n
def spawnAt (n : DWord) : State :=
  { (demoOf (spawnGroup n)).modCore 0 fun c => { c with pool := some (0, 8) } with
    launches := [spawnLaunch], mem := SMap.setList (fetchMemory [] 32 0x2B5) 0x100008 (leBytes 8 0x100000) }

theorem witness_Spawn : ∃ s g sp k entry l tm pc t, Ready (.spawn sp k entry) { sregs := 1#64 <<< k.toNat } s g ∧ s.launches[g.launch]? = some l ∧
    s.teams[g.team]? = some tm ∧ 1 ≤ ((found g).getS k.toNat).toNat ∧ ((found g).getS k.toNat).toNat ≤ 32 ∧ entry.toNat < l.kernel.entries ∧
    ((found g).getS k.toNat).toNat ≤ s.poolTotal g.core g.launch ∧
    s.devRead g.job (l.kernel.entryTable + BitVec.ofNat 64 (8 * entry.toNat)) 8 = .ok pc ∧
    spawnGroups s.cur { g with ctx := found g } (BitVec.ofNat 64 pc) l ((found g).getS k.toNat).toNat 0 (s.setGroup s.cur { g with ctx := found g }) = some t :=
  ⟨spawnAt 8, spawnGroup 8, none, 1, 0, spawnLaunch, fetchTeam 0 0, 0x100000, _, ready_of rfl (by decide +kernel) (by decide), rfl, rfl, by decide, by decide,
    by decide, by decide +kernel, rfl, rfl⟩

theorem witness_SpawnIllegal : ∃ s g sp k entry l, Ready (.spawn sp k entry) { sregs := 1#64 <<< k.toNat } s g ∧ CanTrap s g ∧
    s.launches[g.launch]? = some l ∧ ((found g).getS k.toNat).toNat = 0 :=
  ⟨spawnAt 0, spawnGroup 0, none, 1, 0, spawnLaunch, ready_of rfl (by decide +kernel) (by decide),
    ⟨by decide, rfl, rfl, ⟨demoJob, rfl, by decide⟩, by decide⟩, rfl, by decide⟩

theorem witness_SpawnEmpty : ∃ s g sp k entry l, Ready (.spawn sp k entry) { sregs := 1#64 <<< k.toNat } s g ∧ CanTrap s g ∧
    s.launches[g.launch]? = some l ∧ 1 ≤ ((found g).getS k.toNat).toNat ∧ ((found g).getS k.toNat).toNat ≤ 32 ∧ entry.toNat < l.kernel.entries ∧
    s.poolTotal g.core g.launch < ((found g).getS k.toNat).toNat :=
  ⟨spawnAt 9, spawnGroup 9, none, 1, 0, spawnLaunch, ready_of rfl (by decide +kernel) (by decide),
    ⟨by decide, rfl, rfl, ⟨demoJob, rfl, by decide⟩, by decide⟩, rfl, by decide, by decide, by decide, by decide +kernel⟩

/-! ## Traps and returns -/

theorem witness_SoftwareTraps : ∃ s g, Ready (.trap none 0xFFFF) {} s g ∧ Ready (.bkpt none) {} s g ∧ CanTrap s g ∧ (s.core g.core).debugArmed = false :=
  ⟨demo, demoGroup, ready_of rfl (by decide) (by decide), ready_of rfl (by decide) (by decide), canTrap_group, rfl⟩

theorem witness_BkptHalts : ∃ s g sp, Ready (.bkpt sp) {} s g ∧ (s.core g.core).debugArmed = true :=
  ⟨demo.modCore 0 fun c => { c with debugArmed := true }, demoGroup, none, ready_of rfl (by decide +kernel) (by decide), by decide +kernel⟩

/-- A group in its handler, whose frame lies at 0x81000: the action at offset 64 and thread 0 active. -/
def tretGroup : Group := { demoGroup with handler := true, trapSave := some ⟨.softTrap, false, 0x100000, 0x100000, 0x100004, [], none⟩ }
def tretAt (action : BitVec 8) (active : BitVec 8) : State :=
  { (demoOf tretGroup).modCore 0 fun c => { c with tlb := [⟨0, 0, 32, 0xA7⟩] } with
    mem := [(0x81040, action), (0x81080, active)] }

/-- What TRET reads with each action. -/
def tretReads (k : Nat) : Bool :=
  (readFrame (tretAt (BitVec.ofNat 8 k) 1) { tretGroup with ctx := found tretGroup } (tretGroup.frame.getD 0)).any fun tr => tr.action == k

theorem witness_TretOf (k : Nat) (h : tretReads k = true) (hi : idle (tretAt (BitVec.ofNat 8 k) 1) tretGroup = true) : ∃ s g sp v tr,
    Ready (.tret sp) { all := true, post := true } s g ∧ g.handler = true ∧ g.trapSave = some v ∧
    v.cause ≠ .preempt ∧ v.deferred = false ∧ g.kind ≠ .combiner ∧ g.gfx = none ∧
    readFrame s { g with ctx := found g } (g.frame.getD 0) = some tr ∧ tr.action = k := by
  obtain ⟨tr, ht, ha⟩ := some_of_any h
  exact ⟨tretAt (BitVec.ofNat 8 k) 1, tretGroup, none, ⟨.softTrap, false, 0x100000, 0x100000, 0x100004, [], none⟩, tr,
    ready_of rfl hi (by decide), rfl, rfl, by decide, rfl, by decide, rfl, ht, eq_of_beq ha⟩

theorem tretReads_0 : tretReads 0 = true := by decide +kernel
theorem tretReads_1 : tretReads 1 = true := by decide +kernel
theorem tretReads_2 : tretReads 2 = true := by decide +kernel
theorem tretReads_3 : tretReads 3 = true := by decide +kernel
theorem tretReads_4 : tretReads 4 = true := by decide +kernel

theorem witness_Tret (k : Nat) (h : k < 5) : ∃ s g sp v tr,
    Ready (.tret sp) { all := true, post := true } s g ∧ g.handler = true ∧ g.trapSave = some v ∧
    v.cause ≠ .preempt ∧ v.deferred = false ∧ g.kind ≠ .combiner ∧ g.gfx = none ∧
    readFrame s { g with ctx := found g } (g.frame.getD 0) = some tr ∧ tr.action = k := by
  have hr : ∀ k < 5, tretReads k = true
    | 0, _ => tretReads_0
    | 1, _ => tretReads_1
    | 2, _ => tretReads_2
    | 3, _ => tretReads_3
    | 4, _ => tretReads_4
  have hi : ∀ k < 5, idle (tretAt (BitVec.ofNat 8 k) 1) tretGroup = true := by decide +kernel
  exact witness_TretOf k (hr k h) (hi k h)

theorem witness_TretBad : ∃ s g sp v, Ready (.tret sp) { all := true, post := true } s g ∧ g.kind ≠ .combiner ∧ g.handler = true ∧
    g.frame.isSome = true ∧ g.trapSave = some v ∧ BadFrame s { g with ctx := found g } (g.frame.getD 0) (found g) :=
  ⟨tretAt 5 1, tretGroup, none, _, ready_of rfl (by decide +kernel) (by decide), by decide, rfl, rfl, rfl, .inl ⟨5, by decide +kernel, by decide⟩⟩

theorem witness_TretPrivilege : ∃ s g sp, Ready (.tret sp) {} s g ∧ CanTrap s g :=
  ⟨demo, demoGroup, none, ready_of rfl (by decide) (by decide), canTrap_group⟩

theorem witness_Sread : ∃ s g x, Ready (.sread x) { sregs := sregBits [x.d.toNat] } s g ∧ x.a ≠ 12 :=
  ⟨demo, demoGroup, ⟨none, 63, 24, 0, 0⟩, ready_of rfl (by decide) (by decide), by decide⟩

theorem witness_SreadCycle : ∃ s g x, Ready (.sread x) { sregs := sregBits [x.d.toNat] } s g ∧ x.a = 12 :=
  ⟨demo, demoGroup, ⟨none, 0, 12, 0, 0⟩, ready_of rfl (by decide) (by decide), rfl⟩

theorem witness_Swrite (a : BitVec 6) (h : a = 13 ∨ a = 14 ∨ a = 19) : ∃ s g x, Ready (.swrite x) { sregs := sregBits [x.b.toNat] } s g ∧ x.a = a :=
  ⟨demo, demoGroup, ⟨none, 0, a, 63, 0⟩, ready_of rfl (by decide) (by rcases h with rfl | rfl | rfl <;> decide), rfl⟩

end Sys2Proof.Tests
end

