-- ==== Sys2Proof/Tests/WitnessEngines.lean ====
section
/-! SUPPORT. States and operands that meet the hypotheses of the statements about stream queues, tiles and Whorl units. -/

namespace Sys2Proof.Tests

set_option Elab.async false

open Machine Spec

/-! ## Stream queues -/

/-- A slot operand, w7. -/
def slotAsy (sub : BitVec 4) : Asy := ⟨none, 0, false, 27, 0, sub⟩

/-- s58 to s63, or fewer, from the control word. -/
theorem witness_Copy : ∃ s g x k, Ready (.copy x k) (streamUses (fld k 8 3) 6) s g ∧ s.isProducer g = true ∧ (queueOf s g.core (fld k 0 0)).length < 32 :=
  ⟨demo, demoGroup, slotAsy 15, BitVec.ofNat 32 (1 + 2 * 2 + 8 * 58), ready_of rfl (by decide) (by decide), by decide +kernel, by decide +kernel⟩

def gatherGroup (n : DWord) : Group := withCtx fun x => x.setS 63 n

theorem witness_Copyg : ∃ s g x k, Ready (.copyg x k) (streamUses (fld k 8 3) 3) s g ∧ s.isProducer g = true ∧ (queueOf s g.core (fld k 0 0)).length < 32 ∧
    1 ≤ ((found g).getS (fld k 8 3 + 2)).toNat ∧ ((found g).getS (fld k 8 3 + 2)).toNat ≤ 65536 :=
  ⟨demoOf (gatherGroup 65536), gatherGroup 65536, slotAsy 0, BitVec.ofNat 32 (8 * 61), ready_of rfl (by decide) (by decide), by decide +kernel,
    by decide +kernel, by decide +kernel, by decide +kernel⟩

def ringGroup : Group := withCtx fun x => x.setS 58 1

theorem witness_Stream : ∃ s g x k tm, Ready (.stream x k) (streamUses (fld k 19 14) 8) s g ∧ s.isProducer g = true ∧
    (queueOf s g.core (fld k 0 0)).length < 32 ∧ s.teams[g.team]? = some tm ∧ 1 ≤ ((found g).getS (fld k 19 14 + 2)).toNat ∧
    ((found g).getS (fld k 19 14 + 2)).toNat < 2 ^ 32 :=
  ⟨demoOf ringGroup, ringGroup, slotAsy 0, BitVec.ofNat 32 (4 * 15 + 2 ^ 14 * 56), _, ready_of rfl (by decide) (by decide), by decide +kernel,
    by decide +kernel, rfl, by decide +kernel, by decide +kernel⟩

theorem witness_Sqfence : ∃ s g x q, Ready (.sqfence x) (streamUses 0 0) s g ∧ s.isProducer g = true ∧ x.sub.toNat = 2 ^ q ∧ q < 2 ∧
    (queueOf s g.core q).length < 32 :=
  ⟨demo, demoGroup, { slotAsy 2 with a := 0 }, 1, ready_of rfl (by decide) (by decide), by decide +kernel, rfl, by decide, by decide +kernel⟩

/-- The machine whose kernel has group 1 as its producer. -/
def otherProducer : State :=
  { demo with launches := [{ fetchLaunch 0 with kernel := { (fetchLaunch 0).kernel with groups := 2, producer := 1 } }] }

theorem witness_CopyRights : ∃ s g x k, Ready (.copy x k) (streamUses (fld k 8 3) 6) s g ∧ CanTrap s g ∧ s.isProducer g = false :=
  ⟨otherProducer, demoGroup, slotAsy 0, 0, ready_of rfl (by decide) (by decide),
    ⟨by decide, rfl, rfl, ⟨demoJob, rfl, by decide⟩, by decide⟩, by decide +kernel⟩

theorem witness_CopygZero : ∃ s g x k, Ready (.copyg x k) (streamUses (fld k 8 3) 3) s g ∧ CanTrap s g ∧ s.isProducer g = true ∧
    ((found g).getS (fld k 8 3 + 2)).toNat = 0 :=
  ⟨demo, demoGroup, slotAsy 0, 0, ready_of rfl (by decide) (by decide), canTrap_group, by decide +kernel, by decide +kernel⟩

/-- A layout record at 0x1000: 4 bytes in one dimension, at 0x2000. -/
def streamMem : SMap 8 :=
  SMap.setList (fetchMemory [] 32 0x2B5) 0x1000 (leBytes 64 (0x2000 + 2 ^ 72 * 8 + 2 ^ 80 * 1 + 2 ^ 96 * 4))
def streamEntry (kind : SqKind) : SqEntry :=
  { kind := kind, team := 0, grp := 0, job := 0, record := 0x1000, nb := 15, args := [0, 0x100000003], pc := 0x100000, iword := 0, oword := 0, box := 0,
    began := none, err := false, issued := 0, after := [] }
/-- The entry at the head of a queue of core 0, whose team has one granule. -/
def streamAt (l : List SqEntry) : State :=
  { demo.modCore 0 (fun c => { c with sq := Vector.replicate 2 l }) with mem := streamMem, teams := [{ fetchTeam 0 0 with scrBase := 10, scrLen := 1 }] }

theorem moved_of {x : Moved} {p : State → Bool} (h : (match x with | .ok u => p u | _ => false) = true) : ∃ u, x = .ok u ∧ p u = true := by
  cases x with
  | ok u => exact ⟨u, rfl, h⟩
  | failed _ _ _ => exact absurd h Bool.false_ne_true
  | wait => exact absurd h Bool.false_ne_true

theorem witness_EntryMoves : ∃ (s : State) (core q : Nat) (e : SqEntry) (u : State), (queueOf s core q).head? = some e ∧ s.entryDead e = false ∧ s.entryWaits e = false ∧
    (∃ d, e.kind = .copy d) ∧ s.moveEntry core e = .ok u := by
  obtain ⟨u, hu, -⟩ := moved_of (x := (streamAt [streamEntry (.copy 0)]).moveEntry 0 (streamEntry (.copy 0))) (p := fun _ => true) (by decide +kernel)
  exact ⟨streamAt [streamEntry (.copy 0)], 0, 0, streamEntry (.copy 0), u, by decide +kernel, by decide +kernel, by decide +kernel, ⟨0, rfl⟩, hu⟩

def oddEntry : SqEntry := { streamEntry .gather with record := 0x1001 }

theorem witness_EntryFails : ∃ (s : State) (core q : Nat) (e : SqEntry) (u : State) (c : Cause) (va : DWord), (queueOf s core q).head? = some e ∧
    s.entryDead e = false ∧ s.entryWaits e = false ∧ e.kind = .gather ∧ s.moveEntry core e = .failed u c va ∧ (((s.core core).sqErr[Fin.ofNat 2 q]).lookup e.grp) = none ∧
    (u.core core).sqErr = (s.core core).sqErr :=
  ⟨streamAt [oddEntry], 0, 1, oddEntry, streamAt [oddEntry], .align, 0x1001, by decide +kernel, by decide +kernel, by decide +kernel, rfl, rfl, by decide +kernel, rfl⟩

theorem devOption_of {α : Type} {x : Dev (Option α)} {p : α → Bool} (h : (match x with | .ok (some a) => p a | _ => false) = true) :
    ∃ a, x = .ok (some a) ∧ p a = true := by
  cases x with
  | ok o =>
    cases o with
    | some a => exact ⟨a, rfl, h⟩
    | none => exact absurd h Bool.false_ne_true
  | fail _ _ => exact absurd h Bool.false_ne_true
  | wait => exact absurd h Bool.false_ne_true

/-- A record whose rows are not swizzled, and every element of its box readable. -/
def plainMem : SMap 8 :=
  SMap.setList (fetchMemory [] 32 0x2B5) 0x1000 (leBytes 64 (0x2000 + 2 ^ 72 * 8 + 2 ^ 80 * 1 + 2 ^ 88 + 2 ^ 96 * 4))
def plainAt : State := { streamAt [streamEntry (.copy 0)] with mem := plainMem }

theorem dev_value {x : Dev Nat} (h : (match x with | .ok _ => true | _ => false) = true) : ∃ v, x = .ok v := by
  cases x with
  | ok v => exact ⟨v, rfl⟩
  | fail _ _ => exact absurd h Bool.false_ne_true
  | wait => exact absurd h Bool.false_ne_true

theorem witness_CopyInValues : ∃ (s : State) (core q : Nat) (e : SqEntry) (l : Layout) (tm : Team), (queueOf s core q).head? = some e ∧ s.entryDead e = false ∧ s.entryWaits e = false ∧
    e.kind = .copy 0 ∧ s.teams[e.team]? = some tm ∧ s.entryLayout core e = .ok (some l) ∧ l.format ≤ 1 ∧ l.swizzled = false ∧
    boxFits l (boxOf l.rank e.args.tail) (e.args.getD 0 0).toNat (65536 * tm.scrLen) = true ∧
    ∀ r < (boxOf l.rank e.args.tail).rows, ∀ j < (boxOf l.rank e.args.tail).e0, ∃ v, s.readElem core e.job l ((boxOf l.rank e.args.tail).coord r j) = .ok v := by
  have hb : ∀ l : Layout, l.rank = 1 → boxOf l.rank (streamEntry (.copy 0)).args.tail = ⟨[3], [1]⟩ := by
    intro l hl
    rw [hl]
    decide
  obtain ⟨l, hl, hp⟩ := devOption_of (x := plainAt.entryLayout 0 (streamEntry (.copy 0)))
    (p := fun l => decide (l.format ≤ 1) && !l.swizzled && boxFits l (boxOf l.rank [0x100000003]) 0 65536 && decide (l.rank = 1) &&
      (match plainAt.readElem 0 0 l (Box.coord ⟨[3], [1]⟩ 0 0) with | .ok _ => true | _ => false)) (by decide +kernel)
  simp only [Bool.and_eq_true, decide_eq_true_eq, Bool.not_eq_true'] at hp
  obtain ⟨⟨⟨⟨hf, hs⟩, hx⟩, hr⟩, hv⟩ := hp
  refine ⟨plainAt, 0, 0, streamEntry (.copy 0), l, _, by decide +kernel, by decide +kernel, by decide +kernel, rfl, rfl, hl, hf, hs, hx, ?_⟩
  rw [hb l hr]
  intro r hr j hj
  have h0 : r = 0 := Nat.lt_one_iff.mp hr
  have h1 : j = 0 := Nat.lt_one_iff.mp hj
  subst h0 h1
  exact dev_value hv

theorem witness_Fences : ∃ (s : State) (core q : Nat) (e : SqEntry) (id qs : Nat), (queueOf s core q).head? = some e ∧ s.entryDead e = false ∧ s.entryWaits e = false ∧
    e.kind = .fence id qs ∧ s.fenceReady core id qs = true :=
  ⟨streamAt [streamEntry (.fence 7 3)], 0, 1, streamEntry (.fence 7 3), 7, 3, by decide +kernel, by decide +kernel, by decide +kernel, rfl, by decide +kernel⟩

/-- A ring of n boxes, at its first. -/
def ringEntry (drain : Bool) (n : DWord) : SqEntry :=
  { streamEntry (.ring drain 2 0 1) with args := [0, 128, n, 0x100000000], began := some 0 }
def ringAt (drain : Bool) (n : DWord) : State :=
  { streamAt [ringEntry drain n] with
    teams := [{ fetchTeam 0 0 with scrBase := 10, scrLen := 1, bars := Vector.replicate 16 ⟨1, 0, 1, 1⟩ }] }

/-- What the last box of a ring meets, and a box before it. -/
def RingEnds (drain : Bool) : Prop := ∃ (s : State) (core q : Nat) (e : SqEntry) (u : State), (queueOf s core q).head? = some e ∧ s.entryDead e = false ∧ s.entryWaits e = false ∧
  e.kind = .ring drain 2 0 1 ∧ s.ringReady e drain 2 0 1 = true ∧ e.err = false ∧ s.moveBox core e drain 2 e.box = .ok u ∧ (e.args.getD 2 0).toNat ≤ e.box + 1
def RingGoesOn (drain : Bool) : Prop := ∃ (s : State) (core q : Nat) (e : SqEntry) (u : State) (tm : Team), (queueOf s core q).head? = some e ∧
  s.entryDead e = false ∧ s.entryWaits e = false ∧ e.kind = .ring drain 2 0 1 ∧ s.ringReady e drain 2 0 1 = true ∧ e.err = false ∧ s.moveBox core e drain 2 e.box = .ok u ∧
  e.box + 1 < (e.args.getD 2 0).toNat ∧ u.teams[e.team]? = some tm

theorem witness_FillEnds : RingEnds false := by
  obtain ⟨u, hu, -⟩ := moved_of (x := (ringAt false 1).moveBox 0 (ringEntry false 1) false 2 (ringEntry false 1).box) (p := fun _ => true) (by decide +kernel)
  exact ⟨ringAt false 1, 0, 0, ringEntry false 1, u, by decide +kernel, by decide +kernel, by decide +kernel, rfl, by decide +kernel, rfl, hu, by decide⟩

theorem witness_DrainEnds : RingEnds true := by
  obtain ⟨u, hu, -⟩ := moved_of (x := (ringAt true 1).moveBox 0 (ringEntry true 1) true 2 (ringEntry true 1).box) (p := fun _ => true) (by decide +kernel)
  exact ⟨ringAt true 1, 0, 0, ringEntry true 1, u, by decide +kernel, by decide +kernel, by decide +kernel, rfl, by decide +kernel, rfl, hu, by decide⟩

theorem witness_FillGoesOn : RingGoesOn false := by
  obtain ⟨u, hu, ht⟩ := moved_of (x := (ringAt false 2).moveBox 0 (ringEntry false 2) false 2 (ringEntry false 2).box)
    (p := fun u => (u.teams[(ringEntry false 2).team]?).isSome) (by decide +kernel)
  obtain ⟨tm, ht⟩ := Option.isSome_iff_exists.mp ht
  exact ⟨ringAt false 2, 0, 0, ringEntry false 2, u, tm, by decide +kernel, by decide +kernel, by decide +kernel, rfl, by decide +kernel, rfl, hu, by decide, ht⟩

theorem witness_DrainGoesOn : RingGoesOn true := by
  obtain ⟨u, hu, ht⟩ := moved_of (x := (ringAt true 2).moveBox 0 (ringEntry true 2) true 2 (ringEntry true 2).box)
    (p := fun u => (u.teams[(ringEntry true 2).team]?).isSome) (by decide +kernel)
  obtain ⟨tm, ht⟩ := Option.isSome_iff_exists.mp ht
  exact ⟨ringAt true 2, 0, 0, ringEntry true 2, u, tm, by decide +kernel, by decide +kernel, by decide +kernel, rfl, by decide +kernel, rfl, hu, by decide, ht⟩

/-! ## Tile instructions -/

/-- A team with tiles 3 to 6, two granules, of one half of a twin. -/
def tileTeam : Team := { fetchTeam 0 0 with accBase := 3, accLen := 4, scrBase := 10, scrLen := 2, twin := some 1 }
def tileAtState : State := { demo with teams := [tileTeam, tileTeam] }
theorem tileOf_demo : TileOf tileAtState demoGroup 3 6 := ⟨tileTeam, rfl, by decide, rfl⟩
def mmaAsy : Asy := ⟨none, 0, false, 20, 21, 3⟩

theorem witness_Mma : ∃ s g x k tile, Ready (.mma x k) {} s g ∧ fld k 0 0 = 0 ∧ TileOf s g x.sub.toNat tile ∧ (slotAt (found g) x.a).toNat % 128 = 0 ∧
    (slotAt (found g) x.b).toNat % 4 = 0 ∧ ∃ tm, s.teams[g.team]? = some tm ∧
      (slotAt (found g) x.a).toNat + 16384 * panels (fld k 4 2) (32 * (fld k 12 8 + 1)) ≤ 65536 * tm.scrLen :=
  ⟨tileAtState, demoGroup, mmaAsy, 0, 6, ready_of rfl (by decide) (by decide), by decide, tileOf_demo, by decide, by decide, tileTeam, rfl, by decide⟩

theorem witness_MmaPair : ∃ s g x k tile tm, Ready (.mma x k) {} s g ∧ fld k 0 0 = 1 ∧ TileOf s g x.sub.toNat tile ∧ s.teams[g.team]? = some tm ∧
    tm.twin ≠ none ∧ g.core % 2 = 0 ∧ g.core < 64 ∧ (slotAt (found g) x.a).toNat % 128 = 0 ∧ (slotAt (found g) x.b).toNat % 4 = 0 ∧
    (slotAt (found g) x.a).toNat + 16384 * panels (fld k 4 2) (32 * (fld k 12 8 + 1)) ≤ 65536 * tm.scrLen :=
  ⟨tileAtState, demoGroup, mmaAsy, 1, 6, tileTeam, ready_of rfl (by decide) (by decide), by decide, tileOf_demo, rfl, by decide, by decide, by decide,
    by decide, by decide, by decide⟩

theorem witness_MmaRole : ∃ s g x k, Ready (.mma x k) {} s g ∧ CanTrap s g ∧ fld k 0 0 = 1 ∧ ∀ tm, s.teams[g.team]? = some tm → tm.twin = none :=
  ⟨demo, demoGroup, mmaAsy, 1, ready_of rfl (by decide) (by decide), canTrap_group, by decide, fun tm h => by
    have h : some (fetchTeam 0 0) = some tm := h
    rw [← Option.some.inj h]
    rfl⟩

theorem witness_Mbatch : ∃ s g x, Ready (.mbatch x) {} s g ∧ ∀ b ∈ g.batches, b.num = g.batch.num → b.left = 0 :=
  ⟨demoOf { demoGroup with batches := [⟨0, 0, 0, true⟩], batch := ⟨256, 0, 0, false⟩ }, { demoGroup with batches := [⟨0, 0, 0, true⟩], batch := ⟨256, 0, 0, false⟩ },
    ⟨none, 0, false, 0, 0, 0⟩, ready_of rfl (by decide) (by decide), by decide⟩

theorem witness_MwaitUnheld : ∃ s g x k, Ready (.mwait x k) {} s g ∧ ∀ b ∈ g.batches, b.num ≠ fld k 7 0 :=
  ⟨demo, demoGroup, ⟨none, 0, false, 0, 0, 0⟩, 255, ready_of rfl (by decide) (by decide), by decide⟩

theorem witness_Mwait : ∃ s g x k b, Ready (.mwait x k) {} s g ∧ (g.batches.find? fun b => b.num == fld k 7 0) = some b ∧ b.left = 0 :=
  ⟨demoOf { demoGroup with batches := [⟨0, 0, 0, true⟩] }, { demoGroup with batches := [⟨0, 0, 0, true⟩] },
    ⟨none, 0, false, 0, 0, 0⟩, 0, _, ready_of rfl (by decide) (by decide), rfl, rfl⟩

theorem witness_Mzero : ∃ s g x tile, Ready (.mzero x) {} s g ∧ TileOf s g x.sub.toNat tile :=
  ⟨tileAtState, demoGroup, ⟨none, 0, false, 0, 0, 3⟩, 6, ready_of rfl (by decide) (by decide), tileOf_demo⟩

theorem witness_Mfill : ∃ s g x k tile, fld k 0 0 = 0 ∧ Ready (.mfill x k) { ents := entRange x.d.toNat 8 } s g ∧ fld k 5 4 = 0 ∧
    TileOf s g x.sub.toNat tile ∧ g.ctx.mappedAll (entRange x.d.toNat 8) = true :=
  ⟨tileAtState, demoGroup, ⟨none, 8, false, 0, 0, 3⟩, 14, 6, by decide, ready_of rfl (by decide) (by decide), by decide, tileOf_demo, by decide⟩

theorem witness_MfillHalf : ∃ s g x k tile, fld k 0 0 = 0 ∧ Ready (.mfill x k) { ents := entRange x.d.toNat 4 } s g ∧ fld k 5 4 ≠ 0 ∧
    TileOf s g x.sub.toNat tile ∧ g.ctx.mappedAll (entRange x.d.toNat 4) = true :=
  ⟨tileAtState, demoGroup, ⟨none, 12, false, 0, 0, 3⟩, 0x2E, 6, by decide, ready_of rfl (by decide) (by decide), by decide, tileOf_demo, by decide⟩

theorem witness_MfillPad : ∃ s g x k tile tm, Ready (.mfill x k) {} s g ∧ fld k 0 0 = 1 ∧ TileOf s g x.sub.toNat tile ∧ s.teams[g.team]? = some tm ∧
    (slotAt (found g) x.a).toNat % 128 = 0 ∧ (slotAt (found g) x.a).toNat + (if fld k 5 4 = 0 then 65536 else 32768) ≤ 65536 * tm.scrLen :=
  ⟨tileAtState, demoGroup, ⟨none, 0, false, 20, 0, 3⟩, 1, 6, tileTeam, ready_of rfl (by decide) (by decide), by decide, tileOf_demo, rfl, by decide, by decide⟩

theorem witness_Mdrain : ∃ s g x k tile, fld k 0 0 = 0 ∧ fld k 6 6 = 0 ∧ fld k 7 7 = 0 ∧ Ready (.mdrain x k) { ents := entRange x.d.toNat 8 } s g ∧
    fld k 5 4 = 0 ∧ TileOf s g x.sub.toNat tile ∧ g.ctx.mappedAll (entRange x.d.toNat 8) = true :=
  ⟨tileAtState, demoGroup, ⟨none, 8, true, 0, 0, 3⟩, 14, 6, by decide, by decide, by decide, ready_of rfl (by decide) (by decide), by decide, tileOf_demo,
    by decide⟩

theorem witness_MdrainPad : ∃ s g x k tile tm, Ready (.mdrain x k) {} s g ∧ fld k 0 0 = 1 ∧ TileOf s g x.sub.toNat tile ∧ s.teams[g.team]? = some tm ∧
    fld k 6 6 = 1 ∧ (slotAt (found g) x.a).toNat % 128 = 0 ∧
    (slotAt (found g) x.a).toNat + (if fld k 5 4 = 0 then 65536 else 32768) ≤ 65536 * tm.scrLen ∧ (slotAt (found g) x.b).toNat % 16 = 0 ∧
    (slotAt (found g) x.b).toNat + 1024 ≤ 65536 * tm.scrLen :=
  ⟨tileAtState, demoGroup, ⟨none, 0, false, 20, 21, 3⟩, 0xC1, 6, tileTeam, ready_of rfl (by decide) (by decide), by decide, tileOf_demo, rfl, by decide,
    by decide, by decide, by decide, by decide⟩

/-! ## Tile operations -/

def demoOp (k : TileKind) : TileOp := ⟨k, 0, 0, 0, 0, none, 0⟩
def opAt (o : TileOp) : State := { demo.modCore 0 (fun c => { c with tileQ := c.tileQ.set 15 [o] }) with teams := [tileTeam] }

theorem witness_Zero : ∃ s core tile o, tile < 16 ∧ Front s core tile o ∧ o.kind = .zero :=
  ⟨opAt (demoOp .zero), 0, 15, demoOp .zero, by decide, ⟨by decide +kernel, rfl, rfl⟩, rfl⟩

def fillVals : List (Nat × List Word) := [(0, [1, 2, 3, 4, 5, 6, 7, 8]), (255, [1, 2, 3, 4, 5, 6, 7, 8])]

theorem witness_Fill : ∃ s core tile o vals fmt band src, tile < 16 ∧ band < 8 ∧ Front s core tile o ∧ o.kind = .fill (some vals) fmt band src ∧
    (vals.map fun v => v.1).Nodup ∧ ∀ v ∈ vals, v.1 < 256 ∧ v.2.length = 8 :=
  ⟨opAt (demoOp (.fill (some fillVals) 0 7 0)), 0, 15, demoOp (.fill (some fillVals) 0 7 0), fillVals, 0, 7, 0, by decide, by decide,
    ⟨by decide +kernel, rfl, rfl⟩, rfl, by decide, by decide⟩

theorem witness_MmaRetires : ∃ (s : State) (core tile : Nat) (o : TileOp) (ka kb k : Nat) (a : DWord) (b : Nat) (tm : Team) (g : List (List Nat)), tile < 16 ∧
    Front s core tile o ∧ o.kind = .mma none false ka kb k a b ∧ s.teams[o.team]? = some tm ∧
    zGroups (s.core core).weightWord (kindFmt kb).width b (4 * k) = .ok g ∧ 1 ≤ k / 32 := by
  have h : (match zGroups ((opAt (demoOp (.mma none false 2 2 32 0 0))).core 0).weightWord (kindFmt 2).width 0 (4 * 32) with | .ok _ => true | _ => false) = true := by
    decide +kernel
  have hg : ∃ g, zGroups ((opAt (demoOp (.mma none false 2 2 32 0 0))).core 0).weightWord (kindFmt 2).width 0 (4 * 32) = .ok g := by
    revert h
    generalize zGroups ((opAt (demoOp (.mma none false 2 2 32 0 0))).core 0).weightWord (kindFmt 2).width 0 (4 * 32) = x
    cases x with
    | ok g => exact fun _ => ⟨g, rfl⟩
    | fail _ _ => exact fun h => absurd h Bool.false_ne_true
    | wait => exact fun h => absurd h Bool.false_ne_true
  obtain ⟨g, hg⟩ := hg
  exact ⟨opAt (demoOp (.mma none false 2 2 32 0 0)), 0, 15, demoOp (.mma none false 2 2 32 0 0), 2, 2, 32, 0, 0, tileTeam, g, by decide,
    ⟨by decide +kernel, rfl, by decide +kernel⟩, rfl, rfl, hg, by decide⟩

def drainGroup : Group := { demoGroup with status := .tileWait true 0 none }

theorem witness_Drain : ∃ s core tile o d band g sp, tile < 16 ∧ band < 8 ∧ d + 7 < 16 ∧ Front s core tile o ∧
    o.kind = .drain (some d) 0 band false false 0 0 ∧ s.groups[o.grp]? = some g ∧ g.status = .tileWait true o.issued sp ∧ s.preempting g = false :=
  ⟨{ opAt (demoOp (.drain (some 8) 0 7 false false 0 0)) with groups := [drainGroup] }, 0, 15, demoOp (.drain (some 8) 0 7 false false 0 0), 8, 7, drainGroup,
    none, by decide, by decide, by decide, ⟨by decide +kernel, rfl, rfl⟩, rfl, rfl, rfl, rfl⟩

theorem witness_AFetch : ∃ (s : State) (core tile : Nat) (o : TileOp) (va : DWord), ((s.core core).tileQ[Fin.ofNat 16 tile]).head? = some o ∧ o.stalled = some va ∧
    ∃ pa c, s.xlate core o.job va .read true = .ok pa c :=
  ⟨opAt { demoOp (.mma none true 2 2 32 0x1000 0) with stalled := some 0x1000 }, 0, 15, { demoOp (.mma none true 2 2 32 0x1000 0) with stalled := some 0x1000 },
    0x1000, by decide +kernel, rfl, 0x1000, true, by decide +kernel⟩

/-! ## Whorl units -/

/-- The team's program may evaluate networks, so it reserves the Whorl unit of its cores; ix0 and ix3 hold windows of 4 and 2 registers. -/
def whorlGroup : Group := withCtx fun x => { x with ix := (x.ix.set 0 ⟨8, 4⟩).set 3 ⟨12, 2⟩, active := 3 }
def whorlAt : State := { demoOf whorlGroup with teams := [{ fetchTeam 0 0 with neval := true }] }
def nevalWord : Word := BitVec.ofNat 32 (0 + 4 * 3 + 16 * 7 + 1024 * 3)

theorem witness_Neval : ∃ s g x k slot, Ready (.neval x k) (nevalUses k s) s g ∧
    fld k 9 4 + 1 ≤ 2 * ((found g).ix[Fin.ofNat 4 (fld k 1 0)]).len.toNat ∧ fld k 15 10 + 1 ≤ 2 * ((found g).ix[Fin.ofNat 4 (fld k 3 2)]).len.toNat ∧
    s.whorlRes g.core = true ∧ (slotAt (found g) x.a).toNat % 64 = 0 ∧ g.freeSlot = some slot ∧ (found g).lanes ≠ [] :=
  ⟨whorlAt, whorlGroup, slotAsy 0, nevalWord, 0, ready_of rfl (by decide) (by decide), by decide, by decide, by decide +kernel, by decide, by decide,
    by decide +kernel⟩

theorem witness_NevalIllegal : ∃ s g x k, Ready (.neval x k) (nevalUses k s) s g ∧ CanTrap s g ∧
    s.whorlRes g.core = false :=
  ⟨demo, demoGroup, slotAsy 0, nevalWord, ready_of rfl (by decide) (by decide), canTrap_group, by decide +kernel⟩

def demoRow : WRow := ⟨0, 0, 255, 8, 4, 0, List.replicate 8 0x3C00⟩
def whorlState (w : Whorl) : State := { demo with whorls := demo.whorls.set 31 w }

theorem witness_WhorlBin : ∃ s pair job hd r rest, (whorlOf s pair).queue = ⟨job, hd, [r]⟩ :: rest ∧
    (∀ b ∈ (whorlOf s pair).bins, ¬ (b.job = job ∧ b.handle = hd)) ∧ (whorlOf s pair).bins.length < 16 :=
  ⟨whorlState ⟨[⟨0, 0x1000, [demoRow]⟩], List.replicate 15 ⟨0, 0x2000, [demoRow]⟩, []⟩, 31, 0, 0x1000, demoRow, [], by decide +kernel, by decide +kernel,
    by decide +kernel⟩

theorem witness_WhorlJoins : ∃ s pair job hd r rest rows, (whorlOf s pair).queue = ⟨job, hd, [r]⟩ :: rest ∧ (whorlOf s pair).bins = [⟨job, hd, rows⟩] :=
  ⟨whorlState ⟨[⟨0, 0x1000, [demoRow]⟩], [⟨0, 0x1000, [demoRow]⟩], []⟩, 31, 0, 0x1000, demoRow, [], [demoRow], by decide +kernel, by decide +kernel⟩

theorem witness_WhorlIdle : ∃ (s : State) (pair bin : Nat) (b : WBin), (whorlOf s pair).bins[bin]? = some b :=
  ⟨whorlState ⟨[], List.replicate 16 ⟨0, 0x2000, [demoRow]⟩, []⟩, 31, 15, ⟨0, 0x2000, [demoRow]⟩, by decide +kernel⟩

/-- A network at 0x1000: 8 inputs, one layer of 4 outputs whose weights at 0x2000 are all 0. -/
def netMem (count : Nat) : SMap 8 :=
  SMap.setList (fetchMemory [] 32 0x2B5) 0x1000 (leBytes 64 (count + 256 * 8 + 2 ^ 256 * (0x2000 + 2 ^ 128 * 4 + 2 ^ 192 * 512)))
def netAt (count : Nat) : State :=
  layered { (whorlState ⟨[], [], [⟨0, 0x1000, [demoRow]⟩]⟩).modCore 62 (fun c => { c with tlb := [⟨0, 0, 32, 0xA7⟩] }) with mem := netMem count } 31

theorem witness_WhorlReturns : ∃ (s : State) (pair job : Nat) (hd : DWord) (r : WRow) (rest : List WBin) (n : Network),
    (whorlOf s pair).tiles = ⟨job, hd, [r]⟩ :: rest ∧ s.layersDue pair = true ∧ s.readNetwork pair job hd = .ok (some n) ∧ n.n0 = r.nin ∧ n.outWidth = r.nout := by
  obtain ⟨n, hn, hp⟩ := devOption_of (x := (netAt 1).readNetwork 31 0 0x1000) (p := fun n => decide (n.n0 = 8) && decide (n.outWidth = 4)) (by decide +kernel)
  rw [Bool.and_eq_true, decide_eq_true_eq, decide_eq_true_eq] at hp
  exact ⟨netAt 1, 31, 0, 0x1000, demoRow, [], n, by decide +kernel, by decide +kernel, hn, hp.1, hp.2⟩

theorem witness_WhorlFails : ∃ (s : State) (pair job : Nat) (hd : DWord) (r : WRow) (rest : List WBin), (whorlOf s pair).tiles = ⟨job, hd, [r]⟩ :: rest ∧
    s.layersDue pair = true ∧ s.readNetwork pair job hd = .ok none := by
  have h : (match (netAt 7).readNetwork 31 0 0x1000 with | .ok none => true | _ => false) = true := by decide +kernel
  have hn : (netAt 7).readNetwork 31 0 0x1000 = .ok none := by
    revert h
    generalize (netAt 7).readNetwork 31 0 0x1000 = x
    match x with
    | .ok none => exact fun _ => rfl
    | .ok (some _) => exact fun h => absurd h Bool.false_ne_true
    | .fail _ _ => exact fun h => absurd h Bool.false_ne_true
    | .wait => exact fun h => absurd h Bool.false_ne_true
  exact ⟨netAt 7, 31, 0, 0x1000, demoRow, [], by decide +kernel, by decide +kernel, hn⟩

end Sys2Proof.Tests
end

