-- ==== Sys2Proof/Tests/WitnessMemory.lean ====
section
/-! SUPPORT. States and operands that meet the hypotheses of the statements about memory, atomics and homes. -/

namespace Sys2Proof.Tests

set_option Elab.async false

open Machine Spec

/-- Thread 0 accesses the last 16 aligned bytes of the mapped 2 MiB. -/
def edgeGroup : Group := oneLane (holding 2 0x1FFFF0)
def edgeAcc : LaneAcc := ⟨0, 0x1FFFF0, 0x1FFFF0, true⟩
def edgeMem : Mem := ⟨none, 4, true, 2, 0, 0, 0, none⟩
def edgeStore : Mem := { edgeMem with d := 0, w := false, b := 8 }

theorem reaches_edge {a : Access} {park : Bool} {n : Nat} {lanes : List (Nat × DWord)} (h : lanes = [(0, 0x1FFFF0)]) (hn : 0x1FFFF0 % n = 0)
    (hx : (demoOf edgeGroup).xlate 0 0 0x1FFFF0 a park = .ok 0x1FFFF0 true) : Reaches (demoOf edgeGroup) edgeGroup a park n lanes [edgeAcc] where
  lanes := h.symm
  aligned := fun x hx => by rw [List.mem_singleton.mp hx]; exact hn
  mapped := fun x hl => by rw [List.mem_singleton.mp hl]; exact hx

/-- What LoadCompletes asks. -/
def MeetsLoad (i : Instr) : Prop :=
  ∃ l s g accs, loadTable i = some l ∧ Ready i l.uses s g ∧ g.ctx.latchesOk l.srcs = true ∧ g.ctx.mappedAll l.ents = true ∧
    Reaches s g .read l.park l.n (l.lanes (g.ctx.begin l.uses)) accs ∧ s.holdsBack s.cur g accs = false ∧ ∃ k, g.freeSlot = some k

theorem witness_Loads : MeetsLoad (.ld128 edgeMem) :=
  ⟨_, demoOf edgeGroup, edgeGroup, [edgeAcc], rfl, ready_of rfl (by decide) (by decide), by decide, by decide,
    reaches_edge (by decide +kernel) rfl (by decide +kernel), by decide +kernel, 0, by decide⟩

theorem witness_LoadsAcquire : MeetsLoad (.lda edgeMem ⟨0, 0, false, 0, 0, 4, 1⟩) :=
  ⟨_, demoOf edgeGroup, edgeGroup, [edgeAcc], rfl, ready_of rfl (by decide) (by decide), by decide, by decide,
    reaches_edge (by decide +kernel) rfl (by decide +kernel), by decide +kernel, 0, by decide⟩

/-- s1 holds the address. -/
def uniGroup : Group := oneLane fun x => x.setS 1 0x1FFFF8
def uniAcc : LaneAcc := ⟨0, 0x1FFFF8, 0x1FFFF8, true⟩

theorem witness_LoadsUniform : MeetsLoad (.sld ⟨none, 5, 1, 0, 3⟩) :=
  ⟨_, demoOf uniGroup, uniGroup, [uniAcc], rfl, ready_of rfl (by decide) (by decide), by decide, by decide,
    ⟨by decide +kernel, by decide, by decide +kernel⟩, by decide +kernel, 0, by decide⟩

theorem witness_Stores : ∃ l s g accs, storeTable (.st128 edgeStore) = some l ∧ Ready (.st128 edgeStore) l.uses s g ∧ g.ctx.latchesOk l.srcs = true ∧
    Reaches s g .write false l.n (issuing g (l.lanes (g.ctx.begin l.uses))) accs ∧ s.holdsBack s.cur g accs = false ∧ (l.held && g.inRegion) = false :=
  ⟨_, demoOf edgeGroup, edgeGroup, [edgeAcc], rfl, ready_of rfl (by decide) (by decide), by decide,
    reaches_edge (by decide +kernel) rfl (by decide +kernel), by decide +kernel, by decide⟩

def regionGroup : Group := { edgeGroup with kind := .sample, gfx := some (regionGfx 32736) }

theorem witness_StoresHeld : ∃ l s g f accs, storeTable (.st128 edgeStore) = some l ∧ Ready (.st128 edgeStore) l.uses s g ∧
    g.ctx.latchesOk l.srcs = true ∧ l.held = true ∧ g.gfx = some f ∧ f.inRegion = true ∧
    Reaches s g .write false l.n (issuing g (l.lanes (g.ctx.begin l.uses))) accs ∧ s.holdsBack s.cur g accs = false ∧
    (∀ a ∈ accs, s.peerRefused g.job a.pa = false) ∧
    f.heldBytes + (if l.n = 16 then 32 else 16) * accs.length ≤ 32768 ∧
    (s.holders g.core).foldl (fun n h => n + h.2.2) 0 + (if l.n = 16 then 32 else 16) * accs.length ≤ 32768 :=
  ⟨_, demoOf regionGroup, regionGroup, _, [edgeAcc], rfl, ready_of rfl (by decide) (by decide), by decide, rfl, rfl, rfl,
    ⟨by decide +kernel, by decide, by decide +kernel⟩, by decide +kernel, by decide +kernel, by decide, by decide +kernel⟩

/-- What AtomCompletes asks. -/
def MeetsAtom (i : Instr) : Prop :=
  ∃ l s g accs, atomTable i = some l ∧ Ready i l.uses s g ∧ g.ctx.latchesOk l.srcs = true ∧ g.ctx.mappedAll l.ents = true ∧
    Reaches s g .write false l.n ((issuing g (l.lanes (g.ctx.begin l.uses))).map fun p => (p.1, p.2.1)) accs ∧
    (∀ a ∈ accs, s.hostLacks l.o.aop.toNat l.n a.pa a.cacheable = false) ∧ s.holdsAtom s.cur g l.o.mask accs = false ∧
    ∃ k, g.freeSlot = some k

theorem witness_Atom : MeetsAtom (.atom { edgeMem with b := 6 } ⟨0, 1, false, 10, 0, 3, 1⟩) :=
  ⟨_, demoOf edgeGroup, edgeGroup, [edgeAcc], rfl, ready_of rfl (by decide) (by decide), by decide, by decide,
    reaches_edge (by decide +kernel) rfl (by decide +kernel), by decide +kernel, by decide +kernel, 0, by decide⟩

theorem witness_Red : MeetsAtom (.red edgeStore ⟨0, 0, true, 11, 0, 0, 1⟩) :=
  ⟨_, demoOf edgeGroup, edgeGroup, [edgeAcc], rfl, ready_of rfl (by decide) (by decide), by decide, by decide,
    reaches_edge (by decide +kernel) rfl (by decide +kernel), by decide +kernel, by decide +kernel, 0, by decide⟩

theorem witness_Satom : MeetsAtom (.satom ⟨none, 5, 1, 2, 0⟩ ⟨0, 1, false, 9, 0, 0, 1⟩) :=
  ⟨_, demoOf uniGroup, uniGroup, [uniAcc], rfl, ready_of rfl (by decide) (by decide), by decide, by decide,
    ⟨by decide +kernel, by decide, by decide +kernel⟩, by decide +kernel, by decide +kernel, 0, by decide⟩

/-- The lane is done: its address need not reach memory, and nothing is sent. -/
def doneGroup : Group := { oneLane (fun x => x.setS 1 0x1FFFF9) with retry := some ⟨demoGroup.ctx.pc, 1, [(0, 7)]⟩ }
theorem witness_AtomRetried : MeetsAtom (.satom ⟨none, 5, 1, 2, 0⟩ ⟨0, 1, false, 9, 0, 0, 1⟩) ∧ doneGroup.doneLanes = 1 ∧
    (issuing doneGroup [((0 : Nat), (0x1FFFF9 : DWord))]) = [] :=
  ⟨⟨_, demoOf doneGroup, doneGroup, [], rfl, ready_of rfl (by decide) (by decide), by decide, by decide,
    ⟨by decide +kernel, by decide, by decide +kernel⟩, by decide +kernel, by decide +kernel, 0, by decide⟩, by decide +kernel, by decide +kernel⟩

/-- What MethodCompletes asks. -/
def MeetsMethod (i : Instr) (x : Mem) (o : Order) (post : Bool) : Prop :=
  let m := methodOp x o post
  ∃ s g accs, Ready i m.uses s g ∧ g.ctx.latchesOk m.srcs = true ∧ g.ctx.mappedAll m.dest = true ∧
    Reaches s g .write false (orderBytes o) (issuing g (lanesOf (g.ctx.begin m.uses) (addrOf x (orderBytes o) (g.ctx.begin m.uses)))) accs ∧
    (∀ a ∈ accs, s.objectMem a = true ∧ ¬ toPeer s a) ∧ s.holdsMethod s.cur g accs = false ∧ ∃ k, g.freeSlot = some k

theorem notPeer_edge : ¬ toPeer (demoOf edgeGroup) edgeAcc := fun ⟨d, h⟩ => by
  have hp : Machine.target (demoOf edgeGroup).gddrTop edgeAcc.pa = .gddr := by decide +kernel
  rw [hp] at h
  exact Target.noConfusion h

theorem witness_Callm : MeetsMethod (.callm { edgeMem with b := 6 } ⟨15, 1, false, 0, 0, 1, 1⟩) { edgeMem with b := 6 } ⟨15, 1, false, 0, 0, 1, 1⟩ false :=
  ⟨demoOf edgeGroup, edgeGroup, [edgeAcc], ready_of rfl (by decide) (by decide), by decide, by decide,
    reaches_edge (by decide +kernel) rfl (by decide +kernel),
    fun a h => by rw [List.mem_singleton.mp h]; exact ⟨by decide +kernel, notPeer_edge⟩, by decide +kernel, 0, by decide⟩

theorem witness_Postm : MeetsMethod (.postm edgeStore ⟨0, 0, false, 0, 0, 2, 1⟩) edgeStore ⟨0, 0, false, 0, 0, 2, 1⟩ true :=
  ⟨demoOf edgeGroup, edgeGroup, [edgeAcc], ready_of rfl (by decide) (by decide), by decide, by decide,
    reaches_edge (by decide +kernel) rfl (by decide +kernel),
    fun a h => by rw [List.mem_singleton.mp h]; exact ⟨by decide +kernel, notPeer_edge⟩, by decide +kernel, 0, by decide⟩

/-! ## Scratchpad and private memory -/

/-- A team with one granule at granule 10, and an offset at its end. -/
def padGroup : Group := oneLane (holding 2 0xFFF8)
def padAt : State := { demoOf padGroup with teams := [{ fetchTeam 0 0 with scrBase := 10, scrLen := 1 }] }
def padMem : Mem := ⟨none, 4, true, 2, 0, 1, 0, none⟩
theorem scratch_pad : Scratch padAt padGroup 655360 65536 := ⟨_, rfl, rfl, rfl⟩

theorem witness_Lds : ∃ s g x k base size,
    let m := padOp x false (entRange x.d.toNat (max 1 (padBytes x / 4))) 0 false
    Ready (.lds x) m.uses s g ∧ g.ctx.latchesOk m.srcs = true ∧ g.ctx.mappedAll m.dest = true ∧ Scratch s g base size ∧
      InPad (g.ctx.begin m.uses) x (padBytes x) size (g.ctx.begin m.uses).lanes ∧ g.acquiring = false ∧ g.freeSlot = some k :=
  ⟨padAt, padGroup, padMem, 0, _, _, ready_of rfl (by decide +kernel) (by decide), by decide, by decide, scratch_pad,
    (by unfold InPad; decide +kernel), by decide, by decide⟩

theorem witness_Sts : ∃ s g x base size,
    let m := padOp x true 0 0 false
    Ready (.sts x) m.uses s g ∧ g.ctx.latchesOk m.srcs = true ∧ Scratch s g base size ∧ InPad (g.ctx.begin m.uses) x (padBytes x) size (laneIssues g (g.ctx.begin m.uses)) ∧
      g.acquiring = false ∧ g.inRegion = false :=
  ⟨padAt, padGroup, { padMem with d := 0, w := false, b := 6 }, _, _, ready_of rfl (by decide +kernel) (by decide), by decide, scratch_pad,
    (by unfold InPad; decide +kernel), by decide, by decide⟩

theorem witness_Atoms : ∃ s g x o k base size,
    let m := padOp x true (entRange x.d.toNat (max 1 (padBytes x / 4)))
      (if o.aop = 10 then entRange (selNat x.a + (if padBytes x = 8 ∨ x.m = 1 then 2 else 1)) (max 1 (padBytes x / 4)) else 0) (releasing o)
    Ready (.atoms x o) m.uses s g ∧ g.ctx.latchesOk m.srcs = true ∧ g.ctx.mappedAll m.dest = true ∧ Scratch s g base size ∧
      InPad (g.ctx.begin m.uses) x (padBytes x) size (laneIssues g (g.ctx.begin m.uses)) ∧ g.acquiring = false ∧ g.freeSlot = some k :=
  ⟨padAt, padGroup, { padMem with b := 6 }, ⟨0, 1, false, 10, 0, 0, 0⟩, 0, _, _, ready_of rfl (by decide +kernel) (by decide), by decide, by decide, scratch_pad,
    (by unfold InPad; decide +kernel), by decide, by decide⟩

/-- Offset 8 of 16 private bytes. -/
def privGroup : Group := oneLane (holding 2 8)
def privPieces : List (LaneAcc × Nat × Nat) := [(⟨0, 0x80800, 0x80800, true⟩, 4, 0), (⟨0, 0x80C00, 0x80C00, true⟩, 4, 4)]

theorem privateReach_demo {c : Ctx} (hc : c = privGroup.ctx) (a : Access) (ha : a = .read ∨ a = .write) (x : Mem) (hx : x.a = 2 ∧ x.g = 1 ∧ x.disp = none) :
    PrivateReach (demoOf privGroup) privGroup c x (padBytes x) a 0x80000 c.lanes privPieces := by
  subst hc
  obtain ⟨h1, h2, h3⟩ := hx
  obtain ⟨sp, d, w, xa, b, g, m, disp⟩ := x
  simp only at h1 h2 h3
  subst h1 h2 h3
  refine ⟨rfl, ?_, ?_, ?_⟩
  · show ∀ t ∈ privGroup.ctx.lanes,
      (offsetOf ⟨none, 0, false, 2, 0, 1, 0, none⟩ privGroup.ctx t).toNat % 8 = 0 ∧
        (offsetOf ⟨none, 0, false, 2, 0, 1, 0, none⟩ privGroup.ctx t).toNat + 8 ≤ 16
    decide +kernel
  · show privPieces.map (fun q => (q.1.lane, q.1.va, q.2.1, q.2.2)) = ((privGroup.ctx.lanes.map fun t =>
      (piecesOf 0x80000 8 t (offsetOf ⟨none, 0, false, 2, 0, 1, 0, none⟩ privGroup.ctx t)).map fun q => (t, q)).flatten)
    decide +kernel
  · rcases ha with rfl | rfl <;> decide +kernel

theorem lanes_priv : privGroup.ctx.lanes = laneIssues privGroup privGroup.ctx := by decide +kernel

theorem witness_Ldp : ∃ s g x k base l,
    let m := padOp x false (entRange x.d.toNat (max 1 (padBytes x / 4))) 0 false
    Ready (.ldp x) m.uses s g ∧ g.ctx.latchesOk m.srcs = true ∧ g.ctx.mappedAll m.dest = true ∧
      PrivateReach s g (g.ctx.begin m.uses) x (padBytes x) .read base (g.ctx.begin m.uses).lanes l ∧ s.holdsBack s.cur g (l.map fun q => q.1) = false ∧ g.freeSlot = some k :=
  ⟨demoOf privGroup, privGroup, padMem, 0, _, privPieces, ready_of rfl (by decide +kernel) (by decide), by decide, by decide,
    privateReach_demo rfl _ (.inl rfl) _ (by decide), by decide +kernel, by decide⟩

theorem witness_Stp : ∃ s g x base l,
    let m := padOp x true 0 0 false
    Ready (.stp x) m.uses s g ∧ g.ctx.latchesOk m.srcs = true ∧ PrivateReach s g (g.ctx.begin m.uses) x (padBytes x) .write base (laneIssues g (g.ctx.begin m.uses)) l ∧
      g.inRegion = false ∧ s.holdsBack s.cur g (l.map fun q => q.1) = false ∧ (∀ q ∈ l, deniedPa q.1.pa = false) ∧ L1Ok (s.core g.core) ∧
      ∀ q ∈ l, q.1.cacheable = true :=
  ⟨demoOf privGroup, privGroup, { padMem with d := 0, w := false, b := 6 }, _, privPieces, ready_of rfl (by decide +kernel) (by decide), by decide,
    lanes_priv ▸ privateReach_demo rfl _ (.inr rfl) _ (by decide), by decide, by decide +kernel, by decide +kernel,
    ⟨by decide +kernel, by decide +kernel⟩, by decide⟩

/-! ## PREF, FENCE, RDLANE, BCAST -/

theorem witness_Pref : ∃ (s : State) (g : Group) (x : Mem) (a pa : Nat),
    let m : MemOp := { addr := ⟨x.a, x.m == 1⟩, data := none, dest := 0 }
    let c := g.ctx.begin m.uses
    Ready (.pref x) m.uses s g ∧ g.ctx.latchesOk m.srcs = true ∧ c.lanes = [a] ∧ s.xlate g.core g.job (addrOf x 1 c a) .read false = .ok pa true ∧
      deniedPa pa = false ∧ Machine.target s.gddrTop pa ≠ .reg ∧ x.b.getLsbD 0 = false ∧ (∀ ln ∈ (s.core g.core).l1, ln.line ≠ pa / 128) ∧
      s.lockedFor s.cur pa = false ∧ s.ownObject s.cur pa = false :=
  ⟨demoOf edgeGroup, edgeGroup, { edgeMem with d := 0, w := false }, 0, 0x1FFFF0, ready_of rfl (by decide) (by decide), by decide, by decide +kernel,
    by decide +kernel, by decide +kernel, by decide +kernel, by decide, by decide +kernel, by decide +kernel, by decide +kernel⟩

theorem witness_Fence : ∃ s g x o, Ready (.fence x o) { rel := true } s g ∧ g.acquiring = false ∧ o.mask ≠ 0 :=
  ⟨demo, demoGroup, ⟨none, 0, false, 0, 0, 0, 0, none⟩, ⟨0, 0, false, 0, 0, 4, 31⟩, ready_of rfl (by decide) (by decide), by decide, by decide⟩

theorem witness_Rdlane : ∃ s g, ∃ x : Uni, ∃ k,
    let src : Src := ⟨x.a, x.mod.getLsbD 0⟩
    Ready (.rdlane x) { ents := src.ents, sregs := sregBits [x.b.toNat, x.d.toNat], latches := srcLatches [src] } s g ∧
      g.ctx.latchesOk [src] = true ∧ g.freeSlot = some k :=
  ⟨demo, demoGroup, ⟨none, 63, 14, 62, 1⟩, 0, ready_of rfl (by decide) (by decide), by decide, by decide⟩

theorem witness_Bcast : ∃ s g, ∃ x : Uni,
    Ready (.bcast x) { ents := entRange x.d.toNat (if x.mod.getLsbD 0 then 2 else 1), sregs := sregBits [x.a.toNat] } s g ∧
      g.ctx.mappedAll (entRange x.d.toNat (if x.mod.getLsbD 0 then 2 else 1)) = true :=
  ⟨demo, demoGroup, ⟨none, 14, 63, 0, 1⟩, ready_of rfl (by decide) (by decide), by decide⟩

/-! ## Atomics at their units -/

/-- A 32-bit atomic of group 0 at 0x1000, whose home is column 4. -/
def demoAtom : AtomReq :=
  { grp := some 0, slot := 0, lane := 0, job := 0, core := 0, rslot := 0, logged := false, va := 0x1000, pa := 0x1000, edge := none, op := 9, bytes := 4,
    op1 := 7, cmp := 0, reassoc := false, stamp := 0 }
def atomAt (l : List AtomReq) : State := { demo with atomics := l }

theorem homeReady_demo (l : List AtomReq) (r : AtomReq) (he : r.edge = none) (hp : r.pa = 0x1000) (hl : r.logged = false) : HomeReady (atomAt l) 4 r where
  home := by
    rw [hp]
    exact ⟨he, show demo.homeCol 0x1000 = 4 by decide +kernel, show (demo.column 4).on = true by decide +kernel,
      show demo.isStalled 0x1000 = false by decide +kernel⟩
  unlocked := by rw [hp]; exact show demo.locked 0x1000 = false by decide +kernel
  gate := fun h => by rw [hl] at h; exact absurd h Bool.false_ne_true

theorem performs_demo (l : List AtomReq) (r : AtomReq) (hp : r.pa = 0x1000) (hj : r.job = 0) (hb : r.bytes = 4) : Performs (atomAt l) r := by
  unfold Performs
  rw [hp, hj, hb]
  exact ⟨show demo.peerOf 0x1000 = none by decide +kernel, show deniedPa 0x1000 = false by decide +kernel,
    show demo.poisoned 0x1000 4 = false by decide +kernel, show demo.recordLog 0 = none by decide +kernel, fun _ _ => rfl⟩

def demoPair : AtomReq := { demoAtom with grp := none }

/-- The heads that can go now of a list of atomics. -/
theorem nextAtom_of (s : State) (col : Nat) (l : List AtomReq)
    (h : (sourceHeads AtomReq.sameSource [] (s.atomics.filter (·.edge.isNone))).filter (s.atomReady col) = l) :
    s.nextAtom col = pickOne (Config.fresh s.free) l := by
  unfold State.nextAtom
  rw [h]

theorem pickOne_pair {α : Type} (k : Nat) (a b : α) : pickOne k [a, b] = some a ∨ pickOne k [a, b] = some b := by
  rcases Nat.mod_two_eq_zero_or_one k with h | h
  · exact .inl (by simp [pickOne, h])
  · exact .inr (by simp [pickOne, h])

theorem witness_BurlAtomic : ∃ s col r, s.nextAtom col = some r ∧ s.burlRun col r = [r] ∧ HomeReady s col r ∧ Performs s r ∧ ¬ (r.op = 11 ∧ r.reassoc = true) := by
  refine ⟨atomAt [demoAtom], 4, demoAtom, nextAtom_of _ _ [demoAtom] (by decide +kernel), ?_, homeReady_demo _ _ rfl rfl rfl, performs_demo _ _ rfl rfl rfl, by decide⟩
  unfold State.burlRun
  rw [show (atomAt [demoAtom]).gated 4 demoAtom = false by decide +kernel, show (atomAt [demoAtom]).wordQueue 4 demoAtom = [demoAtom] by decide +kernel]
  simp [Nat.mod_one]

theorem burlRun_demo (r q : AtomReq) (hr : r = demoAtom ∧ q = demoPair ∨ r = demoPair ∧ q = demoAtom) :
    let s := atomAt [demoAtom, demoPair]
    (s.atomics = [r, q] ∨ s.atomics = [q, r]) ∧ s.wordQueue 4 r = s.atomics ∧ HomeReady s 4 r ∧ HomeReady s 4 q ∧ Performs s r ∧ Performs s q ∧
      s.gates = [] ∧ r ≠ q ∧ q.job = r.job ∧ q.pa = r.pa ∧ q.bytes = r.bytes ∧ q.op = r.op ∧ r.op ≤ 9 ∧ r.bytes = 4 ∧ q.grp ≠ r.grp := by
  rcases hr with ⟨rfl, rfl⟩ | ⟨rfl, rfl⟩
  · exact ⟨.inl rfl, by decide +kernel, homeReady_demo _ _ rfl rfl rfl, homeReady_demo _ _ rfl rfl rfl, performs_demo _ _ rfl rfl rfl,
      performs_demo _ _ rfl rfl rfl, rfl, by decide, rfl, rfl, rfl, rfl, by decide, rfl, by decide⟩
  · exact ⟨.inr rfl, by decide +kernel, homeReady_demo _ _ rfl rfl rfl, homeReady_demo _ _ rfl rfl rfl, performs_demo _ _ rfl rfl rfl,
      performs_demo _ _ rfl rfl rfl, rfl, by decide, rfl, rfl, rfl, rfl, by decide, rfl, by decide⟩

theorem witness_BurlRun : ∃ s col r q, s.nextAtom col = some r ∧ (s.atomics = [r, q] ∨ s.atomics = [q, r]) ∧ s.wordQueue col r = s.atomics ∧ HomeReady s col r ∧
    HomeReady s col q ∧ Performs s r ∧ Performs s q ∧ s.gates = [] ∧ r ≠ q ∧ q.job = r.job ∧ q.pa = r.pa ∧ q.bytes = r.bytes ∧ q.op = r.op ∧ r.op ≤ 9 ∧ r.bytes = 4 ∧
    q.grp ≠ r.grp := by
  have h := nextAtom_of (atomAt [demoAtom, demoPair]) 4 [demoAtom, demoPair] (by decide +kernel)
  rcases pickOne_pair (Config.fresh (atomAt [demoAtom, demoPair]).free) demoAtom demoPair with hp | hp
  · exact ⟨_, 4, demoAtom, demoPair, h.trans hp, burlRun_demo _ _ (.inl ⟨rfl, rfl⟩)⟩
  · exact ⟨_, 4, demoPair, demoAtom, h.trans hp, burlRun_demo _ _ (.inr ⟨rfl, rfl⟩)⟩

theorem witness_EdgeAtomic : ∃ s e r, s.nextEdge e = some r ∧ Performs s r := by
  refine ⟨atomAt [{ demoAtom with edge := some .gddr }], .gddr, { demoAtom with edge := some .gddr }, ?_, performs_demo _ _ rfl rfl rfl⟩
  unfold State.nextEdge
  decide +kernel

/-! ## Homes -/

/-- A request for the object at 0x1000, and the object with its 16 methods at 0x1000. -/
def demoReq : MethodReq :=
  { job := 0, base := 0x1000, method := 15, bytes := 8, arg := 5, ident := 0, post := false, pair := true, src := .lane 0 0 0, pa := 0x1000, order := 0,
    stamp := 0, core := 0, rslot := 0, logged := false }
def demoObj : ObjState :=
  { col := 4, job := 0, base := 0x1000, pa := 0x1000, z := 12, desc := 0, mask := 0, reply64 := false, methods := List.replicate 16 0x1000,
    pending := [demoReq], running := none }
/-- The object table at 0 and a method table at 0x2000 whose last entry is 0x1000. -/
def homeMem : SMap 8 :=
  SMap.setList (SMap.setList (SMap.setList (fetchMemory [] 32 0x2B5) 0 (leBytes 16 (0x1000 + 2 ^ 64 * (12 + 256 * 128)))) 16 (leBytes 8 0x2000)) 0x2078
    (leBytes 8 0x1000)
def homeAt (l : List MethodReq) (os : List ObjState) : State := { demo with methods := l, objects := os, mem := homeMem }

theorem firstFor_home : FirstFor (homeAt [demoReq] []) 4 demoReq := by
  unfold FirstFor
  decide +kernel

theorem dev_of {α : Type} {x : Dev (Except Cause α)} (h : (match x with | .ok (.ok _) => true | _ => false) = true) : ∃ a, x = .ok (.ok a) := by
  cases x with
  | ok y =>
    cases y with
    | ok a => exact ⟨a, rfl⟩
    | error _ => exact absurd h Bool.false_ne_true
  | fail _ _ => exact absurd h Bool.false_ne_true
  | wait => exact absurd h Bool.false_ne_true

theorem devError_of {α : Type} {x : Dev (Except Cause α)} {c : Cause} (h : (match x with | .ok (.error e) => e == c | _ => false) = true) :
    x = .ok (.error c) := by
  cases x with
  | ok y =>
    cases y with
    | ok a => exact absurd h Bool.false_ne_true
    | error e => rw [show e = c from eq_of_beq h]
  | fail _ _ => exact absurd h Bool.false_ne_true
  | wait => exact absurd h Bool.false_ne_true

theorem witness_HomeTakes : ∃ s col r o, FirstFor s col r ∧ deniedPa r.pa = false ∧ s.recordLog r.job = none ∧
    s.admitMethod r col (s.objectFor r) = .ok (.ok o) ∧ (s.objects.find? fun o => o.job == r.job && o.base == r.base) = none := by
  obtain ⟨o, ho⟩ := dev_of (x := (homeAt [demoReq] []).admitMethod demoReq 4 ((homeAt [demoReq] []).objectFor demoReq)) (by decide +kernel)
  exact ⟨homeAt [demoReq] [], 4, demoReq, o, firstFor_home, by decide +kernel, by decide +kernel, ho, rfl⟩

theorem witness_HomeRefuses : ∃ s col r c gi k lane, FirstFor s col r ∧ deniedPa r.pa = false ∧
    s.admitMethod r col (s.objectFor r) = .ok (.error c) ∧ r.src = .lane gi k lane :=
  ⟨homeAt [{ demoReq with method := 14 }] [], 4, { demoReq with method := 14 }, .illegalOperand, 0, 0, 0, by unfold FirstFor; decide +kernel,
    by decide +kernel, devError_of (by decide +kernel), rfl⟩

theorem witness_CombinerLaunch : ∃ (s : State) (col : Nat) (o : ObjState) (r : MethodReq) (q : Nat), s.nextObject col = some o ∧ s.homeSlot col = some q ∧ o.pending.head? = some r ∧
    (∀ r ∈ o.pending, s.recordLog r.job = none) ∧ (s.column col).on = true ∧ s.powered col = true :=
  ⟨homeAt [] [demoObj], 4, demoObj, demoReq, 0, by decide +kernel, by decide +kernel, rfl, by decide +kernel, by decide +kernel, by decide +kernel⟩

/-- A combiner at its limit whose batch holds a waiting lane of another group. -/
def limitGroup : Group := { demoGroup with kind := .combiner, icount := 16777216 }

theorem witness_CombinerLimit : ∃ (s : State) (gi : Nat) (g : Group) (o : ObjState) (batch : List MethodReq), s.groups[gi]? = some g ∧ g.kind = .combiner ∧ g.living = true ∧ 16777216 ≤ g.icount ∧
    s.objectOf gi = some (o, batch) ∧ s.homeXlate o.job (o.desc + 9) .read ≠ .wait ∧ s.homeXlate o.job (o.desc + 9) .write ≠ .wait ∧ ∃ r ∈ batch, ∃ hi k lane, r.src = .lane hi k lane ∧ hi ≠ gi ∧ k ≤ 32 :=
  ⟨{ demoOf limitGroup with objects := [{ demoObj with pending := [], running := some (0, [{ demoReq with src := .lane 1 32 255 }]) }] }, 0, limitGroup, _, _,
    rfl, rfl, by decide, by decide, rfl, dev_moves (by decide +kernel), dev_moves (by decide +kernel), _, List.mem_singleton_self _, 1, 32, 255, rfl, by decide, by decide⟩

end Sys2Proof.Tests
end

