-- ==== Sys2Proof/Tests/WitnessTeams.lean ====
section
/-! SUPPORT. States and operands that meet the hypotheses of the statements about teams, waiting groups and pre-emption. -/

namespace Sys2Proof.Tests

set_option Elab.async false

open Machine Spec

/-! ## Dispatch -/

/-- A launch of three teams, of which two have been admitted, in the last slot. -/
def headSlot : Slot := { demoSlot with launches := [0] }
def headLaunch : Launch := { fetchLaunch 0 with dx := 3, admitted := 2 }
/-- Core 0 has the given length of main registers, in units of 64. -/
def dispatchAt (main : Nat) : State := { (queueAt headSlot demoQueue).modCore 0 (fun c => { c with mainLen := main }) with launches := [headLaunch] }

theorem serves_dispatch (main : Nat) (h1 : (dispatchAt main).slotOrder.find? (fun k => (dispatchAt main).headLaunch ((dispatchAt main).slot k) == some 0) = some 63)
    (h2 : (dispatchAt main).slotOrder.takeWhile (· != 63) = []) : Serves (dispatchAt main) 63 0 :=
  ⟨h1, fun k hk => (List.not_mem_nil (h2 ▸ hk)).elim, show ∀ t ∈ [fetchTeam 0 0], ¬ (t.live = true ∧ t.saved = true ∧ t.launch = 0) by decide⟩

theorem witness_TeamAdmit : ∃ (s : State) (li : Nat) (l : Launch) (sl : Nat) (t : State), s.launches[li]? = some l ∧ Serves s sl li ∧ s.slotAdmits sl = some (li, t) ∧
    l.coResident = false ∧ l.kernel.twin = false := by
  obtain ⟨⟨li, t⟩, h, hl⟩ := some_of_any (o := (dispatchAt 32).slotAdmits 63) (p := fun r => r.1 == 0) (by decide +kernel)
  obtain rfl : li = 0 := eq_of_beq hl
  exact ⟨dispatchAt 32, 0, headLaunch, 63, t, rfl, serves_dispatch 32 (by decide +kernel) (by decide +kernel), h, rfl, rfl⟩

theorem witness_TeamPassed : ∃ (s : State) (li : Nat) (l : Launch) (sl : Nat), s.launches[li]? = some l ∧ Serves s sl li ∧ s.slotAdmits sl = none :=
  ⟨dispatchAt 0, 0, headLaunch, 63, rfl, serves_dispatch 0 (by decide +kernel) (by decide +kernel),
    Option.isNone_iff_eq_none.mp (by decide +kernel)⟩

/-- The team's one group has ended; the core is of the secure world and has a spawn pool of the launch. -/
def overGroup : Group := { demoGroup with status := .exited, hasSlot := false }
def overTeam : Team := { fetchTeam 0 0 with scrBase := 120, scrLen := 1 }
def overAt : State := { (demoOf overGroup).modCore 0 (fun c => { c with secure := true, pool := some (0, 4) }) with teams := [overTeam] }
theorem witness_TeamEnd : ∃ (s : State) (ti : Nat) (t : Team) (l : Launch), TeamOver s ti t ∧ s.launches[t.launch]? = some l ∧ (s.core t.core).secure = true ∧
    (∀ k y, k ≠ ti → s.teams[k]? = some y → ¬ (y.live = true ∧ y.saved = false ∧ y.core = t.core ∧ y.launch = t.launch)) ∧
    (s.core t.core).pool = some (t.launch, 4) :=
  ⟨overAt, 0, overTeam, fetchLaunch 0,
    ⟨rfl, by decide, rfl, fun p hp => absurd hp (List.not_mem_nil), by decide, fun q hq => by
      have : q = 0 ∨ q = 1 := by omega
      rcases this with rfl | rfl <;> exact fun e he => absurd he (List.not_mem_nil), by decide +kernel, by decide +kernel⟩,
    rfl, rfl, fun k y hk h => by
      cases k with
      | zero => exact absurd rfl hk
      | succ n => exact absurd h (by simp [overAt]), rfl⟩

theorem witness_TeamStays : ∃ (s : State) (ti : Nat) (t : Team), s.teams[ti]? = some t ∧ ∃ g ∈ s.groups, g.team = ti ∧ g.status ≠ .exited ∧ g.status ≠ .gone :=
  ⟨demo, 0, fetchTeam 0 0, rfl, demoGroup, List.mem_singleton.mpr rfl, rfl, by decide, by decide⟩

/-- The launch's one team has ended. -/
def ranLaunch (record : DWord) : Launch := { fetchLaunch 0 with record := record, left := 0, doneTeams := 1 }
def ranAt (record : DWord) : State :=
  { demoOf { overGroup with status := .gone } with launches := [ranLaunch record], teams := [{ fetchTeam 0 0 with live := false }] }
theorem witness_LaunchComplete : ∃ s li l, LaunchOver s li l ∧ l.record = 0 :=
  ⟨ranAt 0, 0, ranLaunch 0, ⟨rfl, by decide, rfl, by decide +kernel⟩, rfl⟩
theorem witness_LaunchRecord : ∃ s li l v, LaunchOver s li l ∧ l.record ≠ 0 ∧
    s.devWrite l.job l.record (leBytes 16 (doneCode l + 2 ^ 32 * (l.doneTeams % 2 ^ 32) + 2 ^ 64 * s.sys.feStamp.toNat)) = .ok v := by
  obtain ⟨v, hv, -⟩ := dev_test (x := (ranAt 0x3000).devWrite 0 0x3000 (leBytes 16 (1 + 2 ^ 32 * 1 + 2 ^ 64 * (ranAt 0x3000).sys.feStamp.toNat)))
    (p := fun _ => true) (by decide +kernel)
  exact ⟨ranAt 0x3000, 0, ranLaunch 0x3000, v, ⟨rfl, by decide, rfl, by decide +kernel⟩, by decide, hv⟩

/-! ## Cancelling -/

/-- A launch, a graph and a phase whose cancel word is the one at 0x2008, which holds the value. -/
def wordMem (value : Nat) : SMap 8 := SMap.setList (fetchMemory [] 32 0x2B5) 0x2008 (leBytes 8 value)
def stopGraph : Graph :=
  { live := true, job := 0, slot := 63, mask := 1, prio := 0, record := 0, cancel := 0x2008, phase := some 0, queue := none, nodes := [], ready := [0], cancelled := false, status := none }
def stopPhase : Phase := ⟨0, 0, 0, 0x2008, false, none⟩
def stopAt (value : Nat) : State :=
  { demo with mem := wordMem value, launches := [{ fetchLaunch 0 with cancel := 0x2008 }], graphs := [stopGraph], phases := [stopPhase] }

def MeetsCancel (u : UnitRef) (value : Nat) (seen : Bool) : Prop :=
  ∃ (s : State) (job : Nat) (va : DWord), s.cancelWordOf u = some (job, va) ∧ s.devRead job va 8 = .ok value ∧ s.noticed.contains (.cancel u) = seen
theorem word_stop (value : Nat) (h : devTest (· == value) ((stopAt value).devRead 0 0x2008 8) = true) : (stopAt value).devRead 0 0x2008 8 = .ok value := by
  obtain ⟨v, hv, h0⟩ := dev_test h
  rw [eq_of_beq h0] at hv
  exact hv
theorem witness_CancelNot : MeetsCancel (.launch 0) 0 false := ⟨stopAt 0, 0, 0x2008, rfl, word_stop 0 (by decide +kernel), rfl⟩
/-- A write that is gone again was noticed. -/
def noticedAt : State := { stopAt 0 with noticed := [.cancel (.launch 0)] }
theorem witness_CancelNoticed : MeetsCancel (.launch 0) 0 true := by
  obtain ⟨v, hv, h0⟩ := dev_test (x := noticedAt.devRead 0 0x2008 8) (p := (· == 0)) (by decide +kernel)
  rw [eq_of_beq h0] at hv
  exact ⟨noticedAt, 0, 0x2008, rfl, hv, by decide +kernel⟩
theorem witness_CancelLaunch : MeetsCancel (.launch 0) (2 ^ 63) false := ⟨stopAt (2 ^ 63), 0, 0x2008, rfl, word_stop _ (by decide +kernel), rfl⟩
theorem witness_CancelGraph : MeetsCancel (.graph 0) 1 false := ⟨stopAt 1, 0, 0x2008, rfl, word_stop 1 (by decide +kernel), rfl⟩
theorem witness_CancelPhase : MeetsCancel (.phase 0) 1 false := ⟨stopAt 1, 0, 0x2008, rfl, word_stop 1 (by decide +kernel), rfl⟩

def waitingGroup : Group := { demoGroup with status := .slotWait, hasSlot := false }
theorem witness_LaunchStops : ∃ (s : State) (li : Nat) (l : Launch) (gi : Nat) (g : Group), s.launches[li]? = some l ∧ l.complete = false ∧ l.cancelled = false ∧
    l.left ≠ 0 ∧ s.groups[gi]? = some g ∧ g.launch = li ∧ ¬ (g.status = .running ∧ g.hasSlot = true) ∧ g.status ≠ .gone :=
  ⟨demoOf waitingGroup, 0, fetchLaunch 0, 0, waitingGroup, rfl, rfl, rfl, by decide, rfl, rfl, by decide, by decide⟩
theorem witness_LaunchOver : ∃ (s : State) (li : Nat) (l : Launch), s.launches[li]? = some l ∧ l.left = 0 := ⟨ranAt 0x3000, 0, ranLaunch 0x3000, rfl, rfl⟩
theorem witness_GraphStops : ∃ (s : State) (gi : Nat) (g : Graph), s.graphs[gi]? = some g ∧ g.status = none ∧ g.cancelled = false ∧ g.ended = false :=
  ⟨stopAt 1, 0, stopGraph, rfl, rfl, rfl, rfl⟩
theorem witness_PhaseStops : ∃ (s : State) (pi : Nat) (p : Phase), s.phases[pi]? = some p ∧ p.status = none ∧ p.cancelled = false ∧ s.phaseOver pi p = false :=
  ⟨stopAt 1, 0, stopPhase, rfl, rfl, rfl, by decide +kernel⟩

def doomedAt (g : Group) : State := { demoOf g with launches := [{ fetchLaunch 0 with cancelled := true }] }
theorem witness_GroupKill : ∃ (s : State) (gi : Nat) (g : Group), s.groups[gi]? = some g ∧ s.doomed g = true ∧ g.status ≠ .exited ∧ g.status ≠ .gone :=
  ⟨doomedAt demoGroup, 0, demoGroup, rfl, rfl, by decide, by decide⟩
theorem witness_GroupLives : ∃ (s : State) (gi : Nat) (g : Group), s.groups[gi]? = some g ∧ s.doomed g = false := ⟨demo, 0, demoGroup, rfl, rfl⟩

theorem witness_StorageDrain : ∃ (s : State) (gi : Nat) (g : Group), s.groups[gi]? = some g ∧ g.status = .exited ∧ g.gfx = none ∧ Drained s gi :=
  ⟨demoOf overGroup, 0, overGroup, rfl, rfl, rfl, ⟨by decide, by decide, fun w hw => by
      have : w ∈ List.replicate 32 (⟨[], [], []⟩ : Whorl) := hw
      rw [List.eq_of_mem_replicate this]; exact ⟨rfl, rfl, rfl⟩,
    fun c hc => by
      have : c ∈ List.replicate 64 Core.reset := hc
      rw [List.eq_of_mem_replicate this]; decide⟩⟩
theorem witness_StorageStays : ∃ (s : State) (gi : Nat) (g : Group), s.groups[gi]? = some g ∧ g.status ≠ .exited := ⟨demo, 0, demoGroup, rfl, by decide⟩

end Sys2Proof.Tests
end

