-- ==== Sys2Proof/Tests/WitnessWaits.lean ====
section
/-! SUPPORT. States and operands that meet the hypotheses of the statement about waits that end. -/

namespace Sys2Proof.Tests

set_option Elab.async false

open Machine Spec

/-! ## Operand-buffer slots -/

def isBar (g : Group) : Bool := match g.status with | .barWait _ _ => true | _ => false

/-- A group waits for a slot, another holds one at a BAR, and so many more hold one and run. -/
def barGroup : Group := { demoGroup with status := .barWait 15 0x100008 }
def crowd (n : Nat) : List Group := waitingGroup :: barGroup :: List.replicate n demoGroup
def crowdAt (n : Nat) : State := { demo with groups := crowd n }

theorem firstInLine_crowd (n : Nat) (h : ∀ g ∈ (crowd n).tail, g.status ≠ .slotWait) : FirstInLine (crowdAt n) 0 waitingGroup where
  is_ := rfl
  waits := show waitingGroup.status = .slotWait ∧ waitingGroup.hasSlot = false ∧ waitingGroup.kind ≠ .combiner ∧ waitingGroup.gfx = none by decide
  runs := fun t ht hp => by
    have ht : some (fetchTeam 0 0) = some t := ht
    obtain rfl := Option.some.inj ht
    exact absurd hp (by decide)
  noPass := fun p hp => absurd hp (List.not_mem_nil)
  longest := fun k g hg hk _ _ hw => by
    cases k with
    | zero => exact absurd rfl hk
    | succ k => exact absurd hw (h g (List.mem_of_getElem? (show (crowd n).tail[k]? = some g from hg)))

theorem witness_SlotGrant : ∃ s gi g, FirstInLine s gi g ∧ slotsHeld s g.core g.part < 15 :=
  ⟨crowdAt 13, 0, waitingGroup, firstInLine_crowd 13 (by decide), by decide +kernel⟩

theorem witness_SlotGiven : ∃ (s : State) (gi : Nat) (g : Group) (k : Nat) (h : Group) (nb : Nat) (next : DWord), FirstInLine s gi g ∧ 15 ≤ slotsHeld s g.core g.part ∧ s.groups[k]? = some h ∧ h.core = g.core ∧
    h.part = g.part ∧ h.kind ≠ .combiner ∧ h.hasSlot = true ∧ h.status = .barWait nb next ∧
    ∀ (m : Nat) (o : Group), s.groups[m]? = some o → m ≠ k → o.core = g.core → o.part = g.part → o.hasSlot = true → (∃ b p, o.status = .barWait b p) →
      h.since < o.since ∨ (h.since = o.since ∧ k < m) :=
  ⟨crowdAt 14, 0, waitingGroup, 1, barGroup, 15, 0x100008, firstInLine_crowd 14 (by decide), by decide +kernel, rfl, rfl, rfl, by decide, rfl, rfl,
    fun m o ho hm _ _ _ hb => by
      have hn : isBar o = false := by
        rcases m with _ | _ | m
        · obtain rfl : waitingGroup = o := Option.some.inj ho
          rfl
        · exact absurd rfl hm
        · have ho : o ∈ List.replicate 14 demoGroup := List.mem_of_getElem? (show (List.replicate 14 demoGroup)[m]? = some o from ho)
          rw [List.eq_of_mem_replicate ho]
          rfl
      obtain ⟨b, p, hb⟩ := hb
      rw [isBar, hb] at hn
      exact absurd hn.symm Bool.false_ne_true⟩

/-! ## Barriers -/

/-- The team's barrier 15 is in the given phase, and the group has seen phase 0. -/
def phaseTeam (phase : BitVec 16) : Team := { fetchTeam 0 0 with bars := (Vector.replicate 16 ⟨1, 0, 0, 0⟩).set 15 ⟨1, 0, phase, 0⟩ }
def phaseAt (st : Status) (phase : BitVec 16) : State := { demoOf { demoGroup with status := st } with teams := [phaseTeam phase] }

def MeetsBar (phase : BitVec 16) : Prop :=
  ∃ (s : State) (gi : Nat) (g : Group) (nb : Nat) (next : DWord) (b : Barrier), s.groups[gi]? = some g ∧ g.status = .barWait nb next ∧ s.preempting g = false ∧ BarrierIs s g nb b ∧
    b.phase = phase ∧ g.seen[Fin.ofNat 16 nb] = 0
theorem barrier_phase (st : Status) (phase : BitVec 16) : BarrierIs (phaseAt st phase) { demoGroup with status := st } 15 ⟨1, 0, phase, 0⟩ :=
  ⟨fun h => absurd (show demoGroup.kind = .grid ∨ demoGroup.kind = .sample from h) (by decide), fun _ => ⟨_, rfl, rfl⟩⟩
theorem witness_BarOver : MeetsBar 1 := ⟨phaseAt (.barWait 15 0x100008) 1, 0, _, 15, 0x100008, _, rfl, rfl, rfl, barrier_phase _ _, rfl, rfl⟩
theorem witness_BarStays : MeetsBar 0 := ⟨phaseAt (.barWait 15 0x100008) 0, 0, _, 15, 0x100008, _, rfl, rfl, rfl, barrier_phase _ _, rfl, rfl⟩

def MeetsYield (phase : BitVec 16) : Prop :=
  ∃ (s : State) (gi : Nat) (g : Group) (nb : Nat) (target : DWord) (b : Barrier), s.groups[gi]? = some g ∧ g.status = .yielded nb target ∧ s.preempting g = false ∧ BarrierIs s g nb b ∧
    b.phase = phase ∧ g.seen[Fin.ofNat 16 nb] = 0
theorem witness_YieldOver : MeetsYield 1 := ⟨phaseAt (.yielded 15 0x100000) 1, 0, _, 15, 0x100000, _, rfl, rfl, rfl, barrier_phase _ _, rfl, rfl⟩
theorem witness_YieldWaits : MeetsYield 0 := ⟨phaseAt (.yielded 15 0x100000) 0, 0, _, 15, 0x100000, _, rfl, rfl, rfl, barrier_phase _ _, rfl, rfl⟩

def movingTeam : Team := { fetchTeam 0 0 with carve := some (15, 2, 118) }
theorem witness_CarveArrival : ∃ (s : State) (ti : Nat) (t : Team) (nb n base : Nat), s.teams[ti]? = some t ∧ t.live = true ∧ t.saved = false ∧ t.carve = some (nb, n, base) :=
  ⟨{ demo with teams := [movingTeam] }, 0, movingTeam, 15, 2, 118, rfl, rfl, rfl, rfl⟩
theorem witness_NoCarve : ∃ (s : State) (ti : Nat) (t : Team), s.teams[ti]? = some t ∧ t.carve = none := ⟨demo, 0, _, rfl, rfl⟩

/-! ## Requests -/

/-- A request for thread 255, into entries 14 and 15, with what has returned. -/
def lastPend (vals : List (Nat × List Word)) (causes : List (Nat × Cause × DWord)) : Pend :=
  { pc := 0x100000, i := .exit none, iword := 0, oword := 0, dest := .entries 14 2, lanes := 2 ^ 255, vals := vals, causes := causes, addrs := [], data := [],
    write := false, acq := some 7 }
theorem lane_last (t : Nat) (h : t < 256) (hl : (lastPend [] []).lanes.getLsbD t = true) : t = 255 := by
  have hd : ∀ n : Fin 256, ((2 : LaneMask) ^ 255).getLsbD n = true → n = 255 := by decide +kernel
  exact congrArg Fin.val (hd ⟨t, h⟩ hl)
def donePend : Pend := lastPend [(255, [1, 2])] []
theorem returned_done : Returned donePend := ⟨rfl, fun t h hl => ⟨_, List.mem_singleton.mpr rfl, (lane_last t h hl).symm⟩⟩

def boardGroup (p : Pend) : Group := { demoGroup with board := demoGroup.board.set 31 (some p) }
def blockGroup (p : Pend) : Group := { demoGroup with status := .blocked none, block := some p }

theorem witness_BoardResult : ∃ (s : State) (gi k : Nat) (g : Group) (p : Pend), s.groups[gi]? = some g ∧ g.status ≠ .exited ∧ g.status ≠ .gone ∧ k < 32 ∧ g.board[Fin.ofNat 32 k] = some p ∧ Returned p :=
  ⟨demoOf (boardGroup donePend), 0, 31, boardGroup donePend, donePend, rfl, by decide, by decide, by decide, rfl, returned_done⟩
theorem witness_BoardWaits : ∃ (s : State) (gi k : Nat) (g : Group) (p : Pend) (n : Nat), s.groups[gi]? = some g ∧ k < 32 ∧ g.board[Fin.ofNat 32 k] = some p ∧ n < 256 ∧ p.lanes.getLsbD n = true ∧
    (∀ v ∈ p.vals, v.1 ≠ n) ∧ ∀ c ∈ p.causes, c.1 ≠ n :=
  ⟨demoOf (boardGroup (lastPend [] [])), 0, 31, _, lastPend [] [], 255, rfl, by decide, rfl, by decide, by decide +kernel, fun _ h => absurd h (List.not_mem_nil),
    fun _ h => absurd h (List.not_mem_nil)⟩
theorem settled_cause : (lastPend [] [(255, .xlate, 0x123)]).settled = true := by decide +kernel
theorem witness_BoardCause : ∃ (s : State) (gi k : Nat) (g : Group) (p : Pend), s.groups[gi]? = some g ∧ g.status ≠ .exited ∧ g.status ≠ .gone ∧ k < 32 ∧ g.board[Fin.ofNat 32 k] = some p ∧
    p.settled = true ∧ p.causes ≠ [] ∧ p.acq = some 7 :=
  ⟨demoOf (boardGroup (lastPend [] [(255, .xlate, 0x123)])), 0, 31, boardGroup (lastPend [] [(255, .xlate, 0x123)]), _, rfl, by decide, by decide, by decide, rfl,
    settled_cause, by decide, rfl⟩
theorem lastPend_writes {vals causes} : ¬ FirstLanes (lastPend vals causes) := fun h => nomatch h.1
theorem witness_BlockResult : ∃ (s : State) (gi : Nat) (g : Group) (p : Pend) (sp : Option Word), s.groups[gi]? = some g ∧ g.status = .blocked sp ∧ g.block = some p ∧ Returned p ∧ s.preempting g = false ∧
    ¬ FirstLanes p :=
  ⟨demoOf (blockGroup donePend), 0, _, donePend, none, rfl, rfl, rfl, returned_done, rfl, lastPend_writes⟩

def badPend : Pend := lastPend [] [(255, .xlate, 0x123)]
theorem witness_BlockTrap : ∃ (s : State) (gi : Nat) (g : Group) (p : Pend) (sp : Option Word) (tr : TrapInfo), s.groups[gi]? = some g ∧ g.status = .blocked sp ∧ g.block = some p ∧ p.settled = true ∧
    deferredTrap p = some tr ∧ ¬ FirstLanes p ∧ CanTrap s g := by
  obtain ⟨tr, h, -⟩ := some_of_any (o := deferredTrap badPend) (p := fun _ => true) (by decide +kernel)
  exact ⟨demoOf (blockGroup badPend), 0, _, badPend, none, tr, rfl, rfl, rfl, by decide +kernel, h, lastPend_writes,
    ⟨by decide, rfl, rfl, ⟨demoJob, rfl, by decide⟩, show ∀ k < 32, demoGroup.board[Fin.ofNat 32 k] = none by decide⟩⟩

/-- Thread 255 of an atomic has its reply before the trap of another thread's address. -/
def firstPend : Pend := { lastPend [(255, [7])] [] with i := .atom ⟨none, 5, true, 2, 6, 0, 0, none⟩ ⟨0, 0, false, 0, 0, 0, 1⟩, dest := .none, write := true, acq := none }
theorem witness_FirstLanes : ∃ (s : State) (gi : Nat) (g : Group) (p : Pend) (sp : Option Word), s.groups[gi]? = some g ∧ g.status = .blocked sp ∧ g.block = some p ∧
    FirstLanes p ∧ p.settled = true ∧ s.preempting g = false :=
  ⟨demoOf (blockGroup firstPend), 0, _, firstPend, none, rfl, rfl, rfl, ⟨rfl, .inl ⟨_, _, rfl⟩⟩, by decide +kernel, rfl⟩

/-! ## A trap waits for the scoreboard -/

def pendingTrap : TrapInfo :=
  { cause := .divStack, code := 0, pc := 0x100000, addr := none, lanes := 0, write := false, fetch := false, deferred := false, done := 0, replies := [],
    iword := 0, oword := 0, reqAddr := [], reqData := [] }
def trapSave : TrapSave := ⟨.divStack, false, 0x100000, 0x100000, 0x100004, [], none⟩
def trapGroup : Group := { demoGroup with status := .trapPending pendingTrap, trapSave := some trapSave }
theorem witness_TrapEntry : ∃ (s : State) (gi : Nat) (g : Group) (t : TrapInfo) (v : TrapSave), s.groups[gi]? = some g ∧ g.status = .trapPending t ∧ g.trapSave = some v ∧ CanTrap s g ∧ v.run = [] ∧
    t.deferred = false ∧ t.cause ≠ .softTrap ∧ t.cause ≠ .breakpoint :=
  ⟨demoOf trapGroup, 0, trapGroup, pendingTrap, trapSave, rfl, rfl, rfl,
    ⟨by decide, rfl, rfl, ⟨demoJob, rfl, by decide⟩, show ∀ k < 32, demoGroup.board[Fin.ofNat 32 k] = none by decide⟩, rfl, rfl, by decide, by decide⟩
def trapBoard : Group := { trapGroup with board := demoGroup.board.set 31 (some (lastPend [] [])) }
theorem witness_TrapWaits : ∃ (s : State) (gi : Nat) (g : Group) (t : TrapInfo) (k : Nat) (p : Pend) (n : Nat), s.groups[gi]? = some g ∧ g.status = .trapPending t ∧ k < 32 ∧ g.board[Fin.ofNat 32 k] = some p ∧ n < 256 ∧
    p.lanes.getLsbD n = true ∧ (∀ v ∈ p.vals, v.1 ≠ n) ∧ ∀ c ∈ p.causes, c.1 ≠ n :=
  ⟨demoOf trapBoard, 0, trapBoard, pendingTrap, 31, lastPend [] [], 255, rfl, rfl, by decide, rfl, by decide, by decide +kernel, fun _ h => absurd h (List.not_mem_nil),
    fun _ h => absurd h (List.not_mem_nil)⟩

end Sys2Proof.Tests
end

