-- ==== Sys2Proof/Tests/WitnessPreempt.lean ====
section
/-! SUPPORT. States and operands that meet the hypotheses of the statement about pre-emption. -/

namespace Sys2Proof.Tests

set_option Elab.async false

open Machine Spec

/-- A launch that can be pre-empted, and its team. -/
def livingLaunch : Launch := { fetchLaunch 0 with kernel := { (fetchLaunch 0).kernel with liveness := 0x2000 }, privBase := 0x80000 }
def softAt (t : Team) (gs : List Group) : State := { demo with launches := [livingLaunch], teams := [t], groups := gs }
theorem witness_PreemptRequest : ∃ (s : State) (ti : Nat) (t : Team), s.teams[ti]? = some t ∧ t.live = true ∧ t.saved = false ∧ t.preempt = false ∧ t.resuming = false ∧ CanPreempt s t :=
  ⟨softAt (fetchTeam 0 0) [], 0, _, rfl, rfl, rfl, rfl, rfl, livingLaunch, rfl, by decide, by decide⟩
/-- A twin team, both halves of it. -/
def twinTeam (k core : Nat) : Team := { fetchTeam 0 0 with core := core, twin := some k }
def twinsAt : State := { demo with launches := [livingLaunch], teams := [twinTeam 1 0, twinTeam 0 1] }
theorem witness_PreemptTwins : ∃ (s : State) (ti : Nat) (t : Team) (k : Nat) (x : Team), s.teams[ti]? = some t ∧ t.live = true ∧ t.saved = false ∧ t.preempt = false ∧ t.resuming = false ∧ CanPreempt s t ∧
    t.twin = some k ∧ k ≠ ti ∧ s.teams[k]? = some x ∧ x.live = true ∧ x.saved = false :=
  ⟨twinsAt, 1, twinTeam 0 1, 0, twinTeam 1 0, rfl, rfl, rfl, rfl, rfl, ⟨livingLaunch, rfl, by decide, by decide⟩, rfl, by decide, rfl, rfl, rfl⟩
theorem witness_PreemptNot : ∃ (s : State) (ti : Nat) (t : Team), s.teams[ti]? = some t ∧ ¬ CanPreempt s t ∧ ∀ p ∈ s.passes, p.live = true → ∀ x ∈ p.tiles, x.team ≠ some ti :=
  ⟨demo, 0, fetchTeam 0 0, rfl, fun ⟨l, hl, h, _⟩ => by
    obtain rfl : fetchLaunch 0 = l := Option.some.inj hl
    exact h rfl, fun _ h => absurd h (List.not_mem_nil)⟩

/-- The team has been asked, its handler run or not; the group has stopped at a safe point, or waits. -/
def askedTeam (handled : Bool) : Team := { fetchTeam 0 0 with preempt := true, handled := handled }
def stoppedGroup (st : Status) (number : Nat) : Group := { demoGroup with status := st, number := number }
theorem atStop_soft (handled : Bool) (st : Status) (number : Nat) (gs : List Group) (mask : Word)
    (h : st = .stopped mask ∨ mask = 0x07FFFFFF ∧ (st = .slotWait ∨ (∃ n p, st = .barWait n p) ∨ (∃ n p, st = .yielded n p) ∨ (∃ p, st = .xchgWait p) ∨ ∃ a, st = .parked a)) :
    AtStop (softAt (askedTeam handled) (stoppedGroup st number :: gs)) 0 (stoppedGroup st number) (askedTeam handled) mask where
  is_ := rfl
  team := rfl
  asked := rfl
  ordinary := ⟨.inl rfl, rfl, rfl⟩
  quiet := ⟨show ∀ k < 32, demoGroup.board[Fin.ofNat 32 k] = none by decide, rfl, rfl⟩
  stop := h

theorem witness_StopSaves : ∃ (s : State) (gi : Nat) (g : Group) (t : Team) (mask : Word), AtStop s gi g t mask ∧ g.number ≠ t.producer ∧ g.status = .stopped mask :=
  ⟨_, 0, _, askedTeam false, 0x05, atStop_soft false (.stopped 0x05) 1 [] 0x05 (.inl rfl), by decide, rfl⟩
theorem witness_StopWaiting : ∃ (s : State) (gi : Nat) (g : Group) (t : Team) (mask : Word), AtStop s gi g t mask ∧ t.handled = true ∧ g.number = t.producer ∧ g.status = .barWait 15 0x100008 :=
  ⟨_, 0, _, askedTeam true, 0x07FFFFFF, atStop_soft true (.barWait 15 0x100008) 0 [] _ (.inr ⟨rfl, .inr (.inl ⟨_, _, rfl⟩)⟩), rfl, rfl, rfl⟩
theorem witness_ProducerWaits : ∃ (s : State) (gi : Nat) (g : Group) (t : Team) (mask : Word), AtStop s gi g t mask ∧ g.kind = .team ∧ g.number = t.producer ∧ t.handled = false ∧
    ∃ k h, k ≠ gi ∧ s.groups[k]? = some h ∧ h.team = g.team ∧ h.status ≠ .exited ∧ h.status ≠ .gone ∧ h.status ≠ .saved :=
  ⟨_, 0, _, askedTeam false, 0x05, atStop_soft false (.stopped 0x05) 0 [stoppedGroup .running 1] 0x05 (.inl rfl), rfl, rfl, rfl, 1, _, by decide, rfl, rfl,
    by decide, by decide, by decide⟩
theorem witness_ProducerHandler : ∃ (s : State) (gi : Nat) (g : Group) (t : Team) (mask : Word) (j : Job), AtStop s gi g t mask ∧ g.kind = .team ∧ g.number = t.producer ∧ t.handled = false ∧
    g.frame.isSome = true ∧ s.jobs[g.job]? = some j ∧ j.handler ≠ 0 ∧
    ∀ (k : Nat) (h : Group), k ≠ gi → s.groups[k]? = some h → h.team = g.team → h.status = .exited ∨ h.status = .gone ∨ h.status = .saved :=
  ⟨_, 0, _, askedTeam false, 0x05, demoJob, atStop_soft false (.stopped 0x05) 0 [stoppedGroup .saved 1, stoppedGroup .exited 2] 0x05 (.inl rfl), rfl, rfl, rfl, rfl, rfl,
    by decide, fun k h hk hg _ => by
      rcases k with _ | _ | _ | k
      · exact absurd rfl hk
      · obtain rfl := Option.some.inj hg
        exact .inr (.inr rfl)
      · obtain rfl := Option.some.inj hg
        exact .inl rfl
      · exact absurd hg (by simp [softAt])⟩

theorem unitsDone_soft : (softAt (askedTeam true) [stoppedGroup .saved 0, stoppedGroup .gone 1]).unitsDone 0 (askedTeam true) = true := by decide +kernel
theorem witness_ContextSave : ∃ (s : State) (ti : Nat) (t : Team), s.teams[ti]? = some t ∧ t.live = true ∧ t.saved = false ∧ t.preempt = true ∧ t.carve = none ∧ t.accLen = 0 ∧
    (∀ p ∈ s.passes, p.live = true → ∀ x ∈ p.tiles, x.team ≠ some ti) ∧
    (∀ g ∈ s.groups, g.team = ti → g.status = .saved ∨ g.status = .exited ∨ g.status = .gone) ∧ (∃ g ∈ s.groups, g.team = ti ∧ g.status = .saved) ∧
    s.unitsDone ti t = true :=
  ⟨softAt (askedTeam true) [stoppedGroup .saved 0, stoppedGroup .gone 1], 0, askedTeam true, rfl, rfl, rfl, rfl, rfl, rfl, fun _ h => absurd h (List.not_mem_nil),
    by decide, ⟨_, List.mem_cons_self .., rfl, rfl⟩, unitsDone_soft⟩
theorem witness_ContextWaits : ∃ (s : State) (ti : Nat) (t : Team), s.teams[ti]? = some t ∧ (∀ p ∈ s.passes, p.live = true → ∀ x ∈ p.tiles, x.team ≠ some ti) ∧
    ∃ g ∈ s.groups, g.team = ti ∧ g.status ≠ .saved ∧ g.status ≠ .exited ∧ g.status ≠ .gone :=
  ⟨softAt (askedTeam true) [stoppedGroup .slotWait 0], 0, askedTeam true, rfl, fun _ h => absurd h (List.not_mem_nil), _, List.mem_cons_self .., rfl, by decide, by decide,
    by decide⟩

/-- A sample group of a tile team, inside a replay region or killed in it. -/
def sampleGroup (replay : Bool) : Group := { demoGroup with kind := .sample, gfx := some { regionGfx 32 with replay := replay } }
theorem witness_GraphicsKill : ∃ (s : State) (gi : Nat) (g : Group) (x : Gfx) (t : Team), s.groups[gi]? = some g ∧ g.gfx = some x ∧ x.inRegion = true ∧ x.replay = false ∧ s.teams[g.team]? = some t ∧
    t.preempt = true ∧ g.status ≠ .exited ∧ g.status ≠ .gone :=
  ⟨softAt (askedTeam false) [sampleGroup false], 0, sampleGroup false, _, askedTeam false, rfl, rfl, rfl, rfl, rfl, rfl, by decide, by decide⟩
theorem witness_GraphicsReplay : ∃ (s : State) (gi : Nat) (g : Group) (x : Gfx), s.groups[gi]? = some g ∧ g.gfx = some x ∧ x.replay = true ∧ s.preempting g = false ∧ g.status ≠ .saved :=
  ⟨softAt (fetchTeam 0 0) [sampleGroup true], 0, sampleGroup true, _, rfl, rfl, rfl, rfl, by decide⟩
theorem witness_GraphicsStays : ∃ (s : State) (gi : Nat) (g : Group) (x : Gfx), s.groups[gi]? = some g ∧ g.gfx = some x ∧ x.replay = false :=
  ⟨softAt (fetchTeam 0 0) [sampleGroup false], 0, sampleGroup false, _, rfl, rfl, rfl⟩

end Sys2Proof.Tests
end

