-- ==== Sys2Proof/Tests/WitnessOutside.lean ====
section
/-! SUPPORT. States and operands that meet the hypotheses of the statements about translations, columns, peers and the host's accesses. -/

namespace Sys2Proof.Tests

set_option Elab.async false

open Machine Spec

/-! ## Translations -/

theorem witness_PageWalk : ∃ (s : State) (job : Nat) (va : DWord) (l : Leaf) (pa : Nat) (c : Bool), s.walkLeaf job va = some l ∧ s.xlateWith job va .read false (some l) = .ok pa c := by
  obtain ⟨l, hl, h⟩ := some_of_any (o := demo.walkLeaf 0 0x1FFFFF)
    (p := fun l => match demo.xlateWith 0 0x1FFFFF .read false (some l) with | .ok _ _ => true | _ => false) (by decide +kernel)
  cases hx : demo.xlateWith 0 0x1FFFFF .read false (some l) with
  | ok pa c => exact ⟨demo, 0, 0x1FFFFF, l, pa, c, hl, hx⟩
  | _ => rw [hx] at h; exact absurd h Bool.false_ne_true
theorem witness_PageWalkFails : ∃ (s : State) (job : Nat) (va : DWord), ∀ (l : Leaf) pa c, s.walkLeaf job va = some l → s.xlateWith job va .read false (some l) ≠ .ok pa c :=
  ⟨demo, 0, 0x200000, fun l pa c h => absurd (h.symm.trans (show demo.walkLeaf 0 0x200000 = none from Option.isNone_iff_eq_none.mp (by decide +kernel))) (Option.some_ne_none l)⟩
def priJob : Job := { demoJob with hostShared := true }
def priAt : State := { demoOf { demoGroup with status := .priWait 0x12345 } with jobs := [priJob] }
theorem witness_PriResponse : ∃ (s : State) (job : Nat) (va : DWord) (j : Job), s.jobs[job]? = some j ∧ j.live = true ∧ j.hostShared = true ∧ canonical va = true ∧
    ∃ g ∈ s.groups, ∃ a, g.status = .priWait a ∧ g.job = job ∧ pageOf a = pageOf va :=
  ⟨priAt, 0, 0x10000, priJob, rfl, rfl, rfl, by decide, _, List.mem_singleton.mpr rfl, 0x12345, rfl, rfl, by decide⟩

/-- An atomic of a group, on page 1, has not been performed. -/
def pageAtom : AtomReq :=
  { grp := some 0, slot := 0, lane := 0, job := 0, core := 0, rslot := 0, logged := false, va := 0x1FFFC, pa := 0x1FFFC, edge := none, op := 0, bytes := 4, op1 := 0,
    cmp := 0, reassoc := false, stamp := 0 }
def pageAtomAt : State := { demo with atomics := [pageAtom] }
theorem witness_NoneWaits : ∃ (s : State) (job : Nat) (va : DWord) (pages : Nat), NoneWaits s job (pageOf va) pages :=
  ⟨pageAtomAt, 0, 0x20000, 1,
    { atomics := fun a ha _ _ => by
        rw [List.mem_singleton.mp ha]
        exact show ¬ (pageOf 0x20000 ≤ pageOf 0x1FFFC ∧ pageOf 0x1FFFC < pageOf 0x20000 + 1) by decide
      methods := fun _ h => absurd h List.not_mem_nil
      pending := fun _ h => absurd h List.not_mem_nil
      running := fun _ h => absurd h List.not_mem_nil
      held := fun g hg _ x hx => by
        rw [List.mem_singleton.mp hg] at hx
        exact absurd hx (Option.some_ne_none x).symm }⟩
theorem witness_SomeWaits : ∃ (s : State) (job : Nat) (va : DWord) (pages : Nat), ¬ NoneWaits s job (pageOf va) pages :=
  ⟨pageAtomAt, 0, 0x10000, 1, fun h => h.atomics pageAtom (List.mem_singleton.mpr rfl) (by decide) rfl
    (show pageOf 0x10000 ≤ pageOf 0x1FFFC ∧ pageOf 0x1FFFC < pageOf 0x10000 + 1 by decide)⟩
/-- No group keeps private data on the pages, or one does. -/
theorem witness_NoPrivate : ∃ (s : State) (job : Nat) (va : DWord) (pages : Nat), ∀ g ∈ s.groups, g.privateIn job (pageOf va) pages = false :=
  ⟨demo, 0, 0x10000, 1, by decide +kernel⟩

/-! ## Columns -/

/-- A job that records: the slice map and the columns stay as they are. -/
def recordingJob : Job := { demoJob with log := .record 0x1000 }
def fixedAt : State := { demo with jobs := [recordingJob] }

theorem fit_demo : Fit demo 511 := ⟨⟨by decide +kernel, by decide +kernel⟩, by decide +kernel, by decide⟩
theorem witness_Remap : ∃ (s : State) (slice vault : Nat), slice < 512 ∧ vault < 512 ∧ Fit s vault ∧ s.mapFixed = false ∧
    ∀ o ∈ s.objects, sliceIx o.pa = slice → ∃ v, Machine.target s.gddrTop o.pa = .direct v :=
  ⟨demo, 0, 511, by decide, by decide, fit_demo, by decide, fun _ h => absurd h List.not_mem_nil⟩
def homeObject : ObjState :=
  { col := 0, job := 0, base := 0x1000, pa := 0x1000, z := 5, desc := 0, mask := 0, reply64 := false, methods := [], pending := [], running := none }
theorem witness_RemapWaits : ∃ (s : State) (slice vault : Nat) (o : ObjState), slice < 512 ∧ vault < 512 ∧ Fit s vault ∧ s.mapFixed = false ∧ o ∈ s.objects ∧
    sliceIx o.pa = slice ∧ ∀ v, Machine.target s.gddrTop o.pa ≠ .direct v :=
  ⟨{ demo with objects := [homeObject] }, sliceIx 0x1000, 511, homeObject, by decide +kernel, by decide, ⟨fit_demo.1, fit_demo.2⟩, by decide,
    List.mem_singleton.mpr rfl, rfl, fun v h => by cases h⟩
theorem witness_RemapNot : ∃ (s : State) (slice vault : Nat), ¬ (slice < 512 ∧ vault < 512 ∧ Fit s vault ∧ s.mapFixed = false) :=
  ⟨demo, 512, 0, fun h => absurd h.1 (by decide)⟩
/-- A vault of the DIRECT role. -/
theorem witness_RemapDirect : ∃ (s : State) (slice vault : Nat), slice < 512 ∧ vault < 512 ∧ ¬ Fit s vault :=
  ⟨{ demo with direct := 1#512 <<< 511 }, 511, 511, by decide, by decide, fun h => absurd h.cache.1 (by decide +kernel)⟩
theorem witness_MapFixed : ∃ (s : State) (slice vault : Nat), slice < 512 ∧ vault < 512 ∧ s.mapFixed = true := ⟨fixedAt, 0, 511, by decide, by decide, by decide⟩

theorem canGoOff_demo : CanGoOff demo 63 := ⟨⟨by decide, by decide +kernel⟩, by decide +kernel, by decide +kernel, by decide⟩
theorem vaultFit_map (s : State) (m : Vector Nat 512) : ({ s with sliceMap := m } : State).vaultFit = s.vaultFit := rfl
/-- No entry points into column 63. -/
def movedAt : State := { demo with sliceMap := Vector.replicate 512 0 }
theorem witness_ColumnOff : ∃ (s : State) (col : Nat), CanGoOff s col ∧ ∀ k : Fin 512, s.sliceMap[k] / 8 ≠ col :=
  ⟨movedAt, 63, ⟨⟨by decide, by decide +kernel⟩, by decide +kernel, by
    rw [show movedAt.vaultFit = demo.vaultFit from vaultFit_map _ _]
    exact canGoOff_demo.others, by decide⟩, fun k => by
    rw [show movedAt.sliceMap[k] = 0 from Vector.getElem_replicate k.isLt]
    decide⟩
theorem witness_ColumnWaits : ∃ (s : State) (col : Nat), CanGoOff s col ∧ ∃ k : Fin 512, s.sliceMap[k] / 8 = col :=
  ⟨demo, 63, canGoOff_demo, 511, by decide +kernel⟩
theorem witness_ColumnStays : ∃ (s : State) (col : Nat), ¬ CanGoOff s col := ⟨demo, 64, fun h => absurd h.on.1 (by decide)⟩
theorem witness_ColumnOn : ∃ (s : State) (col : Nat), col < 64 ∧ s.mapFixed = false := ⟨demo, 63, by decide, by decide⟩
theorem witness_ColumnFixed : ∃ (s : State) (col : Nat), col < 64 ∧ s.mapFixed = true := ⟨fixedAt, 63, by decide, by decide⟩
theorem witness_PatrolScrub : ∃ (s : State) (line : Nat), Machine.target s.gddrTop (128 * line) ≠ .none ∧ Machine.target s.gddrTop (128 * line) ≠ .reg :=
  ⟨demo, 0, by decide, by decide⟩

/-! ## Peers -/

/-- Port 15 is up to device 7; link 3 is the job's. -/
def peerJob : Job := { demoJob with link := 3 }
def peerAt (x : Option InStream) : State :=
  { demo with ports := demo.ports.set 15 ⟨some 7, true, 15, 0⟩, inStreams := x.toList, jobs := [peerJob] }
theorem linked_peer (x : Option InStream) : Linked (peerAt x) 7 :=
  ⟨⟨some 7, true, 15, 0⟩, (by decide : (⟨some 7, true, 15, 0⟩ : Port) ∈ (demo.ports.set 15 ⟨some 7, true, 15, 0⟩).toList), rfl⟩
def lastStream (cls : Nat) : InStream := ⟨7, cls, 2 ^ 32 - 1, []⟩
theorem nextIn_peer (cls : Nat) (h : (peerAt (some (lastStream cls))).inStream 7 cls = lastStream cls) :
    NextIn (peerAt (some (lastStream cls))) 7 cls (2 ^ 32 - 1) := ⟨linked_peer _, h, by decide⟩

/-- Page 0, where this device's firmware has exported it to device 7 for the link: whether it has is the configuration's. -/
theorem reach_peer (h : Config.peerExports 7 3 0 = true) (x : Option InStream) (n : Nat) (hn : 1 ≤ n ∧ n ≤ 16) : (peerAt x).peerReach 7 3 0x1000 n = some 0x1000 := by
  unfold State.peerReach
  rw [show (peerAt x).peerLocal 0x1000 = some 0x1000 from rfl]
  show (if Config.peerExports 7 3 0 && Config.peerExports 7 3 ((0x1000 + n - 1) / 65536) then some 0x1000 else none) = some 0x1000
  rw [show (0x1000 + n - 1) / 65536 = 0 by omega, h]
  rfl
theorem witness_PeerWrite (h : Config.peerExports 7 3 0 = true) : ∃ s src seq link off data pa, NextIn s src 1 seq ∧ WriteLands s src link off data pa :=
  ⟨_, 7, _, 3, 0x1000, [1], 0x1000, nextIn_peer 1 (by decide), reach_peer h _ 1 ⟨by decide, by decide⟩, rfl, rfl, by decide +kernel⟩
theorem witness_PeerRefused : ∃ (s : State) (src seq link off : Nat) (data : List (BitVec 8)), NextIn s src 1 seq ∧ s.peerReach src link off data.length = none :=
  ⟨_, 7, _, 3, 0x20000000000, [1], nextIn_peer 1 (by decide), rfl⟩
theorem witness_PeerAtomic (h : Config.peerExports 7 3 0 = true) : ∃ s src seq link off bytes pa j, NextIn s src 2 seq ∧ s.peerReach src link off bytes = some pa ∧
    s.linkJob link = some j ∧ s.peerBarred src pa = false :=
  ⟨_, 7, _, 3, 0x1000, 4, 0x1000, 0, nextIn_peer 2 (by decide), reach_peer h _ 4 ⟨by decide, by decide⟩, rfl, rfl⟩
def someWrite : PeerMessage := .write 3 0x1000 [1]
theorem witness_PeerOld : ∃ s src seq msg, Linked s src ∧ 2 ^ 31 ≤ (seq + 2 ^ 32 - (s.inStream src (classOf msg)).next) % 2 ^ 32 :=
  ⟨peerAt none, 7, 2 ^ 31, someWrite, linked_peer _, by decide⟩
theorem witness_PeerAhead : ∃ s src seq msg next, Linked s src ∧ s.inStream src (classOf msg) = { dev := src, cls := classOf msg, next := next, ahead := [] } ∧
    0 < (seq + 2 ^ 32 - next) % 2 ^ 32 ∧ (seq + 2 ^ 32 - next) % 2 ^ 32 < 2 ^ 31 :=
  ⟨peerAt none, 7, 2 ^ 31 - 1, someWrite, 0, linked_peer _, rfl, by decide, by decide⟩
theorem not_linked_demo (dev : Nat) : ¬ Linked demo dev := fun ⟨p, hp, h⟩ => by
  have hp : p ∈ List.replicate 16 (⟨none, false, 0, 0⟩ : Port) := hp
  rw [List.eq_of_mem_replicate hp] at h
  exact Option.some_ne_none dev h.symm
theorem witness_PeerUnlinked : ∃ s src, ¬ Linked s src := ⟨demo, 7, not_linked_demo 7⟩
theorem witness_PeerLost : ∃ (s : State) (dev : Nat), ¬ Linked s dev ∧ dev ∉ s.lost := ⟨demo, 255, not_linked_demo 255, by decide⟩
theorem witness_PeerReached : ∃ (s : State) (dev : Nat), Linked s dev ∨ dev ∈ s.lost := ⟨peerAt none, 7, .inl (linked_peer _)⟩
theorem witness_TagFailure : ∃ (s : State) (port : Nat) (p : Port), s.ports[Fin.ofNat 16 port] = p ∧ p.peer.isSome = true ∧ p.secure = true ∧ 15 ≤ p.fails :=
  ⟨peerAt none, 15, ⟨some 7, true, 15, 0⟩, by decide, rfl, rfl, by decide⟩
theorem witness_TagFailureNot : ∃ (s : State) (port : Nat) (p : Port), s.ports[Fin.ofNat 16 port] = p ∧ (p.peer = none ∨ p.secure = false) :=
  ⟨demo, 0, ⟨none, false, 0, 0⟩, by decide, .inl rfl⟩

/-! ## The host -/

def hostTop : Nat := 0x8000000000000 + 2 ^ 50 - 1
theorem witness_Snoop : ∃ (s : State) (pa : Nat), Machine.target s.gddrTop pa = .host ∧ s.locked pa = false := ⟨demo, hostTop, by decide, rfl⟩
/-- A combiner holds the first line of host memory, and the first of device memory. -/
def runningAt (pa : Nat) : State := { demo with objects := [{ homeObject with pa := pa, running := some (1, []) }] }
theorem witness_SnoopWaits : ∃ (s : State) (pa : Nat), Machine.target s.gddrTop pa = .host ∧ s.locked pa = true :=
  ⟨runningAt 0x8000000000000, 0x8000000000000, by decide, by decide +kernel⟩
theorem witness_SnoopNot : ∃ (s : State) (pa : Nat), Machine.target s.gddrTop pa ≠ .host := ⟨demo, hostTop + 1, by decide⟩
/-- The host may perform an access: both its ends are memory, and no earlier access waits. -/
def Accessible (s : State) (pa : Nat) (op : HostOp) : Prop :=
  s.hostReaches pa = true ∧ s.hostReaches (pa + hostOpBytes op - 1) = true ∧ ∀ w ∈ s.sys.journal, w.isAccess = false
/-- Nothing turns it away. -/
def Performed (s : State) (pa : Nat) (op : HostOp) : Prop :=
  s.secureAt pa = false ∧ s.secureAt (pa + hostOpBytes op - 1) = false ∧ s.hostWaits pa op = false

theorem witness_HostWrite : ∃ s pa b l, Accessible s pa (.write (b :: l)) ∧ Performed s pa (.write (b :: l)) :=
  ⟨demo, 0x5A00000000 - 2, 1, [2], ⟨by decide, by decide, by decide⟩, by decide, by decide, by decide +kernel⟩
theorem witness_HostAdd : ∃ s pa v, Accessible s pa (.fetchAdd true v) ∧ Performed s pa (.fetchAdd true v) ∧ pa % 8 = 0 :=
  ⟨demo, 0x5A00000000 - 8, 1, ⟨by decide, by decide, by decide⟩, ⟨by decide, by decide, by decide +kernel⟩, by decide⟩
theorem witness_HostSwap : ∃ s pa v, Accessible s pa (.swap false v) ∧ Performed s pa (.swap false v) ∧ pa % 4 = 0 :=
  ⟨demo, 0x5A00000000 - 4, 1, ⟨by decide, by decide, by decide⟩, ⟨by decide, by decide, by decide +kernel⟩, by decide⟩
theorem witness_HostCas : ∃ s pa c v, Accessible s pa (.cas false c v) ∧ Performed s pa (.cas false c v) ∧ pa % 4 = 0 ∧ memNat s.mem pa 4 = c.toNat % 2 ^ 32 :=
  ⟨demo, 0x5A00000000 - 4, BitVec.ofNat 64 (memNat demo.mem (0x5A00000000 - 4) 4), 1, ⟨by decide, by decide, by decide⟩,
    ⟨by decide, by decide, by decide +kernel⟩, by decide, by decide +kernel⟩
theorem witness_HostCasFails : ∃ s pa c v, Accessible s pa (.cas true c v) ∧ Performed s pa (.cas true c v) ∧ pa % 8 = 0 ∧ memNat s.mem pa 8 ≠ c.toNat :=
  ⟨demo, 0, BitVec.ofNat 64 (memNat demo.mem 0 8 + 1), 1, ⟨by decide, by decide, by decide⟩, ⟨by decide, by decide, by decide +kernel⟩, by decide, by decide +kernel⟩
theorem witness_HostRead : ∃ s pa, Accessible s pa .read ∧ Performed s pa .read :=
  ⟨demo, hostTop, ⟨by decide, by decide, by decide⟩, by decide, by decide, by decide +kernel⟩
theorem witness_HostWaits : ∃ s pa op, Accessible s pa op ∧ s.hostWaits pa op = true :=
  ⟨runningAt 0, 0, .read, ⟨by decide, by decide, by decide⟩, by decide +kernel⟩
def regionAt : State := { demo with sys := { demo.sys with regions := [(1, 1)] } }
theorem witness_HostDenied : ∃ s pa op, Accessible s pa op ∧ s.secureAt (pa + hostOpBytes op - 1) = true ∧ s.hostWaits pa op = false :=
  ⟨regionAt, 2097151, .write [0, 0], ⟨by decide, by decide, by decide⟩, by decide +kernel, by decide +kernel⟩
def queuedAt : State := { demo with sys := { demo.sys with journal := [.access 0 .read] } }
theorem witness_HostQueued : ∃ s : State, ∃ w ∈ s.sys.journal, w.isAccess = true := ⟨queuedAt, _, List.mem_singleton.mpr rfl, rfl⟩
theorem witness_HostNot : ∃ (s : State) (pa : Nat), s.hostReaches pa = false ∧ ∀ w ∈ s.sys.journal, w.isAccess = false := ⟨demo, 0x5A00000000, by decide, by decide⟩

end Sys2Proof.Tests
end

