-- ==== Sys2Proof/Tests/WitnessRequests.lean ====
section
/-! SUPPORT. States and operands that meet the hypotheses of the statement about the host's requests. -/

namespace Sys2Proof.Tests

set_option Elab.async false

open Machine Spec

/-- The last virtual function has rings of 4096 bytes, the request ring holding one request; it may create secure jobs. -/
def ringFn : Fn := ⟨true, true, 0, 4096, 128, 0, 0, 4096, 0, 0, 0x1000, 4096, 0x2000, 4096⟩
def ringSys (y : Sys) : Sys := { y with fns := (Vector.replicate 33 Fn.reset).set 32 ringFn }
/-- A request about job 0, which that function created. -/
def ask (job : Nat) : Request := ⟨7, job, 32⟩
def ringJob : Job := { demoJob with fn := 32 }
def askRing : State := { demo with sys := ringSys demo.sys, jobs := [ringJob] }
theorem serves_ring : askRing.canServe 32 = true := by decide +kernel
theorem owns_ring : Owns askRing (ask 0) ringJob := ⟨rfl, rfl, rfl⟩

theorem witness_NotServed : ∃ (s : State) (h : Request), s.canServe h.fn = false := ⟨demo, ask 0, by decide +kernel⟩
theorem witness_NotOwned : ∃ (s : State) (h : Request), s.canServe h.fn = true ∧ ¬ ∃ j, Owns s h j :=
  ⟨{ askRing with jobs := [demoJob] }, ask 0, by decide +kernel, fun ⟨j, hj, _, hf⟩ => by
    obtain rfl : demoJob = j := Option.some.inj hj
    exact absurd hf (by decide)⟩

def makeJob (secure : Bool) (vaults : BitVec 512) : JobOperands := ⟨0x200000, 0x1000, 0x2000000, 20, secure, false, 0, -1, vaults, 0⟩
theorem witness_CreateJob : ∃ (s : State) (h : Request) (x : JobOperands), s.canServe h.fn = true ∧ h.job = 0 ∧ (s.fn h.fn).mayCreate h.fn x.secure = true ∧ s.jobFits x = true ∧ x.vaultMap = 0 :=
  ⟨askRing, ask 0, makeJob true 0, serves_ring, rfl, by decide +kernel, by decide +kernel, rfl⟩
/-- No entry of the slice map points at vault 511. -/
def vaultAt : State := { askRing with sliceMap := Vector.replicate 512 0 }
theorem witness_CreateWithVault : ∃ (s : State) (h : Request) (x : JobOperands), s.canServe h.fn = true ∧ h.job = 0 ∧ (s.fn h.fn).mayCreate h.fn x.secure = true ∧ s.jobFits x = true ∧
    x.vaultMap ≠ 0 ∧ s.mapFixed = false ∧ ∀ k : Fin 512, x.vaultMap.getLsbD s.sliceMap[k] = false :=
  ⟨vaultAt, ask 0, makeJob false (1#512 <<< 511), by decide +kernel, rfl, by decide +kernel, by decide +kernel, by decide +kernel, by decide, fun k => by
    rw [show vaultAt.sliceMap[k] = 0 from Vector.getElem_replicate k.isLt]
    decide +kernel⟩
/-- An entry points at vault 511 still. -/
theorem witness_CreateMoves : ∃ (s : State) (h : Request) (x : JobOperands), s.canServe h.fn = true ∧ h.job = 0 ∧ (s.fn h.fn).mayCreate h.fn x.secure = true ∧ s.jobFits x = true ∧
    x.vaultMap ≠ 0 ∧ s.mapFixed = false ∧ ∃ k : Fin 512, x.vaultMap.getLsbD s.sliceMap[k] = true :=
  ⟨askRing, ask 0, makeJob false (1#512 <<< 511), serves_ring, rfl, by decide +kernel, by decide +kernel, by decide +kernel, by decide, 511, by decide +kernel⟩
/-- A job of another function records. -/
def fixedRing : State := { askRing with jobs := [recordingJob] }
theorem witness_CreateFixed : ∃ (s : State) (h : Request) (x : JobOperands), s.canServe h.fn = true ∧ h.job = 0 ∧ (s.fn h.fn).mayCreate h.fn x.secure = true ∧ s.jobFits x = true ∧
    x.vaultMap ≠ 0 ∧ s.mapFixed = true :=
  ⟨fixedRing, ask 0, makeJob false (1#512 <<< 511), by decide +kernel, rfl, by decide +kernel, by decide +kernel, by decide +kernel, by decide⟩
theorem witness_CreateNot : ∃ (s : State) (h : Request) (x : JobOperands), s.canServe h.fn = true ∧ s.jobFits x = false :=
  ⟨askRing, ask 0, { makeJob false 0 with objM := 21 }, serves_ring, by decide +kernel⟩
theorem witness_CreateNumbered : ∃ (s : State) (h : Request), s.canServe h.fn = true ∧ h.job ≠ 0 := ⟨askRing, ask 1, serves_ring, by decide⟩

theorem witness_DestroyJob : ∃ (s : State) (h : Request) (j : Job), s.canServe h.fn = true ∧ Owns s h j ∧ j.destroy = none := ⟨askRing, ask 0, ringJob, serves_ring, owns_ring, rfl⟩
def endingJob : Job := { ringJob with destroy := some 7 }
def endingAt : State := { askRing with jobs := [endingJob], groups := [], launches := [] }
theorem witness_JobEnds : ∃ (s : State) (ji : Nat) (j : Job) (tag : Word), s.jobs[ji]? = some j ∧ j.live = true ∧ j.destroy = some tag ∧ s.jobIdle ji = true ∧ j.vaultMap = 0 :=
  ⟨endingAt, 0, endingJob, 7, rfl, rfl, rfl, by decide, rfl⟩
theorem witness_DestroyAgain : ∃ (s : State) (h : Request) (j : Job), s.canServe h.fn = true ∧ Owns s h j ∧ j.destroy.isSome = true :=
  ⟨endingAt, ask 0, endingJob, by decide +kernel, ⟨rfl, rfl, rfl⟩, rfl⟩
theorem witness_CancelJob : ∃ (s : State) (h : Request) (j : Job) (li : Nat) (l : Launch), s.canServe h.fn = true ∧ Owns s h j ∧ s.launches[li]? = some l ∧ l.job = h.job ∧ l.complete = false ∧ l.left ≠ 0 :=
  ⟨askRing, ask 0, ringJob, 0, _, serves_ring, owns_ring, rfl, rfl, rfl, by decide⟩

theorem witness_RegisterQueue : ∃ (s : State) (h : Request) (j : Job) (qcb : DWord) (wake g : Nat), s.canServe h.fn = true ∧ Owns s h j ∧ qcb.toNat % 64 = 0 ∧ wake ≤ 8127 ∧
    (∀ q ∈ s.queues, ¬ (q.live = true ∧ q.job = h.job ∧ q.qcb = qcb)) ∧ s.devRead h.job (qcb + 56) 8 = .ok g := by
  obtain ⟨g, hg, -⟩ := dev_test (x := askRing.devRead 0 0x1078 8) (p := fun _ => true) (by decide +kernel)
  exact ⟨askRing, ask 0, ringJob, 0x1040, 8127, g, serves_ring, owns_ring, by decide, by decide, fun _ h => absurd h (List.not_mem_nil), hg⟩
def queueRing : State := { askRing with queues := [demoQueue] }
theorem queue_ring : (queueRing.queues.findIdx? fun r => r.live && r.job == 0 && r.qcb == 0x1000) = some 0 := by decide
theorem witness_RegisterTwice : ∃ (s : State) (h : Request) (j : Job) (qcb : DWord), s.canServe h.fn = true ∧ Owns s h j ∧ ∃ q ∈ s.queues, q.live = true ∧ q.job = h.job ∧ q.qcb = qcb :=
  ⟨queueRing, ask 0, ringJob, 0x1000, by decide +kernel, owns_ring, demoQueue, List.mem_singleton.mpr rfl, rfl, rfl, rfl⟩
theorem witness_RegisterFar : ∃ (s : State) (h : Request) (j : Job) (wake : Nat), s.canServe h.fn = true ∧ Owns s h j ∧ 8127 < wake := ⟨askRing, ask 0, ringJob, 8128, serves_ring, owns_ring, by decide⟩
theorem witness_UnregisterQueue : ∃ (s : State) (h : Request) (j : Job) (qcb : DWord) (qi : Nat) (q : Queue), s.canServe h.fn = true ∧ Owns s h j ∧
    (s.queues.findIdx? fun r => r.live && r.job == h.job && r.qcb == qcb) = some qi ∧ s.queues[qi]? = some q ∧ (∀ k < 64, ¬ ((s.slot k).bound = true ∧ (s.slot k).queue = qi)) ∧
    ∀ w ∈ s.sys.journal, w.updates h.job qcb = false :=
  ⟨queueRing, ask 0, ringJob, 0x1000, 0, demoQueue, by decide +kernel, owns_ring, queue_ring, rfl, by decide +kernel, fun _ h => absurd h List.not_mem_nil⟩
def heldRing : State := queueRing.modSlot 63 (fun _ => demoSlot)
theorem witness_UnregisterWaits : ∃ (s : State) (h : Request) (j : Job) (qcb : DWord) (qi k : Nat), s.canServe h.fn = true ∧ Owns s h j ∧
    (s.queues.findIdx? fun r => r.live && r.job == h.job && r.qcb == qcb) = some qi ∧ k < 64 ∧ (s.slot k).bound = true ∧ (s.slot k).queue = qi :=
  ⟨heldRing, ask 0, ringJob, 0x1000, 0, 63, by decide +kernel, owns_ring, queue_ring, by decide, by decide +kernel, by decide +kernel⟩

theorem none_waits_ring : NoneWaits askRing 0 (pageOf 0x10000) 1 where
  atomics _ h := absurd h List.not_mem_nil
  methods _ h := absurd h List.not_mem_nil
  pending _ h := absurd h List.not_mem_nil
  running _ h := absurd h List.not_mem_nil
  held g hg _ x hx := by
    rw [List.mem_singleton.mp hg] at hx
    exact absurd hx (Option.some_ne_none x).symm
theorem witness_Invalidate : ∃ (s : State) (h : Request) (j : Job) (va : DWord) (pages : Nat), s.canServe h.fn = true ∧ Owns s h j ∧ va.toNat % 65536 = 0 ∧ NoneWaits s h.job (pageOf va) pages :=
  ⟨askRing, ask 0, ringJob, 0x10000, 1, serves_ring, owns_ring, by decide, none_waits_ring⟩
theorem witness_InvalidateNot : ∃ (s : State) (h : Request) (j : Job) (va : DWord), s.canServe h.fn = true ∧ Owns s h j ∧ va.toNat % 65536 ≠ 0 :=
  ⟨askRing, ask 0, ringJob, 0xFFFF, serves_ring, owns_ring, by decide⟩
theorem witness_Resident : ∃ (s : State) (h : Request) (j : Job) (va : DWord), s.canServe h.fn = true ∧ Owns s h j ∧ va.toNat % 65536 = 0 ∧ canonical va = true :=
  ⟨askRing, ask 0, ringJob, 0xFFFFFFFFFFFF0000, serves_ring, owns_ring, by decide, by decide⟩
theorem witness_ResidentNot : ∃ (s : State) (h : Request) (j : Job) (va : DWord) (r : Nat), s.canServe h.fn = true ∧ Owns s h j ∧ canonical va = false ∧ 1 < r :=
  ⟨askRing, ask 0, ringJob, 0x200000000000000, 2, serves_ring, owns_ring, by decide, by decide⟩

def lastColl : CollectiveOperands := ⟨65535, 4096, 0xFFFF, 15, 15⟩
theorem witness_Collective : ∃ (s : State) (h : Request) (x : CollectiveOperands), s.canServe h.fn = true ∧ CollOk x ∧ (s.colls.filter fun e => e.ident != x.ident).length < 256 :=
  ⟨askRing, ask 0, lastColl, serves_ring, ⟨by decide, by decide, by decide⟩, by decide⟩
theorem witness_CollectiveNot : ∃ (s : State) (h : Request) (x : CollectiveOperands), s.canServe h.fn = true ∧ ¬ CollOk x :=
  ⟨askRing, ask 0, { lastColl with parent := 256 }, serves_ring, fun h => absurd h.parent (by decide)⟩

def keyAt (signed : Nat) : State := { askRing with sys := { askRing.sys with aliasKey := true, signed := signed } }
theorem witness_Attest : ∃ (s : State) (h : Request) (nonce : List (BitVec 8)) (addr : DWord), s.canServe h.fn = true ∧ nonce.length = 32 ∧ addr.toNat < 2 ^ 50 ∧ s.sys.aliasKey = true ∧ s.sys.signed < 1024 :=
  ⟨keyAt 1023, ask 0, List.replicate 32 0, BitVec.ofNat 64 (2 ^ 50 - 1), by decide +kernel, rfl, by decide, rfl, by decide⟩
theorem witness_AttestNot : ∃ (s : State) (h : Request) (nonce : List (BitVec 8)) (addr : DWord), s.canServe h.fn = true ∧ nonce.length = 32 ∧ addr.toNat < 2 ^ 50 ∧ 1024 ≤ s.sys.signed :=
  ⟨keyAt 1024, ask 0, List.replicate 32 0, 0, by decide +kernel, rfl, by decide, by decide⟩

/-- A certificate that verifies, where the configuration has one. -/
theorem witness_DebugAuth (h : Config.certOk [] = true) : ∃ (s : State) (h : Request) (addr : DWord) (len : Nat), s.canServe h.fn = true ∧ addr.toNat + len ≤ 2 ^ 50 ∧ s.sys.debugRejects < 8 ∧
    Config.certOk (s.hostBytes addr.toNat len) = true :=
  ⟨askRing, ask 0, 0, 0, serves_ring, by decide, by decide, h⟩
theorem witness_DebugAuthNot : ∃ (s : State) (h : Request) (addr : DWord) (len : Nat), s.canServe h.fn = true ∧ addr.toNat + len ≤ 2 ^ 50 ∧ 8 ≤ s.sys.debugRejects :=
  ⟨{ askRing with sys := { askRing.sys with debugRejects := 8 } }, ask 0, 0, 0, by decide +kernel, by decide, by decide⟩

theorem image_ok (y : Sys) (i : Image) (hl : ¬ i.len > 4194304) (hs : i.signed = true) (hv : ¬ i.version < fieldAt y.pkgfuse 63 48) : y.imageFault i = 0 := by
  unfold Sys.imageFault
  rw [if_neg hl, if_neg (by rw [hs]; decide), if_neg hv]
theorem image_long (y : Sys) (i : Image) (hl : i.len > 4194304) : y.imageFault i ≠ 0 := by
  unfold Sys.imageFault
  rw [if_pos hl]
  decide
/-- An image that verifies, where the configuration has one at host address 0. -/
theorem witness_FlashUpdate (hs : Config.imageSigned (askRing.hostBytes 0 1) = true) : ∃ (s : State) (h : Request) (addr : DWord) (len : Nat), s.canServe h.fn = true ∧ len ≠ 0 ∧
    addr.toNat + len ≤ 2 ^ 50 ∧ s.sys.imageFault (s.imageAt addr.toNat len) = 0 :=
  ⟨askRing, ask 0, 0, 1, serves_ring, by decide, by decide, image_ok _ _ (show ¬ 1 > 4194304 by decide) hs (by
    rw [show fieldAt askRing.sys.pkgfuse 63 48 = 0 by decide +kernel]
    exact Nat.not_lt_zero _)⟩
theorem witness_FlashUpdateNot : ∃ (s : State) (h : Request) (addr : DWord) (len : Nat), s.canServe h.fn = true ∧ len ≠ 0 ∧ addr.toNat + len ≤ 2 ^ 50 ∧ s.sys.imageFault (s.imageAt addr.toNat len) ≠ 0 :=
  ⟨askRing, ask 0, 0, 4194305, serves_ring, by decide, by decide, image_long _ _ (show 4194305 > 4194304 by decide)⟩

end Sys2Proof.Tests
end

