-- ==== Sys2Proof/Tests/WitnessPackage.lean ====
section
/-! SUPPORT. States and operands that meet the hypotheses of the statements about resets, registers, power, temperature and debug. -/

namespace Sys2Proof.Tests

set_option Elab.async false

open Machine Spec

/-- The demo machine with another package. -/
def pack (f : Sys → Sys) : State := { demo with sys := f demo.sys }

/-! ## Resets -/

theorem witness_High : ∃ s : State, s.sys.low = false := ⟨demo, rfl⟩
theorem witness_Low : ∃ s : State, s.sys.low = true := ⟨State.reset, rfl⟩
/-- A strap of one pin's field that firmware does not start with. -/
def oddStrap (v : DWord) : State := { State.reset with sys := { Sys.reset with strap := v } }
theorem witness_StrapCapacity : ∃ s : State, s.sys.low = true ∧ s.sys.pkgstrap / 64 % 4 = 3 := ⟨oddStrap 0xC0, rfl, by decide⟩
theorem witness_StrapBifurcation : ∃ s : State, s.sys.low = true ∧ s.sys.pkgstrap % 4 = 3 := ⟨oddStrap 0xA3, rfl, by decide⟩
def secureCore : State := (pack fun y => { y with link := true }).modCore 63 fun c => { c with secure := true }
theorem witness_Perst : ∃ s : State, s.sys.low = false ∧ s.sys.fwState = 1 ∧ s.sys.bring = .up ∧ (s.core 63).secure = true := ⟨secureCore, rfl, rfl, rfl, by decide +kernel⟩

theorem witness_D3hot : ∃ s : State, s.sys.low = false ∧ s.sys.dev = .d0 ∧ s.mapFixed = false ∧ ∀ g ∈ s.groups, g.status ≠ .halted := ⟨demo, rfl, rfl, by decide, by decide⟩
theorem witness_D3hotFixed : ∃ s : State, s.sys.low = false ∧ s.sys.dev = .d0 ∧ s.mapFixed = true := ⟨fixedAt, rfl, rfl, by decide⟩
def haltedAt : State := demoOf { demoGroup with status := .halted }
theorem witness_D3hotWaits : ∃ s : State, s.sys.low = false ∧ s.sys.dev = .d0 ∧ ∃ g ∈ s.groups, g.status = .halted := ⟨haltedAt, rfl, rfl, _, List.mem_singleton.mpr rfl, rfl⟩
theorem witness_CorePower : ∃ (s : State) (c : Nat), s.sys.low = false ∧ s.sys.dev = .d0 ∧ c < 64 ∧ ∀ g ∈ s.groups, g.core = c → g.status ≠ .halted ∧ (g.status = .exited ∨ g.status = .gone) :=
  ⟨demo, 63, rfl, rfl, by decide, by decide⟩
theorem witness_CorePowerWaits : ∃ (s : State) (c : Nat), s.sys.low = false ∧ s.sys.dev = .d0 ∧ c < 64 ∧ ∃ g ∈ s.groups, g.core = c ∧ g.status = .halted :=
  ⟨haltedAt, 0, rfl, rfl, by decide, _, List.mem_singleton.mpr rfl, rfl, rfl⟩
theorem witness_WhorlPower : ∃ (s : State) (b : Block), s.sys.low = false ∧ s.sys.dev = .d0 ∧ ∃ k < 32, b = .whorl k := ⟨demo, .whorl 31, rfl, rfl, 31, by decide, rfl⟩
theorem witness_PortPower : ∃ (s : State) (b : Block), s.sys.low = false ∧ s.sys.dev = .d0 ∧ ∃ k < 16, b = .port k := ⟨demo, .port 15, rfl, rfl, 15, by decide, rfl⟩

def recovering (len : DWord) (link busy : Bool) : State := pack fun y => { y with fwState := 2, rcvlen := len, link := link, rcvbusy := busy }
theorem witness_RcvGo : ∃ (s : State) (v : DWord), Answers s 0 ∧ v.getLsbD 0 = true ∧ s.sys.fwState = 2 :=
  ⟨recovering 0 true false, 1, ⟨⟨rfl, rfl⟩, by decide, fun _ => rfl⟩, by decide, rfl⟩
theorem witness_RcvLong : ∃ s : State, s.sys.rcvbusy = true ∧ s.sys.fwState = 2 ∧ 4194304 < s.sys.rcvlen.toNat := ⟨recovering 4194305 true true, rfl, rfl, by decide⟩
theorem witness_RcvNoLink : ∃ s : State, s.sys.rcvbusy = true ∧ s.sys.fwState = 2 ∧ s.sys.rcvlen.toNat ≤ 4194304 ∧ s.sys.link = false := ⟨recovering 4194304 false true, rfl, rfl, by decide, rfl⟩

/-! ## Registers -/

def linkAt (bring : Bring) : State := pack fun y => { y with link := true, bring := bring }
theorem answers_link (bring : Bring) (f : Nat) (h : f < 33) : Answers (linkAt bring) f := ⟨⟨rfl, rfl⟩, h, fun hn => absurd (show 1 = 2 from hn) (by decide)⟩
theorem witness_RegisterOpen : ∃ (s : State) (f : Nat), Answers s f ∧ s.sys.bring ≠ .up := ⟨linkAt .due, 32, answers_link _ 32 (by decide), by decide⟩
theorem witness_RegisterLatched : ∃ (s : State) (f : Nat), Answers s f ∧ s.sys.bring = .up := ⟨linkAt .up, 32, answers_link _ 32 (by decide), rfl⟩
theorem witness_RegisterSilent : ∃ (s : State) (f : Nat), ¬ Answers s f := ⟨recovering 0 true false, 1, fun h => absurd (h.fn.2 rfl) (by decide)⟩

def wakeAt : State := queueAt demoSlot demoQueue
theorem witness_WakeSlot : ∃ (s : State) (reg : Nat) (x : Slot) (n : Nest) (q : Queue) (w : Nat), s.sys.low = false ∧ s.sys.dev = .d0 ∧ reg < 64 ∧ s.slot reg = x ∧ x.bound = true ∧
    x.waiting = none ∧ x.levels = [n] ∧ s.queues[x.queue]? = some q ∧ s.qcbWritten q = .ok w := by
  obtain ⟨w, hw, -⟩ := dev_test (x := wakeAt.qcbWritten demoQueue) (p := fun _ => true) (by decide +kernel)
  exact ⟨wakeAt, 63, demoSlot, demoNest, demoQueue, w, rfl, rfl, by decide, slot_of rfl, rfl, rfl, rfl, rfl, hw⟩
def farQueue : Queue := { demoQueue with wake := 8127 }
theorem witness_WakeQueue : ∃ (s : State) (reg qi : Nat), s.sys.low = false ∧ s.sys.dev = .d0 ∧ 64 ≤ reg ∧ reg < 8192 ∧ s.unbound qi = true ∧
    ∀ (k : Nat) (q : Queue), s.queues[k]? = some q → ((q.live = true ∧ q.wake = reg - 64) ↔ k = qi) :=
  ⟨{ demo with queues := [demoQueue, farQueue] }, 8191, 1, rfl, rfl, by decide, by decide, by decide +kernel, fun k q hq => by
    rcases k with _ | _ | k
    · obtain rfl := Option.some.inj hq
      exact ⟨fun h => absurd h.2 (by decide), fun h => absurd h (by decide)⟩
    · obtain rfl := Option.some.inj hq
      exact ⟨fun _ => rfl, fun _ => ⟨rfl, rfl⟩⟩
    · exact absurd hq (by simp)⟩
def asleep (buf : List Nat) : State := pack fun y => { y with dev := .d3hot, wakeBuf := buf }
theorem witness_WakeCaptured : ∃ (s : State) (reg : Nat), s.sys.low = false ∧ s.sys.dev = .d3hot ∧ reg < 8192 ∧ s.sys.wakeBuf.length < 64 := ⟨asleep (List.replicate 63 0), 8191, rfl, rfl, by decide, by decide⟩
theorem witness_WakeOverflow : ∃ (s : State) (reg : Nat), s.sys.low = false ∧ s.sys.dev = .d3hot ∧ reg < 8192 ∧ ¬ s.sys.wakeBuf.length < 64 := ⟨asleep (List.replicate 64 0), 8191, rfl, rfl, by decide, by decide⟩

/-! ## Power and temperature -/

def running (f : Sys → Sys) : State := pack fun y => f { y with clock := 12 }
theorem witness_PowerEval : ∃ (s : State) (watts : Nat), s.sys.fwState = 1 ∧ s.sys.wattLimit < watts ∧ 12 < s.sys.clock := ⟨pack fun y => { y with clock := 13 }, 1401, rfl, by decide, by decide⟩
theorem witness_PowerUnder : ∃ (s : State) (watts : Nat), s.sys.fwState = 1 ∧ watts ≤ s.sys.wattLimit := ⟨demo, 1400, rfl, by decide⟩
theorem witness_LimitNotMet : ∃ (s : State) (watts : Nat), s.sys.fwState = 1 ∧ 10 ≤ s.sys.overMs ∧ s.sys.clock = 12 ∧ s.sys.wattLimit < watts ∧ s.sys.overPosted = false :=
  ⟨running fun y => { y with overMs := 10 }, 1401, rfl, by decide, rfl, by decide, rfl⟩
theorem witness_LimitPosted : ∃ (s : State) (watts : Nat), s.sys.fwState = 1 ∧ 10 ≤ s.sys.overMs ∧ s.sys.clock = 12 ∧ s.sys.wattLimit < watts ∧ s.sys.overPosted = true :=
  ⟨running fun y => { y with overMs := 10, overPosted := true }, 1401, rfl, by decide, rfl, by decide, rfl⟩
theorem witness_LimitShort : ∃ s : State, s.sys.overMs < 10 := ⟨running fun y => { y with overMs := 9 }, by decide⟩
theorem witness_Critical : ∃ (s : State) (celsius : Nat), s.sys.low = false ∧ s.sys.tripped = false ∧ 105 ≤ celsius := ⟨demo, 105, rfl, rfl, by decide⟩
theorem witness_CriticalTimeout : ∃ s : State, s.sys.low = false ∧ s.sys.tripped = false ∧ (105 ≤ s.sys.coremax ∨ 105 ≤ s.sys.cnpmax) ∧
    ∃ c < 64, ∃ g ∈ s.groups, g.core = c ∧ (g.status = .exited ∨ g.status = .gone) :=
  ⟨{ running fun y => { y with cnpmax := 105 } with groups := [overGroup] }, rfl, rfl, .inr (by decide), 0, by decide, _, List.mem_singleton.mpr rfl, rfl, .inl rfl⟩
theorem witness_CriticalOver : ∃ s : State, s.sys.coremax < 105 ∧ s.sys.cnpmax < 105 := ⟨running fun y => { y with cnpmax := 104, coremax := 104 }, by decide, by decide⟩
theorem witness_Recovery : ∃ s : State, s.sys.low = false ∧ s.sys.tripped = false ∧ s.sys.held = false := ⟨demo, rfl, rfl, rfl⟩
theorem witness_RecoveryHeld : ∃ (s : State) (core canopy : Nat), s.sys.low = false ∧ s.sys.tripped = false ∧ s.sys.held = true ∧ core < 90 ∧ canopy < 90 :=
  ⟨running fun y => { y with held := true }, 89, 89, rfl, rfl, rfl, by decide, by decide⟩
theorem witness_Trip : ∃ (s : State) (celsius : Nat), 115 ≤ celsius ∧ s.sys.low = false ∧ s.sys.tripped = false := ⟨demo, 115, by decide, rfl, rfl⟩

/-! ## The watchdog and debug -/

theorem witness_Watchdog : ∃ s : State, s.sys.working = true ∧ s.sys.expiries < 3 := ⟨pack fun y => { y with expiries := 2 }, rfl, by decide⟩
theorem witness_WatchdogLast : ∃ s : State, s.sys.working = true ∧ 3 ≤ s.sys.expiries ∧ (s.sys.spare = true ∨ s.sys.pkgfuse.testBit 25 = false) :=
  ⟨pack fun y => { y with expiries := 3, spare := true }, rfl, by decide, .inl rfl⟩
theorem witness_Takeover : ∃ s : State, s.sys.working = true ∧ s.sys.spare = false ∧ s.sys.pkgfuse.testBit 25 = true ∧ s.sys.imageFault s.sys.flash = 0 := ⟨demo, rfl, rfl, by decide, by decide⟩
theorem witness_TakeoverNone : ∃ s : State, s.sys.working = true ∧ s.sys.pkgfuse.testBit 25 = false := ⟨pack fun y => { y with fuse := 0x0000240100000000 }, rfl, by decide⟩
theorem witness_NotWorking : ∃ s : State, s.sys.working = false := ⟨State.reset, rfl⟩
theorem last_core : Block.core 63 ∈ allBlocks := by decide +kernel
theorem witness_DebugAsleep : ∃ (s : State) (b : Block), s.sys.low = false ∧ s.sys.dev = .d3hot ∧ b ∈ allBlocks := ⟨asleep [], .core 63, rfl, rfl, last_core⟩
theorem witness_DebugOff : ∃ (s : State) (b : Block), s.sys.low = false ∧ s.sys.dev = .d0 ∧ b ∈ allBlocks ∧ s.sys.debug = .off := ⟨demo, .core 63, rfl, rfl, last_core, rfl⟩
theorem witness_DebugNoAuth : ∃ (s : State) (b : Block), s.sys.low = false ∧ s.sys.dev = .d0 ∧ b ∈ allBlocks ∧ s.sys.debug = .nEnabled ∧ s.secureBlock b = true :=
  ⟨(pack fun y => { y with debug := .nEnabled }).modCore 63 fun c => { c with secure := true }, .core 63, rfl, rfl, last_core, rfl, by decide +kernel⟩
theorem witness_DebugDark : ∃ (s : State) (b : Block), s.sys.low = false ∧ s.sys.dev = .d0 ∧ b ∈ allBlocks ∧ s.sys.debug = .sAuthorised ∧ s.powerOf b = .c3 :=
  ⟨{ pack fun y => { y with debug := .sAuthorised } with power := [(.core 63, .c3)] }, .core 63, rfl, rfl, last_core, rfl, by decide +kernel⟩
theorem witness_DebugDone : ∃ (s : State) (b : Block) (c r : Nat), s.sys.low = false ∧ s.sys.dev = .d0 ∧ b ∈ allBlocks ∧ s.sys.debug = .nEnabled ∧ s.secureBlock b = false ∧ s.powerOf b ≠ .c3 ∧
    b = .core c ∧ c < 64 ∧ r < 0x1000 :=
  ⟨{ pack fun y => { y with debug := .nEnabled } with power := [(.core 63, .c2)] }, .core 63, 63, 0xFFF, rfl, rfl, last_core, rfl, by decide +kernel, by decide +kernel, rfl, by decide, by decide⟩

end Sys2Proof.Tests
end

