-- ==== Sys2Proof/Tests/WitnessRender.lean ====
section
/-! SUPPORT. States and operands that meet the hypotheses of the statements about ordered sections, dicing and sampling. -/

namespace Sys2Proof.Tests

set_option Elab.async false

open Machine Spec

/-! ## Ordered sections -/

/-- A sample group whose thread 0 has the fragment at the last pixel, with some bytes held, inside a region or not. -/
def orderGfx (held : Nat) (inside : Bool) : Gfx := { regionGfx held with keys := [(0, (63, 63, 0), 9)], inRegion := inside }
def orderGroup (held : Nat) (inside : Bool) : Group := { fragGroup with kind := .sample, gfx := some (orderGfx held inside) }
def orderAt (held : Nat) (inside : Bool) : State := passAt demoPass (orderGroup held inside)
def orderOps : Asy := ⟨none, 0, false, 10, 0, 0⟩

theorem order_lanes (held : Nat) (inside : Bool) : (found (orderGroup held inside)).lanes = [0] := frag_lanes
theorem order_key (held : Nat) (inside : Bool) : (found (orderGroup held inside)).keyAt (selNat orderOps.a) 0 = (63, 63, 0) :=
  show (found fragGroup).keyAt 10 0 = (63, 63, 0) by decide +kernel
theorem order_frag (held : Nat) (inside : Bool) : ∀ n ∈ (found (orderGroup held inside)).lanes, ∃ q,
    (orderGfx held inside).fragOf n = some ((found (orderGroup held inside)).keyAt (selNat orderOps.a) n, q) := fun n h => by
  rw [order_lanes] at h
  rw [List.mem_singleton.mp h, order_key]
  exact ⟨9, rfl⟩

theorem witness_Ordent : ∃ s g x gx b, Ready (.ordent x) { ents := entRange (selNat x.a) 2 } s g ∧ OrderReady s g x gx b :=
  ⟨orderAt 16 true, orderGroup 16 true, orderOps, orderGfx 16 true, demoPass, ready_of rfl (by decide) (by decide),
    ⟨⟨rfl, rfl, rfl⟩, fun n h => by
      obtain ⟨q, hq⟩ := order_frag 16 true n h
      refine ⟨q, hq, ?_⟩
      rw [order_lanes] at h
      rw [List.mem_singleton.mp h, order_key]
      rfl, fun n h => by
      rw [order_lanes] at h
      rw [List.mem_singleton.mp h]
      exact ⟨rfl, rfl⟩⟩⟩

theorem witness_OrdentRule : ∃ s g x, Ready (.ordent x) { ents := entRange (selNat x.a) 2 } s g ∧ CanTrap s g ∧ g.gfx = none :=
  ⟨demo, demoGroup, orderOps, ready_of rfl (by decide) (by decide), canTrap_group, rfl⟩

theorem witness_Ordlv : ∃ s g x gx, Ready (.ordlv x) { ents := entRange (selNat x.a) 2, rel := true } s g ∧ g.gfx = some gx ∧ g.kind = .sample ∧
    gx.inRegion = false ∧ (∀ n ∈ (found g).lanes, ∃ q, gx.fragOf n = some ((found g).keyAt (selNat x.a) n, q)) :=
  ⟨orderAt 0 false, orderGroup 0 false, orderOps, orderGfx 0 false, ready_of rfl (by decide) (by decide), rfl, rfl, rfl, order_frag 0 false⟩

theorem witness_OrdlvHeld : ∃ s g x gx, Ready (.ordlv x) { ents := entRange (selNat x.a) 2, rel := true } s g ∧ g.gfx = some gx ∧ g.kind = .sample ∧
    (∀ n ∈ (found g).lanes, ∃ q, gx.fragOf n = some ((found g).keyAt (selNat x.a) n, q)) ∧ leavers g gx ≠ 0 ∧
    HasRoom s g gx (4 * ((found g).lanes.filter fun n => (leavers g gx).getLsbD n).length) :=
  ⟨orderAt 32764 true, orderGroup 32764 true, orderOps, orderGfx 32764 true, ready_of rfl (by decide) (by decide), rfl, rfl, order_frag 32764 true,
    by decide +kernel, ⟨⟨rfl, rfl⟩, by decide +kernel, by decide +kernel⟩⟩

/-! ## The units of a pass -/

def openedPass : Pass := { demoPass with opened := [waitingFrag] }

theorem witness_GroupClose : ∃ s ps b core f rest, OnlyPass s ps b ∧ (b.opened.filter fun x => x.core == core) = f :: rest :=
  ⟨passAt openedPass fragGroup, 0, openedPass, 0, waitingFrag, [], onlyPass_of rfl rfl, rfl⟩

def sampleKernel : Kernel := { Kernel.none with regs := 16, entry := 0x100000 }
def closedPass : Pass := { demoPass with sampleKernel := some sampleKernel, closed := [[waitingFrag]] }

theorem witness_SampleStart : ∃ s ps b core k l f rest area u ti seat, OnlyPass s ps b ∧ b.sampleKernel = some k ∧ b.closed = [l] ∧ l = f :: rest ∧
    f.core = core ∧ s.freeArea ps b = some area ∧
    s.gfxPlace b f.tile core k (s.oldestHere core (ps, lowestSeq l, 1)) = some (u, ti, seat) ∧ s.recordLog b.job = none ∧ s.replayLog b.job = none := by
  obtain ⟨⟨u, ti, seat⟩, hu, -⟩ := some_of_any
    (o := (passAt closedPass fragGroup).gfxPlace closedPass 0 0 sampleKernel ((passAt closedPass fragGroup).oldestHere 0 (0, lowestSeq [waitingFrag], 1))) (p := fun _ => true) (by decide +kernel)
  exact ⟨passAt closedPass fragGroup, 0, closedPass, 0, sampleKernel, _, waitingFrag, [], 0, u, ti, seat, onlyPass_of rfl rfl, rfl, rfl, rfl, rfl,
    by decide +kernel, hu, by decide +kernel, by decide +kernel⟩

/-- A diced grid, and passes whose numbers are used up. -/
def demoGrid : Grid :=
  { core := 0, launch := 0, tile := 0, seq := 0, addr := 0x1000, user := 7, nu := 1, nv := 1, u0 := 0, du := 0x3F800000, v0 := 0, dv := 0x3F800000,
    grp := none, verts := none, next := 0, sampled := false }
def wrapPass (r : List (Nat × (Nat × Nat × Nat) × Nat)) : Pass := { demoPass with gridSeq := 2 ^ 24, diced := [demoGrid], reserved := r }
def fullPass (r : List (Nat × (Nat × Nat × Nat) × Nat)) : Pass := { demoPass with gridSeq := 2 ^ 24 - 1, diced := [demoGrid], reserved := r }

theorem witness_Wrap : ∃ (s : State) (ps : Nat) (b : Pass), s.passes[ps]? = some b ∧ b.live = true ∧ b.wrapDue = true ∧ s.drained ps b = true :=
  ⟨passAt (wrapPass []) fragGroup, 0, wrapPass [], rfl, rfl, by decide, by decide +kernel⟩
theorem witness_WrapWaits : ∃ (s : State) (ps : Nat) (b : Pass), s.passes[ps]? = some b ∧ b.live = true ∧ b.wrapDue = true ∧ s.drained ps b = false :=
  ⟨passAt (wrapPass [(0, (0, 0, 0), 1)]) fragGroup, 0, wrapPass _, rfl, rfl, by decide, by decide +kernel⟩
theorem witness_BinFlush : ∃ (s : State) (ps : Nat) (b : Pass), s.passes[ps]? = some b ∧ b.live = true ∧ b.binDue = true ∧ s.drained ps b = true :=
  ⟨passAt (fullPass []) fragGroup, 0, fullPass [], rfl, rfl, by decide, by decide +kernel⟩
theorem witness_BinFlushWaits : ∃ (s : State) (ps : Nat) (b : Pass), s.passes[ps]? = some b ∧ b.live = true ∧ b.binDue = true ∧ s.drained ps b = false :=
  ⟨passAt (fullPass [(0, (0, 0, 0), 1)]) fragGroup, 0, fullPass _, rfl, rfl, by decide, by decide +kernel⟩

/-! ## Patches and vertices -/

/-- A patch record of rate 1 at 0xFFC0, the end of a page; the next page is mapped too. -/
def patchMem : SMap 8 := SMap.setList (fetchMemory [] 32 0x2B5) 0xFFC0 (leBytes 64 (2 ^ 32 * 0x3F800000))
def patchGroup : Group := wordsGroup 0 [(14, 0xFFC0), (15, 0)]
def patchAt : State := { passAt demoPass patchGroup with mem := patchMem }
def patchOps : Asy := ⟨none, 0, false, 14, 0, 0⟩
def patchAccs : List LaneAcc := [⟨0, 0xFFC0, 0xFFC0, false⟩, ⟨0, 0x10000, 0x10000, false⟩]
def patchRead : State := (opened patchAt patchGroup).touch 0 (asFound patchGroup) false patchAccs

theorem patch_lanes : (found patchGroup).lanes = [0] := by decide +kernel

theorem witness_Patch : ∃ s g x lc ps b l, Ready (.patch x) { ents := entRange (selNat x.a) 2 } s g ∧ s.launches[g.launch]? = some lc ∧ lc.pass = some ps ∧
    s.passes[ps]? = some b ∧ b.live = true ∧
    (∀ n ∈ (found g).lanes, (((found g).entry (selNat x.a + 1)).at n ++ ((found g).entry (selNat x.a)).at n).toNat % 64 = 0) ∧
    Reaches (opened s g) (asFound g) .read true 64 ((found g).lanes.flatMap fun n =>
      [(n, ((found g).entry (selNat x.a + 1)).at n ++ ((found g).entry (selNat x.a)).at n),
       (n, ((found g).entry (selNat x.a + 1)).at n ++ ((found g).entry (selNat x.a)).at n + 64)]) l ∧
    (opened s g).holdsBack s.cur (asFound g) l = false ∧ (∀ a ∈ l, ((opened s g).touch s.cur (asFound g) false l).loadCause g.job a 64 = none) ∧
    ∀ n ∈ (found g).lanes, patchRecord (leNat ((l.filter fun a => a.lane == n).flatMap fun a =>
      ((opened s g).touch s.cur (asFound g) false l).loadBytes s.cur (asFound g) false a 64)) ≠ none :=
  ⟨patchAt, patchGroup, patchOps, _, 0, demoPass, patchAccs, ready_of rfl (by decide) (by decide), rfl, rfl, rfl, rfl, by decide +kernel,
    ⟨by decide +kernel, by decide, by decide +kernel⟩, by decide +kernel, by decide +kernel, fun n hn => by
      rw [patch_lanes] at hn
      rw [List.mem_singleton.mp hn]
      decide +kernel⟩

/-- A grid group with some bytes held. -/
def gridGroup (held : Nat) (inside : Bool) : Group := { fragGroup with kind := .grid, gfx := some (orderGfx held inside) }
def gridAt (held : Nat) (inside : Bool) : State := passAt demoPass (gridGroup held inside)
def gvtxOps : Asy := ⟨none, 0, false, 2, 0, 0⟩

theorem witness_Gvtx : ∃ s g x k f, Ready (.gvtx x k) { ents := entRange (selNat x.a) (6 + 2 * fld k 2 0) } s g ∧ g.gfx = some f ∧ g.kind = .grid ∧
    f.gvtxDone = false ∧ f.inRegion = false :=
  ⟨gridAt 0 false, gridGroup 0 false, gvtxOps, 4, _, ready_of rfl (by decide) (by decide), rfl, rfl, rfl, rfl⟩

theorem witness_GvtxHeld : ∃ s g x k f, Ready (.gvtx x k) { ents := entRange (selNat x.a) (6 + 2 * fld k 2 0) } s g ∧ g.gfx = some f ∧ g.kind = .grid ∧
    f.gvtxDone = false ∧ HasRoom s g f (64 * ((found g).lanes.map fun n => (n, (List.range (6 + 2 * fld k 2 0)).map fun j =>
      ((found g).entry (selNat x.a + j)).at n)).length) :=
  ⟨gridAt 32704 true, gridGroup 32704 true, gvtxOps, 4, _, ready_of rfl (by decide) (by decide), rfl, rfl, rfl,
    ⟨⟨rfl, rfl⟩, by decide +kernel, by decide +kernel⟩⟩

theorem witness_GvtxRule : ∃ s g x k, Ready (.gvtx x k) { ents := entRange (selNat x.a) (6 + 2 * fld k 2 0) } s g ∧ CanTrap s g ∧
    (g.kind ≠ .grid ∨ g.gfx = none) :=
  ⟨demo, demoGroup, gvtxOps, 0, ready_of rfl (by decide) (by decide), canTrap_group, .inl (by decide)⟩

/-! ## Dicing -/

def demoPatch : Patch :=
  { core := 0, launch := 0, team := 0, grp := 0, addr := 0x1000, user := 7, rate := 0x3F800000, margin := 0, corners := List.replicate 12 0 }
def patchedPass : Pass := { demoPass with patches := [demoPatch] }

theorem witness_PatchDice : ∃ s ps b x, OnlyPass s ps b ∧ b.diced = [] ∧ s.firstPatch b = some x ∧ s.earlierOpen ps x = false :=
  ⟨passAt patchedPass fragGroup, 0, patchedPass, demoPatch, onlyPass_of rfl rfl, rfl, by decide +kernel, by decide +kernel⟩

theorem witness_Numbering : ∃ (b : Pass) (l : List Grid), b.block.immediate = true ∧ (∀ q ∈ l, q.seq = 0) ∧ b.gridSeq + l.length ≤ 2 ^ 24 ∧ l ≠ [] :=
  ⟨fullPass [], [demoGrid], rfl, by decide, by decide, by decide⟩

def griddedPass : Pass := { demoPass with grids := [demoGrid] }

theorem witness_GridStart : ∃ s ps b core q area u ti seat, OnlyPass s ps b ∧ b.block.immediate = true ∧ b.nextGrid core none = some q ∧
    s.freeArea ps b = some area ∧ s.gfxPlace b q.tile q.core b.gridKernel (s.oldestHere q.core (ps, q.seq * 256, 0)) = some (u, ti, seat) ∧
    s.recordLog b.job = none ∧ s.replayLog b.job = none := by
  obtain ⟨⟨u, ti, seat⟩, hu, -⟩ := some_of_any (p := fun _ => true)
    (o := (passAt griddedPass fragGroup).gfxPlace griddedPass 0 0 griddedPass.gridKernel ((passAt griddedPass fragGroup).oldestHere 0 (0, 0, 0))) (by decide +kernel)
  exact ⟨passAt griddedPass fragGroup, 0, griddedPass, 0, demoGrid, 0, u, ti, seat, onlyPass_of rfl rfl, rfl, rfl, by decide +kernel, hu, by decide +kernel,
    by decide +kernel⟩

/-- A TILED pass at its end that no core holds a tile of, and one whose tile is done. -/
def binnedPass : Pass := { tiledPass with stage := .finish, tiles := [] }
def donePass : Pass := { tiledPass with stage := .finish, tiles := [⟨1, some 0, false, [], true⟩] }

/-- The tile's memory lies in pages that the host translates to themselves. -/
def hostTiles (p : Pass) : State := { tiledAt p with jobs := [hostJob], ats := [hostEntry] }
def doneAt : State := { hostTiles donePass with groups := [] }

theorem pieces_within {va : DWord} {n : Nat} {q : Nat × Nat} (h : q ∈ pagePieces va n) : q.1 + q.2 ≤ n := by
  simp only [pagePieces, List.mem_cons, List.mem_map, List.mem_range] at h
  rcases h with rfl | ⟨k, hk, rfl⟩ <;> simp only <;> omega

/-- An access to a tile's memory below 4 MiB does not wait. -/
theorem tileWaits_host {s : State} (h : Translates s) {p : Pass} (hp : p.job = 0) {tile : Nat} (write : Bool)
    (hv : (p.block.tileAt tile).toNat + p.block.tileBytes < 2 ^ 22) : s.tileWaits p tile write = false := by
  simp only [State.tileWaits, List.any_eq_false]
  intro q hq
  have hq := pieces_within hq
  simp only [Bool.not_eq_true, List.any_eq_false, List.mem_range]
  intro k hk
  have hva : (p.block.tileAt tile + BitVec.ofNat 64 q.1 + BitVec.ofNat 64 (128 * k)).toNat < 2 ^ 22 := by
    rw [BitVec.toNat_add, BitVec.toNat_add, BitVec.toNat_ofNat, BitVec.toNat_ofNat]
    omega
  have ha : (if write then Access.write else Access.read) = .write ∨ (if write then Access.write else Access.read) = .read := by
    cases write <;> simp
  obtain ⟨pa, hx, ht, -⟩ := devXlate_host h hva ha
  rw [hp, hx]
  simp [edgeWaits_host h ht]

theorem witness_TakeTile : ∃ s ps b core tile, OnlyPass s ps b ∧ b.block.immediate = false ∧ b.processing = true ∧ s.heldTile b core = none ∧
    s.nextTile ps b core = some tile ∧ s.tileWaits b tile false = false :=
  ⟨hostTiles binnedPass, 0, binnedPass, 0, 0, onlyPass_of rfl rfl, rfl, rfl, by decide +kernel, by decide +kernel,
    tileWaits_host ⟨rfl, rfl, rfl, rfl, rfl, rfl⟩ rfl false (by decide +kernel)⟩

theorem witness_SpillTile : ∃ s ps b core tile ti, OnlyPass s ps b ∧ b.block.immediate = false ∧ b.processing = true ∧
    s.heldTile b core = some (tile, ti) ∧ s.tileWork ps b tile = false ∧ s.halfQuiet ti = true ∧
    (∀ tm, s.teams[ti]? = some tm → s.queuesEmpty ti tm = true) ∧ s.tileWaits b tile true = false :=
  ⟨doneAt, 0, donePass, 0, 1, 0, onlyPass_of rfl rfl, rfl, rfl, by decide +kernel, by decide +kernel, by decide +kernel,
    fun tm h => by
      rw [← Option.some.inj (show some _ = some tm from h)]
      decide +kernel, tileWaits_host ⟨rfl, rfl, rfl, rfl, rfl, rfl⟩ rfl true (by decide +kernel)⟩

/-! ## Sampling -/

/-- A grid of one micropolygon, whose four vertices are there. -/
def vertexGrid : Grid := { demoGrid with verts := some (0, (List.range 4).map fun n => (n, [0, 0, 0, 0, 0, 0])) }
def vertexPass : Pass := { demoPass with grids := [vertexGrid] }

def vertexQuad : List (List Word) := List.replicate 4 [0, 0, 0, 0, 0, 0]
theorem quad_vertex : quadOf vertexGrid ((List.range 4).map fun n => (n, [0, 0, 0, 0, 0, 0])) 0 = some vertexQuad := by decide +kernel
/-- The micropolygon has no area, and so covers no sample. -/
theorem none_covered : (sampleQuad vertexPass 0 0 vertexQuad).1 = [] := List.isEmpty_iff.mp (by decide +kernel)
theorem witness_Sample : ∃ s ps b core q c recs vs, OnlyPass s ps b ∧ b.toLists = [] ∧ b.samplingGrid core ((s.heldTile b core).map fun y => y.1) = some q ∧
    q.verts = some (c, recs) ∧ recs ≠ [] ∧ q.next < q.nu * q.nv ∧ quadOf q recs q.next = some vs ∧
    let u := s.modPass ps fun r => r.setGrid q fun y => { y with next := y.next + 1, sampled := decide (y.nu * y.nv ≤ y.next + 1) }
    let v := u.modPass ps fun r => { r with guard := r.guard || (sampleQuad b q.tile c vs).2 }
    ∃ w, (sampleQuad b q.tile c vs).1.foldl (fun s f => s.bind fun s => s.makeFrag ps core q.tile (256 * q.seq + q.next) c f) (some v) = some w :=
  ⟨passAt vertexPass fragGroup, 0, vertexPass, 0, vertexGrid, 0, _, _, onlyPass_of rfl rfl, rfl, rfl, rfl, by decide, by decide, quad_vertex,
    _, by rw [show vertexGrid.tile = 0 from rfl, none_covered]; rfl⟩

def bareGrid : Grid := { demoGrid with verts := some (0, []) }
def barePass : Pass := { demoPass with grids := [bareGrid] }

theorem witness_SampleNothing : ∃ s ps b core q, OnlyPass s ps b ∧ b.toLists = [] ∧
    b.samplingGrid core ((s.heldTile b core).map fun y => y.1) = some q ∧ ∃ c, q.verts = some (c, []) :=
  ⟨passAt barePass fragGroup, 0, barePass, 0, bareGrid, onlyPass_of rfl rfl, rfl, rfl, 0, rfl⟩

/-- A depth at the end of its range, against a plane of zeros. -/
def MeetsDepth (fn : Nat) (out : Bool) : Prop :=
  ∃ (s : State) (ps : Nat) (key : Nat × Nat × Nat) (d : Nat) (b : Pass) (plane : Nat) (u : State), s.passes[ps]? = some b ∧
    (Fmt.b32.num d).isNan = false ∧ (Fmt.b32.num d).lt (Num.ofInt 0) = false ∧ (Num.ofInt 1).lt (Fmt.b32.num d) = false ∧
    s.tileRead b (b.block.tileOf key) (depthOff b.block (b.block.sampleIx key)) 4 = .ok plane ∧ b.block.depthFn = fn ∧
    depthPasses b.block.depthFn d plane = out ∧ s.tileWrite b (b.block.tileOf key) (depthOff b.block (b.block.sampleIx key)) 4 d = .ok u

def depthPass (fn : Nat) : Pass := { demoPass with block := { demoBlock with depthFn := fn } }

theorem meets_depth (fn : Nat) (out : Bool)
    (hr : devTest (fun v => depthPasses fn 0x3F800000 v == out)
      ((passAt (depthPass fn) fragGroup).tileRead (depthPass fn) ((depthPass fn).block.tileOf (63, 63, 0)) (depthOff (depthPass fn).block ((depthPass fn).block.sampleIx (63, 63, 0))) 4) = true)
    (hw : devTest (fun _ => true) ((passAt (depthPass fn) fragGroup).tileWrite (depthPass fn) ((depthPass fn).block.tileOf (63, 63, 0)) (depthOff (depthPass fn).block ((depthPass fn).block.sampleIx (63, 63, 0))) 4 0x3F800000) = true) :
    MeetsDepth fn out := by
  obtain ⟨v, hv, hp⟩ := dev_test hr
  obtain ⟨u, hu, -⟩ := dev_test hw
  exact ⟨passAt (depthPass fn) fragGroup, 0, (63, 63, 0), 0x3F800000, depthPass fn, v, u, rfl, by decide +kernel, by decide +kernel, by decide +kernel,
    hv, rfl, eq_of_beq hp, hu⟩

theorem witness_DepthFails : MeetsDepth 0 false := meets_depth 0 false (by decide +kernel) (by decide +kernel)
theorem witness_DepthPasses : MeetsDepth 2 true := meets_depth 2 true (by decide +kernel) (by decide +kernel)

/-- White, of opacity 1. -/
def opaque4 : BitVec 64 := 0x3C003C003C003C00
theorem chan_opaque : chan (([opaque4] : List (BitVec 64)).getD 0 0).toNat 3 = 0x3C00 := by decide +kernel
/-- An opaque colour is written beside its depth. -/
theorem witness_DepthColours : ∃ (s : State) (ps : Nat) (key : Nat × Nat × Nat) (d : Nat) (cols : List (BitVec 64)) (b : Pass) (plane : Nat) (u v : State),
    s.passes[ps]? = some b ∧ s.tileRead b (b.block.tileOf key) (depthOff b.block (b.block.sampleIx key)) 4 = .ok plane ∧
    depthPasses b.block.depthFn d plane = true ∧ chan (cols.getD 0 0).toNat 3 = 0x3C00 ∧
    s.tileWrite b (b.block.tileOf key) (colourOff (b.block.sampleIx key)) 8 (cols.getD 0 0).toNat = .ok u ∧
    u.tileWrite b (b.block.tileOf key) (depthOff b.block (b.block.sampleIx key)) 4 d = .ok v := by
  obtain ⟨n, hn, hp⟩ := dev_test (x := (passAt (depthPass 2) fragGroup).tileRead (depthPass 2) ((depthPass 2).block.tileOf (63, 63, 0))
    (depthOff (depthPass 2).block ((depthPass 2).block.sampleIx (63, 63, 0))) 4) (p := fun n => depthPasses 2 0x3F800000 n) (by decide +kernel)
  obtain ⟨u, hu, hv⟩ := dev_test (x := (passAt (depthPass 2) fragGroup).tileWrite (depthPass 2) ((depthPass 2).block.tileOf (63, 63, 0))
    (colourOff ((depthPass 2).block.sampleIx (63, 63, 0))) 8 (([opaque4] : List (BitVec 64)).getD 0 0).toNat)
    (p := fun u => devTest (fun _ => true) (u.tileWrite (depthPass 2) ((depthPass 2).block.tileOf (63, 63, 0))
      (depthOff (depthPass 2).block ((depthPass 2).block.sampleIx (63, 63, 0))) 4 0x3F800000)) (by decide +kernel)
  obtain ⟨v, hv, -⟩ := dev_test hv
  exact ⟨passAt (depthPass 2) fragGroup, 0, (63, 63, 0), 0x3F800000, [opaque4], depthPass 2, n, u, v, rfl, hn, hp, chan_opaque, hu, hv⟩

theorem witness_Edges : ∃ a b : Int × Int, a ≠ b ∧ edgeFn a b (1, 0) = 0 := ⟨(0, 0), (2, 0), by decide, by decide⟩

end Sys2Proof.Tests
end

