-- ==== Sys2Proof/Tests/WitnessStep.lean ====
section
/-! SUPPORT. States and operands that meet the hypotheses of the statements about a step, about encoding and about the canonical form. -/

namespace Sys2Proof.Tests

set_option Elab.async false

open Machine Spec

def fetchIs (f : Instr → Bool) : Fetched → Bool
  | .instr i => f i
  | _ => false
theorem fetch_is {x : Fetched} {f : Instr → Bool} (h : fetchIs f x = true) : ∃ i, x = .instr i ∧ f i = true := by
  cases x with
  | instr i => exact ⟨i, rfl, h⟩
  | _ => exact absurd h Bool.false_ne_true

theorem witness_Step : ∃ (s : State) (gi : Nat) (g : Group) (i : Instr), s.agenda = [] ∧ s.turn = some (acts * gi) ∧ s.sys.tripped = false ∧ s.sys.low = false ∧ s.sys.dev = .d0 ∧
    s.groups[gi]? = some g ∧ g.status = .running ∧ g.hasSlot = true ∧ s.powered g.core = true ∧ s.doomed g = false ∧ g.kind ≠ .combiner ∧ s.fetch g = .instr i := by
  obtain ⟨i, hi, -⟩ := fetch_is (x := demo.fetch demoGroup) (f := fun _ => true) (by decide +kernel)
  exact ⟨demo, 0, demoGroup, i, rfl, rfl, rfl, rfl, rfl, rfl, rfl, rfl, by decide +kernel, rfl, by decide, hi⟩
theorem witness_Agenda : ∃ (s : State) (i : Instr) (l : List Instr), s.agenda = i :: l ∧ s.defers i = false := ⟨State.reset, .resetNRise, [], rfl, by decide⟩

/-- The parcels read are the given ones. -/
def readsIs (l : List Nat) : Except (Option (Cause × DWord)) (List Nat) → Bool
  | .ok m => m == l
  | .error _ => false
theorem reads_is {x : Except (Option (Cause × DWord)) (List Nat)} {l : List Nat} (h : readsIs l x = true) : x = .ok l := by
  cases x with
  | ok m => exact congrArg _ (eq_of_beq h)
  | error e => exact absurd h Bool.false_ne_true

/-- The words of an instruction stand at the group's program counter. -/
def wordsAt (nbits w : Nat) : State := { demo with mem := fetchMemory [] nbits w }
theorem witness_FetchShort : ∃ (s : State) (g : Group) (p : Nat) (i : Instr), s.parcels g g.ctx.pc 1 = .ok [p] ∧ p % 2 = 0 ∧ decodeShort (BitVec.ofNat 32 p) = some i := by
  obtain ⟨i, hi, -⟩ := some_of_any (o := decodeShort (BitVec.ofNat 32 0xA074)) (p := fun _ => true) (by decide +kernel)
  exact ⟨wordsAt 16 0xA074, demoGroup, 0xA074, i, reads_is (by decide +kernel), by decide, hi⟩
/-- An ATOM, whose order word follows it. -/
theorem witness_FetchLong : ∃ (s : State) (g : Group) (p q : Nat) (l : List Nat) (i : Instr), s.parcels g g.ctx.pc 1 = .ok [p] ∧ s.parcels g (g.ctx.pc + 2) 1 = .ok [q] ∧ p % 2 = 1 ∧
    wordOk (BitVec.ofNat 32 (p + 65536 * q)) = true ∧ extCount (BitVec.ofNat 32 (p + 65536 * q)) = 1 ∧ s.parcels g (g.ctx.pc + 4) 2 = .ok l ∧
    decodeLong (BitVec.ofNat 32 (p + 65536 * q)) (parcelWords l) = some i := by
  obtain ⟨i, hi, -⟩ := some_of_any (o := decodeLong 0x08C151CD (parcelWords [0x2001, 2])) (p := fun _ => true) (by decide +kernel)
  exact ⟨wordsAt 64 0x0002200108C151CD, demoGroup, 0x51CD, 0x08C1, [0x2001, 2], i, reads_is (by decide +kernel), reads_is (by decide +kernel), by decide, by decide, by decide,
    reads_is (by decide +kernel), hi⟩
theorem witness_FetchParcel : ∃ (s : State) (g : Group) (va : DWord) (n pa : Nat) (l : List Nat) (c : Bool), s.xlate g.core g.job va .fetch false = .ok pa c ∧ s.poisoned pa 2 = false ∧
    deniedPa pa = false ∧ s.parcels g (va + 2) n = .ok l := by
  cases h : demo.xlate 0 0 0x1FFFFE .fetch false with
  | ok pa c =>
    have hp : (match demo.xlate 0 0 0x1FFFFE .fetch false with | .ok pa _ => !demo.poisoned pa 2 && !deniedPa pa | _ => false) = true := by decide +kernel
    rw [h] at hp
    simp only [Bool.and_eq_true, Bool.not_eq_true'] at hp
    exact ⟨demo, demoGroup, 0x1FFFFE, 0, pa, [], c, h, hp.1, hp.2, rfl⟩
  | _ =>
    have hp : (match demo.xlate 0 0 0x1FFFFE .fetch false with | .ok _ _ => true | _ => false) = true := by decide +kernel
    rw [h] at hp
    exact absurd hp Bool.false_ne_true

theorem witness_RoundTrip : ∃ i : Instr, wf i = true := ⟨.tret none, by decide⟩

theorem stored_demo : Stored demo := ⟨by decide +kernel, by decide, by decide, by decide⟩
theorem witness_Canonical : ∃ s t, Stored s ∧ step s = .next t := by
  have h : (match step demo with | .next _ => true | _ => false) = true := by decide +kernel
  cases hs : step demo with
  | next t => exact ⟨demo, t, stored_demo, hs⟩
  | _ => rw [hs] at h; exact absurd h Bool.false_ne_true

end Sys2Proof.Tests
end

