-- ==== Sys2Proof/Tests/WitnessTasks.lean ====
section
/-! SUPPORT. States and operands that meet the hypotheses of the statements about task queues, exchange, collectives and the order log. -/

namespace Sys2Proof.Tests

set_option Elab.async false

open Machine Spec

/-! ## Task queues -/

/-- A team whose task queue has one place, with the ends given. -/
def taskTeam (size head tail : Nat) : Team := { fetchTeam 0 0 with scrBase := 10, scrLen := 1, taskQ := size, taskHead := head, taskTail := tail }
def taskAt (size head tail : Nat) (g : Group) : State :=
  { (demoOf g).modCore 0 (fun c => { c with tlb := [⟨0, 0, 32, 0xA7⟩] }) with teams := [taskTeam size head tail] }
def plainAsy : Asy := ⟨none, 0, false, 0, 0, 0⟩
/-- c3 and s56 to s63. -/
def taskWord : Word := 3 + 4 * 56
def taskGroup : Group := withCtx id

theorem canTrap_task (size head tail : Nat) : CanTrap (taskAt size head tail demoGroup) demoGroup :=
  ⟨by decide, rfl, rfl, ⟨demoJob, rfl, by decide⟩, by decide⟩

theorem witness_Tkpush : ∃ s g x k t, Ready (.tkpush x k) (takesRegs (fld k 7 2) 8) s g ∧ OwnQueue s g t ∧ t.taskTail < t.taskHead + t.taskQ / 64 :=
  ⟨taskAt 64 5 5 demoGroup, demoGroup, plainAsy, taskWord, _, ready_of rfl (by decide) (by decide), ⟨by decide +kernel, rfl⟩, by decide⟩
theorem witness_TkpushFull : ∃ s g x k t, Ready (.tkpush x k) (takesRegs (fld k 7 2) 8) s g ∧ OwnQueue s g t ∧ t.taskHead + t.taskQ / 64 ≤ t.taskTail :=
  ⟨taskAt 64 5 6 demoGroup, demoGroup, plainAsy, taskWord, _, ready_of rfl (by decide) (by decide), ⟨by decide +kernel, rfl⟩, by decide⟩
theorem witness_TkpushRule : ∃ s g x k, Ready (.tkpush x k) (takesRegs (fld k 7 2) 8) s g ∧ CanTrap s g ∧ s.taskTeam g.core ≠ some g.team :=
  ⟨taskAt 0 0 0 demoGroup, demoGroup, plainAsy, taskWord, ready_of rfl (by decide) (by decide), canTrap_task _ _ _, by decide +kernel⟩
theorem witness_Tkpop : ∃ s g x k t, Ready (.tkpop x k) (takesRegs (fld k 7 2) 8) s g ∧ OwnQueue s g t ∧ t.taskHead < t.taskTail :=
  ⟨taskAt 64 5 6 demoGroup, demoGroup, plainAsy, taskWord, _, ready_of rfl (by decide) (by decide), ⟨by decide +kernel, rfl⟩, by decide⟩
theorem witness_TkpopEmpty : ∃ s g x k t, Ready (.tkpop x k) (takesRegs (fld k 7 2) 8) s g ∧ OwnQueue s g t ∧ t.taskTail ≤ t.taskHead :=
  ⟨taskAt 64 5 5 demoGroup, demoGroup, plainAsy, taskWord, _, ready_of rfl (by decide) (by decide), ⟨by decide +kernel, rfl⟩, by decide⟩
theorem witness_Tksteal : ∃ s g x k ti t, Ready (.tksteal x k) (takesRegs (fld k 7 2) 8) s g ∧
    s.taskTeam (((found g).getS (fld k 7 2)).toNat % 64) = some ti ∧ s.teams[ti]? = some t ∧ t.job = g.job ∧ t.taskHead < t.taskTail :=
  ⟨taskAt 64 5 6 demoGroup, demoGroup, plainAsy, taskWord, 0, _, ready_of rfl (by decide) (by decide), by decide +kernel, rfl, rfl, by decide⟩
theorem witness_TkstealEmpty : ∃ s g x k, Ready (.tksteal x k) (takesRegs (fld k 7 2) 8) s g ∧
    ∀ ti t, s.taskTeam (((found g).getS (fld k 7 2)).toNat % 64) = some ti → s.teams[ti]? = some t → t.job = g.job → t.taskTail ≤ t.taskHead :=
  ⟨taskAt 64 5 5 demoGroup, demoGroup, plainAsy, taskWord, ready_of rfl (by decide) (by decide), fun ti t _ h _ => by
    have ht : t ∈ [taskTeam 64 5 5] := List.mem_of_getElem? h
    rw [List.mem_singleton.mp ht]
    decide⟩
theorem witness_TkdoneClear : ∃ s g x k, Ready (.tkdone x k) { takesRegs (fld k 7 2) 8 with rel := true } s g ∧
    ((found g).getS (fld k 7 2 + 3)).toNat / 2 ^ 32 % 2 = 0 :=
  ⟨demo, demoGroup, plainAsy, taskWord, ready_of rfl (by decide) (by decide), by decide +kernel⟩

/-- A record whose counter is at 0x2000, and its successor at 0x2040. -/
def countGroup : Group := withCtx fun x => ((x.setS 59 (2 ^ 32)).setS 60 0x2000).setS 61 0x2040
def countAcc : LaneAcc := ⟨0, 0x2000, 0x2000, false⟩

theorem counterAt_demo : CounterAt (taskAt 64 5 5 countGroup) countGroup (fld taskWord 7 2) countAcc where
  flagged := by decide +kernel
  reach := ⟨by decide +kernel, by decide, fun x hx => by rw [List.mem_singleton.mp hx]; decide +kernel⟩
  host := by decide +kernel
  free := by decide +kernel

theorem witness_Tkdone : ∃ s g x k a, Ready (.tkdone x k) { takesRegs (fld k 7 2) 8 with rel := true } s g ∧ CounterAt s g (fld k 7 2) a ∧
    g.doneLanes.getLsbD 0 = false :=
  ⟨taskAt 64 5 5 countGroup, countGroup, plainAsy, taskWord, countAcc, ready_of rfl (by decide) (by decide), counterAt_demo, by decide⟩

/-- The group whose decrement found a value. -/
def toldGroup (old : BitVec 128) : Group := { countGroup with retry := some ⟨0x100000, 1, [(0, old)]⟩ }
def toldAt (size tail : Nat) (old : BitVec 128) : State := taskAt size 5 tail (toldGroup old)

theorem counterWas_demo (old : BitVec 128) (h : (toldGroup old).doneLanes.getLsbD 0 = true) : CounterWas (toldGroup old) (fld taskWord 7 2) (old.toNat % 2 ^ 32) := 
  ⟨show ((found countGroup).getS (fld taskWord 7 2 + 3)).toNat / 2 ^ 32 % 2 = 1 by decide +kernel, h, rfl⟩

theorem witness_TkdoneMore : ∃ s g x k old, Ready (.tkdone x k) { takesRegs (fld k 7 2) 8 with rel := true } s g ∧ CounterWas g (fld k 7 2) old ∧ old ≠ 1 :=
  ⟨toldAt 64 5 0, toldGroup 0, plainAsy, taskWord, 0, ready_of rfl (by decide) (by decide), counterWas_demo 0 (by decide +kernel), by decide⟩

/-- The successor can be read. -/
def MeetsLast (room : State → Group → Prop) : Prop :=
  ∃ s g x k v, Ready (.tkdone x k) { takesRegs (fld k 7 2) 8 with rel := true } s g ∧ CounterWas g (fld k 7 2) 1 ∧
    (opened s g).devRead g.job ((found g).getS (fld k 7 2 + 5)) 64 = .ok v ∧ room s g
theorem meetsLast_told (room : State → Group → Prop) (size tail : Nat)
    (h : devTest (fun _ => true) ((opened (toldAt size tail 1) (toldGroup 1)).devRead 0 0x2040 64) = true) (hi : idle (toldAt size tail 1) (toldGroup 1) = true)
    (hr : room (toldAt size tail 1) (toldGroup 1)) :
    MeetsLast room := by
  obtain ⟨v, hv, -⟩ := dev_test h
  exact ⟨toldAt size tail 1, toldGroup 1, plainAsy, taskWord, v, ready_of rfl hi (by decide), counterWas_demo 1 (by decide +kernel), hv, hr⟩

theorem witness_TkdoneLast :
    MeetsLast fun s g => ∃ ti t, s.taskTeam g.core = some ti ∧ s.teams[ti]? = some t ∧ t.taskTail < t.taskHead + t.taskQ / 64 :=
  meetsLast_told _ 64 5 (by decide +kernel) (by decide) ⟨0, _, by decide +kernel, rfl, by decide⟩
theorem witness_TkdoneFull :
    MeetsLast fun s g => ∃ ti t, s.taskTeam g.core = some ti ∧ s.teams[ti]? = some t ∧ t.taskHead + t.taskQ / 64 ≤ t.taskTail :=
  meetsLast_told _ 64 6 (by decide +kernel) (by decide) ⟨0, _, by decide +kernel, rfl, by decide⟩
theorem witness_TkdoneNoQueue : MeetsLast fun s g => s.taskTeam g.core = none :=
  meetsLast_told _ 0 5 (by decide +kernel) (by decide) (by decide +kernel)

/-! ## Exchange -/

/-- A group that names group 254 in w7, and that group. -/
def nameGroup : Group := withCtx fun x => { x with slots := Vector.replicate 8 ⟨true, 254⟩ }
def partnerGroup : Group := { demoGroup with number := 254 }
def twoAt : State := { demoOf nameGroup with groups := [nameGroup, partnerGroup] }

theorem witness_Xchg : ∃ s g x h p, Ready (.xchg x) { ents := (⟨x.a, false⟩ : Src).ents ||| entRange x.d.toNat 1 } s g ∧
    g.ctx.mappedAll (entRange x.d.toNat 1) = true ∧ (opened s g).xchgPartner (asFound g) (slotAt (found g) x.b) = some h ∧
    (opened s g).groups[h]? = some p ∧ p.living = true :=
  ⟨twoAt, nameGroup, ⟨none, 15, true, 2, 27, 0⟩, 1, partnerGroup, ready_of rfl (by decide) (by decide), by decide, by decide +kernel, rfl, rfl⟩

def exchanging (n partner : Nat) : Group :=
  { demoGroup with number := n, status := .xchgWait 0x100004, xchg := some (15, partner, Lanes.zero), block := some (pendOf (.xchg ⟨none, 15, true, 2, 27, 0⟩) demoGroup (.entries 15 1) 1 true) }

theorem witness_Pairing : ∃ (s : State) (gi hi : Nat) (g h : Group) (ng nh : DWord) (dg dh pg ph : Nat) (vg vh : Lanes) (pend : Pend),
    s.groups[gi]? = some g ∧ s.groups[hi]? = some h ∧ gi ≠ hi ∧ g.status = .xchgWait ng ∧ h.status = .xchgWait nh ∧ g.xchg = some (dg, pg, vg) ∧
    h.xchg = some (dh, ph, vh) ∧ s.partner g pg = some hi ∧ s.partner h ph = some gi ∧ s.preempting g = false ∧ s.preempting h = false ∧
    g.block = some pend ∧ dg < 16 :=
  ⟨{ demo with groups := [exchanging 0 254, exchanging 254 0] }, 0, 1, _, _, _, _, _, _, _, _, _, _, _, rfl, rfl, by decide, rfl, rfl, rfl, rfl,
    by decide, by decide, by decide, by decide, rfl, by decide⟩

/-! ## Collectives -/

/-- CRED to the last identifier, of the last operation and type. -/
def credWord : Word := 2 + 4 * 2 + 2 ^ 16 * 0xFFFF
def credOps : Asy := ⟨none, 0, false, 2, 27, 0⟩
def credGroup : Group := withCtx fun x => { x with slots := Vector.replicate 8 ⟨true, 0x2000⟩ }
def credEntry (op : Option (Nat × Nat)) (locals : Nat) (l : List Contribution) : CollEntry :=
  { ident := 0xFFFF, locals := locals, parent := 0xFFFF, port := 0, children := 0, op := op, contribs := l, fromChildren := [], sent := false,
    aborted := false, late := 0 }
def credAt (l : List CollEntry) : State := { demoOf credGroup with colls := l }

theorem witness_CredNone : ∃ s g x k, Ready (.cred x k) { ents := (⟨x.a, false⟩ : Src).ents, rel := true } s g ∧
    (s.colls.find? fun e => e.ident == fld k 31 16) = none ∧ (slotAt (found g) x.b).toNat % 1024 = 0 :=
  ⟨credAt [], credGroup, credOps, credWord, ready_of rfl (by decide) (by decide), rfl, by decide +kernel⟩

theorem contributes_demo (op : Option (Nat × Nat)) (hf : ((credAt [credEntry op 1 []]).colls.find? fun e => e.ident == fld credWord 31 16) = some (credEntry op 1 [])) :
    Contributes (credAt [credEntry op 1 []]) credGroup credOps credWord (credEntry op 1 []) :=
  ⟨hf, ⟨rfl, .inr (show 0 < 1 by decide)⟩, fun _ h => absurd h (by simp [credEntry]), show (slotAt (found credGroup) 27).toNat % 1024 = 0 by decide +kernel⟩

theorem witness_Cred : ∃ s g x k e, Ready (.cred x k) { ents := (⟨x.a, false⟩ : Src).ents, rel := true } s g ∧ Contributes s g x k e ∧
    (e.op = none ∨ e.op = some (fld k 1 0, fld k 3 2)) :=
  ⟨credAt [credEntry none 1 []], credGroup, credOps, credWord, _, ready_of rfl (by decide) (by decide), contributes_demo none (by decide), .inl rfl⟩

theorem witness_CredMismatch : ∃ s g x k e, Ready (.cred x k) { ents := (⟨x.a, false⟩ : Src).ents, rel := true } s g ∧ Contributes s g x k e ∧
    ¬ (e.op = none ∨ e.op = some (fld k 1 0, fld k 3 2)) :=
  ⟨credAt [credEntry (some (2, 1)) 1 []], credGroup, credOps, credWord, _, ready_of rfl (by decide) (by decide), contributes_demo _ (by decide),
    by decide⟩

def credPart : Contribution := { core := 0, group := 0, job := 0, grp := 0, ty := 0, vals := List.replicate 256 1, dest := 0x2000 }

def credOne : CollEntry := credEntry (some (0, 0)) 1 [credPart]

def MeetsCombine (parent : Nat) : Prop :=
  ∃ (s : State) (ident : Nat) (e : CollEntry), (s.colls.find? fun e => e.ident == ident) = some e ∧ e.aborted = false ∧ s.credBroken e = false ∧
    e.sent = false ∧ s.credHeld e = false ∧ e.contribs.length = e.locals ∧ e.fromChildren.length = e.children ∧ e.contribs ≠ [] ∧ e.parent = parent
theorem witness_Combine : MeetsCombine 0xFFFF :=
  ⟨credAt [credOne], 0xFFFF, credOne, by decide +kernel, rfl, by decide +kernel, rfl, by decide +kernel, rfl, rfl, by decide, rfl⟩
theorem witness_CombineOn : MeetsCombine 0xFFFE :=
  ⟨credAt [{ credOne with parent := 0xFFFE }], 0xFFFF, { credOne with parent := 0xFFFE }, by decide +kernel, rfl, by decide +kernel, rfl, by decide +kernel,
    rfl, rfl, by decide, rfl⟩

theorem witness_CombineBroken : ∃ (s : State) (ident : Nat) (e : CollEntry), (s.colls.find? fun e => e.ident == ident) = some e ∧ e.aborted = false ∧
    s.credBroken e = true :=
  ⟨{ credAt [credOne] with launches := [{ fetchLaunch 0 with faulted := true }] }, 0xFFFF, credOne, by decide +kernel, rfl,
    by decide +kernel⟩
theorem witness_CombineWaits : ∃ (s : State) (ident : Nat) (e : CollEntry), (s.colls.find? fun e => e.ident == ident) = some e ∧ e.aborted = false ∧
    s.credBroken e = false ∧ e.contribs.length < e.locals :=
  ⟨credAt [credEntry (some (0, 0)) 2 [credPart]], 0xFFFF, credEntry (some (0, 0)) 2 [credPart], by decide +kernel, rfl, by decide +kernel, by decide⟩

/-! ## The order log -/

/-- RLOG with the log's address in w7, or without one. -/
def logOps (sub : BitVec 4) : Asy := ⟨none, 0, false, 0, 27, sub⟩
def bareOps (sub : BitVec 4) : Asy := ⟨none, 0, false, 0, 0, sub⟩
def logAt (m : LogMode) (mem : SMap 8) : State := { demoOf credGroup with jobs := [{ demoJob with log := m }], mem := mem }
def logMem : SMap 8 := fetchMemory [] 32 0x2B5

theorem witness_RlogDisable : ∃ s g x, Ready (.rlogDisable x) { rel := true } s g ∧ (opened s g).isControl (asFound g) = true ∧
    (opened s g).runsWait g.job = false :=
  ⟨demo, demoGroup, bareOps 0, ready_of rfl (by decide) (by decide), by decide +kernel, by decide +kernel⟩

theorem witness_SetLog : ∃ (s : State) (job : Nat) (j : Job), s.jobs[job]? = some j := ⟨demo, 0, demoJob, rfl⟩

theorem opened_log (m : LogMode) (mem : SMap 8) : (opened (logAt m mem) credGroup).closeRuns 0 = opened (logAt m mem) credGroup :=
  Laws.closeRuns_nil _ _ rfl

theorem witness_RlogRecord : ∃ s g x h u, Ready (.rlogRecord x) { rel := true } s g ∧ (opened s g).isControl (asFound g) = true ∧
    (slotAt (found g) x.b).toNat % 4096 = 0 ∧ (opened s g).runsWait g.job = false ∧ (opened s g).mapMoves = false ∧ (opened s g).readAt g.job (slotAt (found g) x.b) [0, 8, 16, 24, 40, 48] = .ok h ∧
    ((opened s g).closeRuns g.job).zeroAt g.job (slotAt (found g) x.b) ([32, 56] ++ (List.range 64).map colOffset) = .ok u ∧
    (u.setLog g.job (.record (slotAt (found g) x.b))).teams = s.teams ∧
    (u.setLog g.job (.record (slotAt (found g) x.b))).groups = (opened s g).groups := by
  obtain ⟨h, hh, -⟩ := dev_any (x := (opened (logAt .off logMem) credGroup).readAt 0 (slotAt (found credGroup) 27) [0, 8, 16, 24, 40, 48]) (p := fun _ => true)
    (by decide +kernel)
  obtain ⟨u, hu, hr⟩ := dev_any (x := (opened (logAt .off logMem) credGroup).zeroAt 0 (slotAt (found credGroup) 27) ([32, 56] ++ (List.range 64).map colOffset))
    (p := fun u => u.runs.isEmpty) (by decide +kernel)
  have hk := (Laws.zeroAt_kept _ hu).trans (Laws.setLog_kept u 0 (.record (slotAt (found credGroup) 27)) (List.isEmpty_iff.mp hr))
  exact ⟨logAt .off logMem, credGroup, logOps 1, h, u, ready_of rfl (by decide) (by decide), by decide +kernel, by decide +kernel,
    by decide +kernel, by decide +kernel, hh,
    (opened_log _ _).symm ▸ hu, hk.2, hk.1⟩

theorem witness_RlogReplay : ∃ s g x h gs u, Ready (.rlogReplay x) { rel := true } s g ∧ (opened s g).isControl (asFound g) = true ∧
    (slotAt (found g) x.b).toNat % 4096 = 0 ∧ (opened s g).runsWait g.job = false ∧ (opened s g).mapMoves = false ∧ (opened s g).readAt g.job (slotAt (found g) x.b) [0, 8, 16, 24, 32, 40, 48, 56] = .ok h ∧
    (opened s g).readLog g.job (slotAt (found g) x.b) (h.getD 0 0) (h.getD 1 0) (List.range 64) = .ok gs ∧
    (opened s g).readDone g.job (slotAt (found g) x.b) (List.range 64) = .ok u ∧
    (u.setLog g.job (.replay (slotAt (found g) x.b))).teams = s.teams ∧
    (u.setLog g.job (.replay (slotAt (found g) x.b))).groups = (opened s g).groups := by
  obtain ⟨h, hh, hg⟩ := dev_any (x := (opened (logAt .off logMem) credGroup).readAt 0 (slotAt (found credGroup) 27) [0, 8, 16, 24, 32, 40, 48, 56])
    (p := fun h => devTest (fun _ => true)
      ((opened (logAt .off logMem) credGroup).readLog 0 (slotAt (found credGroup) 27) (h.getD 0 0) (h.getD 1 0) (List.range 64))) (by decide +kernel)
  obtain ⟨gs, hgs, -⟩ := dev_test hg
  obtain ⟨u, hu, hr⟩ := dev_any (x := (opened (logAt .off logMem) credGroup).readDone 0 (slotAt (found credGroup) 27) (List.range 64))
    (p := fun u => u.runs.isEmpty) (by decide +kernel)
  have hk := (Laws.readDone_kept _ hu).trans (Laws.setLog_kept u 0 (.replay (slotAt (found credGroup) 27)) (List.isEmpty_iff.mp hr))
  exact ⟨logAt .off logMem, credGroup, logOps 2, h, gs, u, ready_of rfl (by decide) (by decide), by decide +kernel, by decide +kernel,
    by decide +kernel, by decide +kernel, hh, hgs, hu,
    hk.2, hk.1⟩

/-- A job whose control kernel is another. -/
def otherControl : State := { demo with jobs := [{ demoJob with control := 0x3000 }] }

theorem witness_RlogRule : ∃ s g x, Ready (.rlogRecord x) { rel := true } s g ∧ CanTrap s g ∧ (opened s g).isControl (asFound g) = false :=
  ⟨otherControl, demoGroup, logOps 1, ready_of rfl (by decide) (by decide), ⟨by decide, rfl, rfl, ⟨_, rfl, by decide⟩, by decide⟩, by decide +kernel⟩

theorem witness_RlogMark : ∃ s g x t, Ready (.rlogMark x) {} s g ∧ (opened s g).isControl (asFound g) = true ∧ markBody (opened s g) (asFound g) = .ok t ∧
    t.teams = s.teams ∧ t.groups = (opened s g).groups :=
  ⟨demo, demoGroup, bareOps 3, opened demo demoGroup, ready_of rfl (by decide) (by decide), by decide +kernel, rfl, rfl, rfl⟩

theorem diverge_of {x : Marked} (h : (match x with | .diverge => true | _ => false) = true) : x = .diverge := by
  cases x with
  | diverge => rfl
  | ok _ => exact absurd h Bool.false_ne_true
  | fail _ _ => exact absurd h Bool.false_ne_true
  | wait => exact absurd h Bool.false_ne_true

theorem witness_RlogMarkDiverges : ∃ s g x, Ready (.rlogMark x) {} s g ∧ CanTrap s g ∧ (opened s g).isControl (asFound g) = true ∧
    markBody (opened s g) (asFound g) = .diverge :=
  ⟨logAt (.replay 0x2000) logMem, credGroup, bareOps 3, ready_of rfl (by decide) (by decide),
    ⟨by decide, rfl, rfl, ⟨_, rfl, by decide⟩, by decide⟩, by decide +kernel, diverge_of (by decide +kernel)⟩

end Sys2Proof.Tests
end

