-- ==== Sys2Proof/Tests/WitnessThread.lean ====
section
/-! SUPPORT. States and operands that meet the hypotheses of the statements about thread and uniform instructions. -/

namespace Sys2Proof.Tests

set_option Elab.async false

open Machine Spec

/-- What TableCompletes asks of an instruction. -/
def Meets (table : Instr → Option LaneSpec) : Prop :=
  ∃ i l s g, table i = some l ∧ Ready i l.op.uses s g ∧ g.ctx.latchesOk l.op.srcs = true ∧ g.ctx.mappedAll l.op.dest = true

/-- V2 operands at the top entry. -/
def topV2 : V2 := ⟨none, 0, 15, true, 15, 14, true⟩
def topV3 : V3 := ⟨none, 15, true, 15, 14, 13⟩
def topVI : VI := ⟨none, 15, true, 15, 0xFFF⟩

theorem witness_IntegerArithmetic : Meets intTable :=
  ⟨.iadd { topV2 with mod := 1 }, _, demo, demoGroup, rfl, ready_of rfl (by decide) (by decide), by decide, by decide⟩

theorem witness_BitCountsAndFields : Meets bitTable :=
  ⟨.bitins topV3, _, demo, demoGroup, rfl, ready_of rfl (by decide) (by decide), by decide, by decide⟩

theorem witness_ShiftsAndAddresses : Meets shiftTable :=
  ⟨.sar { topV2 with mod := 1, d := 14, a := 14, s := false }, _, demo, demoGroup, rfl, ready_of rfl (by decide) (by decide), by decide, by decide⟩

theorem witness_MultiplyAddAndMoves : Meets mulTable :=
  ⟨.muladd topV3, _, demo, demoGroup, rfl, ready_of rfl (by decide) (by decide), by decide, by decide⟩

theorem witness_ImmediateResults : Meets immTable :=
  ⟨.iaddi topVI, _, demo, demoGroup, rfl, ready_of rfl (by decide) (by decide), by decide, by decide⟩

theorem witness_SixteenBitForms : ∃ i j l s g, form16 i = some j ∧ intTable j = some l ∧ Ready i l.op.uses s g ∧
    g.ctx.latchesOk l.op.srcs = true ∧ g.ctx.mappedAll l.op.dest = true :=
  ⟨.imin16 ⟨true, true, 15, 15⟩, _, _, demo, demoGroup, rfl, rfl, ready_of rfl (by decide) (by decide), by decide, by decide⟩

theorem witness_FloatingArithmetic : Meets floatTable :=
  ⟨.fadd topV2, _, demo, demoGroup, rfl, ready_of rfl (by decide) (by decide), by decide, by decide⟩

theorem witness_FusedAndDotProducts : Meets fusedTable :=
  ⟨.fma32 topV3, _, demo, demoGroup, rfl, ready_of rfl (by decide) (by decide), by decide, by decide⟩

theorem witness_TransPipeResults : Meets transTable :=
  ⟨.frcp { topV2 with b := 0 }, _, demo, demoGroup, rfl, ready_of rfl (by decide) (by decide), by decide, by decide⟩

theorem witness_ConversionResults : Meets convertTable :=
  ⟨.fint { topV2 with b := 0, s := false }, _, demo, demoGroup, rfl, ready_of rfl (by decide) (by decide), by decide, by decide⟩

theorem witness_LaneResults : Meets laneTable :=
  ⟨.xlane { topV2 with s := false }, _, demo, demoGroup, rfl, ready_of rfl (by decide) (by decide), by decide, by decide⟩

theorem witness_PredicateResults : ∃ i l s g, predTable i = some l ∧ Ready i l.uses s g ∧ g.ctx.latchesOk l.srcs = true :=
  ⟨.icmp { topV2 with mod := 5, d := 7 }, _, demo, demoGroup, rfl, ready_of rfl (by decide) (by decide), by decide⟩

/-! ## Indexed moves -/

/-- Index register 3 holds the window v8 to v15, and only thread 0 is active. -/
def ixGroup (len : BitVec 8) : Group :=
  { demoGroup with ctx := { demoCtx with ix := Vector.replicate 4 ⟨8, len⟩, active := 1 } }
def topIx : V2 := ⟨none, 3, 15, true, 1, 2, false⟩

theorem witness_MovxCompletes : ∃ s g x, Ready (.movx x) (movxUses x s) s g ∧ g.ctx.latchesOk [⟨x.a, false⟩] = true ∧
    g.ctx.mappedAll (⟨[⟨x.a, false⟩], x.d.toNat, x.w, false, .x⟩ : VecOp).dest = true ∧
    ∀ t < 256, (g.ctx.begin (movxUses x s)).active.getLsbD t = true → index (g.ctx.begin (movxUses x s)) x t < (window (g.ctx.begin (movxUses x s)) x).len.toNat :=
  ⟨demoOf (ixGroup 1), ixGroup 1, { topIx with b := 0 }, ready_of rfl (by decide) (by decide), by decide, by decide, by decide +kernel⟩

theorem witness_StxCompletes : ∃ s g x, Ready (.stx x) (stxUses x s) s g ∧ g.ctx.latchesOk (stxSrcs x) = true ∧
    (∀ t < 256, (g.ctx.begin (stxUses x s)).active.getLsbD t = true →
      index (g.ctx.begin (stxUses x s)) x t < (window (g.ctx.begin (stxUses x s)) x).len.toNat) ∧
    (window (g.ctx.begin (stxUses x s)) x).base.toNat + (window (g.ctx.begin (stxUses x s)) x).len.toNat ≤ (g.ctx.begin (stxUses x s)).main.length ∧
    (g.ctx.begin (stxUses x s)).main.length ≤ 256 :=
  ⟨demoOf (ixGroup 8), ixGroup 8, { topIx with d := 0, w := false }, ready_of rfl (by decide +kernel) (by decide +kernel), by decide +kernel, by decide +kernel, by decide +kernel, by decide +kernel +kernel⟩

theorem witness_IndexTraps : ∃ s g x, Ready (.movx x) (movxUses x s) s g ∧
    g.ctx.mappedAll (⟨[⟨x.a, false⟩], x.d.toNat, x.w, false, .x⟩ : VecOp).dest = true ∧ g.ctx.begin (movxUses x s) = g.ctx ∧
    g.ctx.latchesOk (stxSrcs x) = true ∧ ∃ t < 256, g.ctx.active.getLsbD t = true ∧ (window g.ctx x).len.toNat ≤ index g.ctx x t :=
  ⟨demoOf (ixGroup 0), ixGroup 0, { topIx with b := 0 }, ready_of rfl (by decide) (by decide), by decide, rfl, by decide, 0, by decide, by decide, by decide +kernel⟩

theorem witness_StxTraps : ∃ s g x, Ready (.stx x) (stxUses x s) s g ∧ g.ctx.begin (stxUses x s) = g.ctx ∧ g.ctx.latchesOk (stxSrcs x) = true ∧
    ∃ t < 256, g.ctx.active.getLsbD t = true ∧ (window g.ctx x).len.toNat ≤ index g.ctx x t :=
  ⟨demoOf (ixGroup 0), ixGroup 0, { topIx with d := 0, w := false }, ready_of rfl (by decide) (by decide), rfl, by decide, 0, by decide, by decide, by decide +kernel⟩

/-! ## Uniform instructions -/

theorem witness_UniformIntegers : ∃ i l s g, uniTable i = some l ∧ Ready i l.uses s g :=
  ⟨.ssel ⟨none, 63, 62, 61, 7⟩, _, demo, demoGroup, rfl, ready_of rfl (by decide) (by decide)⟩

theorem witness_UniformFloats : ∃ i l s g, uniFloatTable i = some l ∧ Ready i l.uses s g :=
  ⟨.sdmul ⟨none, 63, 62, 61, 0⟩, _, demo, demoGroup, rfl, ready_of rfl (by decide) (by decide)⟩

end Sys2Proof.Tests
end

/-! PROOFS. The step of the machine: whose turn it is, what a group fetches, and O56. -/

namespace Sys2Proof.Proofs

open Machine

/-! ## The turn of a group -/

/-- Whose turn it is says nothing of what a group fetches. -/
theorem parcels_turn (s : State) (g : Group) (o : Option Nat) (n : Nat) (va : DWord) :
    ({ s with turn := o } : State).parcels g va n = s.parcels g va n := by
  induction n generalizing va with
  | zero => rfl
  | succ n ih =>
    have hp : ({ s with turn := o } : State).parcel g va = s.parcel g va := rfl
    simp only [State.parcels, hp, ih]

theorem fetch_turn (s : State) (g : Group) (o : Option Nat) : ({ s with turn := o } : State).fetch g = s.fetch g := by
  simp only [State.fetch, parcels_turn]

/-- A running group with its slot runs the instruction that its fetch gives. -/
theorem groupStep_instr {s : State} {gi : Nat} {g : Group} {i : Instr} (hg : s.groups[gi]? = some g) (hr : g.status = .running)
    (hs : g.hasSlot = true) (hf : s.fetch g = .instr i) : groupStep s gi = exec i { (s.fetchFill g (instrBytes i)) with cur := gi } := by
  simp [groupStep, hg, hr, hs, hf]

theorem groupTurn_step {s : State} {gi : Nat} {g : Group} (hg : s.groups[gi]? = some g) (hd : s.doomed g = false)
    (hk : g.kind = .combiner → g.icount < 16777216) (hp : s.powered g.core = true) : groupTurn s gi = groupStep s gi := by
  have hlim : (g.kind == .combiner && decide (g.icount ≥ 16777216)) = false := by
    by_cases h : g.kind = .combiner
    · simp [h, hk h]
    · simp [h]
  simp [groupTurn, hg, hd, hlim, hp]

/-- With an empty agenda and the part running, the agent that `turn` names acts. -/
theorem step_turn {s : State} {n : Nat} (ha : s.agenda = []) (ht : s.turn = some n) (hr : s.sys.runs = true) :
    step s = noticing (act (n % acts) (n / acts) { s with turn := none }) := by
  have htrip : s.sys.tripped = false := by simp only [Sys.runs, Bool.and_eq_true, Bool.not_eq_true'] at hr; exact hr.2
  simp [step, machineStep, machineAct, agentStep, ha, ht, hr, htrip]

/-- Turn `acts * gi` is the group's own. -/
theorem act_group {s : State} {gi : Nat} (h : gi < s.groups.length) : act (acts * gi % acts) (acts * gi / acts) s = groupTurn s gi := by
  have hmod : acts * gi % acts = 0 := Nat.mul_mod_right acts gi
  have hdiv : acts * gi / acts = gi := Nat.mul_div_cancel_left gi (by decide)
  rw [hmod, hdiv]
  show groupTurn s (gi % max 1 s.groups.length) = _
  rw [Nat.mod_eq_of_lt (by omega)]

theorem step_group {s : State} {gi : Nat} {g : Group} {i : Instr} (ha : s.agenda = []) (ht : s.turn = some (acts * gi))
    (hr : s.sys.runs = true) (hg : s.groups[gi]? = some g) (hrun : g.status = .running) (hs : g.hasSlot = true)
    (hp : s.powered g.core = true) (hd : s.doomed g = false) (hk : g.kind = .combiner → g.icount < 16777216)
    (hf : s.fetch g = .instr i) :
    step s = noticing (exec i { ({ s with turn := none } : State).fetchFill g (instrBytes i) with cur := gi }) := by
  obtain ⟨hlt, -⟩ := List.getElem?_eq_some_iff.mp hg
  rw [step_turn ha ht hr, act_group (s := { s with turn := none }) hlt, groupTurn_step (s := { s with turn := none }) hg hd hk hp,
    groupStep_instr (s := { s with turn := none }) hg hrun hs ((fetch_turn s g none).trans hf)]

/-- The event that stands first in the agenda, where it need not wait, is what the step runs. -/
theorem step_agenda {s : State} {i : Instr} {l : List Instr} (ha : s.agenda = i :: l) (hd : s.defers i = false) :
    step s = noticing (exec i { s with agenda := l }) := by
  simp [step, machineStep, machineAct, ha, hd]

theorem mem_notice (t : State) (n : Notice) :
    n ∈ t.notice.noticed ↔ n ∈ t.watched ∧ t.heeds n = true ∧ (n ∈ t.noticed ∨ t.meets n = true) := by
  simp [State.notice, List.mem_filter]

/-! ## Fetching -/

theorem fetch_short {s : State} {g : Group} {p : Nat} {i : Instr} (hp : s.parcels g g.ctx.pc 1 = .ok [p]) (hpc : g.ctx.pc.getLsbD 0 = false)
    (heven : p % 2 = 0) (hi : decodeShort (BitVec.ofNat 32 p) = some i) : s.fetch g = .instr i := by
  have heven' : (p % 2 == 0) = true := by simp [heven]
  simp only [State.fetch, hpc, hp, hi, heven', List.headD_cons, Bool.false_eq_true, if_false, if_true]

theorem fetch_long {s : State} {g : Group} {p q : Nat} {l : List Nat} {i : Instr} (hp : s.parcels g g.ctx.pc 1 = .ok [p])
    (hq : s.parcels g (g.ctx.pc + 2) 1 = .ok [q]) (hpc : g.ctx.pc.getLsbD 0 = false) (hodd : p % 2 = 1)
    (hw : wordOk (BitVec.ofNat 32 (p + 65536 * q)) = true)
    (hl : s.parcels g (g.ctx.pc + 4) (2 * extCount (BitVec.ofNat 32 (p + 65536 * q))) = .ok l)
    (hi : decodeLong (BitVec.ofNat 32 (p + 65536 * q)) (parcelWords l) = some i) : s.fetch g = .instr i := by
  have hodd' : (p % 2 == 0) = false := by simp [hodd]
  simp only [State.fetch, hpc, hp, hq, hl, hi, hw, hodd', List.headD_cons, Bool.false_eq_true, Bool.not_true, if_false]

/-- Memory under no other job's key reads as it stands. -/
theorem memFor_eq_memNat {s : State} {job pa n : Nat} (h : ∀ k < n, s.foreign job (pa + k) = none) : s.memFor job pa n = memNat s.mem pa n := by
  refine congrArg leNat (List.map_congr_left fun k hk => ?_)
  simp [State.plain, h k (List.mem_range.mp hk)]

theorem peerRefused_of_none {s : State} {job pa : Nat} (h : s.peerOf pa = none) : s.peerRefused job pa = false := by
  unfold State.peerOf at h
  unfold State.peerRefused
  split at h
  · cases h
  · rfl

theorem parcel_of_memory {s : State} {g : Group} {va : DWord} {pa : Nat} {c : Bool} (hx : s.xlate g.core g.job va .fetch false = .ok pa c)
    (hpo : s.poisoned pa 2 = false) (hden : deniedPa pa = false) (hpeer : s.peerOf pa = none) (hw : s.edgeWaits g.job pa = false)
    (hf : ∀ k < 2, s.foreign g.job (pa + k) = none) : s.parcel g va = .ok (memNat s.mem pa 2) := by
  have hb : s.devBytes g.job pa 2 = memNat s.mem pa 2 := by simp [State.devBytes, hpeer, memFor_eq_memNat hf]
  simp [State.parcel, hx, hpo, hden, hw, peerRefused_of_none hpeer, hb]

/-- Settles O56: the turn names the group, whose fetch does not depend on the turn, and the fetch reads the parcels in order. -/
theorem stepRunsDecoded : Obligations.StepRunsDecoded := by
  refine ⟨?_, fun s i l => step_agenda, fun s t => ⟨rfl, rfl, mem_notice t⟩, fun s g p hp hpc h2 i hi => fetch_short hp hpc h2 hi,
    fun s g p q l hp hq hpc h2 hw hl i hi => fetch_long hp hq hpc h2 hw hl hi, ?_⟩
  · intro s gi g i ha ht htrip hlow hdev hg hrun hs hp hd hk hf
    have hr : s.sys.runs = true := by simp [Sys.runs, htrip, hlow, hdev]
    exact step_group ha ht hr hg hrun hs hp hd hk hf
  · intro s g va n pa l c hx hpo hden hpeer hw hf hl
    simp only [State.parcels, parcel_of_memory hx hpo hden hpeer hw hf, hl]

end Sys2Proof.Proofs

/-! PROOFS. The front end: slots, one rule for each packet, and O44. -/

namespace Sys2Proof.Proofs

open Machine Spec Laws

/-! ## Slots -/

@[simp] theorem slot_modSlot (s : State) (sl : Nat) (f : Slot → Slot) : (s.modSlot sl f).slot sl = f (s.slot sl) := by
  simp [State.slot, State.modSlot]

/-- Only what an update makes of the slot as it stands matters. -/
theorem modSlot_congr {s : State} {sl : Nat} {x : Slot} {f h : Slot → Slot} (hx : s.slot sl = x) (hfh : f x = h x) :
    s.modSlot sl f = s.modSlot sl h := by
  subst hx
  exact congrArg (fun y => ({ s with slots := s.slots.set (slotIx sl) y } : State)) hfh

/-- To begin a packet counts it among those begun, and nothing else. -/
theorem begin_only (x : Slot) : x.begin = { x with begun := x.begin.begun, packets := x.begin.packets } := by
  unfold Slot.begin
  split
  · dsimp only
    split
    · split <;> rfl
    · rfl
  · rfl

@[simp] theorem begin_levels (x : Slot) : x.begin.levels = x.levels := by rw [begin_only]
@[simp] theorem begin_len (x : Slot) : x.begin.len = x.len := by rw [begin_only]

theorem advance_cons {x : Slot} {n : Nest} {l : List Nest} (h : x.levels = n :: l) :
    x.advance = { x with levels := leaveLevels (n.advance x.len :: l) } := by
  simp [Slot.advance, h]

theorem nest_advance_plain {n : Nest} (len : Nat) (h : n.loop = none) : n.advance len = { n with pos := n.pos + len, cover := n.cover - 1 } := by
  simp [Nest.advance, h]

theorem nest_advance_left {n : Nest} {k : LoopSt} (len : Nat) (h : n.loop = some k) (hl : 1 < k.left) :
    n.advance len = { n with pos := n.pos + len, loop := some { k with left := k.left - 1 } } := by
  simp [Nest.advance, h, hl]

theorem nest_advance_again {n : Nest} {k : LoopSt} (len : Nat) (h : n.loop = some k) (hl : k.left ≤ 1) (hi : 1 < k.iters) :
    n.advance len = { n with pos := k.start, loop := some { k with left := k.body, iters := k.iters - 1 }, skip := 0 } := by
  simp [Nest.advance, h, Nat.not_lt.mpr hl, hi]

theorem nest_advance_ends {n : Nest} {k : LoopSt} (len : Nat) (h : n.loop = some k) (hl : k.left ≤ 1) (hi : k.iters ≤ 1) :
    n.advance len = { n with pos := n.pos + len, loop := none, skip := 0 } := by
  simp [Nest.advance, h, Nat.not_lt.mpr hl, Nat.not_lt.mpr hi]

/-! ## Packets -/

theorem fronting_of_atPacket {s : State} {sl : Nat} {x : Slot} {q : Queue} (h : AtPacket s sl x q) : s.fronting sl = true := by
  obtain ⟨hs, hw, hl⟩ := h.free
  simp [State.fronting, h.slot, h.bound, hs, hw, hl]

/-- Where a slot stands at a packet, the packet runs on the slot and its queue. -/
theorem runPacket_of_atPacket {s : State} {sl : Nat} {x : Slot} {q : Queue} (h : AtPacket s sl x q) (f : State → Slot → Queue → State) :
    runPacket sl s f = .next (f s x q) := by
  simp [runPacket, h.slot, h.queue, fronting_of_atPacket h]

theorem evalCond_of_read {s : State} {job word : Nat} {c : MemCond} (h : s.devRead job c.addr (if c.wide then 8 else 4) = .ok word) :
    s.evalCond job c = .ok (condHolds c word) := by
  simp [State.evalCond, h, Dev.bind]

theorem toInt_eq_signed {n : Nat} (a : BitVec n) :
    a.toInt = if 2 * a.toNat ≥ 2 ^ n then (a.toNat : Int) - (2 ^ n : Nat) else a.toNat := by
  rw [BitVec.toInt_eq_toNat_cond]
  split <;> split <;> omega

theorem condHolds_iff (c : MemCond) (word : Nat) : condHolds c word = true ↔ CondTrue c word := by
  have hm : (if c.wide then 2 ^ 64 else 2 ^ 32) = 2 ^ (if c.wide then 64 else 32) := by split <;> rfl
  simp only [condHolds, CondTrue, hm]
  generalize (if c.wide then 64 else 32) = n
  rw [← BitVec.toNat_ofNat word n, ← BitVec.toNat_setWidth n c.value]
  generalize BitVec.ofNat n word = a
  generalize c.value.setWidth n = v
  simp only [← toInt_eq_signed]
  match c.code.toNat with
  | 0 => simp [BitVec.toNat_eq]
  | 1 => simp [BitVec.toNat_eq]
  | 2 => simp [BitVec.lt_def]
  | 3 => simp [BitVec.le_def]
  | 4 => simp [BitVec.toNat_eq]
  | 5 => simp
  | k + 6 => simp

theorem evalCond_true {s : State} {job word : Nat} {c : MemCond} (h : s.devRead job c.addr (if c.wide then 8 else 4) = .ok word)
    (hc : CondTrue c word) : s.evalCond job c = .ok true := by
  rw [evalCond_of_read h, (condHolds_iff c word).mpr hc]

theorem evalCond_false {s : State} {job word : Nat} {c : MemCond} (h : s.devRead job c.addr (if c.wide then 8 else 4) = .ok word)
    (hc : ¬ CondTrue c word) : s.evalCond job c = .ok false := by
  rw [evalCond_of_read h, Bool.eq_false_iff.mpr (mt (condHolds_iff c word).mp hc)]

/-! ## What a device write leaves -/

/-- Two states that differ in memory and in what a write leaves on its way: poison, keys, the links, the log of denied accesses and the count
of draws. -/
def WriteOnly (s t : State) : Prop :=
  t = { s with mem := t.mem, poison := t.poison, keyed := t.keyed, ports := t.ports, outSeq := t.outSeq, sys := t.sys, free := t.free }

theorem WriteOnly.refl (s : State) : WriteOnly s s := rfl

theorem WriteOnly.trans {s t u : State} (h : WriteOnly s t) (k : WriteOnly t u) : WriteOnly s u := by
  unfold WriteOnly at h k ⊢
  rw [k, h]

theorem WriteOnly.slot {s t : State} (h : WriteOnly s t) (sl : Nat) : t.slot sl = s.slot sl := by rw [h]; rfl

theorem WriteOnly.passes {s t : State} (h : WriteOnly s t) : t.passes = s.passes := by rw [h]

theorem sendAt_writeOnly (s : State) (pa cls : Nat) : WriteOnly s (s.sendAt pa cls) := by
  unfold State.sendAt
  split
  · rfl
  · exact .refl s

theorem claimLine_writeOnly (s : State) (job line : Nat) : WriteOnly s (s.claimLine job line) := by
  unfold State.claimLine
  split
  · exact .refl s
  · rfl

theorem foldl_writeOnly {α : Type} {f : State → α → State} (hf : ∀ s a, WriteOnly s (f s a)) (l : List α) (s : State) :
    WriteOnly s (l.foldl f s) := by
  induction l generalizing s with
  | nil => exact .refl s
  | cons a l ih => exact (hf s a).trans (ih (f s a))

theorem pokeFor_writeOnly (s : State) (job pa : Nat) (bs : List (BitVec 8)) : WriteOnly s (s.pokeFor job pa bs) := by
  have hclaim : WriteOnly s (s.claim job pa bs.length) := by
    unfold State.claim
    split
    · exact foldl_writeOnly (fun s k => claimLine_writeOnly s job _) _ s
    · exact .refl s
  exact hclaim.trans rfl

theorem homeWrite_writeOnly {s t : State} {job : Nat} {va : DWord} {bs : List (BitVec 8)} (h : s.homeWrite job va bs = .ok t) : WriteOnly s t := by
  obtain ⟨pa, -, h⟩ := bind_ok h
  split at h <;> cases h
  · rfl
  · exact (sendAt_writeOnly s pa 1).trans (pokeFor_writeOnly _ job pa bs)

theorem devWrite_writeOnly {s t : State} {job : Nat} {va : DWord} {bs : List (BitVec 8)} (h : s.devWrite job va bs = .ok t) : WriteOnly s t := by
  obtain ⟨pa, -, h⟩ := bind_ok h
  split at h
  · cases h
  · exact homeWrite_writeOnly h

/-! ## Consumption (R96) -/

/-- Consumption changes what a slot has begun, not where its levels stand. -/
theorem settleSlot_levels (s : State) (sl : Nat) : ((s.settleSlot sl).slot sl).levels = (s.slot sl).levels := by
  unfold State.settleSlot
  dsimp only
  split
  · rfl
  · split
    · rfl
    · split
      · rfl
      · split
        · next hw => simp [(devWrite_writeOnly hw).slot]
        · simp
        · rfl

/-- A packet without work, the only one begun, is consumed at once, and the read offset becomes the next packet's. -/
theorem settleSlot_single {s u : State} {sl : Nat} {x : Slot} {q : Queue} {n : Nest} {b : Begun} (hx : s.slot sl = x)
    (hq : s.queues[x.queue]? = some q) (hb : x.bound = true) (hw : x.waiting = none) (hl : x.levels = [n])
    (hn : n.loop = none ∧ n.cover = 0 ∧ n.skip = 0) (hbeg : x.begun = [b]) (hwork : b.launches = [] ∧ b.graphs = []) (hp : x.prologues = [])
    (hu : s.devWrite q.job (q.qcb + 16) (leBytes 8 b.next) = .ok u) :
    s.settleSlot sl = u.modSlot sl fun y => { y with begun := [] } := by
  obtain ⟨hloop, hcover, hskip⟩ := hn
  have hopen : x.open_ = false := by simp [Slot.open_, hl, hloop, hcover, hskip]
  have hdone : s.workDone x b = true := by simp [State.workDone, hwork, hp]
  have hwrite : s.devWrite q.job (q.qcb + 16#64) (leBytes 8 b.next) = .ok u := hu
  simp [State.settleSlot, hx, hq, hb, hw, hl, hopen, hbeg, Machine.consumed, hdone, hwrite]

/-! ## One rule for each packet -/

/-- A packet alone begins: the slot stands at the next one (`past`). -/
theorem begin_advance_alone {x : Slot} {n : Nest} (h : Alone0 x n) :
    x.begin.advance = { x with begun := [⟨n.pos, n.pos + x.len, [], []⟩], packets := x.packets + 1, levels := [{ n with pos := n.pos + x.len }] } := by
  obtain ⟨hloop, hcover, -⟩ := h.plain
  obtain ⟨hbegun, -⟩ := h.first
  have hbegin : x.begin = { x with begun := [⟨n.pos, n.pos + x.len, [], []⟩], packets := x.packets + 1 } := by
    simp [Slot.begin, h.level, hbegun]
  rw [advance_cons (n := n) (l := []) (by rw [begin_levels, h.level]), begin_len, nest_advance_plain _ hloop, hbegin, hcover]
  cases n
  subst hcover
  rfl

theorem exec_nopp {s u : State} {sl : Nat} {x : Slot} {q : Queue} {n : Nest} (h : AtPacket s sl x q) (h0 : Alone0 x n)
    (hu : (past s sl x n).devWrite q.job (q.qcb + 16) (leBytes 8 (n.pos + x.len)) = .ok u) :
    exec (.nopp sl) s = .next (u.modSlot sl fun y => { y with begun := [] }) := by
  obtain ⟨-, hwait, -⟩ := h.free
  obtain ⟨-, hpro⟩ := h0.first
  have hpast : (s.modSlot sl fun y => id y.begin.advance) = past s sl x n := modSlot_congr h.slot (begin_advance_alone h0)
  have hdone : s.packetDone sl id = u.modSlot sl fun y => { y with begun := [] } := by
    rw [State.packetDone, hpast]
    exact settleSlot_single (b := ⟨n.pos, n.pos + x.len, [], []⟩) (slot_modSlot s sl _) h.queue h.bound hwait rfl h0.plain rfl ⟨rfl, rfl⟩ hpro hu
  show execNopp sl s = _
  exact (runPacket_of_atPacket h _).trans (congrArg Host.Outcome.next hdone)

/-- FFENCE empties the window of every level and moves on. -/
theorem exec_ffence {s : State} {sl : Nat} {x : Slot} {q : Queue} (h : AtPacket s sl x q) :
    ∃ t, exec (.ffence sl) s = .next t ∧ (t.slot sl).levels = x.advance.levels.map fun n => { n with win := [] } := by
  refine ⟨_, show execFfence sl s = _ from runPacket_of_atPacket h _, ?_⟩
  have hadv : x.begin.advance.levels = x.advance.levels := by
    obtain ⟨-, -, hne⟩ := h.free
    obtain ⟨n, l, hl⟩ := List.exists_cons_of_ne_nil hne
    rw [advance_cons (x := x.begin) ((begin_levels x).trans hl), advance_cons hl, begin_len]
  rw [State.packetDone, settleSlot_levels, slot_modSlot, h.slot, hadv]

section Condition
variable {s : State} {sl : Nat} {x : Slot} {q : Queue} {c : MemCond} {word : Nat}
  (h : AtPacket s sl x q) (hread : s.devRead x.job c.addr (if c.wide then 8 else 4) = .ok word)
include h hread

theorem exec_wait_holds (hc : CondTrue c word) : exec (.wait sl c) s = .next (s.packetDone sl id) := by
  show execWait sl c s = _
  refine (runPacket_of_atPacket h _).trans ?_
  simp [evalCond_true hread hc]

theorem exec_wait_parks (hc : ¬ CondTrue c word) (hl : ∀ n ∈ x.levels, n.loop = none) :
    exec (.wait sl c) s = .next (s.packetDone sl fun y => { y with waiting := some c, release := true }) := by
  show execWait sl c s = _
  refine (runPacket_of_atPacket h _).trans ?_
  have hno : (x.levels.any fun n => n.loop.isSome) = false := List.any_eq_false.mpr fun n hn => by simp [hl n hn]
  simp [evalCond_false hread hc, hno]

theorem exec_wait_in_loop (hc : ¬ CondTrue c word) (hl : ∃ n ∈ x.levels, n.loop ≠ none) :
    exec (.wait sl c) s = .next (s.modSlot sl fun _ => { x.begin with waiting := some c }) := by
  show execWait sl c s = _
  refine (runPacket_of_atPacket h _).trans ?_
  have hsome : (x.levels.any fun n => n.loop.isSome) = true := by
    obtain ⟨n, hn, hk⟩ := hl
    exact List.any_eq_true.mpr ⟨n, hn, Option.isSome_iff_ne_none.mpr hk⟩
  simp only [evalCond_false hread hc, hsome, if_true]
  exact congrArg _ (modSlot_congr h.slot rfl)

/-- PRED: what its condition makes of its level, and the next packet. -/
theorem exec_pred {skip : Nat} {m n : Nest} {l : List Nest} (hl : x.begin.levels = m :: l)
    (hn : (if condHolds c word then (if m.loop.isNone then { m with cover := max m.cover (skip + 1) } else m) else { m with skip := skip }) = n) :
    exec (.pred sl c skip) s = .next ((s.modSlot sl fun _ => ({ x.begin with levels := n :: l } : Slot).advance).settleSlot sl) := by
  show execPred sl c skip s = _
  refine (runPacket_of_atPacket h _).trans ?_
  simp only [evalCond_of_read hread]
  refine congrArg (fun t : State => Host.Outcome.next (t.settleSlot sl)) (modSlot_congr h.slot ?_)
  simp only [hl, hn]

end Condition

section Packet
variable {s : State} {sl : Nat} {x : Slot} {q : Queue} (h : AtPacket s sl x q)
include h

theorem exec_loop {body iters : Nat} {m : Nest} {l : List Nest} (hl : x.begin.levels = m :: l) (hb : 1 ≤ body) :
    let n : Nest := { m with pos := m.pos + x.begin.len, cover := m.cover - 1, loop := some ⟨m.pos + x.begin.len, body, body, iters⟩ }
    exec (.loop sl body iters) s = .next ((s.modSlot sl fun _ => { x.begin with levels := leaveLevels (n :: l) }).settleSlot sl) := by
  show execLoop sl body iters s = _
  refine (runPacket_of_atPacket h _).trans (congrArg (fun t : State => Host.Outcome.next (t.settleSlot sl)) (modSlot_congr h.slot ?_))
  simp only [hl]
  rw [advance_cons rfl, nest_advance_left (k := ⟨m.pos + x.begin.len, body, body + 1, iters⟩) _ rfl (by show 1 < body + 1; omega)]
  rfl

theorem exec_ib {addr : DWord} {len : Nat} {n : Nest} {l : List Nest} (hl : x.levels = n :: l) :
    exec (.ib sl addr len) s = .next ((s.modSlot sl fun _ =>
      { x.begin with levels := ⟨addr, 0, len, 0, [], none, 0, 0⟩ :: n.advance x.len :: l }).settleSlot sl) := by
  show execIb sl addr len s = _
  refine (runPacket_of_atPacket h _).trans (congrArg (fun t : State => Host.Outcome.next (t.settleSlot sl)) (modSlot_congr h.slot ?_))
  simp only [begin_levels, begin_len, hl]

theorem exec_signal_waits {addr value : DWord} {op : BitVec 2} {wide : Bool} {mask : BitVec 5} (hd : s.queueDone sl = false) :
    exec (.signal sl addr value op wide mask) s = .next s := by
  show execSignal sl addr value op wide mask s = _
  refine (runPacket_of_atPacket h _).trans ?_
  simp [hd]

theorem exec_signal {addr value : DWord} {op : BitVec 2} {wide : Bool} {mask : BitVec 5} {old : Nat} {u : State} (hd : s.queueDone sl = true)
    (hr : s.devRead x.job addr (if wide then 8 else 4) = .ok old)
    (hw : s.devWrite x.job addr (leBytes (if wide then 8 else 4) (signalled op old value.toNat)) = .ok u) :
    exec (.signal sl addr value op wide mask) s = .next (u.packetDone sl id) := by
  show execSignal sl addr value op wide mask s = _
  refine (runPacket_of_atPacket h _).trans ?_
  match op, hw with
  | 0#2, hw | 1#2, hw | 2#2, hw | 3#2, hw =>
    simp [signalled] at hw
    simp [hd, hr, Dev.bind, hw]

theorem exec_phase_opens {record cancel : DWord} (hp : ∀ p ∈ s.phases, p.job = q.job → p.number ≠ q.phases) :
    let t : State := (({ s.modQueue x.queue fun r => { r with phases := r.phases + 1 } with
      phases := s.phases ++ [⟨q.job, q.phases, record, cancel, false, none⟩] } : State).packetDone sl id).settle
    exec (.phase sl record cancel) s = .next (if s.wordSet q.job cancel then t.cancelPhase s.phases.length else t) := by
  have hno : (s.phases.any fun p => p.job == q.job && p.number == q.phases) = false :=
    List.any_eq_false.mpr fun p hm => by simpa using hp p hm
  show execPhase sl record cancel s = _
  refine (runPacket_of_atPacket h _).trans ?_
  simp only [State_modQueue_phases, hno, Bool.false_eq_true, if_false]

theorem exec_phase_joins {record cancel : DWord} (hp : ∃ p ∈ s.phases, p.job = q.job ∧ p.number = q.phases) :
    exec (.phase sl record cancel) s = .next (((s.modQueue x.queue fun r => { r with phases := r.phases + 1 }).packetDone sl id).settle) := by
  have hyes : (s.phases.any fun p => p.job == q.job && p.number == q.phases) = true := by
    obtain ⟨p, hm, hj, hn⟩ := hp
    exact List.any_eq_true.mpr ⟨p, hm, by simp [hj, hn]⟩
  show execPhase sl record cancel s = _
  refine (runPacket_of_atPacket h _).trans ?_
  simp only [State_modQueue_phases, hyes, if_true]

end Packet

/-- Settles O44: one rule for each packet, of a slot that stands at it. -/
theorem queuePackets : Obligations.QueuePackets := by
  refine ⟨fun s sl x q n u h h0 hu => exec_nopp h h0 hu, condHolds_iff, ?_, ?_, ?_, fun n len h => nest_advance_plain len h, ?_,
    fun s sl x q body iters m l h hl hb => exec_loop h hl hb, fun s sl x q addr len n l h hl => exec_ib h hl,
    fun s sl x q addr value op wide mask old u h hd hr hw => exec_signal h hd hr hw,
    fun s sl x q addr value op wide mask h hd => exec_signal_waits h hd,
    fun s sl x q record cancel h hp => exec_phase_opens h hp, fun s sl x q record cancel h hp => exec_phase_joins h hp⟩
  · intro s sl x q h
    obtain ⟨t, ht, hl⟩ := exec_ffence h
    refine ⟨t, ht, fun n hn => ?_, by rw [hl, List.map_map]; rfl⟩
    obtain ⟨m, -, rfl⟩ := List.mem_map.mp (hl ▸ hn)
    rfl
  · intro s sl x q c word h hread
    exact ⟨exec_wait_holds h hread, exec_wait_parks h hread, exec_wait_in_loop h hread⟩
  · intro s sl x q c skip word m l h hread hl
    refine ⟨fun hc hm => exec_pred h hread hl (by simp [(condHolds_iff c word).mpr hc, hm]), fun hc hm => ?_,
      fun hc => exec_pred h hread hl (by simp [mt (condHolds_iff c word).mp hc])⟩
    rw [exec_pred h hread hl (n := m) (by simp [(condHolds_iff c word).mpr hc, hm]), ← hl]
  · intro n len k h
    exact ⟨nest_advance_left len h, nest_advance_again len h, nest_advance_ends len h⟩

end Sys2Proof.Proofs

/-! PROOFS. Passes and binding: one rule for each event that O46 speaks of. -/

namespace Sys2Proof.Proofs

open Machine Spec Laws

/-! ## PASS (R351, R357, R378) -/

theorem writePieces_writeOnly {job : Nat} (l : List (List (BitVec 8))) {s t : State} {va : DWord} (h : s.writePieces job va l = .ok t) :
    WriteOnly s t := by
  induction l generalizing s va with
  | nil => cases h; exact .refl _
  | cons p l ih =>
    obtain ⟨u, hu, h⟩ := bind_ok h
    exact (devWrite_writeOnly hu).trans (ih h)

theorem startTiles_writeOnly {job : Nat} {b : PassBlock} (n : Nat) {s t : State} (h : s.startTiles job b n = .ok t) : WriteOnly s t := by
  induction n generalizing t with
  | zero => cases h; exact .refl _
  | succ n ih =>
    obtain ⟨u, hu, h⟩ := bind_ok h
    exact (ih hu).trans (writePieces_writeOnly _ h)

/-- The pass that a PASS begin opens stands last, with nothing drawn. -/
theorem openPassFrom_opens {s t : State} {sl job queue : Nat} {mask : BitVec 64} {va : DWord} (h : s.openPassFrom sl job queue mask va = .ok (.ok t)) :
    ∃ p, t.passes = s.passes ++ [p] ∧ p.live = true ∧ p.job = job ∧ p.stage = .draw ∧ p.sub = 0 ∧ p.gridSeq = 0 ∧ p.grids = [] ∧ p.used = [] := by
  unfold State.openPassFrom at h
  split at h
  · cases h
  · obtain ⟨bs, -, h⟩ := bind_ok h
    dsimp only at h
    split at h
    · cases h
    · obtain ⟨pat, -, h⟩ := bind_ok h
      obtain ⟨g, -, h⟩ := bind_ok h
      obtain ⟨k, -, h⟩ := bind_ok h
      obtain ⟨r, -, h⟩ := bind_ok h
      split at h
      · obtain ⟨u, hu, h⟩ := bind_ok h
        cases h
        exact ⟨_, congrArg (fun l => l ++ _) (startTiles_writeOnly _ hu).passes, rfl, rfl, rfl, rfl, rfl, rfl, rfl⟩
      · cases h

section Pass
variable {s : State} {sl : Nat} {x : Slot} {q : Queue} (h : AtPacket s sl x q) (hd : s.queueDone sl = true)
include h hd

theorem exec_passBegin {va : DWord} {t : State} (ht : s.openPassFrom sl x.job x.queue x.mask va = .ok (.ok t)) :
    exec (.passBegin sl va) s = .next ((t.modQueue x.queue fun r => { r with pass := some s.passes.length }).packetDone sl id) := by
  show execPassBegin sl va s = _
  refine (runPacket_of_atPacket h _).trans ?_
  simp [hd, ht]

variable {ps : Nat} {p : Pass} (hp : OpenPass s sl ps p)
include hp

theorem exec_passNext_asks (hs : p.stage = .draw) : exec (.passNext sl) s = .next (s.modPass ps fun r => { r with stage := .next }) := by
  show execPassNext sl s = _
  refine (runPacket_of_atPacket h _).trans ?_
  simp [hd, hp.ix, hp.is_, hp.live, hs]

theorem exec_passEnd_asks (hs : p.stage = .draw) : exec (.passEnd sl) s = .next (s.modPass ps fun r => { r with stage := .finish }) := by
  show execPassEnd sl s = _
  refine (runPacket_of_atPacket h _).trans ?_
  simp [hd, hp.ix, hp.is_, hp.live, hs]

theorem exec_passNext_starts {u : State} (hs : p.stage = .next) (hdone : s.subDone ps p = true)
    (hu : if p.block.persistent then u = s else s.startTiles x.job p.block p.block.tiles = .ok u) :
    exec (.passNext sl) s = .next ((u.modPass ps fun r => { r with
      stage := .draw, sub := r.sub + 1, gridSeq := 0, binUsed := 0, grids := [], tiles := [], used := if r.block.persistent then r.used else [] }).packetDone sl id) := by
  show execPassNext sl s = _
  refine (runPacket_of_atPacket h _).trans ?_
  split at hu
  · next hb => subst hu; simp [hd, hp.ix, hp.is_, hp.live, hs, hdone, hb]
  · next hb => simp [hd, hp.ix, hp.is_, hp.live, hs, hdone, hb, hu]

theorem exec_passEnd_closes {u : State} (hs : p.stage = .finish) (hdone : s.subDone ps p = true) (hr : p.resolvedAll = true)
    (hat : p.block.statusAt ≠ 0) (hu : s.devWrite x.job p.block.statusAt (leBytes 8 p.status) = .ok u) :
    exec (.passEnd sl) s =
      .next (((u.modPass ps fun r => { r with live := false }).modQueue x.queue fun r => { r with pass := none }).packetDone sl id) := by
  show execPassEnd sl s = _
  refine (runPacket_of_atPacket h _).trans ?_
  have hat' : (p.block.statusAt == 0) = false := beq_false_of_ne hat
  simp only [hd, hp.ix, hp.is_, hp.live, hs, hdone, hr, hat', hu, Option.bind_some, Option.map_some, Bool.not_true, Bool.or_self,
    bne_self_eq_false, Bool.false_eq_true, if_false]

end Pass

/-! ## Waiting, parking and release (R79, R82, R83, R101) -/

theorem waitsIn_of_loop {x : Slot} {c : MemCond} (hw : x.waiting = some c) (hb : x.bound = true) (hl : ∃ n ∈ x.levels, n.loop ≠ none) :
    x.waitsIn = some c := by
  obtain ⟨n, hn, hk⟩ := hl
  have hany : (x.levels.any fun n => n.loop.isSome) = true := List.any_eq_true.mpr ⟨n, hn, Option.isSome_iff_ne_none.mpr hk⟩
  simp [Slot.waitsIn, hb, hany, hw]

section Recheck
variable {s : State} {sl word : Nat} {x : Slot} {c : MemCond} (hx : s.slot sl = x) (hw : x.waitsIn = some c)
  (hread : s.devRead x.job c.addr (if c.wide then 8 else 4) = .ok word)
include hx hw hread

theorem exec_waitRecheck_passes (hc : CondTrue c word ∨ s.noticed.contains (.wait sl) = true) :
    exec (.waitRecheck sl) s = .next ((s.modSlot sl fun y => { y with waiting := none }.advance).settleSlot sl) := by
  show Host.Outcome.next (s.recheck sl) = _
  by_cases hn : s.noticed.contains (.wait sl) = true
  · simp only [State.recheck, hx, hw, hn, if_true]
  · have hc := hc.resolve_right hn
    simp only [State.recheck, hx, hw, hn, evalCond_true hread hc, if_false, Bool.false_eq_true]

theorem exec_waitRecheck_waits (hc : ¬ CondTrue c word) (hn : s.noticed.contains (.wait sl) = false) : exec (.waitRecheck sl) s = .next s := by
  show Host.Outcome.next (s.recheck sl) = _
  simp only [State.recheck, hx, hw, hn, evalCond_false hread hc, if_false, Bool.false_eq_true]

end Recheck

theorem exec_writeOffsetReread {s : State} {sl w : Nat} {x : Slot} {n : Nest} {q : Queue} (hx : s.slot sl = x) (hl : x.levels = [n])
    (hq : s.queues[x.queue]? = some q) (hb : x.bound = true) (hs : x.stopped = none) (hn : n.dry = true) (hwake : s.qcbNat q 35 1 % 2 = 0)
    (hw : s.qcbWritten q = .ok w) :
    exec (.writeOffsetReread sl) s = .next (s.modSlot sl fun y => { y with levels := [{ n with limit := w }] }) := by
  show execWriteOffsetReread sl s = _
  simp [execWriteOffsetReread, State.rereadWrite, hx, hl, hq, hb, hs, hn, hwake, hw]
  exact modSlot_congr hx (by simp [hl])

theorem exec_slotRelease {s : State} {sl : Nat} {x : Slot} (hx : s.slot sl = x) (hb : x.bound = true) (hl : s.leaves sl = true)
    (ha : s.atBoundary sl = true) (hw : x.waiting = none) :
    exec (.slotRelease sl) s = .next { s.modSlot sl (fun _ => Slot.empty) with agenda := s.agenda ++ [.bindRound] } := by
  show execSlotRelease sl s = _
  simp only [execSlotRelease, hx, hb, hl, ha, hw]
  rfl

section Park
variable {s : State} {qi word : Nat} {q : Queue} {c : MemCond} (hq : s.queues[qi]? = some q) (hp : s.parked qi q = true)
  (hc : s.parkCond q = c) (hread : s.devRead q.job c.addr (if c.wide then 8 else 4) = .ok word)
include hq hp hc hread

theorem exec_parkConditionEval_holds (h : CondTrue c word) : exec (.parkConditionEval qi) s = .next (s.setQcbState q 1) := by
  show Host.Outcome.next (s.evalParked qi) = _
  simp [State.evalParked, hq, hp, hc, evalCond_true hread h]

theorem exec_parkConditionEval_fails (h : ¬ CondTrue c word) :
    exec (.parkConditionEval qi) s = .next (if s.noticed.contains (.park qi) then s.setQcbState q 1 else s) := by
  show Host.Outcome.next (s.evalParked qi) = _
  simp [State.evalParked, hq, hp, hc, evalCond_false hread h]

end Park

theorem parked_of {s : State} {qi : Nat} {q : Queue} (hu : s.unbound qi = true) (hst : s.qcbState q = 2) (hup : s.updating q = false)
    (hc : (s.parkCond q).code ≠ 7) : s.parked qi q = true := by
  simp only [State.parked, hu, hst, hup, bne_iff_ne.mpr hc, beq_self_eq_true, Bool.not_false, Bool.and_self]

/-- A launch with teams to admit comes next, or a team that returns before it. -/
theorem nextWork_of_head {s : State} {x : Slot} {li : Nat} (h : s.headLaunch x = some li) :
    s.nextWork x = some (li, false) ∨ ∃ a, s.nextWork x = some (a, true) := by
  unfold State.nextWork
  rw [h]
  cases s.savedLaunch x with
  | none => exact .inl rfl
  | some a =>
    by_cases ha : a ≤ li
    · exact .inr ⟨a, by simp [ha]⟩
    · exact .inl (by simp [ha])

theorem exec_slotMaskReserve {s : State} {sl li : Nat} {x : Slot} {l : Launch} (hx : s.slot sl = x) (hb : x.bound = true) (hp : 256 ≤ x.passes)
    (hh : s.headLaunch x = some li) (hl : s.launches[li]? = some l) (hc : l.coResident = false) :
    exec (.slotMaskReserve sl) s = .next (s.modSlot sl fun y => { y with reserved := true }) := by
  show execSlotMaskReserve sl s = _
  obtain hn | ⟨a, hn⟩ := nextWork_of_head hh
  · simp [execSlotMaskReserve, hx, hb, hp, hn, hl, hc]
  · simp [execSlotMaskReserve, hx, hb, hp, hn]

/-! ## Binding (R80) -/

theorem exec_bindRound {s : State} (hf : s.sys.fwState = 1) (hd : s.sys.dev = .d0) : exec .bindRound s = .next s.bindRound.postPages := by
  show execBindRound s = _
  simp [execBindRound, hf, hd]

theorem slot_modSlot_ne (s : State) {sl k : Nat} (f : Slot → Slot) (hs : sl < 64) (hk : k < 64) (h : k ≠ sl) :
    (s.modSlot sl f).slot k = s.slot k := by
  have hne : (slotIx sl : Nat) ≠ (slotIx k : Nat) := by
    simp only [slotIx, Fin.ofNat_eq_cast, Fin.val_natCast]
    omega
  simp [State.slot, State.modSlot, hne]

theorem modQueue_slot (s : State) (qi sl : Nat) (f : Queue → Queue) : (s.modQueue qi f).slot sl = s.slot sl := rfl

section Bind
variable {s : State} {prio qi sl r w : Nat} {q : Queue} {j : Job} (hq : s.queues[qi]? = some q) (hs : sl < 64)
  (he : (s.slot sl).bound = false) (hlow : ∀ k < sl, (s.slot k).bound = true) (hj : s.jobs[q.job]? = some j) (hr : s.qcbRead q = .ok r)
  (hw : s.qcbWritten q = .ok w)
include hq hs he hlow hj hr hw

/-- The lowest empty slot takes the queue. The packet quota is drawn first, and the ring's base and size are read after the draw. -/
theorem bindQueue_eq : s.bindQueue (some prio) qi = (s.take.2.modSlot sl fun _ => { Slot.empty with
      bound := true, queue := qi, qcb := q.qcb, job := q.job, prio := prio, secure := j.secure, mask := j.coreMask
      quota := s.take.1 % 2 ^ 32, round := s.sys.rounds
      levels := [⟨BitVec.ofNat 64 (s.take.2.qcbNat q 0 8), s.take.2.qcbNat q 8 8, w, r, [], none, 0, 0⟩] }).modQueue qi fun q =>
        { q with passCount := 0, lastBind := s.sys.rounds + 1 } := by
  have hfind : ((List.range 64).find? fun i => !(s.slot i).bound) = some sl := by
    rw [List.find?_range_eq_some]
    exact ⟨by simp [he], List.mem_range.mpr hs, fun k hk => by simp [hlow k hk]⟩
  simp only [State.bindQueue, hq, hfind, hj, hr, hw]
  rfl

/-- A queue is bound with the ring of its QCB where the draw changes nothing of it: a line under another job's key (R423, log 57) and a
peer's memory (log 18) read as drawn. -/
theorem bindQueue_bound (hdraw : ∀ off n, s.take.2.qcbNat q off n = s.qcbNat q off n) : Bound s (s.bindQueue (some prio) qi) sl qi q prio := by
  have hbind := bindQueue_eq (prio := prio) hq hs he hlow hj hr hw
  have hself := congrArg (fun t : State => t.slot sl) hbind
  rw [modQueue_slot, slot_modSlot, hdraw, hdraw] at hself
  constructor
  · rw [hself]; exact ⟨rfl, rfl, rfl, rfl, rfl⟩
  · rw [hself]; exact ⟨_, r, w, rfl, hr, hw, rfl, rfl, rfl, rfl, rfl⟩
  · intro j' hj'
    cases hj.symm.trans hj'
    rw [hself]; exact ⟨rfl, rfl⟩
  · intro k hk hne
    rw [hbind, modQueue_slot, slot_modSlot_ne _ _ hs hk hne]
    rfl

end Bind

section Draw
variable {s : State} {job : Nat} (hsec : s.jobSecure job = false) (hpeer : ∀ va pa, s.devXlate job va .read = .ok pa → s.peerOf pa = none)
include hsec hpeer

/-- What a job that is not secure and maps no peer reads is not drawn. -/
theorem devRead_take (va : DWord) (n : Nat) : s.take.2.devRead job va n = s.devRead job va n := by
  have hhome : s.take.2.homeRead job va n = s.homeRead job va n := by
    unfold State.homeRead State.homeXlate
    show ((s.devXlate job va .read).bind _).bind _ = ((s.devXlate job va .read).bind _).bind _
    cases hx : s.devXlate job va .read with
    | ok pa =>
      have hnone : s.peerOf pa = none := hpeer va pa hx
      have hbytes : s.take.2.devBytes job pa n = s.devBytes job pa n := by
        have hplain (t : State) (ht : t.jobSecure job = false) (hp : t.peerOf pa = none) : t.devBytes job pa n = memNat t.mem pa n := by
          simp [State.devBytes, hp, memFor_eq_memNat, State.foreign, ht]
        exact (hplain s.take.2 hsec hnone).trans (hplain s hsec hnone).symm
      have hwaits : s.take.2.peerWaits job pa = s.peerWaits job pa := rfl
      have hpoison : s.take.2.poisoned pa n = s.poisoned pa n := rfl
      simp only [Dev.bind, peerRefused_of_none hnone, peerRefused_of_none (s := s.take.2) hnone, hwaits]
      cases s.peerWaits job pa
      · simp [hbytes, hpoison]
      · rfl
    | fail c a => rfl
    | wait => rfl
  unfold State.devRead
  rw [hhome]
  rfl

theorem qcbNat_take {q : Queue} (hq : q.job = job) (off n : Nat) : s.take.2.qcbNat q off n = s.qcbNat q off n := by
  subst hq
  simp only [State.qcbNat, State.qcbField, State.qcbBody, devRead_take hsec hpeer]

end Draw

/-- A queue of a job that is not secure and maps no peer is bound with the ring of its QCB. -/
theorem bindQueue_bound_plain {s : State} {prio qi sl r w : Nat} {q : Queue} {j : Job} (hq : s.queues[qi]? = some q) (hs : sl < 64)
    (he : (s.slot sl).bound = false) (hlow : ∀ k < sl, (s.slot k).bound = true) (hj : s.jobs[q.job]? = some j) (hr : s.qcbRead q = .ok r)
    (hw : s.qcbWritten q = .ok w) (hsec : s.jobSecure q.job = false)
    (hpeer : ∀ va pa, s.devXlate q.job va .read = .ok pa → s.peerOf pa = none) : Bound s (s.bindQueue (some prio) qi) sl qi q prio :=
  bindQueue_bound hq hs he hlow hj hr hw (qcbNat_take hsec hpeer rfl)

/-- What O46 comes to: all of it holds where no draw changes what a QCB reads as. Without that its last clause equates `Config.xts`, or
`Config.peerByte`, at two draws (`bindQueue_eq`), which constants without a body neither prove nor refute. -/
theorem passesAndBinding_of_take (hdraw : ∀ (s : State) q off n, s.take.2.qcbNat q off n = s.qcbNat q off n) :
    Obligations.PassesAndBinding := by
  refine ⟨fun s sl x q va t h hd ht => ⟨exec_passBegin h hd ht, openPassFrom_opens ht⟩,
    fun s sl x q ps p h hd hp hs => ⟨exec_passNext_asks h hd hp hs, exec_passEnd_asks h hd hp hs⟩,
    fun s sl x q ps p u h hd hp hs hdone hu => exec_passNext_starts h hd hp hs hdone hu,
    fun s sl x q ps p u h hd hp hs hdone hr hat hu => exec_passEnd_closes h hd hp hs hdone hr hat hu, ?_,
    fun s sl x n q w hx hl hq hb hs hn hwake hw => exec_writeOffsetReread hx hl hq hb hs hn hwake hw,
    fun s sl x hx hb hl ha hw => exec_slotRelease hx hb hl ha hw, ?_,
    fun s sl x li l hx hb hp hh hl hc => exec_slotMaskReserve hx hb hp hh hl hc,
    fun s hf hd => ⟨_, exec_bindRound hf hd, rfl, rfl⟩,
    fun s prio qi q j sl hq hs he hlow hj ⟨r, hr⟩ ⟨w, hw⟩ => bindQueue_bound hq hs he hlow hj hr hw (hdraw s q)⟩
  · intro s sl x c word hx hw hb hl hread
    have hin := waitsIn_of_loop hw hb hl
    exact ⟨exec_waitRecheck_passes hx hin hread, exec_waitRecheck_waits hx hin hread⟩
  · intro s qi q c word hq hu hst hup hc hcode hread
    subst hc
    have hp := parked_of hu hst hup hcode
    exact ⟨exec_parkConditionEval_holds hq hp rfl hread, exec_parkConditionEval_fails hq hp rfl hread⟩

end Sys2Proof.Proofs

/-! PROOFS. Fused multiply-adds, dot products and the T pipe: O8 and O9. -/

namespace Sys2Proof.Proofs

open Machine Spec Laws

/-! ## Wide results (R141) -/

/-- A 64-bit result names an even entry, so that its pair stands within the sixteen. -/
theorem pair_of_even : ∀ d : BitVec 4, (!d.getLsbD 0) = true → d.toNat + 1 < 16 := by decide

/-- The last conjunct of an encoding's check of its instruction word. -/
theorem last_of_wf {i : Instr} {a b : Bool} (h : wf i = true) (hi : wfWord i = (a && b)) : b = true := by
  obtain ⟨hword, -⟩ := Bool.and_eq_true_iff.mp h
  exact (Bool.and_eq_true_iff.mp (hi ▸ hword)).2

theorem pair_of_wf_fma64 {x : V3} (h : wf (.fma64 x) = true) : x.d.toNat + 1 < 16 :=
  pair_of_even x.d (Bool.and_eq_true_iff.mp (last_of_wf (b := x.wide) h rfl)).2

/-! ## Packed halves (R109) -/

theorem elem_zero (a : Word) : elem a 16 0 = lowHalf a := by simp [elem, lowHalf]

theorem elem_one (a : Word) : elem a 16 1 = topHalf a := by
  have ha := a.isLt
  simp only [elem, topHalf]
  omega

/-- FMAH2 and FMAB2 are two fused multiply-adds side by side (R178). -/
theorem per3_ffma (f : Fmt) (g : Ctx) (a b c : Word) : per3 (ffma f (env16 g.fpmode)) a b c = fused16 f g a b c := by
  simp only [per3, elem_zero, elem_one]
  rfl

/-! ## Fused multiply-adds and dot products (R125, R126, R176 to R178, R183) -/

/-- A packed multiply-add completes as two fused multiply-adds. -/
theorem packedFma_completes {i : Instr} {x : V3} {c : Consts} {f : Fmt}
    (hx : ∀ s, exec i s = runV3 i x c false .v (w3 fun g a b k => per3 (ffma f (env16 g.fpmode)) a b k) s) :
    VecCompletes i (spec3 x c c .v (fused16 f)).op (spec3 x c c .v (fused16 f)).f := by
  refine vec_completes (fun s => ?_) x.d.isLt nofun
  simp only [hx, per3_ffma]
  rfl

/-- A floating-point dot product completes with the sum of R126. -/
theorem dotFloat_completes {i : Instr} {x : V3} {c : Consts} {f : Fmt} {n : Nat}
    (hx : ∀ s, exec i s = runDot i x c .f32 (fun g a b k => dotFloat f n g.fpmode a b k) s) :
    VecCompletes i (spec3 x c .f32 .x fun g a b k => dotFloat f n g.fpmode a b k).op
      (spec3 x c .f32 .x fun g a b k => dotFloat f n g.fpmode a b k).f :=
  vec_completes hx x.d.isLt nofun

/-- Settles O8: each instruction is the thread instruction its table entry says, and `vec_completes` gives what such a one does. -/
theorem fusedAndDotProducts : Obligations.FusedAndDotProducts := by
  intro i l h
  unfold fusedTable at h
  split at h
  case h_1 x => cases h; exact vec_completes (fun _ => rfl) x.d.isLt nofun
  case h_2 x => cases h; exact vec_completes (fun _ => rfl) x.d.isLt (fun hwf _ _ => pair_of_wf_fma64 hwf)
  case h_3 x => cases h; exact packedFma_completes fun _ => rfl
  case h_4 x => cases h; exact packedFma_completes fun _ => rfl
  case h_5 x => cases h; exact dotFloat_completes fun _ => rfl
  case h_6 x => cases h; exact dotFloat_completes fun _ => rfl
  case h_7 x => cases h; exact dotFloat_completes fun _ => rfl
  case h_8 x => cases h; exact dotFloat_completes fun _ => rfl
  case h_9 => cases h

/-! ## The T pipe (R130 to R133, R199) -/

theorem trans_completes {i : Instr} {x : V2} {op : Nat} (hx : ∀ s, exec i s = runT32 i x op s) :
    VecCompletes i (trans x op).op (trans x op).f :=
  vec_completes hx x.d.isLt nofun

theorem transWide_completes {i : Instr} {x : V2} {op : Nat} (hx : ∀ s, exec i s = runT64 i x op s) (hd : wf i = true → x.wideD = true) :
    VecCompletes i (transWide x op).op (transWide x op).f :=
  vec_completes hx x.d.isLt fun h _ _ => pair_of_even x.d (hd h)

/-- Settles O9: the T pipe's instructions differ in their operation number and width alone. -/
theorem transPipeResults : Obligations.TransPipeResults := by
  intro i l h
  unfold transTable at h
  split at h
  case h_1 x => cases h; exact trans_completes fun _ => rfl
  case h_2 x => cases h; exact trans_completes fun _ => rfl
  case h_3 x => cases h; exact trans_completes fun _ => rfl
  case h_4 x => cases h; exact trans_completes fun _ => rfl
  case h_5 x => cases h; exact trans_completes fun _ => rfl
  case h_6 x => cases h; exact trans_completes fun _ => rfl
  case h_7 x => cases h; exact trans_completes fun _ => rfl
  case h_8 x => cases h; exact transWide_completes (fun _ => rfl) fun h => last_of_wf h rfl
  case h_9 x => cases h; exact transWide_completes (fun _ => rfl) fun h => last_of_wf h rfl
  case h_10 => cases h

end Sys2Proof.Proofs

/-! PROOFS. The first operation of a tile's queue, and O35. -/

namespace Sys2Proof.Proofs

open Machine Spec Laws

/-! ## A store of values that are not 0 -/

/-- A value other than 0 reads back from its key and leaves the other keys, whatever the store's form. -/
theorem get_set_of_ne_zero {w : Nat} (m : SMap w) (a b : Nat) {v : BitVec w} (hv : v ≠ 0) :
    SMap.get (SMap.set m a v) b = if b = a then v else SMap.get m b := by
  induction m with
  | nil => simp only [SMap.set, hv, if_false, SMap.get, eq_comm (a := a)]
  | cons p l ih =>
    obtain ⟨k, x⟩ := p
    simp only [SMap.set, hv, if_false]
    split
    · simp only [SMap.get, eq_comm (a := a)]
    · split
      · next hak => subst hak; simp only [SMap.get, eq_comm (a := a)]; split <;> rfl
      · next hak =>
        simp only [SMap.get, ih]
        by_cases hb : k = b
        · subst hb; simp [Ne.symm hak]
        · simp [hb]

theorem get_setList_of_ne_zero {w : Nat} (m : SMap w) (a b : Nat) (l : List (BitVec w)) (hl : ∀ v ∈ l, v ≠ 0) :
    SMap.get (SMap.setList m a l) b = if a ≤ b ∧ b < a + l.length then l.getD (b - a) 0 else SMap.get m b := by
  induction l generalizing m a with
  | nil => exact (if_neg fun ⟨h1, h2⟩ => Nat.lt_irrefl b (Nat.lt_of_lt_of_le h2 h1)).symm
  | cons c l ih =>
    obtain ⟨hc, hl⟩ := List.forall_mem_cons.mp hl
    rw [SMap.setList, ih _ _ hl, get_set_of_ne_zero m a b hc, List.length_cons]
    obtain hb | rfl | hb := Nat.lt_trichotomy b a
    · rw [if_neg (by omega), if_neg (by omega), if_neg (by omega)]
    · simp
    · obtain ⟨n, rfl⟩ := Nat.exists_eq_add_of_lt hb
      have hn : a + n + 1 - a = n + 1 := by omega
      have hn' : a + n + 1 - (a + 1) = n := by omega
      rw [hn, hn', List.getD_cons_succ, if_neg (show a + n + 1 ≠ a by omega)]
      exact if_congr (by omega) rfl rfl

/-! ## Elements of a tile -/

/-- The mark of a defined element is never lost: a written element is not 0 even where its word is (log 12). -/
theorem marked_ne_zero (v : Word) : v.setWidth 33 ||| (1#33 <<< 32) ≠ 0 := by
  intro h
  have := congrArg (fun x => x.getLsbD 32) h
  simp at this

theorem marked_getLsbD (v : Word) : (v.setWidth 33 ||| (1#33 <<< 32)).getLsbD 32 = true := by simp

theorem marked_setWidth (v : Word) : (v.setWidth 33 ||| (1#33 <<< 32)).setWidth 32 = v := by
  ext i hi
  simp

/-- Writing elements of a tile changes those elements alone. -/
theorem tileElem_tileSet (c : Core) {core tile u e k : Nat} {l : List Word} (hl : e + l.length ≤ 16384) (hk : k < 16384) :
    (c.tileSet tile e l).tileElem core u k = if u = tile ∧ e ≤ k ∧ k < e + l.length then l.getD (k - e) 0 else c.tileElem core u k := by
  have hget : SMap.get (c.tileSet tile e l).tiles (u * 16384 + k) =
      if u = tile ∧ e ≤ k ∧ k < e + l.length then (l.getD (k - e) 0).setWidth 33 ||| (1#33 <<< 32)
      else SMap.get c.tiles (u * 16384 + k) := by
    have hne : ∀ v ∈ l.map (fun v => v.setWidth 33 ||| (1#33 <<< 32)), v ≠ 0 := by
      intro v hv
      obtain ⟨w, -, rfl⟩ := List.mem_map.mp hv
      exact marked_ne_zero w
    show SMap.get (SMap.setList c.tiles (tile * 16384 + e) _) _ = _
    rw [get_setList_of_ne_zero _ _ _ _ hne, List.length_map]
    by_cases hin : u = tile ∧ e ≤ k ∧ k < e + l.length
    · obtain ⟨rfl, hlo, hhi⟩ := hin
      have hsub : u * 16384 + k - (u * 16384 + e) = k - e := by omega
      have hlt : k - e < l.length := by omega
      rw [if_pos (by omega), if_pos (by omega), hsub]
      simp [List.getD_eq_getElem?_getD, hlt]
    · rw [if_neg (by omega), if_neg hin]
  unfold Core.tileElem
  rw [hget]
  by_cases hin : u = tile ∧ e ≤ k ∧ k < e + l.length
  · simp only [if_pos hin, marked_getLsbD, marked_setWidth, if_true]
  · simp only [if_neg hin]
    rfl

/-- A core on which only elements of one tile may have changed. -/
structure TileOnly (core tile : Nat) (c d : Core) : Prop where
  queues : d.tileQ = c.tileQ
  others : ∀ u < 16, u ≠ tile → ∀ k < 16384, d.tileElem core u k = c.tileElem core u k

theorem TileOnly.refl (core tile : Nat) (c : Core) : TileOnly core tile c c := ⟨rfl, fun _ _ _ _ _ => rfl⟩

theorem TileOnly.trans {core tile : Nat} {a b c : Core} (h : TileOnly core tile a b) (k : TileOnly core tile b c) : TileOnly core tile a c :=
  ⟨k.queues.trans h.queues, fun u hu hne e he => (k.others u hu hne e he).trans (h.others u hu hne e he)⟩

theorem tileOnly_tileSet (core : Nat) {tile e : Nat} (c : Core) {l : List Word} (hl : e + l.length ≤ 16384) :
    TileOnly core tile c (c.tileSet tile e l) :=
  ⟨rfl, fun _ _ hne _ hk => (tileElem_tileSet c hl hk).trans (if_neg fun h => hne h.1)⟩

theorem tileOnly_foldl {α : Type} {core tile : Nat} {f : Core → α → Core} {l : List α} (hf : ∀ c, ∀ a ∈ l, TileOnly core tile c (f c a))
    (c : Core) : TileOnly core tile c (l.foldl f c) := by
  induction l generalizing c with
  | nil => exact .refl core tile c
  | cons a l ih =>
    obtain ⟨ha, hl⟩ := List.forall_mem_cons.mp fun b hb d => hf d b hb
    exact (ha c).trans (ih (fun d b hb => hl b hb d) (f c a))

/-! ## What retiring leaves (R328, R329, R332) -/

theorem core_setCore_ne {s : State} {c d : Nat} {x : Core} (h : coreIx d ≠ coreIx c) : (s.setCore c x).core d = s.core d := by
  have hne : (coreIx c : Nat) ≠ (coreIx d : Nat) := fun hv => h (Fin.ext hv).symm
  simp [State.core, hne]

/-- A waiting group goes on: only its status changes. -/
theorem goOn_status (g : Group) (p : Bool) (sp : Option Word) : g.goOn p sp = { g with status := (g.goOn p sp).status } := by
  unfold Group.goOn
  split
  · split <;> rfl
  · rfl

theorem goOn_running (g : Group) (sp : Option Word) : (g.goOn false sp).status = .running := by cases sp <;> rfl

theorem wakeTile_frame (s : State) (o : TileOp) (own : Bool) : s.wakeTile o own = { s with groups := (s.wakeTile o own).groups } := by
  unfold State.wakeTile
  split
  · split
    · split <;> rfl
    · rfl
  · rfl

/-- Waking a group changes no group but in its status. -/
theorem wakeTile_group {s : State} {gi : Nat} {g : Group} (o : TileOp) (own : Bool) (hg : s.groups[gi]? = some g) :
    ∃ st, (s.wakeTile o own).groups[gi]? = some { g with status := st } := by
  unfold State.wakeTile
  split
  · next x hx =>
    split
    · split
      · by_cases hi : o.grp = gi
        · subst hi
          cases hg.symm.trans hx
          exact ⟨_, (group_setGroup s o.grp g _ hg).trans (congrArg some (goOn_status g _ _))⟩
        · exact ⟨g.status, (group_setGroup_ne s o.grp gi _ hi).trans hg⟩
      · exact ⟨g.status, hg⟩
    · exact ⟨g.status, hg⟩
  · exact ⟨g.status, hg⟩

/-- A group that runs is not woken. -/
theorem wakeTile_of_running {s : State} {gi : Nat} {g : Group} (o : TileOp) (own : Bool) (hg : s.groups[gi]? = some g)
    (hr : g.status = .running) : (s.wakeTile o own).groups[gi]? = some g := by
  unfold State.wakeTile
  split
  · next x hx =>
    by_cases hi : o.grp = gi
    · subst hi
      cases hg.symm.trans hx
      rw [hr]
      exact hg
    · split
      · split
        · exact (group_setGroup_ne s o.grp gi _ hi).trans hg
        · exact hg
      · exact hg
  · exact hg

/-- The group that stalled for its own operation runs, where its team is not pre-empted (R329, R469). -/
theorem wakeTile_own {s : State} {o : TileOp} {g : Group} {sp : Option Word} (hg : s.groups[o.grp]? = some g)
    (hs : g.status = .tileWait true o.issued sp) (hp : s.preempting g = false) :
    (s.wakeTile o true).groups[o.grp]? = some { g with status := .running } := by
  have hgo : g.goOn false sp = { g with status := .running } := (goOn_status g false sp).trans (by rw [goOn_running])
  simp only [State.wakeTile, hg, hs, hp, hgo, beq_self_eq_true, Bool.and_self, if_true]
  exact group_setGroup s o.grp g _ hg

theorem batchDone_own {g : Group} {seq : Nat} (h : g.batch.seq = seq) (err : Bool) : g.batchDone seq err = { g with batch := g.batch.ended err } := by
  simp [Group.batchDone, h]

theorem batchDone_frame (g : Group) (seq : Nat) (err : Bool) :
    g.batchDone seq err = { g with batch := (g.batchDone seq err).batch, batches := (g.batchDone seq err).batches } := by
  unfold Group.batchDone
  split <;> rfl

/-- The queue without its first operation, and its batch with one operation less: the machine before any group is woken. -/
def popped (s : State) (core tile : Nat) (o : TileOp) : State :=
  (s.setCore core { s.core core with
    tileQ := (s.core core).tileQ.set (Fin.ofNat 16 tile) ((s.core core).tileQ[Fin.ofNat 16 tile].drop 1) }).modGroup o.grp fun g =>
      g.batchDone o.batch false

/-- After the pop the operation's own waiter goes on, then that of the operation that now stands first. -/
theorem popTile_eq (s : State) (core tile : Nat) (o : TileOp) :
    s.popTile core tile o none = match ((popped s core tile o).wakeTile o true).tileQueue core tile with
      | n :: _ => ((popped s core tile o).wakeTile o true).wakeTile n false
      | [] => (popped s core tile o).wakeTile o true := rfl

/-- What both cases of `popTile_eq` keep, the end of a retirement keeps. -/
theorem popTile_ind {p : State → Prop} {s : State} {core tile : Nat} {o : TileOp} (h : p ((popped s core tile o).wakeTile o true))
    (hw : ∀ t n, p t → p (t.wakeTile n false)) : p (s.popTile core tile o none) := by
  rw [popTile_eq]
  split
  · exact hw _ _ h
  · exact h

theorem popTile_frame (s : State) (core tile : Nat) (o : TileOp) :
    s.popTile core tile o none = { popped s core tile o with groups := (s.popTile core tile o none).groups } :=
  popTile_ind (p := fun t => t = { popped s core tile o with groups := t.groups }) (wakeTile_frame _ _ _) fun t n h =>
    (wakeTile_frame t n false).trans (by rw [h])

theorem popTile_core (s : State) (core tile : Nat) (o : TileOp) (c : Nat) :
    (s.popTile core tile o none).core c = (popped s core tile o).core c := by
  rw [popTile_frame]
  rfl

theorem popTile_group {s : State} {core tile gi : Nat} {o : TileOp} {g : Group} (hg : (popped s core tile o).groups[gi]? = some g) :
    ∃ st, (s.popTile core tile o none).groups[gi]? = some { g with status := st } :=
  popTile_ind (p := fun t => ∃ st, t.groups[gi]? = some { g with status := st }) (wakeTile_group _ _ hg) fun _ n ⟨_, h⟩ =>
    (wakeTile_group n false h).imp fun _ h => h

/-- The first operation that may go is applied and leaves. -/
theorem exec_tileOperationRetire {s u : State} {core tile : Nat} {o : TileOp} (hF : Front s core tile o) (ha : s.applyOp core tile o = .ok u) :
    exec (.tileOperationRetire core tile) s = .next (u.popTile core tile o none) := by
  show Host.Outcome.next (retireTile core tile s) = _
  obtain ⟨rest, hq⟩ := List.head?_eq_some_iff.mp hF.head
  obtain ⟨hst, hsl⟩ := hF.goes
  have hq : s.tileQueue core tile = o :: rest := hq
  simp only [retireTile, hq, hst, hsl, ha, Option.isSome_none, Bool.or_self, Bool.false_eq_true, if_false]

/-- Where applying an operation leaves the core's queues and its group's batch, the pop retires it. -/
theorem popTile_retired {s u : State} {core tile : Nat} {o : TileOp} (hq : (u.core core).tileQ = (s.core core).tileQ)
    (hg : ∀ g, s.groups[o.grp]? = some g → ∃ h, u.groups[o.grp]? = some h ∧ h.batch = g.batch) :
    Retired s (u.popTile core tile o none) core tile o := by
  constructor
  · rw [popTile_core]
    simp [popped, hq]
  · intro g hgs hb
    obtain ⟨h, hu, hbatch⟩ := hg g hgs
    have hpop : (popped u core tile o).groups[o.grp]? = some (h.batchDone o.batch false) := by simp [popped, hu]
    obtain ⟨st, ht⟩ := popTile_group hpop
    refine ⟨_, ht, ?_⟩
    rw [batchDone_own (hbatch ▸ hb), hbatch]
    exact ⟨rfl, rfl⟩

theorem popTile_tileAt (s : State) (core tile : Nat) (o : TileOp) (u r c : Nat) :
    tileAt (s.popTile core tile o none) core u r c = tileAt s core u r c := by
  unfold tileAt
  rw [popTile_core, popped, core_modGroup, core_setCore]
  rfl

theorem popTile_core_ne {s : State} {core tile d : Nat} {o : TileOp} (h : coreIx d ≠ coreIx core) :
    (s.popTile core tile o none).core d = s.core d := by
  rw [popTile_core]
  exact core_setCore_ne h

theorem popTile_mem (s : State) (core tile : Nat) (o : TileOp) : (s.popTile core tile o none).mem = s.mem := by
  rw [popTile_frame]
  rfl

/-- An operation that writes its tile alone retires, and leaves the elements it wrote. -/
theorem retires_writing {s : State} {core tile : Nat} {o : TileOp} {f : Core → Core} (hF : Front s core tile o)
    (ha : s.applyOp core tile o = .ok (s.modCore core f)) (hf : TileOnly core tile (s.core core) (f (s.core core))) :
    ∃ t, exec (.tileOperationRetire core tile) s = .next t ∧ Retired s t core tile o ∧ OtherTiles s t core tile ∧ t.mem = s.mem ∧
      ∀ u r c, tileAt t core u r c = (f (s.core core)).tileElem core u (128 * r + c) := by
  have hat (u r c : Nat) : tileAt ((s.modCore core f).popTile core tile o none) core u r c = (f (s.core core)).tileElem core u (128 * r + c) := by
    rw [popTile_tileAt, tileAt, State.modCore, core_setCore]
  refine ⟨_, exec_tileOperationRetire hF ha, popTile_retired ?_ (fun g hg => ⟨g, hg, rfl⟩), ⟨?_, ?_⟩, popTile_mem _ _ _ _, hat⟩
  · rw [State.modCore, core_setCore]
    exact hf.queues
  · intro u hu hne r hr c hc
    rw [hat]
    exact hf.others u hu hne _ (by omega)
  · intro d hd
    rw [popTile_core_ne hd]
    exact core_setCore_ne hd

/-! ## MZERO (R340) -/

theorem retires_zero {s : State} {core tile : Nat} {o : TileOp} (hF : Front s core tile o) (hk : o.kind = .zero) :
    ∃ t, exec (.tileOperationRetire core tile) s = .next t ∧ Retired s t core tile o ∧ OtherTiles s t core tile ∧ t.mem = s.mem ∧
      ∀ r < 128, ∀ c < 128, tileAt t core tile r c = 0 := by
  have hlen : (List.replicate 16384 (0 : Word)).length = 16384 := List.length_replicate
  obtain ⟨t, ht, hret, hoth, hmem, hat⟩ := retires_writing (f := fun c => c.tileSet tile 0 (List.replicate 16384 0)) hF
    (by simp only [State.applyOp, hk]) (tileOnly_tileSet core _ (by omega))
  refine ⟨t, ht, hret, hoth, hmem, fun r hr c hc => ?_⟩
  have hin : 128 * r + c < 16384 := by omega
  rw [hat, tileElem_tileSet _ (by omega) hin, if_pos ⟨rfl, by omega, by omega⟩, List.getD_eq_getElem _ _ (by omega), List.getElem_replicate]

/-! ## MFILL from lanes (R338, R340) -/

/-- The elements of a band stand thread by thread, eight to a thread. -/
theorem bandElem_eq (band t e : Nat) : bandElem band t e = 2048 * band + 8 * t + e := by
  unfold bandElem
  omega

theorem bandElem_rowOf (band t e : Nat) : 128 * rowOf band t + colOf t e = bandElem band t e := by
  unfold rowOf colOf bandElem
  omega

theorem bandElem_lt {band t e : Nat} (hb : band < 8) (ht : t < 256) (he : e < 8) : bandElem band t e < 16384 := by
  rw [bandElem_eq]
  omega

/-- A tile with the eight elements of each lane of a list. -/
def filled (tile band : Nat) (l : List (Nat × List Word)) (c : Core) : Core := l.foldl (fun c v => c.tileSet tile (bandElem band v.1 0) v.2) c

section Fill
variable {core tile band : Nat} (hb : band < 8)
include hb

theorem fill_fits {v : Nat × List Word} (hv : v.1 < 256 ∧ v.2.length = 8) : bandElem band v.1 0 + v.2.length ≤ 16384 := by
  obtain ⟨ht, hlen⟩ := hv
  rw [bandElem_eq, hlen]
  omega

theorem tileOnly_filled {l : List (Nat × List Word)} (hl : ∀ v ∈ l, v.1 < 256 ∧ v.2.length = 8) (c : Core) :
    TileOnly core tile c (filled tile band l c) :=
  tileOnly_foldl (fun c v hv => tileOnly_tileSet core c (fill_fits hb (hl v hv))) c

/-- An element of no lane of the list is as it was. -/
theorem tileElem_filled_of_forall_ne {l : List (Nat × List Word)} (hl : ∀ v ∈ l, v.1 < 256 ∧ v.2.length = 8) {k : Nat} (hk : k < 16384)
    (hne : ∀ v ∈ l, ∀ e < 8, k ≠ bandElem band v.1 e) (c : Core) : (filled tile band l c).tileElem core tile k = c.tileElem core tile k := by
  induction l generalizing c with
  | nil => rfl
  | cons v l ih =>
    obtain ⟨hv, hl⟩ := List.forall_mem_cons.mp hl
    obtain ⟨hnv, hne⟩ := List.forall_mem_cons.mp hne
    refine (ih hl hne _).trans ((tileElem_tileSet c (fill_fits hb hv) hk).trans (if_neg fun ⟨_, hlo, hhi⟩ => ?_))
    rw [bandElem_eq] at hlo hhi
    refine hnv (k - (2048 * band + 8 * v.1)) (by omega) ?_
    rw [bandElem_eq]
    omega

/-- An element of a lane of the list holds what the lane gave. -/
theorem tileElem_filled_of_mem {l : List (Nat × List Word)} (hl : ∀ v ∈ l, v.1 < 256 ∧ v.2.length = 8) (hnd : (l.map fun v => v.1).Nodup)
    {v : Nat × List Word} (hv : v ∈ l) {e : Nat} (he : e < 8) (c : Core) :
    (filled tile band l c).tileElem core tile (bandElem band v.1 e) = v.2.getD e 0 := by
  have hk : bandElem band v.1 e < 16384 := bandElem_lt hb (hl v hv).1 he
  induction l generalizing c with
  | nil => cases hv
  | cons w l ih =>
    obtain ⟨hw, hrest⟩ := List.forall_mem_cons.mp hl
    obtain ⟨hnot, hndrest⟩ := List.nodup_cons.mp hnd
    obtain rfl | hv := List.mem_cons.mp hv
    · have hother : ∀ x ∈ l, ∀ e' < 8, bandElem band v.1 e ≠ bandElem band x.1 e' := by
        intro x hx e' he'
        have hne : v.1 ≠ x.1 := fun h => hnot (List.mem_map.mpr ⟨x, hx, h.symm⟩)
        rw [bandElem_eq, bandElem_eq]
        omega
      have hsub : bandElem band v.1 e - bandElem band v.1 0 = e := by rw [bandElem_eq, bandElem_eq]; omega
      refine (tileElem_filled_of_forall_ne hb hrest hk hother _).trans ?_
      rw [tileElem_tileSet c (fill_fits hb hw) hk, hsub, if_pos]
      rw [bandElem_eq, bandElem_eq, hw.2]
      omega
    · exact ih hrest hndrest hv _

theorem retires_fill {s : State} {o : TileOp} {vals : List (Nat × List Word)} {fmt src : Nat} (hF : Front s core tile o)
    (hk : o.kind = .fill (some vals) fmt band src) (hnd : (vals.map fun v => v.1).Nodup) (hvals : ∀ v ∈ vals, v.1 < 256 ∧ v.2.length = 8) :
    ∃ t, exec (.tileOperationRetire core tile) s = .next t ∧ Retired s t core tile o ∧ OtherTiles s t core tile ∧ t.mem = s.mem ∧
      (∀ v ∈ vals, ∀ e < 8, tileAt t core tile (rowOf band v.1) (colOf v.1 e) = v.2.getD e 0) ∧
      ∀ r < 128, ∀ c < 128, (∀ v ∈ vals, ∀ e < 8, (r, c) ≠ (rowOf band v.1, colOf v.1 e)) →
        tileAt t core tile r c = tileAt s core tile r c := by
  obtain ⟨t, ht, hret, hoth, hmem, hat⟩ := retires_writing (f := filled tile band vals) hF (by simp only [State.applyOp, hk]; rfl)
    (tileOnly_filled hb hvals _)
  refine ⟨t, ht, hret, hoth, hmem, fun v hv e he => ?_, fun r hr c hc hne => ?_⟩
  · rw [hat, bandElem_rowOf]
    exact tileElem_filled_of_mem hb hvals hnd hv he _
  · rw [hat]
    refine tileElem_filled_of_forall_ne hb hvals (by omega) (fun v hv e he heq => hne v hv e he ?_) _
    rw [← bandElem_rowOf] at heq
    have hcol : colOf v.1 e < 128 := by unfold colOf; omega
    exact Prod.ext (by omega) (by omega)

end Fill

/-! ## MMA of operands in scratchpad (R127, R323, R326, R334) -/

/-- The chunks of a sum read only their own columns of the row. -/
theorem chunkChain_congr (fa fb : Fmt) {row row' : Nat → Nat} (col : Nat → List Nat) (c n acc : Nat)
    (h : ∀ m < 32 * (c + n), row m = row' m) : chunkChain fa fb row col c n acc = chunkChain fa fb row' col c n acc := by
  induction n generalizing c acc with
  | zero => rfl
  | succ n ih =>
    have hmap : ((List.range 32).map fun m => row (32 * c + m)) = (List.range 32).map fun m => row' (32 * c + m) :=
      List.map_congr_left fun m hm => h _ (by have := List.mem_range.mp hm; omega)
    rw [chunkChain, chunkChain, hmap]
    exact ih (c + 1) _ fun m hm => h m (by omega)

/-- A table written row by row: its element at a row and a column. -/
theorem getD_flatMap_range {α β : Type} (l : List α) (f : α → Nat → β) {n r c : Nat} (z : β) (hr : r < l.length) (hc : c < n) :
    (l.flatMap fun x => (List.range n).map (f x)).getD (n * r + c) z = f l[r] c := by
  induction l generalizing r with
  | nil => cases hr
  | cons x l ih =>
    rw [List.flatMap_cons]
    cases r with
    | zero =>
      rw [Nat.mul_zero, Nat.zero_add, List.getD_append _ _ _ _ (by simpa using hc)]
      simp [List.getD_eq_getElem?_getD, hc]
    | succ r =>
      have hlen : ((List.range n).map (f x)).length = n := by simp
      have hsub : n * (r + 1) + c - n = n * r + c := by rw [Nat.mul_succ]; omega
      rw [List.getD_append_right _ _ _ _ (by rw [hlen, Nat.mul_succ]; omega), hlen, hsub, ih (by simpa using hr)]
      rfl

theorem panelElems_pos (k : Nat) : 0 < panelElems k := by
  unfold panelElems
  split_ifs <;> decide

/-- Every column of a row's whole chunks stands in a panel of the operand. -/
theorem panel_lt {ka k c : Nat} (hc : c < 32 * (k / 32)) : c / panelElems ka < panels ka k := by
  have hpos := panelElems_pos ka
  unfold panels
  rw [Nat.div_lt_iff_lt_mul hpos]
  have := Nat.lt_div_mul_add (a := k + panelElems ka - 1) hpos
  omega

/-- An operation of one core alone is not the second half of a pair. -/
theorem none_not_second : ((none : Option Bool) == some true) = false := rfl

/-- The rows of A that a fetch from scratchpad gives: each row's panels. -/
def scratchRows (s : State) (core base a ka k : Nat) : List (List Nat) :=
  (List.range 128).map fun i => (List.range (panels ka k)).map fun j => (s.core core).panelRow core base (a + 16384 * j + 128 * i)

theorem fetchA_scratch {s : State} {o : TileOp} {tm : Team} (htm : s.teams[o.team]? = some tm) (core ka k : Nat) (a : DWord) :
    s.fetchA core o none false ka k a = .rows (scratchRows s core (65536 * tm.scrBase) a.toNat ka k) := by
  simp only [State.fetchA, none_not_second, Bool.false_eq_true, if_false, htm, Nat.mul_comm tm.scrBase]
  rfl

theorem mmaTile_length (ka kb k : Nat) (old : Nat → Nat) (a b : List (List Nat)) : (mmaTile ka kb k old a b).length = 128 * a.length := by
  simp [mmaTile, List.length_flatMap, Nat.mul_comm]

/-- An element of an MMA's tile is the chunk sum of its row and its column. -/
theorem mmaTile_getD (s : State) (core base a ka kb k : Nat) (old : Nat → Nat) (b : List (List Nat)) {r c : Nat} (hr : r < 128) (hc : c < 128) :
    (mmaTile ka kb k old (scratchRows s core base a ka k) b).getD (128 * r + c) 0 =
      mmaElem ka kb k (old (128 * r + c)) (aElem s core base a ka r) fun n => b.getD (128 * n + c) [] := by
  have hlen : r < (scratchRows s core base a ka k).zipIdx.length := by simp [scratchRows, hr]
  rw [mmaTile, getD_flatMap_range _ _ _ hlen hc, mmaElem]
  refine congrArg (BitVec.ofNat 32) ?_
  simp only [scratchRows, List.getElem_zipIdx, List.getElem_map, List.getElem_range, Nat.zero_add]
  refine chunkChain_congr _ _ _ _ _ _ fun m hm => ?_
  have hp : m / panelElems ka < panels ka k := panel_lt (by omega)
  simp [rowElem, aElem, List.getD_eq_getElem?_getD, hp]

theorem retires_mma {s : State} {core tile : Nat} {o : TileOp} {ka kb k b : Nat} {a : DWord} {tm : Team} {g : List (List Nat)}
    (hF : Front s core tile o) (hk : o.kind = .mma none false ka kb k a b) (htm : s.teams[o.team]? = some tm)
    (hz : zGroups (s.core core).weightWord (kindFmt kb).width b (4 * k) = .ok g) :
    ∃ t, exec (.tileOperationRetire core tile) s = .next t ∧ Retired s t core tile o ∧ OtherTiles s t core tile ∧ t.mem = s.mem ∧
      ∀ r < 128, ∀ c < 128, tileAt t core tile r c =
        mmaElem ka kb k (tileAt s core tile r c).toNat (aElem s core (65536 * tm.scrBase) a.toNat ka r) fun n => g.getD (128 * n + c) [] := by
  let l := mmaTile ka kb k (fun e => ((s.core core).tileElem core tile e).toNat) (scratchRows s core (65536 * tm.scrBase) a.toNat ka k) g
  have hlen : l.length = 16384 := (mmaTile_length _ _ _ _ _ _).trans (by simp [scratchRows])
  have hfit : 0 + l.length ≤ 16384 := by omega
  have ha : s.applyOp core tile o = .ok (s.modCore core fun c => c.tileSet tile 0 l) := by
    simp only [State.applyOp, hk, fetchA_scratch htm, none_not_second, Bool.false_eq_true, if_false, hz]
    rfl
  obtain ⟨t, ht, hret, hoth, hmem, hat⟩ := retires_writing hF ha (tileOnly_tileSet core _ hfit)
  refine ⟨t, ht, hret, hoth, hmem, fun r hr c hc => ?_⟩
  rw [hat, tileElem_tileSet _ hfit (by omega), if_pos ⟨rfl, by omega, by omega⟩]
  exact mmaTile_getD s core _ _ ka kb k _ g hr hc

/-! ## MDRAIN to entries (R329, R338, R339) -/

/-- Entries written one after the other from d: each holds its own, and the others are as they were. -/
theorem entry_foldl_writeEntry (x : Ctx) (m : LaneMask) (f : Nat → Nat → Word) {d n e : Nat} (hd : d + n ≤ 16) (he : e < 16) :
    ((List.range n).foldl (fun y j => y.writeEntry (d + j) m (f j)) x).entry e =
      if d ≤ e ∧ e < d + n then
        ⟨(x.entry e).map, .dirty, mergeLanes m (if (x.entry e).st == .free then Lanes.zero else (x.entry e).val) (f (e - d))⟩
      else x.entry e := by
  induction n with
  | zero => exact (if_neg (by omega)).symm
  | succ n ih =>
    rw [List.range_succ, List.foldl_append, List.foldl_cons, List.foldl_nil, entry_writeEntry _ _ _ _ _ (by omega) he]
    by_cases hlast : d + n = e
    · subst hlast
      have hnot : ¬ (d ≤ d + n ∧ d + n < d + n) := by omega
      have hin : d ≤ d + n ∧ d + n < d + (n + 1) := by omega
      rw [if_pos rfl, ih (by omega), if_neg hnot, if_pos hin, Nat.add_sub_cancel_left]
    · rw [if_neg hlast, ih (by omega)]
      exact if_congr (by omega) rfl rfl

/-- The context of a group to which a binary32 drain of a band has given its elements. -/
def drained (s : State) (core tile band d : Nat) (x : Ctx) : Ctx :=
  (List.range 8).foldl (fun y j => y.writeEntry (d + j) x.active fun t =>
    BitVec.ofNat 32 ((s.core core).tileElem core tile (bandElem band t j)).toNat) x

theorem drained_entry_at {s : State} {core tile band d : Nat} {x : Ctx} (hd : d + 7 < 16) {e n : Nat} (he : e < 8) (hn : n < 256)
    (hact : x.active.getLsbD n = true) :
    ((drained s core tile band d x).entry (d + e)).at n = tileAt s core tile (rowOf band n) (colOf n e) := by
  rw [drained, entry_foldl_writeEntry x _ _ (by omega) (by omega), if_pos (by omega), at_mergeLanes _ _ _ _ _ hn, if_pos hact,
    Nat.add_sub_cancel_left, tileAt, bandElem_rowOf]
  simp

theorem drained_entry_other {s : State} {core tile band d : Nat} {x : Ctx} (hd : d + 7 < 16) {e : Nat} (he : e < 16) (ho : e < d ∨ d + 8 ≤ e) :
    (drained s core tile band d x).entry e = x.entry e := by
  rw [drained, entry_foldl_writeEntry x _ _ (by omega) he, if_neg (by omega)]

/-- What a drain gives the group that its operation names: nothing where that has ended. -/
def drainedGroup (s : State) (core tile band d : Nat) (g : Group) : Group :=
  if g.status == .exited || g.status == .gone then g else { g with ctx := drained s core tile band d g.ctx }

theorem drainedGroup_batch (s : State) (core tile band d : Nat) (g : Group) : (drainedGroup s core tile band d g).batch = g.batch := by
  unfold drainedGroup
  split <;> rfl

theorem drainedGroup_of_waiting {g : Group} {own : Bool} {n : Nat} {sp : Option Word} (h : g.status = .tileWait own n sp)
    (s : State) (core tile band d : Nat) : drainedGroup s core tile band d g = { g with ctx := drained s core tile band d g.ctx } := by
  simp [drainedGroup, h]

theorem applyOp_drain {s : State} {core tile band d : Nat} {o : TileOp} (hk : o.kind = .drain (some d) 0 band false false 0 0) :
    s.applyOp core tile o = .ok (s.modGroup o.grp (drainedGroup s core tile band d)) := by
  simp only [State.applyOp, hk]
  rfl

/-- The group that stalled for the operation runs once that has left (R329). -/
theorem popTile_own {s : State} {o : TileOp} {g : Group} {sp : Option Word} (core tile : Nat) (hg : s.groups[o.grp]? = some g)
    (hs : g.status = .tileWait true o.issued sp) (hp : s.preempting g = false) :
    (s.popTile core tile o none).groups[o.grp]? = some { g.batchDone o.batch false with status := .running } := by
  have hpop : (popped s core tile o).groups[o.grp]? = some (g.batchDone o.batch false) := by simp [popped, hg]
  have hs' : (g.batchDone o.batch false).status = .tileWait true o.issued sp := by rw [batchDone_frame]; exact hs
  have hp' : (popped s core tile o).preempting (g.batchDone o.batch false) = false := by rw [batchDone_frame]; exact hp
  exact popTile_ind (p := fun t => t.groups[o.grp]? = some { g.batchDone o.batch false with status := .running }) (wakeTile_own hpop hs' hp')
    fun t n h => wakeTile_of_running n false h rfl

theorem retires_drain {s : State} {core tile band d : Nat} {o : TileOp} {g : Group} {sp : Option Word} (hd : d + 7 < 16)
    (hF : Front s core tile o) (hk : o.kind = .drain (some d) 0 band false false 0 0) (hg : s.groups[o.grp]? = some g)
    (hs : g.status = .tileWait true o.issued sp) (hp : s.preempting g = false) :
    ∃ t h, exec (.tileOperationRetire core tile) s = .next t ∧ Retired s t core tile o ∧ OtherTiles s t core tile ∧ t.mem = s.mem ∧
      t.groups[o.grp]? = some h ∧ h.status = .running ∧
      (∀ e < 8, ∀ n < 256, g.ctx.active.getLsbD n = true → (h.ctx.entry (d + e)).at n = tileAt s core tile (rowOf band n) (colOf n e)) ∧
      ∀ e < 16, (e < d ∨ d + 8 ≤ e) → h.ctx.entry e = g.ctx.entry e := by
  have ha := applyOp_drain (s := s) (core := core) (tile := tile) hk
  have hu : (s.modGroup o.grp (drainedGroup s core tile band d)).groups[o.grp]? = some { g with ctx := drained s core tile band d g.ctx } := by
    rw [group_modGroup, hg, Option.map_some, drainedGroup_of_waiting hs]
  refine ⟨_, _, exec_tileOperationRetire hF ha, popTile_retired rfl fun x hx => ?_, ⟨fun u _ _ r _ c _ => ?_, fun e he => ?_⟩, ?_,
    popTile_own core tile hu hs hp, rfl, fun e he n hn hact => ?_, fun e he ho => ?_⟩
  · exact ⟨_, by rw [group_modGroup, hx, Option.map_some], drainedGroup_batch _ _ _ _ _ _⟩
  · rw [popTile_tileAt]
    rfl
  · rw [popTile_core_ne he]
    rfl
  · exact popTile_mem _ _ _ _
  · rw [batchDone_frame]
    exact drained_entry_at hd he hn hact
  · rw [batchDone_frame]
    exact drained_entry_other hd he ho

/-! ## A_FETCH_RESUME (R498) -/

theorem exec_aFetchResume {s : State} {core tile : Nat} {o : TileOp} {va : DWord}
    (hq : ((s.core core).tileQ[Fin.ofNat 16 tile]).head? = some o) (hst : o.stalled = some va) (hr : s.fetchReady core o.job va = true) :
    exec (.aFetchResume core tile) s = .next (s.setCore core { s.core core with
      tileQ := (s.core core).tileQ.set (Fin.ofNat 16 tile) ({ o with stalled := none } :: ((s.core core).tileQ[Fin.ofNat 16 tile]).drop 1) }) := by
  show execAFetchResume core tile s = _
  obtain ⟨rest, hq⟩ := List.head?_eq_some_iff.mp hq
  have hq' : s.tileQueue core tile = o :: rest := hq
  simp only [execAFetchResume, hq', hst, hr, if_true, hq]
  rfl

theorem fetchReady_of_ok {s : State} {core job pa : Nat} {va : DWord} {c : Bool} (h : s.xlate core job va .read true = .ok pa c) :
    s.fetchReady core job va = true := by
  simp only [State.fetchReady, h]

/-- Settles O35: one rule for the pop that every retirement ends in, and one for what each operation writes before it. -/
theorem tileOperations : Obligations.TileOperations :=
  ⟨fun _ _ _ _ _ hF hk => retires_zero hF hk,
    fun _ _ _ _ _ _ _ _ _ hb hF hk hnd hvals => retires_fill hb hF hk hnd hvals,
    fun _ _ _ _ _ _ _ _ _ _ _ _ hF hk htm hz _ => retires_mma hF hk htm hz,
    fun _ _ _ _ _ _ _ _ _ _ hd hF hk hg hs hp => retires_drain hd hF hk hg hs hp,
    fun _ _ _ _ _ hq hst ⟨_, _, hx⟩ => ⟨_, exec_aFetchResume hq hst (fetchReady_of_ok hx), rfl⟩⟩

end Sys2Proof.Proofs

/-! PROOFS. The decoder: what the check of a word alone sees. -/

namespace Sys2Proof.Proofs

open Machine Spec Laws

/-! ## The checks of a word alone (R160, R453)

`wordOk` reads a word with extension words of zeros. It answers as the instruction's own check of its word does, whatever follows
the word, because that check looks at no extension word. -/

/-- Where the first reading is an instruction, the second is one too, and both pass the check of the word alone or neither does. -/
def SameWord (a b : Option Instr) : Prop := ∀ i, a = some i → ∃ j, b = some j ∧ wfWord j = wfWord i

theorem sameWord_none {b : Option Instr} : SameWord none b := by
  intro i h
  cases h

theorem sameWord_some {i j : Instr} (h : wfWord j = wfWord i) : SameWord (some i) (some j) := fun _ hi => ⟨j, rfl, Option.some.inj hi ▸ h⟩

theorem sameWord_ite {p : Bool} {a b c d : Option Instr} (h : SameWord a b) (k : SameWord c d) :
    SameWord (if p then a else c) (if p then b else d) := by
  cases p with
  | false => exact k
  | true => exact h

theorem sameWord_if {p : Bool} {a b : Option Instr} (h : SameWord a b) : SameWord (if p then a else none) (if p then b else none) :=
  sameWord_ite h sameWord_none

theorem hi_zero (n : Nat) : hi 0 n = true := by simp [hi]

theorem sameWord_order {k : Word} {f h : Order → Instr} (he : ∀ o, wfWord (h (orderOf 0)) = wfWord (f o)) :
    SameWord (orderThen k f) (orderThen 0 h) := by
  unfold orderThen
  rw [hi_zero]
  split
  · exact sameWord_some (he _)
  · exact sameWord_none

theorem sameWord_v3 (w : Word) (sp sp' : Sp) : SameWord (buildV3 w sp) (buildV3 w sp') := by
  unfold buildV3
  split
  case h_7 => exact sameWord_if (sameWord_some rfl)
  case h_17 => exact sameWord_none
  all_goals exact sameWord_some rfl

theorem sameWord_v2 (w : Word) (sp sp' : Sp) : SameWord (buildV2 w sp) (buildV2 w sp') := by
  unfold buildV2
  split
  case h_64 => exact sameWord_none
  all_goals exact sameWord_some rfl

theorem sameWord_vi (w k k' : Word) (sp sp' : Sp) : SameWord (buildVI w k sp) (buildVI w k' sp') := by
  unfold buildVI
  split
  case h_16 => exact sameWord_none
  all_goals exact sameWord_some rfl

/-- A displacement word is there or not; what it holds is no matter (R155). -/
theorem sameWord_mem (w o : Word) {d d' : Option Word} (hd : d'.isSome = d.isSome) (sp sp' : Sp) :
    SameWord (buildMem w d o sp) (buildMem w d' 0 sp') := by
  cases d <;> cases d' <;> cases hd
  all_goals
    unfold buildMem
    dsimp only
    split
    case h_27 => exact sameWord_none
    case h_13 | h_14 | h_15 | h_16 | h_17 | h_18 | h_21 | h_26 => exact sameWord_order fun _ => rfl
    all_goals exact sameWord_some rfl

theorem sameWord_uni (w k k2 : Word) (sp sp' : Sp) : SameWord (buildUni w k k2 sp) (buildUni w 0 0 sp') := by
  unfold buildUni
  dsimp only
  split
  case h_37 => exact sameWord_none
  case h_21 | h_22 | h_23 => exact sameWord_order fun _ => rfl
  all_goals exact sameWord_some rfl

theorem sameWord_asy (w k k' : Word) (sp sp' : Sp) : SameWord (buildAsy w k sp) (buildAsy w k' sp') := by
  unfold buildAsy
  dsimp only
  split
  case h_28 =>
    dsimp only [asy]
    split
    case h_5 => exact sameWord_none
    all_goals exact sameWord_some rfl
  case h_29 => exact sameWord_none
  all_goals exact sameWord_some rfl

theorem getD_zeros (n i : Nat) : (List.replicate n (0 : Word)).getD i 0 = 0 := by
  rw [List.getD_eq_getElem?_getD, List.getElem?_replicate]
  split <;> rfl

theorem length_of_regionItems {n : Nat} {ws : List Word} {l : List RegionItem} (h : regionItems n ws = some l) : l.length = n := by
  unfold regionItems at h
  split at h <;> cases h
  simp

theorem regionItems_zeros (n m : Nat) : ∃ l, regionItems n (List.replicate m 0) = some l := by
  have hz : ∀ i, regionItem (List.replicate m 0) i = 0 := fun i => by rw [regionItem, getD_zeros]; simp
  simp only [regionItems, hz]
  simp

theorem length_of_slotItems {n : Nat} {ws : List Word} {l : List SlotItem} (h : slotItems n ws = some l) : l.length = n := by
  unfold slotItems at h
  split at h <;> cases h
  simp

theorem slotItems_zeros (n m : Nat) : ∃ l, slotItems n (List.replicate m 0) = some l := by
  have hz : ∀ i, slotItem (List.replicate m 0) i = 0 := fun i => by rw [slotItem, getD_zeros]; simp
  simp only [slotItems, hz, List.all_replicate, hi_zero]
  simp

/-- REGION and REGIONU count their items in the word (R146, R147). -/
theorem sameWord_region (n m : Nat) (own : List Word) (sp sp' : Sp) :
    SameWord ((regionItems n own).map (.region sp)) ((regionItems n (List.replicate m 0)).map (.region sp')) := by
  intro i hi
  obtain ⟨l, hl, rfl⟩ := Option.map_eq_some_iff.mp hi
  obtain ⟨z, hz⟩ := regionItems_zeros n m
  refine ⟨.region sp' z, by rw [hz]; rfl, ?_⟩
  simp only [wfWord, length_of_regionItems hl, length_of_regionItems hz]

theorem sameWord_regionu (n m : Nat) (own : List Word) (sp sp' : Sp) :
    SameWord ((slotItems n own).map (.regionu sp)) ((slotItems n (List.replicate m 0)).map (.regionu sp')) := by
  intro i hi
  obtain ⟨l, hl, rfl⟩ := Option.map_eq_some_iff.mp hi
  obtain ⟨z, hz⟩ := slotItems_zeros n m
  refine ⟨.regionu sp' z, by rw [hz]; rfl, ?_⟩
  simp only [wfWord, length_of_slotItems hl, length_of_slotItems hz]

theorem sameWord_ctl (w : Word) (own : List Word) (m : Nat) (sp sp' : Sp) : SameWord (buildCtl w own sp) (buildCtl w (List.replicate m 0) sp') := by
  unfold buildCtl
  dsimp only
  split
  case h_1 | h_3 | h_5 | h_11 | h_16 => exact sameWord_some rfl
  case h_2 => exact sameWord_ite sameWord_none (sameWord_some rfl)
  case h_8 => exact sameWord_if (sameWord_region _ _ _ _ _)
  case h_9 => exact sameWord_if (sameWord_regionu _ _ _ _ _)
  case h_12 =>
    refine sameWord_if ?_
    split
    case h_4 => exact sameWord_none
    all_goals exact sameWord_some rfl
  case h_23 =>
    refine sameWord_if ?_
    split
    case h_3 => exact sameWord_none
    all_goals exact sameWord_some rfl
  case h_24 => exact sameWord_none
  all_goals exact sameWord_if (sameWord_some rfl)

theorem sameWord_class (w : Word) (own : List Word) (m : Nat) (sp sp' : Sp) :
    SameWord (buildClass w own sp) (buildClass w (List.replicate m 0) sp') := by
  unfold buildClass
  simp only [getD_zeros]
  split
  case h_1 => exact sameWord_v3 _ _ _
  case h_2 => exact sameWord_v2 _ _ _
  case h_3 => exact sameWord_vi _ _ _ _ _
  case h_4 => exact sameWord_ite (sameWord_mem _ _ (by rfl) _ _) (sameWord_mem _ _ (by rfl) _ _)
  case h_5 => exact sameWord_uni _ _ _ _ _
  case h_6 => exact sameWord_ctl _ _ _ _ _
  case h_7 => exact sameWord_asy _ _ _ _ _
  case h_8 => exact sameWord_none

theorem sameWord_build (w : Word) (ext : List Word) : SameWord (build w ext) (build w (List.replicate (extCount w) 0)) := by
  unfold build
  rw [List.length_replicate, beq_self_eq_true, if_pos rfl, List.take_replicate]
  cases ext.length == extCount w with
  | false => exact sameWord_none
  | true =>
    rw [if_pos rfl]
    exact sameWord_ite (sameWord_class _ _ _ _ _) (sameWord_class _ _ _ _ _)

/-- The word of an instruction is refused before its extension words are fetched exactly where the instruction fails the check of its
word (R453). -/
theorem wordOk_of_build {w : Word} {ext : List Word} {i : Instr} (h : build w ext = some i) : wordOk w = wfWord i := by
  obtain ⟨j, hj, hij⟩ := sameWord_build w ext i h
  rw [wordOk, hj, ← hij]

end Sys2Proof.Proofs

/-! PROOFS. Encoding and decoding: the fields of each class read back, and O57. -/

namespace Sys2Proof.Proofs

open Machine Spec Laws

/-! ## Reading a field of a word that is written as a sum of fields -/

theorem fb_eq {w : Word} {lo k : Nat} {v : BitVec k} (h : w.toNat / 2 ^ lo % 2 ^ k = v.toNat) : fb w lo k = v := by
  apply BitVec.eq_of_toNat_eq
  rw [fb, BitVec.toNat_ofNat, h]

theorem bitAt_eq {w : Word} {i : Nat} {b : Bool} (h : w.toNat / 2 ^ i % 2 = b.toNat) : bitAt w i = b := by
  rw [bitAt, h]
  cases b <;> rfl

theorem hi_eq {w : Word} {k : Nat} (h : w.toNat / 2 ^ k = 0) : hi w k = true := by
  rw [hi, h]
  rfl

theorem finOfNat_eq {n v : Nat} [NeZero n] {k : Fin n} (h : v = k.val) : Fin.ofNat n v = k := by
  rw [h, Fin.ofNat_val_eq_self]

theorem predField_eq {w : Word} {lo : Nat} {p : PredField} (h : w.toNat / 2 ^ lo % 16 = encPred p) : predField w lo = p := by
  obtain ⟨p, inv⟩ := p
  have := p.isLt
  simp only [encPred] at h
  simp only [predField, PredField.mk.injEq]
  refine ⟨finOfNat_eq ?_, bitAt_eq ?_⟩
  · rw [bits]
    omega
  · rw [Nat.pow_add, ← Nat.div_div_eq_div_mul]
    omega

theorem bits_of {n lo k v : Nat} (h : n % 2 ^ 32 / 2 ^ lo % 2 ^ k = v) : bits (BitVec.ofNat 32 n) lo k = v := by
  rw [bits, BitVec.toNat_ofNat, h]

theorem fb_of {n lo k : Nat} {v : BitVec k} (h : n % 2 ^ 32 / 2 ^ lo % 2 ^ k = v.toNat) : fb (BitVec.ofNat 32 n) lo k = v :=
  fb_eq (by rw [BitVec.toNat_ofNat, h])

theorem bitAt_of {n i : Nat} {b : Bool} (h : n % 2 ^ 32 / 2 ^ i % 2 = b.toNat) : bitAt (BitVec.ofNat 32 n) i = b :=
  bitAt_eq (by rw [BitVec.toNat_ofNat, h])

theorem spBit_cases (sp : Sp) : spBit sp = 0 ∨ spBit sp = 2 := by
  cases sp with
  | none => exact .inl rfl
  | some m => exact .inr rfl

theorem toNat_le_one (b : Bool) : b.toNat ≤ 1 := by
  cases b <;> decide

theorem encPred_lt (p : PredField) : encPred p < 16 := by
  have := p.p.isLt
  have := toNat_le_one p.inv
  simp only [encPred]
  omega

/-- The bits of an instruction's first word that its class and its safe-point field fill (R137, R139). -/
structure Head (w : Word) (cls : Nat) (sp : Sp) : Prop where
  long : bitAt w 0 = true
  flag : bitAt w 1 = sp.isSome
  cls : bits w 2 3 = cls

theorem head_of {n : Nat} (cls r : Nat) {sp : Sp} (h : n = 1 + spBit sp + 4 * cls + 32 * r) (hc : cls < 8) : Head (BitVec.ofNat 32 n) cls sp := by
  obtain ⟨hlong, hflag⟩ := flag_ofNat n (cls + 8 * r) sp (by omega)
  have := spBit_cases sp
  exact ⟨hlong, hflag, bits_of (by omega)⟩

/-! ## What is written is read (R136, R137, R151) -/

/-- The first word of the instruction says how many words follow, and the decoder makes the instruction of them. -/
def ReadsBack (i : Instr) : Prop :=
  ∃ w own, encodeWords i = w :: own ∧ bitAt w 0 = true ∧ bitAt w 1 = (spOf i).isSome ∧ ownWords w = own.length ∧
    buildClass w own (spOf i) = some i

theorem build_append {w : Word} {own : List Word} {sp : Sp} (hflag : bitAt w 1 = sp.isSome) (hown : ownWords w = own.length) :
    build w (own ++ sp.toList) = buildClass w own sp := by
  cases sp with
  | none => simp [build, extCount, hown, hflag]
  | some m => simp [build, extCount, hown, hflag]

theorem ReadsBack.decodes {i : Instr} (h : ReadsBack i) (hwf : wf i = true) : decodeWords (encode i) = some i := by
  obtain ⟨w, own, henc, hlong, hflag, hown, hbuild⟩ := h
  rw [← build_append hflag hown] at hbuild
  have hword : wfWord i = true := (Bool.and_eq_true_iff.mp hwf).1
  rw [encode, henc, List.cons_append, decodeWords, if_pos hlong, wordOk_of_build hbuild, if_pos hword, decodeLong, hbuild]
  simp only [hwf, if_true]

/-! ## The 16-bit format (R138) -/

theorem toNat_encH16 {op : Nat} (hop : op < 16) (x : H16) : (encH16 op x).toNat =
    2 * op + 2 ^ 5 * x.d.toNat + 2 ^ 9 * x.s.toNat + 2 ^ 14 * x.u.toNat + 2 ^ 15 * x.w.toNat := by
  have := x.d.isLt
  have := x.s.isLt
  have := toNat_le_one x.u
  have := toNat_le_one x.w
  rw [encH16, BitVec.toNat_ofNat, Nat.mod_eq_of_lt (by omega)]

theorem h16_encH16 {op : Nat} (hop : op < 16) (x : H16) : bits (encH16 op x) 1 4 = op ∧ h16 (encH16 op x) = x := by
  obtain ⟨w, u, s, d⟩ := x
  have := d.isLt
  have := s.isLt
  have := toNat_le_one u
  have := toNat_le_one w
  simp only [h16, encH16, H16.mk.injEq]
  exact ⟨bits_of (by omega), bitAt_of (by omega), bitAt_of (by omega), fb_of (by omega), fb_of (by omega)⟩

/-- A word with bit 0 clear is one parcel (R136). -/
theorem decodeWords_parcel {i : Instr} {p : Word} (hwf : wf i = true) (he : encode i = [p]) (h0 : bitAt p 0 = false)
    (hp : p.toNat < 2 ^ 16) (hb : build16 p = i) : decodeWords (encode i) = some i := by
  rw [he, decodeWords, h0, Nat.div_eq_of_lt hp]
  simp [decodeShort, hb, hwf]

/-- A parcel that is not the canonical NOP is its form. -/
theorem decodeWords_short {i : Instr} {x : H16} {op : Nat} (hwf : wf i = true) (he : encode i = [encH16 op x]) (hop : op < 16)
    (hz : encH16 op x ≠ 0) (hb : ∀ p, (p == 0) = false → bits p 1 4 = op → h16 p = x → build16 p = i) :
    decodeWords (encode i) = some i := by
  have hn := toNat_encH16 hop x
  have := x.d.isLt
  have := x.s.isLt
  have := toNat_le_one x.u
  have := toNat_le_one x.w
  obtain ⟨hbits, hx⟩ := h16_encH16 hop x
  refine decodeWords_parcel hwf he (bitAt_of ?_) (by omega) (hb _ (beq_false_of_ne hz) hbits hx)
  rw [Bool.toNat_false]
  omega

theorem encH16_ne_zero {op : Nat} {x : H16} (hop : op < 16) (h0 : op ≠ 0) : encH16 op x ≠ 0 := by
  intro h
  have hn := toNat_encH16 hop x
  rw [h] at hn
  change 0 = _ at hn
  omega

/-- MOV of o0 to o0 without W and last use is the canonical NOP, and no MOV (R138). -/
theorem encMov16_ne_zero {x : H16} (h : wf (.mov16 x) = true) : encH16 0 x ≠ 0 := by
  intro hz
  obtain ⟨-, hx⟩ := h16_encH16 (op := 0) (by decide) x
  rw [hz] at hx
  rw [← hx] at h
  exact absurd h (by decide)

/-! ## The fields of each class (R152 to R155, R157, R159) -/

theorem v3_encV3 {op : Nat} (hop : op < 16) (x : V3) :
    Head (encV3 op x) 0 x.sp ∧ bits (encV3 op x) 5 4 = op ∧ v3 (encV3 op x) x.sp = x := by
  obtain ⟨sp, d, w, a, b, c⟩ := x
  have := spBit_cases sp
  have := d.isLt
  have := toNat_le_one w
  have := a.isLt
  have := b.isLt
  have := c.isLt
  simp only [v3, encV3, V3.mk.injEq, true_and]
  exact ⟨head_of 0 (op + 2 ^ 4 * d.toNat + 2 ^ 8 * w.toNat + 2 ^ 9 * a.toNat + 2 ^ 15 * b.toNat + 2 ^ 21 * c.toNat) (by omega) (by decide),
    bits_of (by omega), fb_of (by omega), bitAt_of (by omega), fb_of (by omega), fb_of (by omega), fb_of (by omega)⟩

theorem choose_encChoose (x : ChooseArgs) :
    Head (encChoose x) 0 x.sp ∧ bits (encChoose x) 5 4 = 6 ∧ (bits (encChoose x) 30 2 == 0) = true ∧ chooseArgs (encChoose x) x.sp = x := by
  obtain ⟨sp, d, w, a, b, p⟩ := x
  have := spBit_cases sp
  have := d.isLt
  have := toNat_le_one w
  have := a.isLt
  have := b.isLt
  have := encPred_lt p
  simp only [chooseArgs, encChoose, ChooseArgs.mk.injEq, true_and, beq_iff_eq]
  exact ⟨head_of 0 (6 + 2 ^ 4 * d.toNat + 2 ^ 8 * w.toNat + 2 ^ 9 * a.toNat + 2 ^ 15 * b.toNat + 2 ^ 21 * encPred p) (by omega) (by decide),
    bits_of (by omega), bits_of (by omega), fb_of (by omega), bitAt_of (by omega), fb_of (by omega), fb_of (by omega), predField_eq (by rw [BitVec.toNat_ofNat]; omega)⟩

theorem v2_encV2 {op : Nat} (hop : op < 64) (x : V2) :
    Head (encV2 op x) 1 x.sp ∧ bits (encV2 op x) 5 6 = op ∧ v2 (encV2 op x) x.sp = x := by
  obtain ⟨sp, mod, d, w, a, b, s⟩ := x
  have := spBit_cases sp
  have := mod.isLt
  have := d.isLt
  have := toNat_le_one w
  have := a.isLt
  have := b.isLt
  have := toNat_le_one s
  simp only [v2, encV2, V2.mk.injEq, true_and]
  exact ⟨head_of 1 (op + 2 ^ 6 * mod.toNat + 2 ^ 9 * d.toNat + 2 ^ 13 * w.toNat + 2 ^ 14 * a.toNat + 2 ^ 20 * b.toNat + 2 ^ 26 * s.toNat)
      (by omega) (by decide),
    bits_of (by omega), fb_of (by omega), fb_of (by omega), bitAt_of (by omega), fb_of (by omega), fb_of (by omega), bitAt_of (by omega)⟩

theorem vi_encVI {op : Nat} (hop : op < 16) (x : VI) :
    Head (encVI op x) 2 x.sp ∧ bits (encVI op x) 5 4 = op ∧ vi (encVI op x) x.sp = x := by
  obtain ⟨sp, d, w, a, imm⟩ := x
  have := spBit_cases sp
  have := d.isLt
  have := toNat_le_one w
  have := a.isLt
  have := imm.isLt
  simp only [vi, encVI, VI.mk.injEq, true_and]
  exact ⟨head_of 2 (op + 2 ^ 4 * d.toNat + 2 ^ 8 * w.toNat + 2 ^ 9 * a.toNat + 2 ^ 15 * imm.toNat) (by omega) (by decide),
    bits_of (by omega), fb_of (by omega), bitAt_of (by omega), fb_of (by omega), fb_of (by omega)⟩

/-- The word of a MEM instruction, without its displacement. -/
def memWord (op : Nat) (x : Mem) : Word := (encMem op x).headD 0

theorem encMem_eq (op : Nat) (x : Mem) : encMem op x = memWord op x :: x.disp.toList := rfl

theorem mem_memWord {op : Nat} (hop : op < 32) (x : Mem) :
    Head (memWord op x) 3 x.sp ∧ bits (memWord op x) 5 5 = op ∧ mem (memWord op x) x.disp x.sp = x := by
  obtain ⟨sp, d, w, a, b, g, m, disp⟩ := x
  have := spBit_cases sp
  have := d.isLt
  have := toNat_le_one w
  have := a.isLt
  have := b.isLt
  have := g.isLt
  have := m.isLt
  simp only [mem, memWord, encMem, List.headD_cons, Mem.mk.injEq, true_and, and_true]
  exact ⟨head_of 3 (op + 2 ^ 5 * d.toNat + 2 ^ 9 * w.toNat + 2 ^ 10 * a.toNat + 2 ^ 16 * b.toNat + 2 ^ 22 * g.toNat + 2 ^ 25 * m.toNat)
      (by omega) (by decide),
    bits_of (by omega), fb_of (by omega), bitAt_of (by omega), fb_of (by omega), fb_of (by omega), fb_of (by omega), fb_of (by omega)⟩

theorem uni_encUni {op : Nat} (hop : op < 64) (x : Uni) :
    Head (encUni op x) 4 x.sp ∧ bits (encUni op x) 5 6 = op ∧ uni (encUni op x) x.sp = x := by
  obtain ⟨sp, d, a, b, mod⟩ := x
  have := spBit_cases sp
  have := d.isLt
  have := a.isLt
  have := b.isLt
  have := mod.isLt
  simp only [uni, encUni, Uni.mk.injEq, true_and]
  exact ⟨head_of 4 (op + 2 ^ 6 * d.toNat + 2 ^ 12 * a.toNat + 2 ^ 18 * b.toNat + 2 ^ 24 * mod.toNat) (by omega) (by decide),
    bits_of (by omega), fb_of (by omega), fb_of (by omega), fb_of (by omega), fb_of (by omega)⟩

theorem asy_encAsy {op : Nat} (hop : op < 64) (x : Asy) :
    Head (encAsy op x) 6 x.sp ∧ bits (encAsy op x) 5 6 = op ∧ asy (encAsy op x) x.sp = x := by
  obtain ⟨sp, d, w, a, b, sub⟩ := x
  have := spBit_cases sp
  have := d.isLt
  have := toNat_le_one w
  have := a.isLt
  have := b.isLt
  have := sub.isLt
  simp only [asy, encAsy, Asy.mk.injEq, true_and]
  exact ⟨head_of 6 (op + 2 ^ 6 * d.toNat + 2 ^ 10 * w.toNat + 2 ^ 11 * a.toNat + 2 ^ 17 * b.toNat + 2 ^ 23 * sub.toNat) (by omega) (by decide),
    bits_of (by omega), fb_of (by omega), bitAt_of (by omega), fb_of (by omega), fb_of (by omega), fb_of (by omega)⟩

theorem orderThen_encOrder (o : Order) (f : Order → Instr) : orderThen (encOrder o) f = some (f o) := by
  obtain ⟨method, size, reassoc, aop, fail, ord, mask⟩ := o
  have := method.isLt
  have := size.isLt
  have := toNat_le_one reassoc
  have := aop.isLt
  have := fail.isLt
  have := ord.isLt
  have := mask.isLt
  have hfields : orderOf (encOrder ⟨method, size, reassoc, aop, fail, ord, mask⟩) = ⟨method, size, reassoc, aop, fail, ord, mask⟩ := by
    simp only [orderOf, encOrder, Order.mk.injEq]
    exact ⟨fb_of (by omega), fb_of (by omega), bitAt_of (by omega), fb_of (by omega), fb_of (by omega), fb_of (by omega), fb_of (by omega)⟩
  have hhi : hi (encOrder ⟨method, size, reassoc, aop, fail, ord, mask⟩) 23 = true := by
    refine hi_eq ?_
    simp only [encOrder, BitVec.toNat_ofNat]
    omega
  rw [orderThen, if_pos hhi, hfields]

/-! ## Every class is read back -/

theorem readsBack_v3 {i : Instr} {x : V3} {op : Nat} (he : encodeWords i = [encV3 op x]) (hsp : spOf i = x.sp) (hop : op < 16)
    (hb : ∀ w, bits w 5 4 = op → v3 w x.sp = x → buildV3 w x.sp = some i) : ReadsBack i := by
  obtain ⟨⟨hlong, hflag, hcls⟩, hbits, hx⟩ := v3_encV3 hop x
  refine ⟨_, [], he, hlong, hsp ▸ hflag, by simp only [ownWords, hcls]; rfl, ?_⟩
  rw [hsp]
  simp only [buildClass, hcls]
  exact hb _ hbits hx

theorem readsBack_choose (x : ChooseArgs) : ReadsBack (.choose x) := by
  obtain ⟨⟨hlong, hflag, hcls⟩, hbits, hzero, hx⟩ := choose_encChoose x
  refine ⟨_, [], rfl, hlong, hflag, by simp only [ownWords, hcls]; rfl, ?_⟩
  show buildClass _ _ x.sp = _
  simp only [buildClass, hcls, buildV3, hbits, hzero, hx, if_true]

theorem readsBack_v2 {i : Instr} {x : V2} {op : Nat} (he : encodeWords i = [encV2 op x]) (hsp : spOf i = x.sp) (hop : op < 64)
    (hb : ∀ w, bits w 5 6 = op → v2 w x.sp = x → buildV2 w x.sp = some i) : ReadsBack i := by
  obtain ⟨⟨hlong, hflag, hcls⟩, hbits, hx⟩ := v2_encV2 hop x
  refine ⟨_, [], he, hlong, hsp ▸ hflag, by simp only [ownWords, hcls]; rfl, ?_⟩
  rw [hsp]
  simp only [buildClass, hcls]
  exact hb _ hbits hx

/-- Own words of VI, MEM, UNI and ASY instructions, by their op (R154, R155, R157, R159). -/
def viOwn (op : Nat) : Nat := if op == 10 || op == 12 || op == 13 || op == 14 then 1 else 0
def memOwn (op : Nat) : Nat := if (12 ≤ op && op ≤ 17) || op == 20 || op == 25 then 1 else 0
def uniOwn (op : Nat) : Nat := if op == 16 then 2 else if op == 15 || op == 17 || (20 ≤ op && op ≤ 22) then 1 else 0
def asyOwn (op : Nat) : Nat := if op == 2 || op == 5 || op == 9 || (13 ≤ op && op ≤ 19) || op == 25 || 27 ≤ op then 0 else 1

theorem readsBack_vi {i : Instr} {x : VI} {op : Nat} {own : List Word} (he : encodeWords i = encVI op x :: own) (hsp : spOf i = x.sp)
    (hop : op < 16) (hown : viOwn op = own.length) (hb : ∀ w, bits w 5 4 = op → vi w x.sp = x → buildVI w (own.getD 0 0) x.sp = some i) :
    ReadsBack i := by
  obtain ⟨⟨hlong, hflag, hcls⟩, hbits, hx⟩ := vi_encVI hop x
  refine ⟨_, own, he, hlong, hsp ▸ hflag, by simp only [ownWords, hcls, hbits]; exact hown, ?_⟩
  rw [hsp]
  simp only [buildClass, hcls]
  exact hb _ hbits hx

theorem readsBack_uni {i : Instr} {x : Uni} {op : Nat} {own : List Word} (he : encodeWords i = encUni op x :: own) (hsp : spOf i = x.sp)
    (hop : op < 64) (hown : uniOwn op = own.length)
    (hb : ∀ w, bits w 5 6 = op → uni w x.sp = x → buildUni w (own.getD 0 0) (own.getD 1 0) x.sp = some i) : ReadsBack i := by
  obtain ⟨⟨hlong, hflag, hcls⟩, hbits, hx⟩ := uni_encUni hop x
  refine ⟨_, own, he, hlong, hsp ▸ hflag, by simp only [ownWords, hcls, hbits]; exact hown, ?_⟩
  rw [hsp]
  simp only [buildClass, hcls]
  exact hb _ hbits hx

theorem readsBack_asy {i : Instr} {x : Asy} {op : Nat} {own : List Word} (he : encodeWords i = encAsy op x :: own) (hsp : spOf i = x.sp)
    (hop : op < 64) (hown : asyOwn op = own.length)
    (hb : ∀ w, bits w 5 6 = op → asy w x.sp = x → buildAsy w (own.getD 0 0) x.sp = some i) : ReadsBack i := by
  obtain ⟨⟨hlong, hflag, hcls⟩, hbits, hx⟩ := asy_encAsy hop x
  refine ⟨_, own, he, hlong, hsp ▸ hflag, by simp only [ownWords, hcls, hbits]; exact hown, ?_⟩
  rw [hsp]
  simp only [buildClass, hcls]
  exact hb _ hbits hx

/-- The op is that of LDS, STS, ATOMS, LDP or STP (R155). -/
def isScratch (op : Nat) : Bool := op == 18 || op == 19 || op == 20 || op == 21 || op == 22

/-- Whether a MEM instruction has a displacement word (R155). -/
def memDisp (op : Nat) (x : Mem) : Bool := if op == 25 then false else if isScratch op then x.g.getLsbD 2 else x.m == 3

theorem bitAt_mem (w : Word) (d : Option Word) (sp : Sp) : bitAt w 29 = (mem w d sp).g.getLsbD 2 := by
  simp only [bitAt, mem, fb, BitVec.getLsbD_ofNat, Nat.testBit_eq_decide_div_mod_eq, Nat.div_div_eq_div_mul]
  rfl

theorem mode_mem (w : Word) (d : Option Word) (sp : Sp) : (bits w 30 2 == 3) = ((mem w d sp).m == 3) := by
  rw [Bool.eq_iff_iff, beq_iff_eq, beq_iff_eq]
  simp only [bits, mem, fb, ← BitVec.toNat_inj, BitVec.toNat_ofNat]
  rfl

theorem bits_one (w : Word) (lo : Nat) : bits w lo 1 = if bitAt w lo then 1 else 0 := by
  simp only [bits, bitAt, beq_iff_eq]
  split <;> omega

/-- The words of a MEM instruction are read back where its displacement word is there as its fields say (R155). -/
theorem readsBack_mem {i : Instr} {x : Mem} {op : Nat} {ord : List Word} (he : encodeWords i = encMem op x ++ ord) (hsp : spOf i = x.sp)
    (hop : op < 32) (hd : x.disp.isSome = memDisp op x) (hord : memOwn op = ord.length)
    (hb : ∀ w, bits w 5 5 = op → mem w x.disp x.sp = x → buildMem w x.disp (ord.getD 0 0) x.sp = some i) : ReadsBack i := by
  obtain ⟨⟨hlong, hflag, hcls⟩, hbits, hx⟩ := mem_memWord hop x
  have hbuild := hb _ hbits hx
  have hshort := bitAt_mem (memWord op x) x.disp x.sp
  have hmode := mode_mem (memWord op x) x.disp x.sp
  rw [hx] at hshort hmode
  refine ⟨memWord op x, x.disp.toList ++ ord, he, hlong, hsp ▸ hflag, ?_, ?_⟩
  · simp only [ownWords, hcls, hbits, bits_one, hshort, hmode]
    rw [List.length_append, ← hord]
    have hlen : (if op == 25 then 0 else if isScratch op then (if x.g.getLsbD 2 then 1 else 0) else if x.m == 3 then 1 else 0) =
        x.disp.toList.length := by
      have hlen : x.disp.toList.length = if memDisp op x then 1 else 0 := by
        rw [← hd]
        cases x.disp <;> rfl
      rw [hlen, memDisp]
      cases op == 25 <;> cases isScratch op <;> rfl
    exact congrArg (· + memOwn op) hlen
  · rw [hsp]
    simp only [buildClass, hcls, hbits, hshort, hmode]
    show (if memDisp op x then _ else _) = some i
    rw [← hd]
    cases hdisp : x.disp with
    | none => rw [hdisp] at hbuild; exact hbuild
    | some d => rw [hdisp] at hbuild; exact hbuild

/-! ## The CTL class (R158) -/

/-- A CTL word holds what stands above its op. -/
theorem ctl_encCtl {op rest : Nat} (r : Nat) {sp : Sp} (hop : op < 32) (h : rest = 2 ^ 10 * r) (hr : r < 2 ^ 22) :
    Head (encCtl op sp rest) 5 sp ∧ bits (encCtl op sp rest) 5 5 = op ∧ (encCtl op sp rest).toNat / 2 ^ 10 = r := by
  have := spBit_cases sp
  refine ⟨head_of 5 (op + 2 ^ 5 * r) (by omega) (by decide), bits_of (by omega), ?_⟩
  rw [encCtl, BitVec.toNat_ofNat]
  omega

theorem readsBack_ctl {i : Instr} {op rest : Nat} (r : Nat) {own : List Word} (he : encodeWords i = encCtl op (spOf i) rest :: own)
    (hop : op < 32) (h : rest = 2 ^ 10 * r) (hr : r < 2 ^ 22)
    (hown : ∀ w, bits w 2 3 = 5 → bits w 5 5 = op → w.toNat / 2 ^ 10 = r → ownWords w = own.length)
    (hb : ∀ w, bits w 5 5 = op → w.toNat / 2 ^ 10 = r → buildCtl w own (spOf i) = some i) : ReadsBack i := by
  obtain ⟨⟨hlong, hflag, hcls⟩, hbits, hfield⟩ := ctl_encCtl (sp := spOf i) r hop h hr
  refine ⟨_, own, he, hlong, hflag, hown _ hcls hbits hfield, ?_⟩
  simp only [buildClass, hcls]
  exact hb _ hbits hfield

/-- A CTL instruction without extension words of its own. -/
theorem readsBack_ctl_alone {i : Instr} {op rest : Nat} (r : Nat) (he : encodeWords i = [encCtl op (spOf i) rest])
    (hop : op < 32) (hn : op ≠ 2 ∧ op ≠ 7 ∧ op ≠ 8) (h : rest = 2 ^ 10 * r) (hr : r < 2 ^ 22)
    (hb : ∀ w, bits w 5 5 = op → w.toNat / 2 ^ 10 = r → buildCtl w [] (spOf i) = some i) : ReadsBack i := by
  refine readsBack_ctl r he hop h hr (fun w hcls hbits _ => ?_) hb
  obtain ⟨h2, h7, h8⟩ := hn
  simp only [ownWords, hcls, hbits]
  rfl

/-- A CTL instruction without fields of its own. -/
theorem readsBack_bare {i : Instr} {op : Nat} (he : encodeWords i = [encCtl op (spOf i) 0]) (hop : op < 32) (hn : op ≠ 2 ∧ op ≠ 7 ∧ op ≠ 8)
    (hb : ∀ w, bits w 5 5 = op → hi w 10 = true → buildCtl w [] (spOf i) = some i) : ReadsBack i :=
  readsBack_ctl_alone 0 he hop hn rfl (by decide) fun w hbits hz => hb w hbits (hi_eq hz)

theorem readsBack_brc (sp : Sp) (c : Fin 4) (sense : Bool) (off : BitVec 18) : ReadsBack (.brc sp c sense off) := by
  have := c.isLt
  have := toNat_le_one sense
  have := off.isLt
  refine readsBack_ctl_alone (c.val + sense.toNat * 2 ^ 2 + off.toNat * 2 ^ 4) rfl (by decide) (by decide) (by omega) (by omega) fun w hbits hr => ?_
  have hz : bitAt w 13 = false := bitAt_eq (by rw [Bool.toNat_false]; omega)
  have hc : Fin.ofNat 4 (bits w 10 2) = c := finOfNat_eq (by rw [bits]; omega)
  have hs : bitAt w 12 = sense := bitAt_eq (by omega)
  have ho : fb w 14 18 = off := fb_eq (by omega)
  simp only [buildCtl, hbits, hz, hc, hs, ho]
  rfl

/-! ## The items of REGION and REGIONU (R146, R147) -/

theorem encRegionItem_lt (i : RegionItem) : encRegionItem i < 2 ^ 16 := by
  have := i.entry.isLt
  have := i.v.isLt
  have := toNat_le_one i.load
  have := toNat_le_one i.keep
  simp only [encRegionItem]
  omega

theorem encRegionItem_mod (i : RegionItem) : encRegionItem i % 4 = 0 := by
  simp only [encRegionItem]
  omega

theorem beq_one_eq {n : Nat} {b : Bool} (h : n = b.toNat) : (n == 1) = b := by
  rw [h]
  cases b <;> rfl

theorem regionItemOf_encRegionItem (i : RegionItem) : regionItemOf (encRegionItem i) = i := by
  obtain ⟨entry, v, load, keep⟩ := i
  have := entry.isLt
  have hv := v.isLt
  have := toNat_le_one load
  have := toNat_le_one keep
  simp only [regionItemOf, encRegionItem, RegionItem.mk.injEq]
  refine ⟨finOfNat_eq (by omega), BitVec.eq_of_toNat_eq ?_, beq_one_eq (by omega), beq_one_eq (by omega)⟩
  rw [BitVec.toNat_ofNat]
  omega

theorem regionItem_cons (w : Word) (ws : List Word) (i : Nat) : regionItem (w :: ws) (i + 2) = regionItem ws i := by
  have hdiv : (i + 2) / 2 = i / 2 + 1 := by omega
  have hmod : (i + 2) % 2 = i % 2 := by omega
  rw [regionItem, regionItem, hdiv, hmod, List.getD_cons_succ]

/-- Two items stand in a word; past the last there are zeros. -/
theorem regionItem_regionWords (l : List RegionItem) (i : Nat) : regionItem (regionWords l) i = (l[i]?.map encRegionItem).getD 0 := by
  induction l using regionWords.induct generalizing i with
  | case1 => simp [regionItem, regionWords]
  | case2 a =>
    have := encRegionItem_lt a
    match i with
    | 0 =>
      simp [regionItem, regionWords]
      omega
    | 1 =>
      simp [regionItem, regionWords]
      omega
    | i + 2 =>
      rw [regionWords, regionItem_cons]
      simp [regionItem]
  | case3 a b l ih =>
    have := encRegionItem_lt a
    have := encRegionItem_lt b
    match i with
    | 0 =>
      simp [regionItem, regionWords]
      omega
    | 1 =>
      simp [regionItem, regionWords]
      omega
    | i + 2 =>
      rw [regionWords, regionItem_cons, ih]
      simp

theorem length_regionWords (l : List RegionItem) : (regionWords l).length = (l.length + 1) / 2 := by
  induction l using regionWords.induct with
  | case1 => rfl
  | case2 a => simp [regionWords]
  | case3 a b l ih =>
    simp only [regionWords, List.length_cons, ih]
    omega

theorem map_range_getElem? {α β : Type} (l : List α) (f : α → β) (g : Nat → β) (h : ∀ i a, l[i]? = some a → g i = f a) :
    (List.range l.length).map g = l.map f := by
  apply List.ext_getElem?
  intro i
  by_cases hi : i < l.length
  · rw [List.getElem?_map, List.getElem?_map, List.getElem?_range hi, List.getElem?_eq_getElem hi]
    exact congrArg some (h i _ (List.getElem?_eq_getElem hi))
  · rw [List.getElem?_eq_none (by simpa using hi), List.getElem?_eq_none (by simpa using hi)]

theorem regionItems_regionWords (l : List RegionItem) : regionItems l.length (regionWords l) = some l := by
  have hitem : (List.range l.length).map (fun i => regionItemOf (regionItem (regionWords l) i)) = l.map id :=
    map_range_getElem? l id _ fun i a ha => by rw [regionItem_regionWords, ha]; exact regionItemOf_encRegionItem a
  have hlow : ∀ i, regionItem (regionWords l) i % 4 = 0 := by
    intro i
    rw [regionItem_regionWords]
    cases l[i]? with
    | none => rfl
    | some a => exact encRegionItem_mod a
  have hlast : regionItem (regionWords l) l.length = 0 := by
    rw [regionItem_regionWords, List.getElem?_eq_none (Nat.le_refl _)]
    rfl
  rw [regionItems, hitem, hlast]
  simp [hlow]

theorem encSlotItem_lt (i : SlotItem) : encSlotItem i < 2 ^ 9 := by
  have := i.w.isLt
  have := i.s.isLt
  simp only [encSlotItem]
  omega

theorem slotItemOf_encSlotItem (i : SlotItem) : slotItemOf (encSlotItem i) = i := by
  obtain ⟨w, s⟩ := i
  have := w.isLt
  have := s.isLt
  simp only [slotItemOf, encSlotItem, SlotItem.mk.injEq]
  refine ⟨finOfNat_eq (by omega), BitVec.eq_of_toNat_eq ?_⟩
  rw [BitVec.toNat_ofNat]
  omega

theorem slotItem_cons (w : Word) (ws : List Word) (i : Nat) : slotItem (w :: ws) (i + 3) = slotItem ws i := by
  have hdiv : (i + 3) / 3 = i / 3 + 1 := by omega
  have hmod : (i + 3) % 3 = i % 3 := by omega
  rw [slotItem, slotItem, hdiv, hmod, List.getD_cons_succ]

theorem slotItem_nil (i : Nat) : slotItem [] i = 0 := by simp [slotItem]

/-- The word of three items. -/
def slotWord (a b c : Nat) : Word := BitVec.ofNat 32 (a + 2 ^ 9 * b + 2 ^ 18 * c)

theorem slotItem_slotWord {a b c : Nat} (ha : a < 2 ^ 9) (hb : b < 2 ^ 9) (hc : c < 2 ^ 9) (ws : List Word) :
    slotItem (slotWord a b c :: ws) 0 = a ∧ slotItem (slotWord a b c :: ws) 1 = b ∧ slotItem (slotWord a b c :: ws) 2 = c := by
  refine ⟨?_, ?_, ?_⟩
  all_goals
    simp [slotItem, slotWord]
    omega

theorem hi_slotWord {a b c : Nat} (ha : a < 2 ^ 9) (hb : b < 2 ^ 9) (hc : c < 2 ^ 9) : hi (slotWord a b c) 27 = true := by
  refine hi_eq ?_
  rw [slotWord, BitVec.toNat_ofNat]
  omega

/-- The words of REGIONU's items, each as the word of three, of which the last may be 0. -/
theorem regionuWords_one (a : SlotItem) : regionuWords [a] = [slotWord (encSlotItem a) 0 0] := by
  simp [regionuWords, slotWord]

theorem regionuWords_two (a b : SlotItem) : regionuWords [a, b] = [slotWord (encSlotItem a) (encSlotItem b) 0] := by
  simp [regionuWords, slotWord]

theorem regionuWords_more (a b c : SlotItem) (l : List SlotItem) :
    regionuWords (a :: b :: c :: l) = slotWord (encSlotItem a) (encSlotItem b) (encSlotItem c) :: regionuWords l := by
  rw [regionuWords, slotWord]

/-- Three items stand in a word; past the last there are zeros. -/
theorem slotItem_regionuWords (l : List SlotItem) (i : Nat) : slotItem (regionuWords l) i = (l[i]?.map encSlotItem).getD 0 := by
  induction l using regionuWords.induct generalizing i with
  | case1 => exact slotItem_nil i
  | case2 a =>
    obtain ⟨h0, h1, h2⟩ := slotItem_slotWord (encSlotItem_lt a) (b := 0) (c := 0) (by decide) (by decide) []
    rw [regionuWords_one]
    match i with
    | 0 => exact h0
    | 1 => exact h1
    | 2 => exact h2
    | i + 3 => rw [slotItem_cons]; exact slotItem_nil i
  | case3 a b =>
    obtain ⟨h0, h1, h2⟩ := slotItem_slotWord (encSlotItem_lt a) (encSlotItem_lt b) (c := 0) (by decide) []
    rw [regionuWords_two]
    match i with
    | 0 => exact h0
    | 1 => exact h1
    | 2 => exact h2
    | i + 3 => rw [slotItem_cons]; exact slotItem_nil i
  | case4 a b c l ih =>
    obtain ⟨h0, h1, h2⟩ := slotItem_slotWord (encSlotItem_lt a) (encSlotItem_lt b) (encSlotItem_lt c) (regionuWords l)
    rw [regionuWords_more]
    match i with
    | 0 => exact h0
    | 1 => exact h1
    | 2 => exact h2
    | i + 3 => rw [slotItem_cons, ih]; rfl

theorem length_regionuWords (l : List SlotItem) : (regionuWords l).length = (l.length + 2) / 3 := by
  induction l using regionuWords.induct with
  | case1 => rfl
  | case2 a => simp [regionuWords]
  | case3 a b => simp [regionuWords]
  | case4 a b c l ih =>
    rw [regionuWords_more, List.length_cons, ih]
    simp only [List.length_cons]
    omega

theorem hi_regionuWords (l : List SlotItem) : ∀ w ∈ regionuWords l, hi w 27 = true := by
  induction l using regionuWords.induct with
  | case1 => nofun
  | case2 a =>
    rw [regionuWords_one]
    exact List.forall_mem_singleton.mpr (hi_slotWord (encSlotItem_lt a) (by decide) (by decide))
  | case3 a b =>
    rw [regionuWords_two]
    exact List.forall_mem_singleton.mpr (hi_slotWord (encSlotItem_lt a) (encSlotItem_lt b) (by decide))
  | case4 a b c l ih =>
    rw [regionuWords_more]
    exact List.forall_mem_cons.mpr ⟨hi_slotWord (encSlotItem_lt a) (encSlotItem_lt b) (encSlotItem_lt c), ih⟩

theorem slotItems_regionuWords (l : List SlotItem) : slotItems l.length (regionuWords l) = some l := by
  have hitem : (List.range l.length).map (fun i => slotItemOf (slotItem (regionuWords l) i)) = l.map id :=
    map_range_getElem? l id _ fun i a ha => by rw [slotItem_regionuWords, ha]; exact slotItemOf_encSlotItem a
  have hpast : ∀ i, i < l.length ∨ slotItem (regionuWords l) i = 0 := by
    intro i
    rcases Nat.lt_or_ge i l.length with h | h
    · exact .inl h
    · rw [slotItem_regionuWords, List.getElem?_eq_none h]
      exact .inr rfl
  have hhi : (regionuWords l).all (fun k => hi k 27) = true := List.all_eq_true.mpr (hi_regionuWords l)
  rw [slotItems, hitem, hhi]
  simp [hpast]

theorem readsBack_region {sp : Sp} {items : List RegionItem} (h : wf (.region sp items) = true) : ReadsBack (.region sp items) := by
  obtain ⟨hword, -⟩ := Bool.and_eq_true_iff.mp h
  obtain ⟨hlo, hhi⟩ := Bool.and_eq_true_iff.mp hword
  have hlo := of_decide_eq_true hlo
  have hhi := of_decide_eq_true hhi
  refine readsBack_ctl (items.length - 1) rfl (by decide) (Nat.mul_comm _ _) (by omega) (fun w hcls hbits hr => ?_) fun w hbits hr => ?_
  · have hn : bits w 10 4 = items.length - 1 := by rw [bits]; omega
    simp only [ownWords, hcls, hbits, length_regionWords, hn]
    omega
  · have hn : bits w 10 4 + 1 = items.length := by rw [bits]; omega
    have hz : hi w 14 = true := hi_eq (by omega)
    simp only [buildCtl, hbits, hz, hn, regionItems_regionWords]
    rfl

theorem readsBack_regionu {sp : Sp} {items : List SlotItem} (h : wf (.regionu sp items) = true) : ReadsBack (.regionu sp items) := by
  obtain ⟨hword, -⟩ := Bool.and_eq_true_iff.mp h
  obtain ⟨hlo, hhi⟩ := Bool.and_eq_true_iff.mp hword
  have hlo := of_decide_eq_true hlo
  have hhi := of_decide_eq_true hhi
  refine readsBack_ctl (items.length - 1) rfl (by decide) (Nat.mul_comm _ _) (by omega) (fun w hcls hbits hr => ?_) fun w hbits hr => ?_
  · have hn : bits w 10 3 = items.length - 1 := by rw [bits]; omega
    simp only [ownWords, hcls, hbits, length_regionuWords, hn]
    omega
  · have hn : bits w 10 3 + 1 = items.length := by rw [bits]; omega
    have hz : hi w 13 = true := hi_eq (by omega)
    simp only [buildCtl, hbits, hz, hn, slotItems_regionuWords]
    rfl

/-! ## CTL instructions with fields of their own (R158) -/

theorem readsBack_brd (sp : Sp) (p : PredField) (off : BitVec 18) (k : Word) : ReadsBack (.brd sp p off k) := by
  have := encPred_lt p
  have := off.isLt
  refine readsBack_ctl (encPred p + off.toNat * 2 ^ 4) rfl (by decide) (by omega) (by omega) (fun w hcls hbits _ => ?_) fun w hbits hr => ?_
  · simp only [ownWords, hcls, hbits]
    rfl
  · have hp : predField w 10 = p := predField_eq (by omega)
    have ho : fb w 14 18 = off := fb_eq (by omega)
    simp only [buildCtl, hbits, hp, ho]
    rfl

/-- BRA and CALL: a 22-bit offset. -/
theorem readsBack_offset {i : Instr} {op : Nat} {off : BitVec 22} (he : encodeWords i = [encCtl op (spOf i) (off.toNat * 2 ^ 10)]) (hop : op < 32)
    (hn : op ≠ 2 ∧ op ≠ 7 ∧ op ≠ 8) (hb : ∀ w, bits w 5 5 = op → fb w 10 22 = off → buildCtl w [] (spOf i) = some i) : ReadsBack i := by
  have := off.isLt
  exact readsBack_ctl_alone off.toNat he hop hn (Nat.mul_comm _ _) (by omega) fun w hbits hr => hb w hbits (fb_eq (by omega))

theorem readsBack_calli (sp : Sp) (k : BitVec 6) : ReadsBack (.calli sp k) := by
  have := k.isLt
  refine readsBack_ctl_alone k.toNat rfl (by decide) (by decide) (Nat.mul_comm _ _) (by omega) fun w hbits hr => ?_
  have hz : hi w 16 = true := hi_eq (by omega)
  have hk : fb w 10 6 = k := fb_eq (by omega)
  simp only [buildCtl, hbits, hz, hk]
  rfl

theorem readsBack_yield (sp : Sp) (nb : BitVec 4) (off : BitVec 18) : ReadsBack (.yield sp nb off) := by
  have := nb.isLt
  have := off.isLt
  refine readsBack_ctl_alone (nb.toNat + off.toNat * 2 ^ 4) rfl (by decide) (by decide) (by omega) (by omega) fun w hbits hr => ?_
  have hb : fb w 10 4 = nb := fb_eq (by omega)
  have ho : fb w 14 18 = off := fb_eq (by omega)
  simp only [buildCtl, hbits, hb, ho]
  rfl

/-- The three forms of BAR (R158). -/
theorem readsBack_bar {i : Instr} {rest : Nat} (nb : BitVec 4) (k : Nat) (he : encodeWords i = [encCtl 11 (spOf i) rest])
    (hrest : rest = nb.toNat * 2 ^ 10 + k * 2 ^ 14) (hk : k < 4)
    (hb : ∀ w, bits w 5 5 = 11 → hi w 16 = true → bits w 14 2 = k → fb w 10 4 = nb → buildCtl w [] (spOf i) = some i) : ReadsBack i := by
  have := nb.isLt
  exact readsBack_ctl_alone (nb.toNat + k * 2 ^ 4) he (by decide) (by decide) (by omega) (by omega) fun w hbits hr =>
    hb w hbits (hi_eq (by omega)) (by rw [bits]; omega) (fb_eq (by omega))

theorem readsBack_barinit (sp : Sp) (nb : BitVec 4) (count : BitVec 8) : ReadsBack (.barinit sp nb count) := by
  have := nb.isLt
  have := count.isLt
  refine readsBack_ctl_alone (nb.toNat + count.toNat * 2 ^ 4) rfl (by decide) (by decide) (by omega) (by omega) fun w hbits hr => ?_
  have hz : hi w 22 = true := hi_eq (by omega)
  have hb : fb w 10 4 = nb := fb_eq (by omega)
  have hc : fb w 14 8 = count := fb_eq (by omega)
  simp only [buildCtl, hbits, hz, hb, hc]
  rfl

theorem readsBack_carve (sp : Sp) (nb : BitVec 4) (s : BitVec 6) : ReadsBack (.carve sp nb s) := by
  have := nb.isLt
  have := s.isLt
  refine readsBack_ctl_alone (nb.toNat + s.toNat * 2 ^ 4) rfl (by decide) (by decide) (by omega) (by omega) fun w hbits hr => ?_
  have hz : hi w 20 = true := hi_eq (by omega)
  have hb : fb w 10 4 = nb := fb_eq (by omega)
  have hs : fb w 14 6 = s := fb_eq (by omega)
  simp only [buildCtl, hbits, hz, hb, hs]
  rfl

theorem readsBack_ixset (sp : Sp) (ix : Fin 4) (base len : BitVec 8) : ReadsBack (.ixset sp ix base len) := by
  have := ix.isLt
  have := base.isLt
  have := len.isLt
  refine readsBack_ctl_alone (ix.val + base.toNat * 2 ^ 2 + len.toNat * 2 ^ 10) rfl (by decide) (by decide) (by omega) (by omega) fun w hbits hr => ?_
  have hz : hi w 28 = true := hi_eq (by omega)
  have hx : Fin.ofNat 4 (bits w 10 2) = ix := finOfNat_eq (by rw [bits]; omega)
  have hb : fb w 12 8 = base := fb_eq (by omega)
  have hl : fb w 20 8 = len := fb_eq (by omega)
  simp only [buildCtl, hbits, hz, hx, hb, hl]
  rfl

theorem readsBack_spawn (sp : Sp) (s : BitVec 6) (entry : BitVec 16) : ReadsBack (.spawn sp s entry) := by
  have := s.isLt
  have := entry.isLt
  refine readsBack_ctl_alone (s.toNat + entry.toNat * 2 ^ 6) rfl (by decide) (by decide) (by omega) (by omega) fun w hbits hr => ?_
  have hs : fb w 10 6 = s := fb_eq (by omega)
  have he : fb w 16 16 = entry := fb_eq (by omega)
  simp only [buildCtl, hbits, hs, he]
  rfl

theorem readsBack_trap (sp : Sp) (code : BitVec 16) : ReadsBack (.trap sp code) := by
  have := code.isLt
  refine readsBack_ctl_alone code.toNat rfl (by decide) (by decide) (Nat.mul_comm _ _) (by omega) fun w hbits hr => ?_
  have hz : hi w 26 = true := hi_eq (by omega)
  have hc : fb w 10 16 = code := fb_eq (by omega)
  simp only [buildCtl, hbits, hz, hc]
  rfl

theorem readsBack_setfpm (sp : Sp) (mode : BitVec 5) : ReadsBack (.setfpm sp mode) := by
  have := mode.isLt
  refine readsBack_ctl_alone mode.toNat rfl (by decide) (by decide) (Nat.mul_comm _ _) (by omega) fun w hbits hr => ?_
  have hz : hi w 15 = true := hi_eq (by omega)
  have hm : fb w 10 5 = mode := fb_eq (by omega)
  simp only [buildCtl, hbits, hz, hm]
  rfl

theorem readsBack_kill (sp : Sp) (p : PredField) : ReadsBack (.kill sp p) := by
  have := encPred_lt p
  refine readsBack_ctl_alone (encPred p) rfl (by decide) (by decide) (Nat.mul_comm _ _) (by omega) fun w hbits hr => ?_
  have hz : hi w 14 = true := hi_eq (by omega)
  have hp : predField w 10 = p := predField_eq (by omega)
  simp only [buildCtl, hbits, hz, hp]
  rfl

theorem readsBack_idemStart (sp : Sp) : ReadsBack (.idemStart sp) := by
  refine readsBack_ctl_alone 0 rfl (by decide) (by decide) rfl (by decide) fun w hbits hr => ?_
  have hz : hi w 12 = true := hi_eq (by omega)
  have hk : bits w 10 2 = 0 := by rw [bits]; omega
  simp only [buildCtl, hbits, hz, hk]
  rfl

theorem readsBack_idemCommit (sp : Sp) : ReadsBack (.idemCommit sp) := by
  refine readsBack_ctl_alone 1 rfl (by decide) (by decide) rfl (by decide) fun w hbits hr => ?_
  have hz : hi w 12 = true := hi_eq (by omega)
  have hk : bits w 10 2 = 1 := by rw [bits]; omega
  simp only [buildCtl, hbits, hz, hk]
  rfl

/-! ## Displacement words (R155) -/

theorem disp_of_global {x : Mem} (h : x.globalOk = true) : x.disp.isSome = (x.m == 3) :=
  beq_iff_eq.mp (Bool.and_eq_true_iff.mp h).2

theorem disp_of_scratch {x : Mem} (h : x.scratchOk = true) : x.disp.isSome = x.g.getLsbD 2 :=
  beq_iff_eq.mp (Bool.and_eq_true_iff.mp h).2

theorem disp_of_fence {x : Mem} (h : x.fenceOk = true) : x.disp.isSome = false := by
  have hn := (Bool.and_eq_true_iff.mp h).2
  cases hd : x.disp with
  | none => rfl
  | some d => rw [hd] at hn; cases hn

/-- The two words of SMOVD's constant. -/
theorem append_halves (k : DWord) : k.extractLsb' 32 32 ++ k.extractLsb' 0 32 = k := by
  rw [BitVec.extractLsb'_append_extractLsb'_eq_extractLsb' (by decide)]
  exact BitVec.extractLsb'_eq_self

/-! ## Every instruction -/

/-- A well-formed instruction with a 16-bit encoding. -/
theorem decodeWords_h16 {i : Instr} {x : H16} {op : Nat} (hwf : wf i = true) (he : encode i = [encH16 op x]) (hop : op < 16) (h0 : op ≠ 0)
    (hb : ∀ p, (p == 0) = false → bits p 1 4 = op → h16 p = x → build16 p = i) : decodeWords (encode i) = some i :=
  decodeWords_short hwf he hop (encH16_ne_zero hop h0) hb

/-- Settles O57: each class is read back by the lemma of its fields, and the packets and events are no well-formed instructions. -/
theorem encodingRoundTrip : Obligations.EncodingRoundTrip := by
  intro i h
  cases i with
  | nop => exact decodeWords_parcel h rfl rfl (by decide) rfl
  | mov16 x => exact decodeWords_short h rfl (by decide) (encMov16_ne_zero h) fun p hz hop hx => by rw [build16, hz, hop, hx]; rfl
  | iadd16 x | isub16 x | imul16 x | and16 x | or16 x | xor16 x | shl16 x | shr16 x | sar16 x | fadd16 x | fsub16 x | fmul16 x | fmin16 x
  | fmax16 x | imin16 x =>
    exact decodeWords_short h rfl (by decide) (encH16_ne_zero (by decide) (by decide)) fun p hz hop hx => by rw [build16, hz, hop, hx]; rfl
  | fma32 x | fma64 x | fmah2 x | fmab2 x | muladd x | muladdh x | bitins x | shrcat x | dp4s8 x | dp4u8 x | dp8s4 x | dp4e4 x | dp4e5 x
  | dp8f4 x | dp2h x =>
    exact (readsBack_v3 rfl rfl (by decide) fun w hop hx => by rw [buildV3, hop, hx]; rfl).decodes h
  | choose x => exact (readsBack_choose x).decodes h
  | mov x | iadd x | isub x | imul x | imulhi x | imin x | imax x | iabs x | and x | or x | xor x | andn x | shl x | shr x | sar x | rot x
  | popc x | clz x | brev x | bfx x | lea x | iadd64 x | icmp x | pmov x | fadd x | fsub x | fmul x | fmin x | fmax x | fcmp x | fclass x
  | fint x | frcp x | frsq x | fsqrt x | fexp2 x | flog2 x | fsin x | fcos x | dadd x | dmul x | dmin x | dmax x | dcmp x | drcp x
  | dsqrt x | hadd2 x | hmul2 x | badd2 x | bmul2 x | cvt x | pack x | unpack x | xlane x | poll x | scan x | lred x | movx x | stx x
  | pcomb x | hmin2 x | hmax2 x | hcmp2 x =>
    exact (readsBack_v2 rfl rfl (by decide) fun w hop hx => by rw [buildV2, hop, hx]; rfl).decodes h
  | iaddi x | andi x | ori x | xori x | shli x | shri x | sari x | imuli x | icmpi x | movi x | leai x =>
    exact (readsBack_vi rfl rfl (by decide) rfl fun w hop hx => by rw [buildVI, hop, hx]; rfl).decodes h
  | movw x k | faddw x k | fmulw x k | iaddw x k =>
    exact (readsBack_vi (own := [k]) rfl rfl (by decide) rfl fun w hop hx => by rw [buildVI, hop, hx]; rfl).decodes h
  | ld8 x | ld8s x | ld16 x | ld16s x | ld32 x | ld64 x | ld128 x | st8 x | st16 x | st32 x | st64 x | st128 x | ldpk x | pref x =>
    have hg : x.globalOk = true := by simp_all [wf, wfWord]
    exact (readsBack_mem (List.append_nil _).symm rfl (by decide) (disp_of_global hg) rfl fun w hop hx => by
      rw [buildMem, hop, hx]; rfl).decodes h
  | lds x | sts x | ldp x | stp x =>
    have hs : x.scratchOk = true := by simp_all [wf, wfWord]
    exact (readsBack_mem (List.append_nil _).symm rfl (by decide) (disp_of_scratch hs) rfl fun w hop hx => by
      rw [buildMem, hop, hx]; rfl).decodes h
  | lda x o | stl x o | atom x o | red x o | callm x o | postm x o =>
    have hg : x.globalOk = true := by simp_all [wf, wfWord]
    exact (readsBack_mem rfl rfl (by decide) (disp_of_global hg) rfl fun w hop hx => by
      rw [buildMem, hop, hx]; exact orderThen_encOrder o _).decodes h
  | atoms x o =>
    have hs : x.scratchOk = true := by simp_all [wf, wfWord]
    exact (readsBack_mem rfl rfl (by decide) (disp_of_scratch hs) rfl fun w hop hx => by
      rw [buildMem, hop, hx]; exact orderThen_encOrder o _).decodes h
  | fence x o =>
    exact (readsBack_mem rfl rfl (by decide) (disp_of_fence (Bool.and_eq_true_iff.mp h).1) rfl fun w hop hx => by
      rw [buildMem, hop, hx]; exact orderThen_encOrder o _).decodes h
  | smov x | sadd x | ssub x | smul x | smulhi x | sand x | sor x | sxor x | sshl x | sshr x | ssar x | smin x | smax x | scmp x | ssel x
  | sld x | sst x | sread x | swrite x | rdlane x | bcast x | sfadd x | sfmul x | scvt x | spopc x | sclz x | actmask x | elect x | sdadd x
  | sdmul x =>
    exact (readsBack_uni rfl rfl (by decide) rfl fun w hop hx => by rw [buildUni, hop, hx]; rfl).decodes h
  | smovw x k | saddw x k =>
    exact (readsBack_uni (own := [k]) rfl rfl (by decide) rfl fun w hop hx => by rw [buildUni, hop, hx]; rfl).decodes h
  | smovd x k =>
    exact (readsBack_uni rfl rfl (by decide) rfl fun w hop hx => by
      rw [buildUni, hop, hx]; exact congrArg (fun k => some (Instr.smovd x k)) (append_halves k)).decodes h
  | slda x o | sstl x o | satom x o =>
    exact (readsBack_uni rfl rfl (by decide) rfl fun w hop hx => by rw [buildUni, hop, hx]; exact orderThen_encOrder o _).decodes h
  | bra sp off | call sp off =>
    exact (readsBack_offset rfl (by decide) (by decide) fun w hop hx => by rw [buildCtl, hop, hx]; rfl).decodes h
  | join sp | ret sp | exit sp | tret sp | bkpt sp | nop32 sp =>
    exact (readsBack_bare rfl (by decide) (by decide) fun w hop hz => by rw [buildCtl, hop, hz]; rfl).decodes h
  | brc sp c sense off => exact (readsBack_brc sp c sense off).decodes h
  | brd sp p off k => exact (readsBack_brd sp p off k).decodes h
  | calli sp k => exact (readsBack_calli sp k).decodes h
  | region sp items => exact (readsBack_region h).decodes h
  | regionu sp items => exact (readsBack_regionu h).decodes h
  | yield sp nb off => exact (readsBack_yield sp nb off).decodes h
  | barArrive sp nb =>
    exact (readsBack_bar nb 0 rfl (by omega) (by decide) fun w hop hz hk hn => by rw [buildCtl, hop, hz, hk, hn]; rfl).decodes h
  | barWait sp nb =>
    exact (readsBack_bar nb 1 rfl (by omega) (by decide) fun w hop hz hk hn => by rw [buildCtl, hop, hz, hk, hn]; rfl).decodes h
  | barArrivewait sp nb =>
    exact (readsBack_bar nb 2 rfl (by omega) (by decide) fun w hop hz hk hn => by rw [buildCtl, hop, hz, hk, hn]; rfl).decodes h
  | barinit sp nb count => exact (readsBack_barinit sp nb count).decodes h
  | carve sp nb s => exact (readsBack_carve sp nb s).decodes h
  | ixset sp ix base len => exact (readsBack_ixset sp ix base len).decodes h
  | spawn sp s entry => exact (readsBack_spawn sp s entry).decodes h
  | trap sp code => exact (readsBack_trap sp code).decodes h
  | setfpm sp mode => exact (readsBack_setfpm sp mode).decodes h
  | kill sp p => exact (readsBack_kill sp p).decodes h
  | idemStart sp => exact (readsBack_idemStart sp).decodes h
  | idemCommit sp => exact (readsBack_idemCommit sp).decodes h
  | sqfence x | mbatch x | mzero x | texq x | trace x | flins x | flres x | ordent x | ordlv x | patch x | xchg x =>
    exact (readsBack_asy rfl rfl (by decide) rfl fun w hop hx => by rw [buildAsy, hop, hx]; rfl).decodes h
  | copy x k | copyg x k | stream x k | mma x k | mwait x k | mdrain x k | mfill x k | neval x k | tex x k | texf x k | gvtx x k | tkpush x k
  | tkpop x k | tksteal x k | tkdone x k | cred x k =>
    exact (readsBack_asy (own := [k]) rfl rfl (by decide) rfl fun w hop hx => by rw [buildAsy, hop, hx]; rfl).decodes h
  | rlogDisable x | rlogRecord x | rlogReplay x | rlogMark x =>
    have hsub := beq_iff_eq.mp (last_of_wf h rfl)
    exact (readsBack_asy rfl rfl (by decide) rfl fun w hop hx => by rw [buildAsy, hop, hx, hsub]; rfl).decodes h
  | _ => exact absurd h Bool.false_ne_true

end Sys2Proof.Proofs

/-! PROOFS. Immediates, 16-bit forms and words of the tables: O5, O6 and O55. -/

namespace Sys2Proof.Proofs

open Machine Spec Laws

/-! ## Words as numbers (R125, R186 to R189) -/

theorem ofInt_toNat_add (a : Word) (n : Int) : BitVec.ofInt 32 (a.toNat + n) = a + BitVec.ofInt 32 n := by
  rw [BitVec.ofInt_add, BitVec.ofInt_natCast, BitVec.ofNat_toNat, BitVec.setWidth_eq]

theorem ofInt_toNat_mul (a : Word) (n : Int) : BitVec.ofInt 32 (a.toNat * n) = a * BitVec.ofInt 32 n := by
  rw [BitVec.ofInt_mul, BitVec.ofInt_natCast, BitVec.ofNat_toNat, BitVec.setWidth_eq]

theorem shiftLeft_eq_ofNat {w : Nat} (a : BitVec w) (k : Nat) : a <<< k = BitVec.ofNat w (a.toNat * 2 ^ k) := by
  apply BitVec.eq_of_toNat_eq
  rw [BitVec.toNat_shiftLeft, BitVec.toNat_ofNat, Nat.shiftLeft_eq]

theorem ushiftRight_eq_ofNat {w : Nat} (a : BitVec w) (k : Nat) : a >>> k = BitVec.ofNat w (a.toNat / 2 ^ k) := by
  apply BitVec.eq_of_toNat_eq
  rw [BitVec.toNat_ushiftRight, BitVec.toNat_ofNat, Nat.shiftRight_eq_div_pow, Nat.mod_eq_of_lt]
  exact Nat.lt_of_le_of_lt (Nat.div_le_self _ _) a.isLt

theorem signed_toNat (a : Word) : Spec.signed 32 a.toNat = a.toInt := by
  rw [toInt_eq_signed, Spec.signed]
  split <;> split <;> omega

theorem sshiftRight_eq_ofInt (a : Word) (k : Nat) : a.sshiftRight k = BitVec.ofInt 32 (Spec.signed 32 a.toNat / 2 ^ k) := by
  rw [signed_toNat, BitVec.sshiftRight, Int.shiftRight_eq_div_pow]
  rfl

/-! ## Immediates (R154, R210) -/

theorem imm32_eq (x : VI) : imm32 x = BitVec.ofInt 32 (immInt x) := rfl

theorem immCount_toNat (x : VI) : (immCount x).toNat = x.imm.toNat % 32 := by
  simp [immCount, BitVec.extractLsb'_toNat]
  omega

/-- A VI instruction of one source completes with the function that its table entry gives. -/
theorem imm_completes {i : Instr} {x : VI} {f h : Word → Word} (hf : ∀ a, f a = h a) (hx : ∀ s, exec i s = runImm i x f s) :
    VecCompletes i (immSpec x h).op (immSpec x h).f := by
  obtain rfl : f = h := funext hf
  exact vec_completes hx x.d.isLt nofun

theorem iaddi_value (x : VI) (a : Word) : a + imm32 x = BitVec.ofInt 32 (a.toNat + immInt x) := by
  rw [imm32_eq, ofInt_toNat_add]

theorem imuli_value (x : VI) (a : Word) : a * imm32 x = BitVec.ofInt 32 (a.toNat * immInt x) := by
  rw [imm32_eq, ofInt_toNat_mul]

theorem shli_value (x : VI) (a : Word) : a <<< immCount x = BitVec.ofNat 32 (a.toNat * 2 ^ (x.imm.toNat % 32)) := by
  rw [BitVec.shiftLeft_eq', shiftLeft_eq_ofNat, immCount_toNat]

theorem shri_value (x : VI) (a : Word) : a >>> immCount x = BitVec.ofNat 32 (a.toNat / 2 ^ (x.imm.toNat % 32)) := by
  rw [BitVec.ushiftRight_eq', ushiftRight_eq_ofNat, immCount_toNat]

theorem sari_value (x : VI) (a : Word) : a.sshiftRight (immCount x).toNat = BitVec.ofInt 32 (Spec.signed 32 a.toNat / 2 ^ (x.imm.toNat % 32)) := by
  rw [sshiftRight_eq_ofInt, immCount_toNat]

theorem iaddw_value (k a : Word) : a + k = BitVec.ofNat 32 (a.toNat + k.toNat) := by
  rw [BitVec.ofNat_add, BitVec.ofNat_toNat, BitVec.ofNat_toNat, BitVec.setWidth_eq, BitVec.setWidth_eq]

theorem leai_value (x : VI) (a : DWord) : a + x.imm.signExtend 64 = BitVec.ofInt 64 (a.toNat + immInt x) := by
  rw [BitVec.ofInt_add, BitVec.ofInt_natCast, BitVec.ofNat_toNat, BitVec.setWidth_eq]
  rfl

/-- Settles O5: each immediate is the thread instruction of its table entry, once its function is written in numbers. -/
theorem immediateResults : Obligations.ImmediateResults := by
  intro i l h
  unfold immTable at h
  split at h
  case h_1 x => cases h; exact imm_completes (iaddi_value x) fun _ => rfl
  case h_2 x => cases h; exact imm_completes (fun a => congrArg (a &&& ·) (imm32_eq x)) fun _ => rfl
  case h_3 x => cases h; exact imm_completes (fun a => congrArg (a ||| ·) (imm32_eq x)) fun _ => rfl
  case h_4 x => cases h; exact imm_completes (fun a => congrArg (a ^^^ ·) (imm32_eq x)) fun _ => rfl
  case h_5 x => cases h; exact imm_completes (shli_value x) fun _ => rfl
  case h_6 x => cases h; exact imm_completes (shri_value x) fun _ => rfl
  case h_7 x => cases h; exact imm_completes (sari_value x) fun _ => rfl
  case h_8 x => cases h; exact imm_completes (imuli_value x) fun _ => rfl
  case h_9 x => cases h; exact vec_completes (fun _ => rfl) x.d.isLt nofun
  case h_10 x k => cases h; exact vec_completes (fun _ => rfl) x.d.isLt nofun
  case h_11 x =>
    cases h
    refine vec_completes (fun s => ?_) x.d.isLt fun hwf _ _ => pair_of_even x.d (last_of_wf hwf rfl)
    simp only [← leai_value]
    rfl
  case h_12 x k => cases h; exact imm_completes (iaddw_value k) fun _ => rfl
  case h_13 => cases h

/-! ## 16-bit forms (R138) -/

theorem fieldD_asV2 (x : H16) (sgn : Bool) : BitVec.ofNat 6 x.d.toNat = (asV2 x sgn).a := by
  apply BitVec.eq_of_toNat_eq
  simp [asV2]

theorem lastUse_field : ∀ (u : Bool) (s : BitVec 5), BitVec.ofNat 6 (s.toNat + 32 * u.toNat) = (s.setWidth 6 ||| if u then 32 else 0) := by
  decide

theorem fieldS_asV2 (x : H16) (sgn : Bool) : BitVec.ofNat 6 (x.s.toNat + 32 * x.u.toNat) = (asV2 x sgn).b := lastUse_field x.u x.s

/-- A 16-bit form completes as the V2 instruction of its operands. -/
theorem short_completes {i : Instr} {x : H16} {sgn : Bool} {c : Consts} {p : Pipe} {f h : Ctx → Word → Word → LaneRes}
    (hf : ∀ g a b, f g a b = h g a b) (hx : ∀ s, exec i s = runH16 i x c p f s) :
    VecCompletes i (spec2 (asV2 x sgn) c p h).op (spec2 (asV2 x sgn) c p h).f := by
  obtain rfl : f = h := funext fun g => funext fun a => funext fun b => hf g a b
  refine vec_completes (fun s => ?_) x.d.isLt nofun
  rw [hx, runH16, fieldD_asV2 x sgn, fieldS_asV2 x sgn]
  rfl

theorem setWidth_word (v : Word) : (v.setWidth 64).setWidth 32 = v := by
  apply BitVec.eq_of_toNat_eq
  have := v.isLt
  simp only [BitVec.toNat_setWidth]
  omega

/-- A 32-bit operand is a word with zeros above it (R141). -/
theorem read_narrow (x : Ctx) (c : Consts) (f : SrcField) (t : Nat) : ∃ v : Word, x.read c false f t = v.setWidth 64 := by
  have hlane : BitVec.ofNat 64 (t % 256) = (BitVec.ofNat 32 (t % 256)).setWidth 64 := by
    apply BitVec.eq_of_toNat_eq
    simp only [BitVec.toNat_setWidth, BitVec.toNat_ofNat]
    omega
  simp only [Ctx.read, Bool.false_eq_true, if_false, hlane]
  split_ifs
  exacts [⟨_, rfl⟩, ⟨_, rfl⟩, ⟨_, rfl⟩, ⟨0, rfl⟩, ⟨_, rfl⟩, ⟨_, rfl⟩, ⟨_, rfl⟩]

theorem iadd16_value (a b : Word) : fIadd false false a b = BitVec.ofNat 32 (a.toNat + b.toNat) := iaddw_value b a

theorem isub16_value (a b : Word) : fIsub false false a b = BitVec.ofInt 32 ((a.toNat : Int) - b.toNat) := by
  rw [Int.sub_eq_add_neg, BitVec.ofInt_add, BitVec.ofInt_neg, BitVec.ofInt_natCast, BitVec.ofInt_natCast, BitVec.ofNat_toNat, BitVec.ofNat_toNat,
    BitVec.setWidth_eq, BitVec.setWidth_eq, ← BitVec.sub_eq_add_neg]
  rfl

theorem imul16_value (a b : Word) : a * b = BitVec.ofNat 32 (a.toNat * b.toNat) := by
  rw [BitVec.ofNat_mul, BitVec.ofNat_toNat, BitVec.ofNat_toNat, BitVec.setWidth_eq, BitVec.setWidth_eq]

theorem imin16_value (a b : Word) : fImin true a b = if number true b < number true a then b else a := by
  show (if a.toInt ≤ b.toInt then a else b) = if b.toInt < a.toInt then b else a
  by_cases h : a.toInt ≤ b.toInt
  · rw [if_pos h, if_neg (Int.not_lt.mpr h)]
  · rw [if_neg h, if_pos (Int.not_le.mp h)]

theorem shl16_value (a b : Word) : res64 (fShl false (a.setWidth 64) b) = word (BitVec.ofInt 32 (a.toNat * 2 ^ (b.toNat % 32))) := by
  have h : BitVec.ofInt 32 (a.toNat * 2 ^ (b.toNat % 32)) = a <<< (b.toNat % 32) := by
    rw [shiftLeft_eq_ofNat, ← BitVec.ofInt_natCast]
    push_cast
    rfl
  rw [h, res64, fShl, lo32, setWidth_word]
  rfl

theorem shr16_value (a b : Word) : res64 (fShr false (a.setWidth 64) b) = word (BitVec.ofInt 32 (a.toNat / 2 ^ (b.toNat % 32) : Nat)) := by
  rw [BitVec.ofInt_natCast, ← ushiftRight_eq_ofNat, res64, fShr, lo32, setWidth_word]
  rfl

theorem sar16_value (a b : Word) : res64 (fSar false (a.setWidth 64) b) = word (BitVec.ofInt 32 (Spec.signed 32 a.toNat / 2 ^ (b.toNat % 32))) := by
  rw [← sshiftRight_eq_ofInt, res64, fSar, lo32, setWidth_word]
  rfl

/-- MOV takes its operand as it is (R185). -/
theorem mov16_completes (x : H16) : VecCompletes (.mov16 x)
    ⟨[⟨(asV2 x false).a, false⟩, ⟨(asV2 x false).b, false⟩], x.d.toNat, x.w, false, .x⟩ (fun g t => ⟨g.read .int false (asV2 x false).b t, 0⟩) := by
  have hread : ∀ (g : Ctx) t, word (opnd .int g (asV2 x false).b t) = ⟨g.read .int false (asV2 x false).b t, 0⟩ := fun g t => by
    obtain ⟨v, hv⟩ := read_narrow g .int (asV2 x false).b t
    rw [opnd, hv, setWidth_word]
    rfl
  simp only [← hread]
  exact short_completes (x := x) (sgn := false) (h := fun _ _ b => word b) (fun _ _ _ => rfl) fun _ => rfl

/-- Settles O6: a form of a table is the V2 instruction of that table, once its function is written in numbers. -/
theorem sixteenBitForms : Obligations.SixteenBitForms := by
  intro i j l hi hl
  unfold form16 at hi
  split at hi
  case h_17 => cases hi
  all_goals
    cases hi
    rcases hl with h | h | h | h <;> cases h
  case h_1 x => exact mov16_completes x
  case h_2 x => exact short_completes (fun _ a b => congrArg word (iadd16_value a b)) fun _ => rfl
  case h_3 x => exact short_completes (fun _ a b => congrArg word (isub16_value a b)) fun _ => rfl
  case h_4 x => exact short_completes (fun _ a b => congrArg word (imul16_value a b)) fun _ => rfl
  case h_16 x => exact short_completes (fun _ a b => congrArg word (imin16_value a b)) fun _ => rfl
  case h_8 x => exact short_completes (fun _ a b => shl16_value a b) fun _ => rfl
  case h_9 x => exact short_completes (fun _ a b => shr16_value a b) fun _ => rfl
  case h_10 x => exact short_completes (fun _ a b => sar16_value a b) fun _ => rfl
  all_goals exact short_completes (fun _ _ _ => rfl) fun _ => rfl

/-! ## Words of the tables -/

/-- Settles O55: the decoder is run on each word. -/
theorem decodedWords : Obligations.DecodedWords := by
  refine ⟨?_, ?_, ?_, ?_, ?_, ?_, ?_, ?_, ?_⟩ <;> decide +kernel

end Sys2Proof.Proofs

/-! PROOFS. Taking a trap: the stores a graphics group holds, the main registers written back, and the group in its handler (R146, R148,
R448, R455 to R457). -/

namespace Sys2Proof.Proofs
open Machine Spec Laws

/-! ## Held stores outside a range of bytes (R455, R478) -/

/-- What one held effect lays over the byte at an address. -/
def laidByte (pa : Nat) (b : BitVec 8) (h : Held) : BitVec 8 := heldByte [h] pa b

theorem laidByte_store (pa : Nat) (b : BitVec 8) (p : Nat) (bs : List (BitVec 8)) (priv : Bool) (va : DWord) :
    laidByte pa b (.store p bs priv va) = if p ≤ pa ∧ pa < p + bs.length then bs.getD (pa - p) 0 else b := by
  simp [laidByte, heldByte]

theorem heldByte_cons (h : Held) (l : List Held) (pa : Nat) (b : BitVec 8) : heldByte (h :: l) pa b = heldByte l pa (laidByte pa b h) := rfl

theorem heldByte_append (l r : List Held) (pa : Nat) (b : BitVec 8) : heldByte (l ++ r) pa b = heldByte r pa (heldByte l pa b) :=
  List.foldl_append

/-- What is left of a store outside a range: the part below it, then the part behind it, empty parts dropped. -/
theorem outside_store (lo hi p : Nat) (bs : List (BitVec 8)) (priv : Bool) (va : DWord) :
    (Held.store p bs priv va).outside lo hi =
      (if bs.take (lo - p) = [] then [] else [.store p (bs.take (lo - p)) priv va]) ++
      (if bs.drop (hi - p) = [] then [] else [.store (max p hi) (bs.drop (hi - p)) priv va]) := by
  unfold Held.outside
  by_cases h1 : bs.take (lo - p) = [] <;> by_cases h2 : bs.drop (hi - p) = [] <;> simp [h1, h2]

/-- A part of a store, dropped where it is empty, lays what the part would. -/
theorem heldByte_part (pa : Nat) (b : BitVec 8) (p : Nat) (bs : List (BitVec 8)) (priv : Bool) (va : DWord) :
    heldByte (if bs = [] then [] else [.store p bs priv va]) pa b = laidByte pa b (.store p bs priv va) := by
  split
  · rw [laidByte_store, if_neg (by simp_all)]
    rfl
  · rfl

/-- Outside the range the parts of a held effect lay what it laid; inside they lay nothing. -/
theorem heldByte_outside (lo hi pa : Nat) (hle : lo ≤ hi) (b : BitVec 8) (h : Held) :
    heldByte (h.outside lo hi) pa b = if lo ≤ pa ∧ pa < hi then b else laidByte pa b h := by
  cases h with
  | store p bs priv va =>
    rw [outside_store, heldByte_append, heldByte_part, heldByte_part]
    simp only [laidByte_store, List.length_take, List.length_drop]
    by_cases hin : lo ≤ pa ∧ pa < hi
    · rw [if_pos hin, if_neg (by omega), if_neg (by omega)]
    · rw [if_neg hin]
      by_cases hlo : pa < lo
      · rw [if_neg (by omega)]
        by_cases hc : p ≤ pa ∧ pa < p + bs.length
        · rw [if_pos (by omega), if_pos hc, List.getD_eq_getElem?_getD, List.getElem?_take_of_lt (by omega), List.getD_eq_getElem?_getD]
        · rw [if_neg (by omega), if_neg hc]
      · rw [if_neg (c := p ≤ pa ∧ pa < p + min (lo - p) bs.length) (by omega)]
        by_cases hc : p ≤ pa ∧ pa < p + bs.length
        · rw [if_pos (by omega), if_pos hc, List.getD_eq_getElem?_getD, List.getElem?_drop, List.getD_eq_getElem?_getD,
            show hi - p + (pa - max p hi) = pa - p by omega]
        · rw [if_neg (by omega), if_neg hc]
  | _ => exact (ite_self b).symm

theorem heldByte_flatMap_outside (lo hi pa : Nat) (hle : lo ≤ hi) (l : List Held) (b : BitVec 8) :
    heldByte (l.flatMap (Held.outside lo hi)) pa b = if lo ≤ pa ∧ pa < hi then b else heldByte l pa b := by
  induction l generalizing b with
  | nil => exact (ite_self b).symm
  | cons h l ih =>
    rw [List.flatMap_cons, heldByte_append, ih, heldByte_outside lo hi pa hle, heldByte_cons]
    split <;> rfl

/-- A held effect other than a store of bytes to memory. -/
def notStore (h : Held) : Bool := match h with | .store _ _ _ _ => false | _ => true

theorem filter_outside (lo hi : Nat) (h : Held) : (h.outside lo hi).filter notStore = [h].filter notStore := by
  cases h with
  | store p bs priv va =>
    rw [outside_store, List.filter_append]
    split <;> split <;> rfl
  | _ => rfl

theorem filter_flatMap_outside (lo hi : Nat) (l : List Held) : (l.flatMap (Held.outside lo hi)).filter notStore = l.filter notStore := by
  induction l with
  | nil => rfl
  | cons h l ih => rw [List.flatMap_cons, List.filter_append, ih, filter_outside, ← List.filter_append]; rfl

/-- Held effects without some bytes of their stores: over each byte they lay what they laid, or nothing; the other effects stand. -/
structure StoresLess (l r : List Held) : Prop where
  byte : ∀ pa, (∀ b, heldByte l pa b = heldByte r pa b) ∨ ∀ b, heldByte l pa b = b
  others : l.filter notStore = r.filter notStore

theorem StoresLess.refl (l : List Held) : StoresLess l l := ⟨fun _ => .inl fun _ => rfl, rfl⟩

theorem storesLess_outside (lo hi : Nat) (hle : lo ≤ hi) {l r : List Held} (h : StoresLess l r) :
    StoresLess (l.flatMap (Held.outside lo hi)) r := by
  refine ⟨fun pa => ?_, (filter_flatMap_outside lo hi l).trans h.others⟩
  simp only [heldByte_flatMap_outside lo hi pa hle]
  by_cases hin : lo ≤ pa ∧ pa < hi
  · exact .inr fun b => if_pos hin
  · simpa only [if_neg hin] using h.byte pa

/-- The stores held behind a written frame are those held before it without the frame's bytes (R455). -/
theorem frameHeld_less (s : State) (g : Group) (frame : DWord) (f : Gfx) (h : g.gfx = some f) :
    ∃ l, s.frameHeld g frame = some { f with held := l } ∧ StoresLess l f.held := by
  unfold State.frameHeld
  rw [h]
  refine ⟨_, rfl, ?_⟩
  refine List.foldlRecOn (motive := fun l => StoresLess l f.held) (List.range 48) _ (StoresLess.refl f.held) fun l hl k _ => ?_
  split
  · exact storesLess_outside _ _ (Nat.le_add_right _ _) hl
  · exact hl

/-! ## Writing entries back (R146, R148) -/

/-- The entry is DIRTY, maps register `v` and is not kept. -/
def GoesTo (x : Ctx) (keep : Nat → Bool) (v e : Nat) : Prop :=
  (x.entry e).st = .dirty ∧ (x.entry e).map = some (BitVec.ofNat 8 v) ∧ keep e = false

/-- The main registers after one entry is written back, where it is DIRTY, mapped and not kept. -/
def backStep (x : Ctx) (keep : Nat → Bool) (m : List Lanes) (e : Nat) : List Lanes :=
  match x.entry e with
  | ⟨some v, .dirty, val⟩ => if keep e then m else m.set v.toNat val
  | _ => m

theorem backStep_length (x : Ctx) (keep : Nat → Bool) (m : List Lanes) (e : Nat) : (backStep x keep m e).length = m.length := by
  unfold backStep
  split
  · split
    · rfl
    · exact List.length_set
  · rfl

theorem backStep_goes {x : Ctx} {keep : Nat → Bool} {m : List Lanes} {v e : Nat} (hv : v < 256) (hm : v < m.length) (h : GoesTo x keep v e) :
    (backStep x keep m e).getD v Lanes.zero = (x.entry e).val := by
  obtain ⟨hst, hmap, hkeep⟩ := h
  have he : x.entry e = ⟨some (BitVec.ofNat 8 v), .dirty, (x.entry e).val⟩ := by rw [← hst, ← hmap]
  unfold backStep
  rw [he]
  simp [hkeep, Nat.mod_eq_of_lt hv, List.getD_eq_getElem?_getD, hm]

theorem backStep_stays {x : Ctx} {keep : Nat → Bool} {m : List Lanes} {v e : Nat} (h : ¬ GoesTo x keep v e) :
    (backStep x keep m e).getD v Lanes.zero = m.getD v Lanes.zero := by
  unfold backStep
  split
  next w val he =>
    split
    · rfl
    · next hk =>
      have hw : w.toNat ≠ v := fun hw => h ⟨by rw [he], by rw [he, ← hw, BitVec.ofNat_toNat, BitVec.setWidth_eq], by simpa using hk⟩
      rw [List.getD_eq_getElem?_getD, List.getElem?_set_ne hw, List.getD_eq_getElem?_getD]
  · rfl

theorem backFold_length (x : Ctx) (keep : Nat → Bool) (l : List Nat) (m : List Lanes) : (l.foldl (backStep x keep) m).length = m.length := by
  induction l generalizing m with
  | nil => rfl
  | cons e l ih => rw [List.foldl_cons, ih, backStep_length]

theorem backFold_stays {x : Ctx} {keep : Nat → Bool} {v : Nat} {l : List Nat} (h : ∀ e ∈ l, ¬ GoesTo x keep v e) (m : List Lanes) :
    (l.foldl (backStep x keep) m).getD v Lanes.zero = m.getD v Lanes.zero := by
  induction l generalizing m with
  | nil => rfl
  | cons e l ih =>
    rw [List.foldl_cons, ih (fun d hd => h d (List.mem_cons_of_mem _ hd)), backStep_stays (h e List.mem_cons_self)]

/-- A register that one entry alone goes to holds its value. -/
theorem backFold_goes {x : Ctx} {keep : Nat → Bool} {v e : Nat} {l : List Nat} (hv : v < 256) (he : e ∈ l) (hg : GoesTo x keep v e)
    (h : ∀ d ∈ l, d ≠ e → ¬ GoesTo x keep v d) {m : List Lanes} (hm : v < m.length) :
    (l.foldl (backStep x keep) m).getD v Lanes.zero = (x.entry e).val := by
  induction l generalizing m with
  | nil => cases he
  | cons d l ih =>
    have hl : ∀ c ∈ l, c ≠ e → ¬ GoesTo x keep v c := fun c hc => h c (List.mem_cons_of_mem _ hc)
    rw [List.foldl_cons]
    by_cases hel : e ∈ l
    · exact ih hel hl (by rwa [backStep_length])
    · obtain rfl : e = d := (List.mem_cons.mp he).resolve_right hel
      rw [backFold_stays fun c hc => hl c hc fun hce => hel (hce ▸ hc)]
      exact backStep_goes hv hm hg

theorem writeBack_main (x : Ctx) : x.writeBack.main = (List.range 16).foldl (backStep x fun _ => false) x.main := by
  unfold Ctx.writeBack backStep
  rfl

/-- No other entry maps the register of an entry that stands alone, so none goes to it. -/
theorem alone_goes {x : Ctx} {keep : Nat → Bool} {v e : Nat} (ha : Alone x e) (hm : (x.entry e).map = some (BitVec.ofNat 8 v)) :
    ∀ d ∈ List.range 16, d ≠ e → ¬ GoesTo x keep v d :=
  fun d hd hde ⟨_, hdm, _⟩ => ha d (List.mem_range.mp hd) hde (hdm.trans hm.symm)

/-- A context with the main registers that writing back leaves. -/
theorem writtenBack_of_main {x y : Ctx} (h : y.main = x.writeBack.main) : WrittenBack x y := by
  rw [writeBack_main] at h
  have hreg : ∀ v, y.mainReg v = ((List.range 16).foldl (backStep x fun _ => false) x.main).getD v Lanes.zero := fun v => by
    rw [Ctx.mainReg, h]
  refine ⟨by rw [h, backFold_length], fun v hv h256 => ⟨fun e he hst hmap ha => ?_, fun hno => ?_⟩⟩
  · rw [hreg]
    exact backFold_goes h256 (List.mem_range.mpr he) ⟨hst, hmap, rfl⟩ (alone_goes ha hmap) hv
  · rw [hreg, backFold_stays fun e he hg => hno e (List.mem_range.mp he) hg.1 hg.2.1]
    rfl

/-! ## Taking a trap (R448, R456, R457) -/

/-- An instruction that reads no latch finds its group's context as `found` says. -/
theorem begun_ctx (g : Group) {u : Uses} (h : u.latches = []) : (begun g u).ctx = found g := found_eq g u h

/-- An instruction that may issue and traps takes its trap behind itself. -/
theorem exec_trap {i : Instr} {u : Uses} {s : State} {g : Group} {t : TrapInfo} {body : State → Nat → Group → Eff}
    (hx : exec i s = runInstr i u s body) (hR : Ready i u s g) (hd : t.deferred = false) (hi : performsLanes i = false)
    (hb : body (s.setGroup s.cur (begun g u)) s.cur (begun g u) = .trap t) :
    exec i s = .next (takeTrap (s.setGroup s.cur (begun g u)) s.cur t (nextPc i (begun g u).ctx) u.latches none) := by
  have hc : clearCause (s.setGroup s.cur (begun g u)) s.cur t none = s.setGroup s.cur (begun g u) := by
    unfold clearCause
    rw [hd]
    rfl
  have ha : (begun g u).after i = nextPc i (begun g u).ctx := by
    have ho : (begun g u).again = none := hR.once
    unfold Group.after
    rw [ho]
    rfl
  rw [hx, runInstr_ready hR body, hb]
  unfold finish
  dsimp only
  rw [hc, ha, keepDone_other hi]

/-- Nothing lands from an empty scoreboard. -/
theorem landAll_empty {s : State} {gi : Nat} {g : Group} (h : s.groups[gi]? = some g) (hb : ∀ k < 32, g.board[Fin.ofNat 32 k] = none) :
    s.landAll gi = s := by
  refine List.foldlRecOn (motive := fun t => t = s) (List.range 32) _ rfl fun t ht k hk => ?_
  subst ht
  unfold State.land
  rw [h]
  dsimp only
  rw [hb k (List.mem_range.mp hk)]

theorem unsettled_empty {g : Group} (hb : ∀ k < 32, g.board[Fin.ofNat 32 k] = none) : g.unsettled = false := by
  refine List.any_eq_false.mpr fun k hk => ?_
  rw [hb k (List.mem_range.mp hk)]
  exact Bool.false_ne_true

/-- An instruction that reads no latch has no rebuild run (R462). -/
theorem rebuildRun_nil (l : List RunItem) : rebuildRun l [] false [] = [] := by
  cases l with
  | nil => rfl
  | cons it l => simp [rebuildRun]

/-- A group that can trap enters its handler at once (R457). -/
theorem takeTrap_enters {s : State} {gi : Nat} {g : Group} {t : TrapInfo} {next : DWord} (h : s.groups[gi]? = some g)
    (hC : CanTrap s g) (hx : t.cause ≠ .xlate) : takeTrap s gi t next [] none = enterTrap s gi g t next [] none := by
  obtain ⟨j, hj, hjh⟩ := hC.handler
  have hk : (g.kind == .combiner) = false := beq_false_of_ne hC.kind
  have hf : g.frame.isNone = false := by rw [Option.isNone_eq_false_iff]; exact hC.frame
  have hc : (t.cause == .xlate) = false := beq_false_of_ne hx
  have hjz : (j.handler == 0) = false := beq_false_of_ne hjh
  unfold takeTrap
  rw [h]
  simp only [hc, hk, hf, hC.first, hj, hjz, unsettled_empty hC.board, Bool.false_eq_true, ↓reduceIte, landAll_empty h hC.board,
    rebuildRun_nil, List.getD_eq_getElem?_getD, h, Option.getD_some]

/-- The context in which a handler starts: entries written back and unmapped, slots and latches empty, modes 0 (R457). -/
def handlerCtx (x : Ctx) (frame handler : DWord) (code : Nat) : Ctx :=
  (({ x.writeBack.clearLatches with
      entries := Vector.replicate 16 ⟨none, .free, Lanes.zero⟩, slots := Vector.replicate 8 ⟨false, 0⟩, pendFree := 0, fpmode := 0,
      fpflags := 0, pc := handler } : Ctx).setS 0 frame).setS 1 (BitVec.ofNat 64 code)

/-- The group that has entered its handler, its frame written in the state. -/
def entered (s : State) (g : Group) (t : TrapInfo) (frame handler restart next : DWord) : Group :=
  { g with
    ctx := handlerCtx g.ctx frame handler t.cause.code, status := .running, handler := true,
    trapSave := some ⟨t.cause, t.deferred, restart, g.ctx.pc, next, [], none⟩, rebuild := none, retry := none,
    gfx := s.frameHeld g frame }

/-- The fields written at the frame (R448, R456). -/
def trapItems (s : State) (g : Group) (t : TrapInfo) (restart : DWord) : List (Nat × Nat × Nat) :=
  recordItems 0 g t ((s.tick g.core).core g.core).stamp false false ++ frameItems { g with ctx := g.ctx.writeBack } g.ctx t restart

theorem enterTrap_eq {s : State} {gi : Nat} {g : Group} {t : TrapInfo} {next frame : DWord} {j : Job} (hf : g.frame = some frame)
    (hj : s.jobs[g.job]? = some j) (hd : t.deferred = false) :
    enterTrap s gi g t next [] none =
      match (s.tick g.core).frameWrite gi g frame (trapItems s g t (restartOf g t next [])) with
      | .ok s' => s'.setGroup gi (entered s' g t frame j.handler (restartOf g t next []) next)
      | .error va => frameFailure (s.tick g.core) gi g va := by
  unfold enterTrap
  rw [hf]
  dsimp only
  rw [hj, hd]
  show (match (s.tick g.core).frameWrite gi g frame (trapItems s g t (restartOf g t next [])) with
    | .error va => _
    | .ok s' => _) = _
  cases (s.tick g.core).frameWrite gi g frame (trapItems s g t (restartOf g t next [])) with
  | error va => rfl
  | ok s' =>
    unfold entered
    rw [hd]
    rfl

/-- Where a retry goes on: behind TRAP and BKPT, at any other instruction itself (R460). -/
theorem restartOf_nil (g : Group) (t : TrapInfo) (next : DWord) :
    restartOf g t next [] = if t.cause = .softTrap ∨ t.cause = .breakpoint then next else g.ctx.pc := by
  simp [restartOf]

theorem getS_setS_ne {x : Ctx} {d k : Nat} (hd : d < 64) (hk : k < 64) (h : d ≠ k) (v : DWord) : (x.setS d v).getS k = x.getS k := by
  have hne : d % 64 ≠ k % 64 := by rw [Nat.mod_eq_of_lt hd, Nat.mod_eq_of_lt hk]; exact h
  simp [Ctx.setS, Ctx.getS, hne]

/-- The group that has entered its handler is as R457 says. -/
theorem entered_inHandler {s s' : State} {g : Group} {x : Ctx} {t : TrapInfo} {frame restart next : DWord} {j : Job}
    (hf : g.frame = some frame) (hj : s.jobs[g.job]? = some j) :
    InHandler s g (entered s' { g with ctx := x } t frame j.handler restart next) x t.cause restart next where
  on := rfl
  runs := ⟨rfl, rfl⟩
  pc := ⟨j, hj, rfl⟩
  s0 := ⟨frame, hf, (getS_setS_ne (by decide) (by decide) (by decide) _).trans (getS_setS _ _ _)⟩
  s1 := getS_setS _ _ _
  regs := fun k hk h2 =>
    (getS_setS_ne (by decide) hk (by omega) _).trans ((getS_setS_ne (by decide) hk (by omega) _).trans rfl)
  modes := ⟨rfl, rfl⟩
  entries := fun e _ => Vector.getElem_replicate _
  slots := fun k _ => congrArg USlot.mapped (Vector.getElem_replicate _)
  latches := fun k _ => by simp [entered, handlerCtx, Ctx.clearLatches, Ctx.setS]
  back := writtenBack_of_main rfl
  kept := ⟨rfl, rfl, rfl, rfl, rfl, rfl, rfl, rfl⟩
  saved := ⟨_, rfl, rfl, rfl, rfl⟩
  rest := rfl
  held := by
    split
    next hg => exact congrArg (Option.map _) hg
    next f hg =>
      obtain ⟨l, hl, hless⟩ := frameHeld_less s' { g with ctx := x } frame f hg
      exact ⟨l, hl, fun pa b => (hless.byte pa).imp (· b) (· b), hless.others⟩

/-- The fields of a frame, among those written (R448, R456). -/
theorem trapItems_frame (s : State) (g : Group) (t : TrapInfo) (restart : DWord) : FrameOf g t restart (trapItems s g t restart) := by
  have hfix : ∀ it ∈ [(64, 8, 0), (72, 8, 0), (80, 8, restart.toNat), (88, 8, g.ctx.fpmode.toNat), (96, 8, g.ctx.fpflags.toNat),
      (104, 8, g.ctx.storehash.toNat), (128, 32, g.ctx.active.toNat), (160, 32, t.done.toNat)], it ∈ trapItems s g t restart := by
    intro it hit
    refine List.mem_append_right _ ?_
    simp only [frameItems, List.append_assoc]
    refine List.mem_append_left _ ?_
    simp only [List.mem_cons, List.not_mem_nil, or_false] at hit ⊢
    tauto
  have hregs : ∀ k < 64, (256 + 8 * k, 8, (g.ctx.getS k).toNat) ∈ trapItems s g t restart := by
    intro k hk
    refine List.mem_append_right _ ?_
    simp only [frameItems, List.append_assoc]
    exact List.mem_append_right _ (List.mem_append_left _ (List.mem_map.mpr ⟨k, List.mem_range.mpr hk, rfl⟩))
  have hrec : ∀ it ∈ [(0, 2, t.cause.code), (8, 8, t.pc.toNat), (16, 8, (t.addr.getD 0).toNat), (32, 32, t.lanes.toNat)],
      it ∈ trapItems s g t restart := by
    intro it hit
    refine List.mem_append_left _ ?_
    simp only [recordItems, List.mem_cons, List.not_mem_nil, or_false, Nat.zero_add] at hit ⊢
    tauto
  have hcode : t.cause = .softTrap → (2, 2, t.code.toNat) ∈ trapItems s g t restart := by
    intro hc
    refine List.mem_append_left _ ?_
    simp [recordItems, hc]
  refine ⟨hrec _ ?_, hrec _ ?_, hrec _ ?_, hrec _ ?_, hfix _ ?_, hfix _ ?_, hfix _ ?_, hfix _ ?_, hfix _ ?_, hfix _ ?_, hfix _ ?_, hfix _ ?_,
    hregs, hcode⟩ <;> simp

/-- A frame written, and then the group in its handler, is what a trap does (R457). -/
theorem traps_of_write {i : Instr} {s : State} {g : Group} {x : Ctx} {t : TrapInfo} {restart skip frame : DWord} {items : List (Nat × Nat × Nat)}
    {h : State → Group} (hitems : FrameOf { g with ctx := x } t restart items) (hpc : t.pc = x.pc) (hf : g.frame = some frame)
    (hin : ∀ s', InHandler s g (h s') x t.cause restart skip)
    (he : exec i s = .next (
      match ((s.setGroup s.cur { g with ctx := x }).tick g.core).frameWrite s.cur { g with ctx := x } frame items with
      | .ok s' => s'.setGroup s.cur (h s')
      | .error va => frameFailure ((s.setGroup s.cur { g with ctx := x }).tick g.core) s.cur { g with ctx := x } va)) :
    Traps i s g x t.cause t.code restart skip := by
  cases hw : ((s.setGroup s.cur { g with ctx := x }).tick g.core).frameWrite s.cur { g with ctx := x } frame items with
  | ok s' => exact ⟨items, t, frame, h s', hitems, rfl, rfl, hpc, hf, hin s', by rw [he, hw]⟩
  | error va => exact ⟨items, t, frame, h s, hitems, rfl, rfl, hpc, hf, hin s, by rw [he, hw]⟩

/-- An instruction that reads no latch and traps at once, in a group that can trap (R457). -/
theorem traps_of {i : Instr} {u : Uses} {s : State} {g : Group} {t : TrapInfo} {body : State → Nat → Group → Eff}
    (hx : exec i s = runInstr i u s body) (hR : Ready i u s g) (hC : CanTrap s g) (hl : u.latches = []) (hi : performsLanes i = false)
    (hd : t.deferred = false) (hc : t.cause ≠ .xlate) (hpc : t.pc = (found g).pc)
    (hb : body (s.setGroup s.cur (begun g u)) s.cur (begun g u) = .trap t) :
    Traps i s g (found g) t.cause t.code (if t.cause = .softTrap ∨ t.cause = .breakpoint then nextPc i (found g) else (found g).pc)
      (nextPc i (found g)) := by
  obtain ⟨frame, hf⟩ := Option.isSome_iff_exists.mp hC.frame
  obtain ⟨j, hj, _⟩ := hC.handler
  have hg : begun g u = { g with ctx := found g } := by rw [begun, found_eq g u hl]
  have hC' : CanTrap (s.setGroup s.cur (begun g u)) (begun g u) := ⟨hC.kind, hC.first, hC.frame, hC.handler, hC.board⟩
  have hexec := exec_trap hx hR hd hi hb
  rw [hl, takeTrap_enters (group_setGroup s s.cur g _ hR.here) hC' hc,
    enterTrap_eq (s := s.setGroup s.cur (begun g u)) (g := begun g u) hf hj hd, restartOf_nil, hg] at hexec
  exact traps_of_write (trapItems_frame _ _ t _) hpc hf (fun _ => entered_inHandler hf hj) hexec

/-- A trap of the instruction's own, without a code, is retried at the instruction (R460). -/
theorem traps_here {i : Instr} {u : Uses} {s : State} {g : Group} {t : TrapInfo} {body : State → Nat → Group → Eff} (c : Cause)
    (hx : exec i s = runInstr i u s body) (hR : Ready i u s g) (hC : CanTrap s g) (hl : u.latches = []) (hi : performsLanes i = false)
    (hc : c ≠ .xlate ∧ c ≠ .softTrap ∧ c ≠ .breakpoint) (hd : t.deferred = false) (hcause : t.cause = c) (hcode : t.code = 0)
    (hpc : t.pc = (begun g u).ctx.pc) (hb : body (s.setGroup s.cur (begun g u)) s.cur (begun g u) = .trap t) :
    Traps i s g (found g) c 0 (found g).pc (nextPc i (found g)) := by
  obtain ⟨hxl, hsoft, hbreak⟩ := hc
  subst hcause
  have h := traps_of hx hR hC hl hi hd hxl (by rw [hpc, begun_ctx g hl]) hb
  rwa [hcode, if_neg (not_or.mpr ⟨hsoft, hbreak⟩)] at h

end Sys2Proof.Proofs

/-! PROOFS. Branches, calls and returns (R44, R45, R137, R219, R220). -/

namespace Sys2Proof.Proofs
open Machine Spec Laws

/-- A branch target counts parcels of two bytes (R137). -/
theorem branchTarget_eq {n : Nat} (x : Ctx) (off : BitVec n) : branchTarget x.pc off = Spec.target x off.toInt := by
  have h : off.signExtend 64 * 2 = BitVec.ofInt 64 (2 * off.toInt) := by
    rw [BitVec.ofInt_mul, BitVec.mul_comm]
    rfl
  rw [branchTarget, Spec.target, h]

/-- An instruction that reads no latch and writes no vector result goes on at `pc` with the context `z`. -/
theorem moves_jump {i : Instr} {u : Uses} {s : State} {g : Group} {z : Ctx} {pc : DWord} {body : State → Nat → Group → Eff}
    (hx : exec i s = runInstr i u s body) (hR : Ready i u s g) (hv : u.vec = false)
    (hb : body (s.setGroup s.cur (begun g u)) s.cur (begun g u) = .jump ((s.setGroup s.cur (begun g u)).setCtx s.cur z) pc) :
    Moves i s g pc z := by
  refine moves_of hx hR hv ?_
  rw [hb, setCtx_setGroup]
  rfl

/-- The same, where it goes on behind itself. -/
theorem moves_done {i : Instr} {u : Uses} {s : State} {g : Group} {z : Ctx} {body : State → Nat → Group → Eff}
    (hx : exec i s = runInstr i u s body) (hR : Ready i u s g) (hv : u.vec = false) (hl : u.latches = [])
    (hb : body (s.setGroup s.cur (begun g u)) s.cur (begun g u) = .done ((s.setGroup s.cur (begun g u)).setCtx s.cur z)) :
    Moves i s g (nextPc i (found g)) z := by
  rw [← begun_ctx g hl]
  refine moves_of hx hR hv ?_
  rw [hb, setCtx_setGroup]
  rfl

/-- A state keeps its shape when a group's context is written back as it is. -/
theorem setCtx_begun (s : State) (g : Group) {u : Uses} (hl : u.latches = []) :
    (s.setGroup s.cur (begun g u)).setCtx s.cur (found g) = s.setGroup s.cur (begun g u) := by
  rw [setCtx_setGroup, ← begun_ctx g hl, begun]

/-! ## Instructions that go on (R44, R137, R219, R220) -/

theorem bra_moves {s : State} {g : Group} {sp : Sp} {off : BitVec 22} (hR : Ready (.bra sp off) {} s g) :
    Moves (.bra sp off) s g (Spec.target (found g) off.toInt) (found g) := by
  have hx : exec (.bra sp off) s = execBra sp off s := rfl
  refine moves_jump hx hR rfl ?_
  rw [setCtx_begun s g rfl, ← branchTarget_eq]
  rfl


theorem brc_moves {s : State} {g : Group} {sp : Sp} {c : Fin 4} {sense : Bool} {off : BitVec 18} (hR : Ready (.brc sp c sense off) {} s g) :
    Moves (.brc sp c sense off) s g
      (if (found g).c[c] = sense then Spec.target (found g) off.toInt else nextPc (.brc sp c sense off) (found g)) (found g) := by
  have hx : exec (.brc sp c sense off) s = execBrc sp c sense off s := rfl
  have hc : (begun g {}).ctx.c[c] = (found g).c[c] := rfl
  by_cases h : (found g).c[c] = sense
  · rw [if_pos h]
    refine moves_jump hx hR rfl ?_
    rw [setCtx_begun s g rfl, ← branchTarget_eq]
    exact if_pos (by rw [hc, h]; exact beq_self_eq_true sense)
  · rw [if_neg h]
    refine moves_done hx hR rfl rfl ?_
    rw [setCtx_begun s g rfl]
    exact if_neg (by rw [hc, beq_iff_eq]; exact h)

theorem nop_moves {s : State} {g : Group} (hR : Ready .nop {} s g) : Moves .nop s g (nextPc .nop (found g)) (found g) := by
  have hx : exec .nop s = runInstr .nop {} s fun s _ _ => .done s := rfl
  exact moves_done hx hR rfl rfl (by rw [setCtx_begun s g rfl])

theorem nop32_moves {s : State} {g : Group} {sp : Sp} (hR : Ready (.nop32 sp) {} s g) :
    Moves (.nop32 sp) s g (nextPc (.nop32 sp) (found g)) (found g) := by
  have hx : exec (.nop32 sp) s = execNop32 sp s := rfl
  exact moves_done hx hR rfl rfl (by rw [setCtx_begun s g rfl])

theorem setfpm_moves {s : State} {g : Group} {sp : Sp} {mode : BitVec 5} (hR : Ready (.setfpm sp mode) {} s g) :
    Moves (.setfpm sp mode) s g (nextPc (.setfpm sp mode) (found g)) { found g with fpmode := mode.setWidth 64 } := by
  have hx : exec (.setfpm sp mode) s = execSetfpm sp mode s := rfl
  exact moves_done hx hR rfl rfl rfl

/-- What CALL and CALLI do with room on the call stack (R220). -/
theorem callBody_push (i : Instr) (pc : DWord) (s : State) (gi : Nat) (g : Group) (h : g.ctx.cstack.length < 64) :
    callBody i pc s gi g = .jump (s.setCtx gi { g.ctx with cstack := ⟨nextPc i g.ctx, g.ctx.dstack.length⟩ :: g.ctx.cstack }) pc :=
  if_neg (Nat.not_le.mpr h)

/-- What they do on a full one (R220). -/
theorem callBody_full (i : Instr) (pc : DWord) (s : State) (gi : Nat) (g : Group) (h : 64 ≤ g.ctx.cstack.length) :
    callBody i pc s gi g = .trap (trapOf i g .divStack) := if_pos h

theorem call_moves {s : State} {g : Group} {sp : Sp} {off : BitVec 22} (hR : Ready (.call sp off) {} s g) (hc : (found g).cstack.length < 64) :
    Moves (.call sp off) s g (Spec.target (found g) off.toInt)
      { found g with cstack := ⟨nextPc (.call sp off) (found g), (found g).dstack.length⟩ :: (found g).cstack } := by
  have hx : exec (.call sp off) s = execCall sp off s := rfl
  refine moves_jump hx hR rfl ?_
  rw [← branchTarget_eq]
  exact callBody_push (.call sp off) _ _ _ (begun g {}) hc

theorem calli_moves {s : State} {g : Group} {sp : Sp} {k : BitVec 6} (hR : Ready (.calli sp k) { sregs := 1#64 <<< k.toNat } s g)
    (hc : (found g).cstack.length < 64) (ha : ((found g).getS k.toNat).getLsbD 0 = false) :
    Moves (.calli sp k) s g ((found g).getS k.toNat)
      { found g with cstack := ⟨nextPc (.calli sp k) (found g), (found g).dstack.length⟩ :: (found g).cstack } := by
  have hx : exec (.calli sp k) s = execCalli sp k s := rfl
  refine moves_jump hx hR rfl ?_
  exact (if_neg (by rw [begun_ctx g rfl, ha]; exact Bool.false_ne_true)).trans
    (callBody_push (.calli sp k) _ _ _ (begun g { sregs := 1#64 <<< k.toNat }) hc)

theorem ret_moves {s : State} {g : Group} {sp : Sp} {e : CallEntry} {l : List CallEntry} (hR : Ready (.ret sp) {} s g)
    (hc : (found g).cstack = e :: l) (hd : e.depth = (found g).dstack.length) :
    Moves (.ret sp) s g e.ret { found g with cstack := l } := by
  have hx : exec (.ret sp) s = execRet sp s := rfl
  refine moves_jump hx hR rfl ?_
  have hb : (begun g {}).ctx = found g := begun_ctx g rfl
  simp only [hb, hc, hd, bne_self_eq_false, Bool.false_eq_true, ↓reduceIte]

/-! ## Instructions that trap (R45, R219, R220, R457) -/

theorem call_full {s : State} {g : Group} {sp : Sp} {off : BitVec 22} (hR : Ready (.call sp off) {} s g) (hC : CanTrap s g)
    (hc : 64 ≤ (found g).cstack.length) : DivTrap (.call sp off) s g := by
  have hx : exec (.call sp off) s = execCall sp off s := rfl
  exact traps_here .divStack hx hR hC rfl rfl (by decide) rfl rfl rfl rfl (callBody_full (.call sp off) _ _ _ (begun g {}) hc)

theorem calli_full {s : State} {g : Group} {sp : Sp} {k : BitVec 6} (hR : Ready (.calli sp k) { sregs := 1#64 <<< k.toNat } s g)
    (hC : CanTrap s g) (ha : ((found g).getS k.toNat).getLsbD 0 = false) (hc : 64 ≤ (found g).cstack.length) :
    DivTrap (.calli sp k) s g := by
  have hx : exec (.calli sp k) s = execCalli sp k s := rfl
  refine traps_here (t := trapOf (.calli sp k) (begun g { sregs := 1#64 <<< k.toNat }) .divStack) .divStack hx hR hC rfl rfl (by decide)
    rfl rfl rfl rfl ?_
  exact (if_neg (by rw [begun_ctx g rfl, ha]; exact Bool.false_ne_true)).trans
    (callBody_full (.calli sp k) _ _ _ (begun g { sregs := 1#64 <<< k.toNat }) hc)

theorem calli_odd {s : State} {g : Group} {sp : Sp} {k : BitVec 6} (hR : Ready (.calli sp k) { sregs := 1#64 <<< k.toNat } s g)
    (hC : CanTrap s g) (ha : ((found g).getS k.toNat).getLsbD 0 = true) :
    Traps (.calli sp k) s g (found g) .align 0 (found g).pc (nextPc (.calli sp k) (found g)) := by
  have hx : exec (.calli sp k) s = execCalli sp k s := rfl
  refine traps_here (t := trapAt (.calli sp k) (begun g { sregs := 1#64 <<< k.toNat }) .align ((found g).getS k.toNat) 0 false) .align
    hx hR hC rfl rfl (by decide) rfl rfl rfl rfl ?_
  exact if_pos (by rw [begun_ctx g rfl, ha])

theorem ret_traps {s : State} {g : Group} {sp : Sp} (hR : Ready (.ret sp) {} s g) (hC : CanTrap s g)
    (hc : (found g).cstack = [] ∨ ∃ e l, (found g).cstack = e :: l ∧ e.depth ≠ (found g).dstack.length) : DivTrap (.ret sp) s g := by
  have hx : exec (.ret sp) s = execRet sp s := rfl
  refine traps_here (t := trapOf (.ret sp) (begun g {}) .divStack) .divStack hx hR hC rfl rfl (by decide) rfl rfl rfl rfl ?_
  have hb : (begun g {}).ctx = found g := begun_ctx g rfl
  rcases hc with hnil | ⟨e, l, hcons, hdepth⟩
  · simp only [hb, hnil]
  · simp only [hb, hcons, bne_iff_ne.mpr hdepth, ↓reduceIte]

/-- Settles O16: each instruction goes on as its own lemma says, or takes its trap with room for none. -/
theorem branchesCallsAndReturns : Obligations.BranchesCallsAndReturns :=
  ⟨fun _ _ _ _ => bra_moves, fun _ _ _ _ _ _ => brc_moves, fun _ _ => nop_moves, fun _ _ _ => nop32_moves, fun _ _ _ _ => setfpm_moves,
    fun _ _ _ _ => call_moves, fun _ _ _ _ => calli_moves, fun _ _ _ _ _ => ret_moves, fun _ _ _ _ => call_full,
    fun _ _ _ _ => calli_full, fun _ _ _ _ => calli_odd, fun _ _ _ => ret_traps⟩

end Sys2Proof.Proofs

/-! PROOFS. Regions: what REGION, REGIONU and IXSET make of a group (R146, R147, R150, R228). -/

namespace Sys2Proof.Proofs
open Machine Spec Laws

/-- Where no freeing waits there is none to apply (R143). -/
theorem applyFrees_none {x : Ctx} (h : x.pendFree = 0) : x.applyFrees = x := by
  have hes : x.entries.mapFinIdx (fun e en _ => if x.pendFree.getLsbD e then { en with st := .free, val := Lanes.zero } else en) = x.entries := by
    refine Vector.ext fun e he => ?_
    rw [Vector.getElem_mapFinIdx, h]
    exact if_neg (by simp)
  rw [Ctx.applyFrees, Ctx.free, hes, ← h]

theorem found_pendFree (g : Group) : (found g).pendFree = 0 := rfl

/-! ## REGION (R146) -/

theorem regionKeeps_eq (x : Ctx) (items : List RegionItem) (e : Nat) : regionKeeps x items e = keeps x items e := by
  unfold regionKeeps keeps
  cases h : itemOf items e with
  | none => rw [show Machine.regionItem items e = none from h]
  | some it =>
    rw [show Machine.regionItem items e = some it from h]
    exact Bool.eq_iff_iff.mpr (by simp)

theorem regionBack_main (x : Ctx) (items : List RegionItem) :
    (x.regionBack items).main = (List.range 16).foldl (backStep x (regionKeeps x items)) x.main := by
  unfold Ctx.regionBack backStep
  rfl

theorem entry_regionBack (x : Ctx) (items : List RegionItem) (e : Nat) : (x.regionBack items).entry e = x.entry e := rfl

theorem regionKeeps_regionBack (x : Ctx) (items : List RegionItem) : regionKeeps (x.regionBack items) items = regionKeeps x items := rfl

/-- The entry that REGION makes (R146). -/
theorem entry_regionMap (x : Ctx) (items : List RegionItem) {e : Nat} (he : e < 16) :
    (x.regionMap items).entry e =
      match itemOf items e with
      | none => ⟨none, .free, Lanes.zero⟩
      | some it =>
        if keeps x items e then x.entry e
        else if it.load then ⟨some it.v, .clean, x.mainReg it.v.toNat⟩ else ⟨some it.v, .free, Lanes.zero⟩ := by
  have hv : (Fin.ofNat 16 e).val = e := Nat.mod_eq_of_lt he
  rw [← regionKeeps_eq]
  unfold Ctx.regionMap Ctx.entry
  simp only [Fin.getElem_fin, Vector.getElem_ofFn, hv]
  rfl

theorem goesTo_writesBack {x : Ctx} {items : List RegionItem} {v e : Nat} (he : e < 16) :
    GoesTo x (regionKeeps x items) v e ↔ writesBack x items v e := by
  simp only [GoesTo, writesBack, regionKeeps_eq, he, true_and]

/-- What REGION makes of a context in which no freeing waits. -/
theorem regionNext_of {i : Instr} {items : List RegionItem} {x y : Ctx} (hp : x.pendFree = 0) (hpc : y.pc = nextPc i x)
    (hplain : Plain 0 ((x.regionBack items).regionMap items) y)
    (hframe : y = { (x.regionBack items).regionMap items with
      pc := y.pc, entries := y.entries, latches := y.latches, pendFree := y.pendFree, run := y.run }) : RegionNext i items x y := by
  have hmain : y.main = (List.range 16).foldl (backStep x (regionKeeps x items)) x.main := by
    rw [hframe]
    exact regionBack_main x items
  have hreg : ∀ v, y.mainReg v = ((List.range 16).foldl (backStep x (regionKeeps x items)) x.main).getD v Lanes.zero := fun v => by
    rw [Ctx.mainReg, hmain]
  have hload : ∀ v, (x.regionBack items).mainReg v = y.mainReg v := fun v => by rw [hreg, ← regionBack_main]; rfl
  have hent : ∀ e < 16, y.entry e = ((x.regionBack items).regionMap items).entry e := fun e he => by
    have hz : ((x.regionBack items).regionMap items).pendFree = 0 := hp
    rw [hplain.entries e he, hz]
    simp
  have hk : keeps (x.regionBack items) items = keeps x items := rfl
  constructor
  case pc => exact hpc
  case back =>
    intro v hv h256 e hw ha
    have he : e < 16 := hw.1
    rw [hreg]
    exact backFold_goes h256 (List.mem_range.mpr he) ((goesTo_writesBack he).mpr hw) (alone_goes ha hw.2.2.1) hv
  case kept =>
    intro v _ _ hno
    rw [hreg, backFold_stays fun e he hg => hno e ((goesTo_writesBack (List.mem_range.mp he)).mp hg)]
    rfl
  case length => rw [hmain, backFold_length]
  case unmapped =>
    intro e he hi
    rw [hent e he, entry_regionMap _ _ he, hi]
  case same =>
    intro e he hkeep
    rw [hent e he, entry_regionMap _ _ he, hk, hkeep]
    cases hi : itemOf items e with
    | none => rw [keeps, hi] at hkeep; cases hkeep
    | some it => rfl
  case loaded =>
    intro e he it hi hkeep
    rw [hent e he, entry_regionMap _ _ he, hi, hk, hkeep]
    simp only [hload, Bool.false_eq_true, ↓reduceIte]
  case latches => exact hplain.latches
  case frame =>
    have hm : y.main = ((x.regionBack items).regionMap items).main := hmain.trans (regionBack_main x items).symm
    refine hframe.trans ?_
    rw [hm]
    rfl

theorem region_completes {s : State} {g : Group} {sp : Sp} {items : List RegionItem}
    (hR : Ready (.region sp items) { all := true, post := true } s g) (hv : ∀ it ∈ items, it.v.toNat < g.regs) :
    ∃ h, exec (.region sp items) s = .next (s.setGroup s.cur h) ∧ Passed (.region sp items) s g h ∧
      RegionNext (.region sp items) items (found g) h.ctx := by
  have hx : exec (.region sp items) s = execRegion sp items s := rfl
  dsimp only [execRegion] at hx
  have hin : (items.any fun it => (begun g { all := true, post := true }).regs ≤ it.v.toNat) = false :=
    List.any_eq_false.mpr fun it hit => by rw [decide_eq_true_eq]; exact Nat.not_le.mpr (hv it hit)
  have hm : Moves (.region sp items) s g (nextPc (.region sp items) (found g)) (((found g).regionBack items).regionMap items) := by
    refine moves_done hx hR rfl rfl ?_
    rw [if_neg (by rw [hin]; exact Bool.false_ne_true), begun_ctx g rfl, applyFrees_none (found_pendFree g)]
  obtain ⟨h, he, hpass, hpc, hplain, hframe⟩ := hm
  exact ⟨h, he, hpass, regionNext_of (found_pendFree g) hpc hplain hframe⟩

theorem region_traps {s : State} {g : Group} {sp : Sp} {items : List RegionItem}
    (hR : Ready (.region sp items) { all := true, post := true } s g) (hC : CanTrap s g) (hv : ∃ it ∈ items, g.regs ≤ it.v.toNat) :
    Traps (.region sp items) s g (found g) .illegalOperand 0 (found g).pc (nextPc (.region sp items) (found g)) := by
  have hx : exec (.region sp items) s = execRegion sp items s := rfl
  dsimp only [execRegion] at hx
  have hin : (items.any fun it => (begun g { all := true, post := true }).regs ≤ it.v.toNat) = true :=
    List.any_eq_true.mpr (hv.imp fun it hit => ⟨hit.1, decide_eq_true hit.2⟩)
  exact traps_here (t := trapOf (.region sp items) (begun g { all := true, post := true }) .illegalOperand) .illegalOperand
    hx hR hC rfl rfl (by decide) rfl rfl rfl rfl (if_pos hin)

/-! ## REGIONU and IXSET (R147, R150, R228) -/

/-- A slot after items are written into their slots one by one: an item's value where one names it. -/
theorem foldl_set_slots {f : SlotItem → USlot} {items : List SlotItem} (hd : (items.map (·.w)).Nodup) (v : Vector USlot 8) (w : Fin 8) :
    (items.foldl (fun v it => v.set it.w (f it)) v)[w] =
      match items.find? fun it => it.w == w with
      | some it => f it
      | none => v[w] := by
  induction items generalizing v with
  | nil => rfl
  | cons it l ih =>
    obtain ⟨hnot, hl⟩ := List.nodup_cons.mp hd
    rw [List.foldl_cons, ih hl, List.find?_cons]
    by_cases hw : it.w = w
    · subst hw
      have hno : (l.find? fun d => d.w == it.w) = none :=
        List.find?_eq_none.mpr fun d hdl hdw => hnot (List.mem_map.mpr ⟨d, hdl, eq_of_beq hdw⟩)
      rw [hno, beq_self_eq_true]
      simp
    · rw [beq_false_of_ne hw]
      have hne : it.w.val ≠ w.val := fun h => hw (Fin.ext h)
      cases l.find? fun it => it.w == w with
      | none => simp [hne]
      | some d => rfl

theorem nodup_of_noDup {α : Type} [BEq α] [LawfulBEq α] {l : List α} (h : noDup l = true) : l.Nodup := by
  induction l with
  | nil => exact List.nodup_nil
  | cons a l ih =>
    obtain ⟨hnot, hl⟩ := Bool.and_eq_true_iff.mp h
    exact List.nodup_cons.mpr ⟨by simpa using hnot, ih hl⟩

/-- The slots after REGIONU's items are written: the register an item names, in the slots that items name. -/
theorem regionu_slots (x : Ctx) {sp : Sp} {items : List SlotItem} (hf : wf (.regionu sp items) = true) :
    items.foldl (fun v it => v.set it.w ⟨true, x.getS it.s.toNat⟩) x.slots =
      Vector.ofFn fun w : Fin 8 => match items.find? fun it => it.w == w with
        | some it => ⟨true, x.getS it.s.toNat⟩
        | none => x.slots[w] := by
  obtain ⟨-, hext⟩ := Bool.and_eq_true_iff.mp hf
  obtain ⟨-, hok⟩ := Bool.and_eq_true_iff.mp hext
  refine Vector.ext fun w hw => ?_
  rw [Vector.getElem_ofFn]
  exact foldl_set_slots (nodup_of_noDup hok) x.slots ⟨w, hw⟩

theorem regionu_moves {s : State} {g : Group} {sp : Sp} {items : List SlotItem}
    (hR : Ready (.regionu sp items) { sregs := sregBits (items.map fun it => it.s.toNat) } s g) :
    Moves (.regionu sp items) s g (nextPc (.regionu sp items) (found g)) { found g with
      slots := Vector.ofFn fun w : Fin 8 => match items.find? fun it => it.w == w with
        | some it => ⟨true, (found g).getS it.s.toNat⟩
        | none => (found g).slots[w] } := by
  have hx : exec (.regionu sp items) s = execRegionu sp items s := rfl
  have hu : sregBits (items.map fun it => it.s.toNat) = items.foldl (fun m it => m ||| (1#64 <<< it.s.toNat)) 0 := List.foldl_map
  rw [hu] at hR
  refine moves_done hx hR rfl rfl ?_
  rw [begun_ctx g rfl, regionu_slots (found g) hR.formed]

theorem ixset_moves {s : State} {g : Group} {sp : Sp} {ix : Fin 4} {base len : BitVec 8} (hR : Ready (.ixset sp ix base len) {} s g)
    (hw : base.toNat + len.toNat ≤ g.regs) :
    Moves (.ixset sp ix base len) s g (nextPc (.ixset sp ix base len) (found g)) { found g with ix := (found g).ix.set ix ⟨base, len⟩ } := by
  have hx : exec (.ixset sp ix base len) s = execIxset sp ix base len s := rfl
  dsimp only [execIxset] at hx
  exact moves_done hx hR rfl rfl (if_neg (Nat.not_lt.mpr hw))

theorem ixset_traps {s : State} {g : Group} {sp : Sp} {ix : Fin 4} {base len : BitVec 8} (hR : Ready (.ixset sp ix base len) {} s g)
    (hC : CanTrap s g) (hw : g.regs < base.toNat + len.toNat) :
    Traps (.ixset sp ix base len) s g (found g) .illegalOperand 0 (found g).pc (nextPc (.ixset sp ix base len) (found g)) := by
  have hx : exec (.ixset sp ix base len) s = execIxset sp ix base len s := rfl
  dsimp only [execIxset] at hx
  exact traps_here (t := trapOf (.ixset sp ix base len) (begun g {}) .illegalOperand) .illegalOperand
    hx hR hC rfl rfl (by decide) rfl rfl rfl rfl (if_pos hw)

/-- Settles O17: REGION's map and main registers come from its two phases; an item or window beyond the registers traps before either. -/
theorem regions : Obligations.Regions :=
  ⟨fun _ _ _ _ => region_completes, fun _ _ _ _ => regionu_moves, fun _ _ _ _ _ _ => ixset_moves, fun _ _ _ _ => region_traps,
    fun _ _ _ _ _ _ => ixset_traps⟩

end Sys2Proof.Proofs

/-! PROOFS. YIELD and CARVE: a group that gives its slot up, a team that resizes its scratchpad (R25, R148, R222, R225, R227). -/

namespace Sys2Proof.Proofs
open Machine Spec Laws

/-! ## YIELD (R148, R225) -/

/-- What giving the operand-buffer slot up leaves, where no freeing waits. -/
theorem surrender_gaveUp (x : Ctx) : GaveUp x x.surrender where
  back := writtenBack_of_main rfl
  entries := fun e he => by
    unfold Ctx.surrender Ctx.entry
    simp only [Fin.getElem_fin, Vector.getElem_map, beq_iff_eq]
    split <;> rfl
  latches := fun k _ => by simp [Ctx.surrender]
  frame := rfl

theorem yield_parks {s : State} {g : Group} {sp : Sp} {nb : BitVec 4} {off : BitVec 18} (hR : Ready (.yield sp nb off) { post := true } s g) :
    ∃ h, exec (.yield sp nb off) s = .next (s.setGroup s.cur h) ∧
      h = { g with ctx := h.ctx, hasSlot := false, status := .yielded nb.toNat (Spec.target (found g) off.toInt) } ∧ GaveUp (found g) h.ctx := by
  have hx : exec (.yield sp nb off) s = execYield sp nb off s := rfl
  refine ⟨{ g with ctx := (found g).surrender, hasSlot := false, status := .yielded nb.toNat (Spec.target (found g) off.toInt) }, ?_, rfl,
    surrender_gaveUp (found g)⟩
  rw [hx, execYield, runInstr_ready hR]
  dsimp only [finish]
  rw [setGroup_setGroup, begun_ctx g rfl, applyFrees_none (found_pendFree g), branchTarget_eq, begun]

/-! ## What a barrier's arrival and a shrinking L1 leave (R25, R222) -/

theorem arrive_eq (b : Barrier) : b.arrive = arrived b := by
  unfold Barrier.arrive arrived Barrier.flip
  by_cases h : b.arrival + 1 = b.expected
  · rw [if_pos (by simpa using h), if_pos h]
  · rw [if_neg (by simpa using h), if_neg h]

/-- A change of a team is one of the team that stands there. -/
theorem modTeam_congr {s : State} {k : Nat} {tm : Team} {f f' : Team → Team} (ht : s.teams[k]? = some tm) (hf : f tm = f' tm) :
    s.modTeam k f = s.modTeam k f' := by
  have h : s.teams.modify k f = s.teams.modify k f' := by
    refine List.ext_getElem? fun n => ?_
    rw [List.getElem?_modify, List.getElem?_modify]
    by_cases hn : k = n
    · subst hn
      simp [ht, hf]
    · simp [hn]
  rw [State.modTeam, State.modTeam, h]

/-- A barrier of the group's own is all that its arrival changes in its record. -/
theorem ownBarrier_frame (g : Group) (nb : Nat) (b : Barrier) : ∃ bs, ownBarrier g nb b = { g with ownBars := bs } := by
  unfold ownBarrier
  split <;> exact ⟨_, rfl⟩

/-- An arrival at the barrier a group names. -/
theorem modBarrier_arrive {s : State} {g : Group} {u : Uses} {nb : Nat} {b : Barrier} (hg : s.groups[s.cur]? = some g)
    (hb : BarrierIs s g nb b) :
    (s.setGroup s.cur (begun g u)).modBarrier s.cur nb Barrier.arrive =
      (withBarrier s g nb (arrived b)).setGroup s.cur { ownBarrier g nb (arrived b) with ctx := (begun g u).ctx } := by
  unfold State.modBarrier withBarrier ownBarrier
  rw [group_setGroup s s.cur g _ hg]
  dsimp only
  by_cases hk : g.kind = .grid ∨ g.kind = .sample
  · have ho : (begun g u).ownBarriers = true := by simpa [Group.ownBarriers, begun] using hk
    have hown : (begun g u).ownBars[Fin.ofNat 16 nb] = b := hb.own hk
    rw [if_pos ho, if_pos hk, if_pos hk, setGroup_setGroup, hown, arrive_eq]
    rfl
  · have ho : ¬ (begun g u).ownBarriers = true := by simpa [Group.ownBarriers, begun] using hk
    obtain ⟨tm, ht, hbar⟩ := hb.team hk
    rw [if_neg ho, if_neg hk, if_neg hk]
    exact congrArg (State.setGroup · s.cur (begun g u)) (modTeam_congr ht (by rw [hbar, arrive_eq]))

theorem stopAt_modTeam (i : Instr) (s : State) (g : Group) (k : Nat) {f : Team → Team} (hf : ∀ t, (f t).preempt = t.preempt) :
    stopAt i (s.modTeam k f) g = stopAt i s g := by
  unfold stopAt
  rw [State_modTeam_teams, List.getElem?_modify]
  cases spOf i with
  | none => rfl
  | some m =>
    by_cases hk : k = g.team
    · cases ht : s.teams[g.team]? with
      | none => simp [hk]
      | some t => simp [hk, hf]
    · simp [hk]

theorem stopAt_withBarrier (i : Instr) (s : State) (g h : Group) (nb : Nat) (b : Barrier) : stopAt i (withBarrier s g nb b) h = stopAt i s h := by
  unfold withBarrier
  split
  · rfl
  · exact stopAt_modTeam i s h _ fun _ => rfl

/-- Dropping a line leaves all but memory, its keys and the cores. -/
theorem evict_frame (s : State) (c k : Nat) : ∃ m ks cs, s.evict c k = { s with mem := m, keyed := ks, cores := cs } := by
  unfold State.evict State.lineBack
  split
  · exact ⟨_, _, _, rfl⟩
  · split <;> exact ⟨_, _, _, rfl⟩

theorem shrinkL1_teams (s : State) (c : Nat) : (s.shrinkL1 c).teams = s.teams := by
  refine List.foldlRecOn (motive := fun t : State => t.teams = s.teams) (List.range _) _ rfl fun t ht _ _ => ?_
  obtain ⟨m, ks, cs, he⟩ := evict_frame t c ((t.core c).l1.length - 1)
  rw [he]
  exact ht

/-- Whose key a line is under depends on no group's record. -/
theorem claimLine_setGroup (s : State) (a : Nat) (h : Group) (job line : Nat) :
    (s.setGroup a h).claimLine job line = (s.claimLine job line).setGroup a h := by
  unfold State.claimLine
  have hc : (!(s.setGroup a h).jobSecure job || (s.setGroup a h).keyed.contains (line, job)) =
    (!s.jobSecure job || s.keyed.contains (line, job)) := rfl
  rw [hc]
  split <;> rfl

theorem foldl_claimLine_setGroup (a : Nat) (h : Group) (job line : Nat) (l : List Nat) (s : State) :
    l.foldl (fun s k => s.claimLine job (line + k)) (s.setGroup a h) = (l.foldl (fun s k => s.claimLine job (line + k)) s).setGroup a h := by
  induction l generalizing s with
  | nil => rfl
  | cons k l ih => rw [List.foldl_cons, List.foldl_cons, claimLine_setGroup, ih]

theorem claim_setGroup (s : State) (a : Nat) (h : Group) (job pa n : Nat) :
    (s.setGroup a h).claim job pa n = (s.claim job pa n).setGroup a h := by
  unfold State.claim
  have hc : ((s.setGroup a h).jobSecure job && Machine.target (s.setGroup a h).gddrTop pa == .gddr) =
    (s.jobSecure job && Machine.target s.gddrTop pa == .gddr) := rfl
  rw [hc]
  split
  · exact foldl_claimLine_setGroup a h job (pa / 128) _ s
  · rfl

/-- A group's record may change without its job. -/
theorem jobOf_setGroup {s : State} {a : Nat} {g h : Group} (hg : s.groups[a]? = some g) (hj : h.job = g.job) (k : Nat) :
    (s.setGroup a h).jobOf k = s.jobOf k := by
  unfold State.jobOf
  by_cases hk : a = k
  · subst hk
    rw [group_setGroup s a g h hg, hg]
    exact hj
  · rw [group_setGroup_ne s a k h hk]
    rfl

theorem evict_setGroup {s : State} {a : Nat} {g h : Group} (hg : s.groups[a]? = some g) (hj : h.job = g.job) (c k : Nat) :
    (s.setGroup a h).evict c k = (s.evict c k).setGroup a h := by
  unfold State.evict
  rw [core_setGroup]
  cases (s.core c).l1[k]? with
  | none => rfl
  | some l =>
    dsimp only
    have hl : (s.setGroup a h).lineBack l = (s.lineBack l).setGroup a h := by
      unfold State.lineBack
      rw [jobOf_setGroup hg hj, claim_setGroup]
      split <;> rfl
    rw [hl]
    rfl

theorem evict_groups (s : State) (c k : Nat) : (s.evict c k).groups = s.groups := by
  obtain ⟨m, ks, cs, he⟩ := evict_frame s c k
  rw [he]

theorem shrinkL1_setGroup {s : State} {a : Nat} {g h : Group} (hg : s.groups[a]? = some g) (hj : h.job = g.job) (c : Nat) :
    (s.setGroup a h).shrinkL1 c = (s.shrinkL1 c).setGroup a h := by
  unfold State.shrinkL1
  have hn : (s.setGroup a h).l1Len c = s.l1Len c := rfl
  rw [core_setGroup, hn]
  dsimp only
  generalize List.range ((s.core c).l1.length - 512 * s.l1Len c) = l
  induction l generalizing s with
  | nil => rfl
  | cons k l ih =>
    rw [List.foldl_cons, List.foldl_cons, core_setGroup, evict_setGroup hg hj]
    exact ih (by rw [evict_groups]; exact hg) rfl

/-! ## CARVE (R227) -/

/-- The size that CARVE asks for, in a register of its group (R227). -/
def carveSize (g : Group) (k : BitVec 6) : Nat := ((found g).getS k.toNat).toNat

/-- What CARVE waits for. -/
abbrev carveUses (k : BitVec 6) : Uses := { sregs := 1#64 <<< k.toNat }

/-- The state in which CARVE does its work. -/
abbrev carving (s : State) (g : Group) (k : BitVec 6) : State := s.setGroup s.cur (begun g (carveUses k))

/-- The resize that CARVE records: the barrier, the size and the run's first granule (R227). -/
def resizing (nb : BitVec 4) (g : Group) (k : BitVec 6) (b : Nat) (t : Team) : Team := { t with carve := some (nb.toNat, carveSize g k, b) }

/-- The same for fewer granules, with its place in the order of free choices (R227). -/
def shrinking (nb : BitVec 4) (g : Group) (k : BitVec 6) (b place : Nat) (t : Team) : Team :=
  { resizing nb g k b t with carveAt := place }

section
variable {s : State} {g : Group} {sp : Sp} {nb : BitVec 4} {k : BitVec 6} {tm : Team}

/-- CARVE of a team that may resize: three cases of its size. -/
theorem carve_cases (sp : Sp) (nb : BitVec 4) (ht : s.teams[g.team]? = some tm) (hn : carveSize g k ≤ 32) (htwin : tm.twin = none)
    (hq : tm.taskQ = 0) (hc : tm.carve = none) :
    ∃ body, exec (.carve sp nb k) s = runInstr (.carve sp nb k) (carveUses k) s body ∧ body (carving s g k) s.cur (begun g (carveUses k)) =
      if carveSize g k = tm.scrLen then .done ((carving s g k).modBarrier s.cur nb.toNat Barrier.arrive)
      else if carveSize g k < tm.scrLen then
        .done (({ s with free := s.free + 1 }.modTeam g.team fun t => shrinking nb g k t.scrBase s.free t).setGroup s.cur (begun g (carveUses k)))
      else match s.carveRun tm (carveSize g k) with
        | none => .trap (trapOf (.carve sp nb k) (begun g (carveUses k)) .carveDenied)
        | some b => .done (((s.modTeam g.team (resizing nb g k b)).setGroup s.cur (begun g (carveUses k))).shrinkL1 tm.core) := by
  have hx : exec (.carve sp nb k) s = execCarve sp nb k s := rfl
  dsimp only [execCarve] at hx
  refine ⟨_, hx, ?_⟩
  have hsize : ((begun g (carveUses k)).ctx.getS k.toNat).toNat = carveSize g k := rfl
  have hteam : (carving s g k).teams[(begun g (carveUses k)).team]? = some tm := ht
  have hrun : (carving s g k).carveRun tm (carveSize g k) = s.carveRun tm (carveSize g k) := rfl
  rw [hsize, hteam, if_neg (Nat.not_lt.mpr hn)]
  simp only [htwin, hq, hc, hrun, Option.isSome_none, bne_self_eq_false, Bool.or_self, Bool.false_eq_true, ↓reduceIte, beq_iff_eq]
  rfl

theorem carve_same (hR : Ready (.carve sp nb k) (carveUses k) s g) (ht : s.teams[g.team]? = some tm) (hn : carveSize g k ≤ 32)
    (htwin : tm.twin = none) (hq : tm.taskQ = 0) (hc : tm.carve = none) {b : Barrier} (hb : BarrierIs s g nb.toNat b)
    (hs : carveSize g k = tm.scrLen) :
    Does (.carve sp nb k) s (ownBarrier g nb.toNat (arrived b)) (nextPc (.carve sp nb k) (found g)) (withBarrier s g nb.toNat (arrived b)) 0
      (found g) := by
  obtain ⟨body, hx, hbody⟩ := carve_cases sp nb ht hn htwin hq hc
  rw [if_pos hs, modBarrier_arrive hR.here hb] at hbody
  obtain ⟨bs, ho⟩ := ownBarrier_frame g nb.toNat (arrived b)
  rw [ho] at hbody ⊢
  refine does_of hx hR rfl ?_ (stopAt_withBarrier _ s g _ _ _) hR.running hR.once hR.plain
  rw [hbody, begun_ctx g rfl]
  rfl

theorem carve_less (hR : Ready (.carve sp nb k) (carveUses k) s g) (ht : s.teams[g.team]? = some tm) (hn : carveSize g k ≤ 32)
    (htwin : tm.twin = none) (hq : tm.taskQ = 0) (hc : tm.carve = none) (hs : carveSize g k < tm.scrLen) :
    Does (.carve sp nb k) s g (nextPc (.carve sp nb k) (found g))
      ({ s with free := s.free + 1 }.modTeam g.team (shrinking nb g k tm.scrBase s.free)) 0 (found g) := by
  obtain ⟨body, hx, hbody⟩ := carve_cases sp nb ht hn htwin hq hc
  rw [if_neg (Nat.ne_of_lt hs), if_pos hs] at hbody
  have hf : { s with free := s.free + 1 }.modTeam g.team (fun t => shrinking nb g k t.scrBase s.free t) =
      { s with free := s.free + 1 }.modTeam g.team (shrinking nb g k tm.scrBase s.free) := modTeam_congr ht rfl
  refine does_of hx hR rfl ?_ (stopAt_modTeam _ { s with free := s.free + 1 } g _ fun _ => rfl) hR.running hR.once hR.plain
  rw [hbody, hf]
  rfl

theorem carve_more (hR : Ready (.carve sp nb k) (carveUses k) s g) (ht : s.teams[g.team]? = some tm) (hn : carveSize g k ≤ 32)
    (htwin : tm.twin = none) (hq : tm.taskQ = 0) (hc : tm.carve = none) (hs : tm.scrLen < carveSize g k) {b : Nat}
    (hr : s.carveRun tm (carveSize g k) = some b) :
    Does (.carve sp nb k) s g (nextPc (.carve sp nb k) (found g)) ((s.modTeam g.team (resizing nb g k b)).shrinkL1 tm.core) 0 (found g) := by
  obtain ⟨body, hx, hbody⟩ := carve_cases sp nb ht hn htwin hq hc
  rw [if_neg (Nat.ne_of_gt hs), if_neg (Nat.lt_asymm hs), hr] at hbody
  dsimp only at hbody
  rw [shrinkL1_setGroup (s := s.modTeam g.team (resizing nb g k b)) (g := g) (h := begun g (carveUses k)) hR.here rfl] at hbody
  refine does_of hx hR rfl ?_ ?_ hR.running hR.once hR.plain
  · rw [hbody]
    rfl
  · have hst : stopAt (.carve sp nb k) (s.modTeam g.team (resizing nb g k b)) g = stopAt (.carve sp nb k) s g :=
      stopAt_modTeam _ s g _ fun _ => rfl
    rw [← hst, stopAt, stopAt, shrinkL1_teams]

theorem carve_unmet (hR : Ready (.carve sp nb k) (carveUses k) s g) (hC : CanTrap s g) (ht : s.teams[g.team]? = some tm)
    (hn : carveSize g k ≤ 32) (htwin : tm.twin = none) (hq : tm.taskQ = 0) (hc : tm.carve = none) (hs : tm.scrLen < carveSize g k)
    (hr : s.carveRun tm (carveSize g k) = none) :
    Traps (.carve sp nb k) s g (found g) .carveDenied 0 (found g).pc (nextPc (.carve sp nb k) (found g)) := by
  obtain ⟨body, hx, hbody⟩ := carve_cases sp nb ht hn htwin hq hc
  rw [if_neg (Nat.ne_of_gt hs), if_neg (Nat.lt_asymm hs), hr] at hbody
  exact traps_here (t := trapOf (.carve sp nb k) (begun g (carveUses k)) .carveDenied) .carveDenied hx hR hC rfl rfl (by decide)
    rfl rfl rfl rfl hbody

theorem carve_tooLarge (hR : Ready (.carve sp nb k) (carveUses k) s g) (hC : CanTrap s g) (hn : 32 < carveSize g k) :
    Traps (.carve sp nb k) s g (found g) .illegalOperand 0 (found g).pc (nextPc (.carve sp nb k) (found g)) := by
  have hx : exec (.carve sp nb k) s = execCarve sp nb k s := rfl
  dsimp only [execCarve] at hx
  exact traps_here (t := trapOf (.carve sp nb k) (begun g (carveUses k)) .illegalOperand) .illegalOperand hx hR hC rfl rfl (by decide)
    rfl rfl rfl rfl (if_pos hn)

theorem carve_denied (hR : Ready (.carve sp nb k) (carveUses k) s g) (hC : CanTrap s g) (ht : s.teams[g.team]? = some tm)
    (hn : carveSize g k ≤ 32) (hd : tm.twin ≠ none ∨ tm.taskQ ≠ 0 ∨ tm.carve ≠ none) :
    Traps (.carve sp nb k) s g (found g) .carveDenied 0 (found g).pc (nextPc (.carve sp nb k) (found g)) := by
  have hx : exec (.carve sp nb k) s = execCarve sp nb k s := rfl
  dsimp only [execCarve] at hx
  have hsize : ((begun g (carveUses k)).ctx.getS k.toNat).toNat = carveSize g k := rfl
  have hteam : (carving s g k).teams[(begun g (carveUses k)).team]? = some tm := ht
  have hdeny : (tm.twin.isSome || tm.taskQ != 0 || tm.carve.isSome) = true := by
    simpa [Option.isSome_iff_ne_none, or_assoc] using hd
  refine traps_here (t := trapOf (.carve sp nb k) (begun g (carveUses k)) .carveDenied) .carveDenied hx hR hC rfl rfl (by decide)
    rfl rfl rfl rfl ?_
  rw [hsize, hteam, if_neg (Nat.not_lt.mpr hn)]
  exact if_pos hdeny

end

/-- Settles O19: YIELD surrenders and parks; CARVE goes on or traps as the case of its size and its team says. -/
theorem yieldAndCarve : Obligations.YieldAndCarve :=
  ⟨fun _ _ _ _ _ => yield_parks,
    fun _ _ _ _ _ _ hR ht htwin hq hc =>
      ⟨fun _ hb hs hn => carve_same hR ht hn htwin hq hc hb hs, fun hs hn => carve_less hR ht hn htwin hq hc hs,
        fun _ hs hn hr => carve_more hR ht hn htwin hq hc hs hr, fun hC hn => carve_tooLarge hR hC hn,
        fun hC hs hn hr => carve_unmet hR hC ht hn htwin hq hc hs hr⟩,
    fun _ _ _ _ _ _ hR ht hC hd hn => carve_denied hR hC ht hn hd⟩

end Sys2Proof.Proofs

/-! PROOFS. MOVX and STX: a window of main registers that an index register names (R150, R207). -/

namespace Sys2Proof.Proofs
open Machine Spec Laws

/-! ## Masks of threads -/

theorem testBit_natOfBits (f : Nat → Bool) (n k : Nat) : (natOfBits f n).testBit k = (decide (k < n) && f k) ∧ natOfBits f n < 2 ^ n := by
  induction n with
  | zero => exact ⟨by simp [natOfBits], by simp [natOfBits]⟩
  | succ n ih =>
    obtain ⟨hbit, hlt⟩ := ih
    unfold natOfBits
    cases hf : f n with
    | false =>
      refine ⟨?_, by simp only [Bool.false_eq_true, ↓reduceIte]; omega⟩
      simp only [Bool.false_eq_true, ↓reduceIte, Nat.add_zero, hbit]
      by_cases hk : k = n
      · subst hk; simp [hf]
      · simp [show (k < n + 1) = (k < n) from propext (by omega)]
    | true =>
      refine ⟨?_, by simp only [↓reduceIte]; omega⟩
      simp only [↓reduceIte, Nat.add_comm (natOfBits f n)]
      by_cases hk : k = n
      · subst hk
        simp [Nat.testBit_two_pow_add_eq, hbit, hf]
      · rcases Nat.lt_or_gt_of_ne hk with h | h
        · rw [Nat.testBit_two_pow_add_gt h, hbit]
          simp [h, Nat.lt_succ_of_lt h]
        · have hz : (2 ^ n + natOfBits f n).testBit k = false :=
            Nat.testBit_lt_two_pow (Nat.lt_of_lt_of_le (by omega) (Nat.pow_le_pow_right (by decide) (Nat.succ_le_of_lt h)))
          rw [hz]
          simp [show ¬ k < n + 1 by omega]

theorem getLsbD_maskFn (f : Nat → Bool) {k : Nat} (hk : k < 256) : (maskFn f).getLsbD k = f k := by
  rw [maskFn, BitVec.getLsbD_ofNat, (testBit_natOfBits f 256 k).1]
  simp [hk]

theorem getLsbD_maskOf (l : List Nat) {k : Nat} (hk : k < 256) : (maskOf l).getLsbD k = l.contains k := getLsbD_maskFn _ hk

/-! ## What MOVX and STX read (R141, R150, R207) -/

/-- A 32-bit operand, as the 64 bits that are read. -/
theorem read_eq_opnd (c : Consts) (x : Ctx) (f : SrcField) (t : Nat) : x.read c false f t = (opnd c x f t).setWidth 64 := by
  obtain ⟨v, hv⟩ := read_narrow x c f t
  rw [opnd, hv, setWidth_word]

theorem read_toNat (x : Ctx) (f : SrcField) (t : Nat) : (x.read .int false f t).toNat = (opnd .int x f t).toNat := by
  rw [read_eq_opnd, BitVec.toNat_setWidth]
  exact Nat.mod_eq_of_lt (Nat.lt_of_lt_of_le (BitVec.isLt _) (by decide))

theorem index_eq (c : Ctx) (x : V2) (t : Nat) : (c.read .int false x.a t).toNat = index c x t := read_toNat c x.a t

theorem readMain_at (x : Ctx) (v t : Nat) : (x.readMain v).at t = mainAt x v t := by
  unfold Ctx.readMain mainAt
  cases x.entryOf v with
  | none => rfl
  | some e => exact at_old (x.entry e) t

/-! ## An index beyond the window (R207, R451) -/

theorem mem_lanes {c : Ctx} {t : Nat} : t ∈ c.lanes ↔ t < 256 ∧ c.active.getLsbD t = true := by
  simp [Ctx.lanes]

theorem mem_ixFaults {c : Ctx} {x : V2} {p : Nat × Cause × DWord} :
    p ∈ ixFaults c x ↔ p.1 ∈ c.lanes ∧ (window c x).len.toNat ≤ index c x p.1 ∧ p.2 = (.ixBounds, c.read .int false x.a p.1) := by
  have hw : c.ixOf x = window c x := rfl
  simp only [ixFaults, List.mem_filterMap, index_eq, hw]
  constructor
  · rintro ⟨t, ht, hp⟩
    split at hp
    · next hle =>
      obtain rfl := Option.some.inj hp
      exact ⟨ht, hle, rfl⟩
    · cases hp
  · rintro ⟨ht, hle, hp⟩
    exact ⟨p.1, ht, by rw [if_pos hle, ← hp]⟩

theorem ixFaults_nil {c : Ctx} {x : V2} (h : ∀ t < 256, c.active.getLsbD t = true → index c x t < (window c x).len.toNat) :
    ixFaults c x = [] := by
  refine List.eq_nil_iff_forall_not_mem.mpr fun p hp => ?_
  obtain ⟨ht, hle, _⟩ := mem_ixFaults.mp hp
  obtain ⟨h256, hact⟩ := mem_lanes.mp ht
  exact Nat.not_lt.mpr hle (h p.1 h256 hact)

/-- Where every lane met IX_BOUNDS, so did the first. -/
theorem firstLaneCause_ix {p : Nat × Cause × DWord} {l : List (Nat × Cause × DWord)} (h : ∀ q ∈ p :: l, q.2.1 = .ixBounds) :
    firstLaneCause (p :: l) = some (.ixBounds, p.2.2, maskOf ((p :: l).map fun q => q.1)) := by
  have hsel : ∀ r, (p :: l).filter (fun q => laneRank q.2.1 == r) = if r = 2 then p :: l else [] := fun r => by
    by_cases hr : r = 2
    · rw [if_pos hr, List.filter_eq_self]
      intro q hq
      rw [h q hq, hr]
      rfl
    · rw [if_neg hr, List.filter_eq_nil_iff]
      intro q hq
      rw [h q hq, beq_iff_eq]
      exact fun h2 => hr h2.symm
  unfold firstLaneCause
  simp only [hsel]
  show some (p.2.1, p.2.2, maskOf ((p :: l).map fun q => q.1)) = _
  rw [h p List.mem_cons_self]

/-- With an active index beyond the window the cause is IX_BOUNDS, of exactly the threads with such an index. -/
theorem firstLaneCause_ixFaults {c : Ctx} {x : V2} (h : ∃ t < 256, c.active.getLsbD t = true ∧ (window c x).len.toNat ≤ index c x t) :
    ∃ a m, firstLaneCause (ixFaults c x) = some (.ixBounds, a, m) ∧
      ∀ k < 256, m.getLsbD k = (c.active.getLsbD k && decide ((window c x).len.toNat ≤ index c x k)) := by
  obtain ⟨t, ht, hact, hle⟩ := h
  have hmem : (t, .ixBounds, c.read .int false x.a t) ∈ ixFaults c x := mem_ixFaults.mpr ⟨mem_lanes.mpr ⟨ht, hact⟩, hle, rfl⟩
  cases hl : ixFaults c x with
  | nil => rw [hl] at hmem; cases hmem
  | cons p l =>
    refine ⟨_, _, firstLaneCause_ix fun q hq => ?_, fun k hk => ?_⟩
    · obtain ⟨_, _, hq2⟩ := mem_ixFaults.mp (hl ▸ hq)
      rw [hq2]
    · rw [getLsbD_maskOf _ hk, ← hl, Bool.eq_iff_iff, List.contains_iff_mem, Bool.and_eq_true, decide_eq_true_eq, List.mem_map]
      constructor
      · rintro ⟨q, hq, rfl⟩
        obtain ⟨hlane, hqle, _⟩ := mem_ixFaults.mp hq
        exact ⟨(mem_lanes.mp hlane).2, hqle⟩
      · rintro ⟨hkact, hkle⟩
        exact ⟨(k, .ixBounds, c.read .int false x.a k), mem_ixFaults.mpr ⟨mem_lanes.mpr ⟨hk, hkact⟩, hkle, rfl⟩, rfl⟩

/-! ## MOVX (R150, R207) -/

/-- MOVX's second source is no latch: its field is 0. -/
theorem srcLatches_movx {x : V2} (hf : wf (.movx x) = true) : srcLatches (stxSrcs x) = srcLatches [⟨x.a, false⟩] := by
  obtain ⟨hword, -⟩ := Bool.and_eq_true_iff.mp hf
  simp only [wfWord, V2.one, Bool.and_eq_true, beq_iff_eq] at hword
  obtain ⟨⟨⟨-, hb⟩, -⟩, -⟩ := hword
  have hnone : (⟨x.b, false⟩ : Src).latch = none := by rw [hb]; rfl
  rw [stxSrcs, srcLatches, srcLatches, List.filterMap_cons, List.filterMap_cons, List.filterMap_cons, hnone]

/-- The thread instruction that MOVX is. -/
abbrev movxOp (x : V2) : VecOp := ⟨[⟨x.a, false⟩], x.d.toNat, x.w, false, .x⟩

theorem movxUses_eq (x : V2) (s : State) : ∃ e r m, movxUses x s = { (movxOp x).uses with ents := e, sregs := r, main := m } := by
  obtain ⟨e, r, h⟩ := usesAt_eq (movxOp x) (.movx x) s
  exact ⟨e, r, s.namedMain x, by rw [movxUses, h]⟩

/-- What MOVX gives a thread of a context (R207). -/
def movxResult (x : V2) (c : Ctx) (t : Nat) : LaneRes := word (mainAt c ((window c x).base.toNat + index c x t) t)

theorem movx_result (x : V2) (c : Ctx) :
    (fun t => res32 ((c.readMain ((c.ixOf x).base.toNat + (c.read .int false x.a t).toNat)).at t)) = movxResult x c := by
  funext t
  rw [readMain_at, index_eq]
  rfl

/-- MOVX and STX with every index inside the window do their own work. -/
theorem indexed_inside {i : Instr} {x : V2} {body : State → Nat → Group → Eff} {s : State} {gi : Nat} {g : Group}
    (hl : g.ctx.latchesOk (stxSrcs x) = true)
    (hin : ∀ t < 256, g.ctx.active.getLsbD t = true → index g.ctx x t < (window g.ctx x).len.toNat) :
    indexed i x body s gi g = body s gi g := by
  have hlat : g.ctx.latchesOk [⟨x.a, false⟩, ⟨x.b, false⟩] = true := hl
  rw [indexed, hlat, ixFaults_nil hin]
  rfl

/-- With an index beyond it they trap. -/
theorem indexed_beyond {i : Instr} {x : V2} {body : State → Nat → Group → Eff} {s : State} {gi : Nat} {g : Group} {a : DWord} {m : LaneMask}
    (hl : g.ctx.latchesOk (stxSrcs x) = true) (hc : firstLaneCause (ixFaults g.ctx x) = some (.ixBounds, a, m)) :
    indexed i x body s gi g = .trap (trapAt i g .ixBounds a m false) := by
  have hlat : g.ctx.latchesOk [⟨x.a, false⟩, ⟨x.b, false⟩] = true := hl
  rw [indexed, hlat, hc]
  rfl

/-- MOVX's own work (R207). -/
theorem movx_work {s : State} {g : Group} {x : V2} {u : Uses} (hm : (g.ctx.begin u).mappedAll (movxOp x).dest = true)
    (hl : (g.ctx.begin u).latchesOk [⟨x.a, false⟩] = true) (hp : g.rebuild = none) (gi : Nat) :
    vecBody (.movx x) (movxOp x) (fun c t => res32 ((c.readMain ((c.ixOf x).base.toNat + (c.read .int false x.a t).toNat)).at t))
        (s.setGroup gi (begun g u)) gi (begun g u) =
      .done (s.setGroup gi { g with ctx := (g.ctx.begin u).vecEnd (movxOp x) (movxResult x (g.ctx.begin u)) }) := by
  have hctx : (begun g u).ctx = g.ctx.begin u := rfl
  have hreb : (begun g u).rebuild = none := hp
  unfold vecBody
  simp only [hctx, hreb, hm, hl, movx_result, Bool.not_true, Bool.false_eq_true, ↓reduceIte]
  exact congrArg Eff.done (setCtx_setGroup s gi (begun g u) _)

theorem movx_completes {s : State} {g : Group} {x : V2} (hR : Ready (.movx x) (movxUses x s) s g)
    (hl : g.ctx.latchesOk [⟨x.a, false⟩] = true) (hm : g.ctx.mappedAll (movxOp x).dest = true)
    (hin : ∀ t < 256, (g.ctx.begin (movxUses x s)).active.getLsbD t = true →
      index (g.ctx.begin (movxUses x s)) x t < (window (g.ctx.begin (movxUses x s)) x).len.toNat) :
    ∃ h, exec (.movx x) s = .next (s.setGroup s.cur h) ∧ Passed (.movx x) s g h ∧
      VecNext (.movx x) (movxOp x) (g.ctx.begin (movxUses x s)) (movxResult x (g.ctx.begin (movxUses x s))) h.ctx := by
  have hx : exec (.movx x) s = execMovx x s := rfl
  dsimp only [execMovx] at hx
  obtain ⟨e, r, m, hu⟩ := movxUses_eq x s
  have hvec : (movxUses x s).vec = true := by rw [hu]; rfl
  have hmap : (g.ctx.begin (movxUses x s)).mappedAll (movxOp x).dest = true := by rw [mappedAll_begin]; exact hm
  have hlat : (g.ctx.begin (movxUses x s)).latchesOk [⟨x.a, false⟩] = true := by rw [latchesOk_begin]; exact hl
  have hboth : (begun g (movxUses x s)).ctx.latchesOk (stxSrcs x) = true := by
    rw [Ctx.latchesOk, srcLatches_movx hR.formed]
    exact hlat
  let g' : Group := { g with ctx := (g.ctx.begin (movxUses x s)).vecEnd (movxOp x) (movxResult x (g.ctx.begin (movxUses x s))) }
  have hrun := runInstr_ready hR fun s gi g =>
    if !g.ctx.mappedAll (movxOp x).dest then .trap (trapOf (.movx x) g .illegalOperand)
    else indexed (.movx x) x (vecBody (.movx x) (movxOp x) fun c t =>
      res32 ((c.readMain ((c.ixOf x).base.toNat + (c.read .int false x.a t).toNat)).at t)) s gi g
  rw [show (begun g (movxUses x s)).ctx.mappedAll (movxOp x).dest = true from hmap, Bool.not_true, if_neg Bool.false_ne_true,
    indexed_inside hboth hin, movx_work hmap hlat hR.plain] at hrun
  have hfin : exec (.movx x) s =
      .next (s.setGroup s.cur (stepped (.movx x) (movxOp x).uses s g' (nextPc (.movx x) (g.ctx.begin (movxUses x s))))) := by
    refine hx.trans (hrun.trans ?_)
    show Host.Outcome.next (complete _ _ (s.setGroup s.cur g') _ (nextPc (.movx x) (g.ctx.begin (movxUses x s)))) = _
    rw [complete_setGroup _ _ s s.cur g' _ hR.running hR.once hR.plain, stepped, stepped, hvec]
    rfl
  exact ⟨_, hfin, ⟨rfl, rfl, rfl⟩, vecNext_stepped (.movx x) (movxOp x) _ _ g' _ s rfl rfl (BitVec.isLt x.d) fun _ h => nomatch h⟩

theorem setGroup_same {s : State} {gi : Nat} {g : Group} (h : s.groups[gi]? = some g) : s.setGroup gi g = s := by
  obtain ⟨hlt, hget⟩ := List.getElem?_eq_some_iff.mp h
  rw [State.setGroup, ← hget, List.set_getElem_self]

/-- An index beyond the window of MOVX or STX traps, in a context in which no freeing waits. -/
theorem indexed_traps {i : Instr} {u : Uses} {s : State} {g : Group} {x : V2} {body work : State → Nat → Group → Eff}
    (hx : exec i s = runInstr i u s body) (hR : Ready i u s g) (hbegin : g.ctx.begin u = g.ctx) (hi : performsLanes i = false)
    (hu : u.latches = srcLatches (stxSrcs x)) (hl : g.ctx.latchesOk (stxSrcs x) = true)
    (hbody : body (s.setGroup s.cur (begun g u)) s.cur (begun g u) = indexed i x work (s.setGroup s.cur (begun g u)) s.cur (begun g u))
    (hout : ∃ t < 256, g.ctx.active.getLsbD t = true ∧ (window g.ctx x).len.toNat ≤ index g.ctx x t) :
    ∃ t : TrapInfo, exec i s = .next (takeTrap s s.cur t (nextPc i g.ctx) (srcLatches (stxSrcs x)) none) ∧ t.cause = .ixBounds ∧
      ∀ k < 256, t.lanes.getLsbD k = (g.ctx.active.getLsbD k && decide ((window g.ctx x).len.toNat ≤ index g.ctx x k)) := by
  obtain ⟨a, m, hcause, hmask⟩ := firstLaneCause_ixFaults hout
  have hg : begun g u = g := by rw [begun, hbegin]
  rw [hg, setGroup_same hR.here, indexed_beyond hl hcause] at hbody
  have he := exec_trap (t := trapAt i g .ixBounds a m false) hx hR rfl hi (by rw [hg, setGroup_same hR.here]; exact hbody)
  rw [hg, setGroup_same hR.here, hu] at he
  exact ⟨_, he, rfl, hmask⟩

theorem movx_traps {s : State} {g : Group} {x : V2} (hR : Ready (.movx x) (movxUses x s) s g)
    (hm : g.ctx.mappedAll (movxOp x).dest = true) (hbegin : g.ctx.begin (movxUses x s) = g.ctx) (hl : g.ctx.latchesOk (stxSrcs x) = true)
    (hout : ∃ t < 256, g.ctx.active.getLsbD t = true ∧ (window g.ctx x).len.toNat ≤ index g.ctx x t) :
    ∃ t : TrapInfo, exec (.movx x) s = .next (takeTrap s s.cur t (nextPc (.movx x) g.ctx) (srcLatches (stxSrcs x)) none) ∧
      t.cause = .ixBounds ∧
      ∀ k < 256, t.lanes.getLsbD k = (g.ctx.active.getLsbD k && decide ((window g.ctx x).len.toNat ≤ index g.ctx x k)) := by
  have hx : exec (.movx x) s = execMovx x s := rfl
  dsimp only [execMovx] at hx
  obtain ⟨e, r, m, hu⟩ := movxUses_eq x s
  have hlat : (movxUses x s).latches = srcLatches (stxSrcs x) := by rw [hu, srcLatches_movx hR.formed]; rfl
  have hmap : (begun g (movxUses x s)).ctx.mappedAll (movxOp x).dest = true := (mappedAll_begin _ _ _).trans hm
  exact indexed_traps (u := movxUses x s) hx hR hbegin rfl hlat hl (if_neg (by rw [hmap]; exact Bool.false_ne_true)) hout

/-! ## STX: main registers and the entries that map them (R150, R207) -/

/-- Which entry maps a register depends on the maps alone. -/
theorem entryOf_congr {x y : Ctx} (h : ∀ e < 16, (y.entry e).map = (x.entry e).map) (v : Nat) : y.entryOf v = x.entryOf v :=
  List.find?_congr fun e he => by rw [h e (List.mem_range.mp he)]

theorem entryOf_some {x : Ctx} {v e : Nat} (h : x.entryOf v = some e) : e < 16 ∧ (x.entry e).map = some (BitVec.ofNat 8 v) := by
  have hp := List.find?_some h
  have hm := List.mem_range.mp (List.mem_of_find?_eq_some h)
  simp only [Bool.and_eq_true, beq_iff_eq] at hp
  exact ⟨hm, hp.1⟩

theorem mainAt_congr {x y : Ctx} (he : ∀ e < 16, y.entry e = x.entry e) (hm : y.main = x.main) (v t : Nat) : mainAt y v t = mainAt x v t := by
  unfold mainAt
  rw [entryOf_congr (x := x) fun e h => by rw [he e h]]
  cases hv : x.entryOf v with
  | none => simp only [Ctx.mainReg, hm]
  | some e => simp only [he e (entryOf_some hv).1]

theorem at_merge (m : LaneMask) (old : Lanes) (f : Nat → Word) {t : Nat} (ht : t < 256) :
    (mergeLanes m old f).at t = if m.getLsbD t then f t else old.at t := by
  have h := at_mergeLanes m old f none t ht
  exact h

theorem writeMain_map (x : Ctx) (v : Nat) (m : LaneMask) (f : Nat → Word) {e : Nat} (he : e < 16) :
    ((x.writeMain v m f).entry e).map = (x.entry e).map := by
  unfold Ctx.writeMain
  cases hv : x.entryOf v with
  | none => rfl
  | some d =>
    dsimp only
    rw [entry_writeEntry x d e m f (entryOf_some hv).1 he]
    split
    · next h => rw [h]
    · rfl

theorem writeMain_length (x : Ctx) (v : Nat) (m : LaneMask) (f : Nat → Word) : (x.writeMain v m f).main.length = x.main.length := by
  unfold Ctx.writeMain
  split
  · rfl
  · exact List.length_set

theorem writeMain_frame (x : Ctx) (v : Nat) (m : LaneMask) (f : Nat → Word) :
    x.writeMain v m f = { x with main := (x.writeMain v m f).main, entries := (x.writeMain v m f).entries } := by
  unfold Ctx.writeMain
  cases x.entryOf v <;> rfl

/-- A write of a main register, or of the entry that maps it, changes that register in the lanes written. -/
theorem mainAt_writeMain (x : Ctx) {v w t : Nat} (m : LaneMask) (f : Nat → Word) (hv : v < x.main.length) (h256 : v < 256) (hw : w < 256)
    (ht : t < 256) : mainAt (x.writeMain v m f) w t = if w = v ∧ m.getLsbD t = true then f t else mainAt x w t := by
  have hmaps := entryOf_congr (fun e he => writeMain_map x v m f he) w
  have hne : ∀ {d}, x.entryOf v = some d → x.entryOf w = some d → w = v := fun hd hd' => by
    have h := Option.some.inj ((entryOf_some hd').2.symm.trans (entryOf_some hd).2)
    simpa [Nat.mod_eq_of_lt hw, Nat.mod_eq_of_lt h256] using congrArg BitVec.toNat h
  unfold mainAt
  rw [hmaps]
  unfold Ctx.writeMain
  cases hv' : x.entryOf v with
  | none =>
    cases hw' : x.entryOf w with
    | none =>
      by_cases hvw : w = v
      · subst hvw
        simp only [Ctx.mainReg, List.getD_eq_getElem?_getD, List.getElem?_set_self hv, Option.getD_some, at_merge _ _ _ ht, true_and]
      · simp only [Ctx.mainReg, List.getD_eq_getElem?_getD, List.getElem?_set_ne (Ne.symm hvw), hvw, false_and, ↓reduceIte]
    | some e =>
      have hvw : w ≠ v := fun h => by rw [h, hv'] at hw'; cases hw'
      simp only [hvw, false_and, ↓reduceIte]
      rfl
  | some d =>
    have hd := (entryOf_some hv').1
    cases hw' : x.entryOf w with
    | none =>
      have hvw : w ≠ v := fun h => by rw [h, hv'] at hw'; cases hw'
      simp only [hvw, false_and, ↓reduceIte]
      rfl
    | some e =>
      have he := (entryOf_some hw').1
      dsimp only
      rw [entry_writeEntry x d e m f hd he]
      by_cases hde : d = e
      · subst hde
        rw [if_pos rfl, at_mergeLanes _ _ _ _ t ht, at_old]
        simp only [hne hv' hw', true_and]
      · have hvw : w ≠ v := fun h => hde (Option.some.inj (hv'.symm.trans (h ▸ hw')))
        simp only [hde, hvw, false_and, ↓reduceIte]

/-- One register of STX's window, written in the active threads whose index names it. -/
def stxStep (r : Ctx) (x : V2) (y : Ctx) (k : Nat) : Ctx :=
  let m := maskFn fun t => r.active.getLsbD t && (r.read .int false x.a t).toNat == k
  if m == 0 then y else y.writeMain ((window r x).base.toNat + k) m fun t => lo32 (r.read .int false x.b t)

theorem storeFrom_eq (c r : Ctx) (x : V2) : c.storeFrom r x = (List.range (window r x).len.toNat).foldl (stxStep r x) c := rfl

/-- What STX leaves of a context: its maps, the number of its main registers, and all but these and the entries. -/
structure StxKeeps (y z : Ctx) : Prop where
  maps : ∀ e < 16, (z.entry e).map = (y.entry e).map
  length : z.main.length = y.main.length
  frame : z = { y with main := z.main, entries := z.entries }

theorem StxKeeps.refl (y : Ctx) : StxKeeps y y := ⟨fun _ _ => rfl, rfl, rfl⟩

theorem StxKeeps.trans {x y z : Ctx} (h : StxKeeps x y) (k : StxKeeps y z) : StxKeeps x z := by
  refine ⟨fun e he => (k.maps e he).trans (h.maps e he), k.length.trans h.length, ?_⟩
  have hk := k.frame
  rw [h.frame] at hk
  exact hk

theorem stxStep_keeps (r : Ctx) (x : V2) (y : Ctx) (k : Nat) : StxKeeps y (stxStep r x y k) := by
  unfold stxStep
  dsimp only
  split
  · exact .refl y
  · exact ⟨fun e he => writeMain_map y _ _ _ he, writeMain_length y _ _ _, writeMain_frame y _ _ _⟩

theorem mainAt_stxStep (r : Ctx) (x : V2) (y : Ctx) {k w t : Nat} (hk : (window r x).base.toNat + k < y.main.length)
    (h256 : (window r x).base.toNat + k < 256) (hw : w < 256) (ht : t < 256) :
    mainAt (stxStep r x y k) w t =
      if w = (window r x).base.toNat + k ∧ r.active.getLsbD t = true ∧ index r x t = k then opnd .int r x.b t else mainAt y w t := by
  have hbit : (maskFn fun t => r.active.getLsbD t && (r.read .int false x.a t).toNat == k).getLsbD t = true ↔
      r.active.getLsbD t = true ∧ index r x t = k := by
    rw [getLsbD_maskFn _ ht, index_eq, Bool.and_eq_true, beq_iff_eq]
  unfold stxStep
  dsimp only
  split
  · next hz =>
    rw [eq_of_beq hz, BitVec.ofNat_eq_ofNat, BitVec.getLsbD_zero] at hbit
    rw [if_neg fun h => Bool.false_ne_true (hbit.mpr h.2)]
  · rw [mainAt_writeMain y _ _ hk h256 hw ht]
    simp only [hbit]
    rfl

theorem stxFold_keeps (r : Ctx) (x : V2) (l : List Nat) (y : Ctx) : StxKeeps y (l.foldl (stxStep r x) y) := by
  induction l generalizing y with
  | nil => exact .refl y
  | cons k l ih => exact (stxStep_keeps r x y k).trans (ih _)

/-- The registers after the first `n` of STX's window: each active thread with a smaller index has written its own. -/
theorem mainAt_stxFold (r : Ctx) (x : V2) (y : Ctx) {n w t : Nat} (hn : (window r x).base.toNat + n ≤ y.main.length)
    (h256 : (window r x).base.toNat + n ≤ 256) (hw : w < 256) (ht : t < 256) :
    mainAt ((List.range n).foldl (stxStep r x) y) w t =
      if r.active.getLsbD t = true ∧ index r x t < n ∧ w = (window r x).base.toNat + index r x t then opnd .int r x.b t else mainAt y w t := by
  induction n with
  | zero => exact (if_neg fun h => Nat.not_lt_zero _ h.2.1).symm
  | succ n ih =>
    have hlen := (stxFold_keeps r x (List.range n) y).length
    rw [List.range_succ, List.foldl_append, List.foldl_cons, List.foldl_nil,
      mainAt_stxStep r x _ (by rw [hlen]; omega) (by omega) hw ht, ih (by omega) (by omega)]
    by_cases hlast : index r x t = n
    · by_cases hhit : w = (window r x).base.toNat + n ∧ r.active.getLsbD t = true
      · rw [if_pos ⟨hhit.1, hhit.2, hlast⟩, if_pos ⟨hhit.2, by omega, by omega⟩]
      · rw [if_neg fun h => hhit ⟨h.1, h.2.1⟩, if_neg (by omega), if_neg fun h => hhit ⟨by omega, h.1⟩]
    · rw [if_neg fun h => hlast h.2.2]
      have hiff : (r.active.getLsbD t = true ∧ index r x t < n ∧ w = (window r x).base.toNat + index r x t) ↔
          (r.active.getLsbD t = true ∧ index r x t < n + 1 ∧ w = (window r x).base.toNat + index r x t) := by
        have : index r x t < n ↔ index r x t < n + 1 := by omega
        rw [this]
      simp only [hiff]

/-- A register after entries became FREE: 0 where its entry is among them. -/
theorem mainAt_freed {x y : Ctx} {m : BitVec 16} (he : ∀ e < 16, y.entry e = if m.getLsbD e then freed (x.entry e) else x.entry e)
    (hm : y.main = x.main) (v t : Nat) :
    mainAt y v t = match x.entryOf v with
      | some e => if m.getLsbD e then 0 else (x.entry e).at t
      | none => (x.mainReg v).at t := by
  have hmaps : ∀ e < 16, (y.entry e).map = (x.entry e).map := fun e h => by
    rw [he e h]
    split <;> rfl
  unfold mainAt
  rw [entryOf_congr hmaps]
  cases hv : x.entryOf v with
  | none => simp only [Ctx.mainReg, hm]
  | some e =>
    dsimp only
    rw [he e (entryOf_some hv).1]
    split <;> rfl

/-- The context before STX's stores: its sources are freed with the entries that waited (R143). -/
theorem entry_consume (c : Ctx) (l : List Src) {e : Nat} (he : e < 16) :
    ((c.applyFrees.free (srcFrees l)).entry e) = if (c.pendFree ||| srcFrees l).getLsbD e then freed (c.entry e) else c.entry e := by
  rw [entry_free _ _ _ he, entry_applyFrees _ _ he, BitVec.getLsbD_or]
  cases c.pendFree.getLsbD e <;> cases (srcFrees l).getLsbD e <;> rfl

/-- What STX makes of a context (R150, R207). -/
def stxEnd (x : V2) (c : Ctx) : Ctx := (c.applyFrees.free (srcFrees (stxSrcs x))).storeFrom c x

theorem stxEnd_keeps (x : V2) (c : Ctx) : StxKeeps (c.applyFrees.free (srcFrees (stxSrcs x))) (stxEnd x c) := by
  rw [stxEnd, storeFrom_eq]
  exact stxFold_keeps c x _ _

theorem stxNext_of {x : V2} {c y : Ctx} {pc : DWord} (hpc : pc = nextPc (.stx x) c)
    (hin : ∀ t < 256, c.active.getLsbD t = true → index c x t < (window c x).len.toNat)
    (hlen : (window c x).base.toNat + (window c x).len.toNat ≤ c.main.length) (h256 : c.main.length ≤ 256)
    (hent : ∀ e < 16, y.entry e = (stxEnd x c).entry e) (hlat : ∀ k < 4, (y.latches[Fin.ofNat 4 k]).valid = false)
    (hy : ∃ es ls, y = { stxEnd x c with pc := pc, entries := es, latches := ls, pendFree := 0, run := [] }) : StxNext x c y := by
  obtain ⟨es, ls, hy⟩ := hy
  have hkeeps := stxEnd_keeps x c
  have hmain : y.main = (stxEnd x c).main := by rw [hy]
  have hat : ∀ w < 256, ∀ t < 256, mainAt y w t =
      if c.active.getLsbD t = true ∧ index c x t < (window c x).len.toNat ∧ w = (window c x).base.toNat + index c x t then opnd .int c x.b t
      else mainAt (c.applyFrees.free (srcFrees (stxSrcs x))) w t := fun w hw t ht => by
    rw [mainAt_congr hent hmain, stxEnd, storeFrom_eq]
    exact mainAt_stxFold c x _ hlen (by omega) hw ht
  constructor
  case pc => rw [hy, ← hpc]
  case stored =>
    intro t ht hact
    have hlt := hin t ht hact
    rw [hat _ (by omega) t ht, if_pos ⟨hact, hlt, rfl⟩]
  case kept =>
    intro v hv t ht hno
    rw [hat v hv t ht, if_neg fun h => hno h.1 h.2.2]
    exact mainAt_freed (fun e he => entry_consume c _ he) rfl v t
  case maps =>
    intro e he
    rw [hent e he, hkeeps.maps e he, entry_consume c _ he]
    split <;> rfl
  case latches => exact hlat
  case frame =>
    have hf : stxEnd x c = { c with main := (stxEnd x c).main, entries := (stxEnd x c).entries, pendFree := 0 } := hkeeps.frame
    rw [hmain, hy]
    conv_lhs => rw [hf]

theorem stx_completes {s : State} {g : Group} {x : V2} (hR : Ready (.stx x) (stxUses x s) s g) (hl : g.ctx.latchesOk (stxSrcs x) = true)
    (hin : ∀ t < 256, (g.ctx.begin (stxUses x s)).active.getLsbD t = true →
      index (g.ctx.begin (stxUses x s)) x t < (window (g.ctx.begin (stxUses x s)) x).len.toNat)
    (hlen : (window (g.ctx.begin (stxUses x s)) x).base.toNat + (window (g.ctx.begin (stxUses x s)) x).len.toNat ≤
      (g.ctx.begin (stxUses x s)).main.length) (h256 : (g.ctx.begin (stxUses x s)).main.length ≤ 256) :
    ∃ h, exec (.stx x) s = .next (s.setGroup s.cur h) ∧ Passed (.stx x) s g h ∧ StxNext x (g.ctx.begin (stxUses x s)) h.ctx := by
  have hx : exec (.stx x) s = execStx x s := rfl
  dsimp only [execStx] at hx
  have hlat : (begun g (stxUses x s)).ctx.latchesOk (stxSrcs x) = true := (latchesOk_begin _ _ _).trans hl
  have hrun := runInstr_ready hR (indexed (.stx x) x fun s gi g => .done (s.setCtx gi (stxEnd x g.ctx)))
  rw [indexed_inside hlat hin, setCtx_setGroup] at hrun
  have hfin := hx.trans (hrun.trans (congrArg Host.Outcome.next
    (complete_setGroup (.stx x) (stxUses x s) s s.cur { g with ctx := stxEnd x (g.ctx.begin (stxUses x s)) }
      (nextPc (.stx x) (g.ctx.begin (stxUses x s))) hR.running hR.once hR.plain)))
  obtain ⟨es, ls, hctx, hent, hval⟩ := stepped_ctx (.stx x) (stxUses x s) s { g with ctx := stxEnd x (g.ctx.begin (stxUses x s)) }
    (nextPc (.stx x) (g.ctx.begin (stxUses x s))) rfl
  refine ⟨_, hfin, ⟨rfl, rfl, rfl⟩, stxNext_of rfl hin hlen h256 (fun e he => ?_) hval ⟨es, ls, hctx⟩⟩
  have hz : (stxEnd x (g.ctx.begin (stxUses x s))).pendFree = 0 := by rw [(stxEnd_keeps x _).frame]; rfl
  rw [hent e he, hz]
  exact if_neg (by simp)

theorem stx_traps {s : State} {g : Group} {x : V2} (hR : Ready (.stx x) (stxUses x s) s g)
    (hbegin : g.ctx.begin (stxUses x s) = g.ctx) (hl : g.ctx.latchesOk (stxSrcs x) = true)
    (hout : ∃ t < 256, g.ctx.active.getLsbD t = true ∧ (window g.ctx x).len.toNat ≤ index g.ctx x t) :
    ∃ t : TrapInfo, exec (.stx x) s = .next (takeTrap s s.cur t (nextPc (.stx x) g.ctx) (srcLatches (stxSrcs x)) none) ∧
      t.cause = .ixBounds ∧
      ∀ k < 256, t.lanes.getLsbD k = (g.ctx.active.getLsbD k && decide ((window g.ctx x).len.toNat ≤ index g.ctx x k)) := by
  have hx : exec (.stx x) s = execStx x s := rfl
  dsimp only [execStx] at hx
  exact indexed_traps (u := stxUses x s) hx hR hbegin rfl rfl hl rfl hout

/-- Settles O13: MOVX and STX do their own work inside the window, and trap where the first cause of a lane is IX_BOUNDS. -/
theorem indexedMoves : Obligations.IndexedMoves := by
  refine ⟨fun s g x hR hl => movx_completes hR hl, fun s g x hR hl => stx_completes hR hl, ?_⟩
  rintro s g x i (⟨rfl, hR, hm, hbegin⟩ | ⟨rfl, hR, hbegin⟩) hl hout
  · exact movx_traps hR hm hbegin hl hout
  · exact stx_traps hR hbegin hl hout

end Sys2Proof.Proofs

/-! PROOFS. Integer arithmetic, counts and bit fields: O1 and O2. -/

namespace Sys2Proof.Proofs

open Machine Spec Laws

/-! ## Integer arithmetic in numbers (R186 to R188) -/

/-- A two-source integer instruction completes with the function that its table entry gives. -/
theorem int2_completes {i : Instr} {x : V2} {f h : Word → Word → Word} (hf : ∀ a b, f a b = h a b) (hx : ∀ s, exec i s = runInt2 i x f s) :
    VecCompletes i (spec2 x .int .x fun _ a b => word (h a b)).op (spec2 x .int .x fun _ a b => word (h a b)).f := by
  obtain rfl : f = h := funext fun a => funext fun b => hf a b
  exact vec_completes hx x.d.isLt nofun

theorem int1_completes {i : Instr} {x : V2} {f h : Word → Word} (hf : ∀ a, f a = h a) (hx : ∀ s, exec i s = runInt1 i x f s) :
    VecCompletes i (spec1 x .int .x fun _ a => word (h a)).op (spec1 x .int .x fun _ a => word (h a)).f := by
  obtain rfl : f = h := funext hf
  exact vec_completes hx x.d.isLt nofun

theorem clampInt_eq_saturate (sgn : Bool) (n : Int) : clampInt sgn n = saturate sgn n := by
  cases sgn <;> exact congrArg (BitVec.ofInt 32) (by split_ifs <;> omega)

theorem number_inj {sgn : Bool} {a b : Word} (h : number sgn a = number sgn b) : a = b := by
  cases sgn with
  | false => exact BitVec.eq_of_toNat_eq (Int.ofNat.inj h)
  | true => exact BitVec.eq_of_toInt_eq h

theorem iadd_value (x : V2) (a b : Word) : fIadd (x.mod == 1) x.s a b =
    if x.mod = 1 then saturate x.s (number x.s a + number x.s b) else BitVec.ofNat 32 (a.toNat + b.toNat) := by
  by_cases h : x.mod = 1
  · rw [if_pos h, ← clampInt_eq_saturate, h]
    rfl
  · rw [if_neg h, beq_eq_false_iff_ne.mpr h]
    exact iadd16_value a b

theorem isub_value (x : V2) (a b : Word) : fIsub (x.mod == 1) x.s a b =
    if x.mod = 1 then saturate x.s (number x.s a - number x.s b) else BitVec.ofInt 32 ((a.toNat : Int) - b.toNat) := by
  by_cases h : x.mod = 1
  · rw [if_pos h, ← clampInt_eq_saturate, h]
    rfl
  · rw [if_neg h, beq_eq_false_iff_ne.mpr h]
    exact isub16_value a b

/-- The high half of a 64-bit product of numbers. -/
theorem high_ofInt (n : Int) : (BitVec.ofInt 64 n).extractLsb' 32 32 = BitVec.ofInt 32 (n / 2 ^ 32) := by
  apply BitVec.eq_of_toNat_eq
  rw [BitVec.extractLsb'_toNat, BitVec.toNat_ofInt, BitVec.toNat_ofInt, Nat.shiftRight_eq_div_pow]
  omega

theorem mulHigh_eq_highHalf (sgn : Bool) (a b : Word) : mulHigh sgn a b = highHalf sgn a b := by
  cases sgn with
  | false =>
    have hprod : a.setWidth 64 * b.setWidth 64 = BitVec.ofInt 64 ((a.toNat * b.toNat : Nat) : Int) := by
      rw [BitVec.ofInt_natCast, BitVec.ofNat_mul, BitVec.ofNat_toNat, BitVec.ofNat_toNat]
    have hhigh := high_ofInt (a.toNat * b.toNat : Nat)
    rw [← hprod] at hhigh
    exact (BitVec.ofInt_natCast 32 _).symm.trans hhigh.symm
  | true =>
    have hprod : a.signExtend 64 * b.signExtend 64 = BitVec.ofInt 64 (a.toInt * b.toInt) := (BitVec.ofInt_mul ..).symm
    have hhigh := high_ofInt (a.toInt * b.toInt)
    rw [← hprod] at hhigh
    exact hhigh.symm

theorem imin_value (sgn : Bool) (a b : Word) : fImin sgn a b = if number sgn b < number sgn a then b else a := by
  show (if number sgn a ≤ number sgn b then a else b) = _
  by_cases h : number sgn a ≤ number sgn b
  · rw [if_pos h, if_neg (Int.not_lt.mpr h)]
  · rw [if_neg h, if_pos (Int.not_le.mp h)]

/-- Operands of equal value are the same word, so that it does not matter which of them a maximum takes. -/
theorem imax_value (sgn : Bool) (a b : Word) : fImax sgn a b = if number sgn a < number sgn b then b else a := by
  show (if number sgn a ≤ number sgn b then b else a) = _
  rcases Int.lt_trichotomy (number sgn a) (number sgn b) with h | h | h
  · rw [if_pos h, if_pos (Int.le_of_lt h)]
  · rw [number_inj h, ite_self, ite_self]
  · rw [if_neg (Int.not_le.mpr h), if_neg (Int.lt_asymm h)]

theorem iabs_value (a : Word) : fIabs a = BitVec.ofNat 32 a.toInt.natAbs := by
  show (if a.getLsbD 31 then -a else a) = _
  have ha := a.isLt
  have hsgn : a.getLsbD 31 = decide (2 ^ 31 ≤ a.toNat) := BitVec.msb_eq_decide a
  apply BitVec.eq_of_toNat_eq
  rw [hsgn, BitVec.toNat_ofNat, toInt_eq_signed]
  by_cases h : 2 ^ 31 ≤ a.toNat
  · rw [if_pos (decide_eq_true h), if_pos (by omega), BitVec.toNat_neg]
    omega
  · rw [if_neg (by simpa using h), if_neg (by omega)]
    omega

/-- Settles O1: each instruction is the two-source thread instruction of its table entry, once its function is written in numbers. -/
theorem integerArithmetic : Obligations.IntegerArithmetic := by
  intro i l h
  unfold intTable at h
  split at h
  case h_1 x => cases h; exact int2_completes (iadd_value x) fun _ => rfl
  case h_2 x => cases h; exact int2_completes (isub_value x) fun _ => rfl
  case h_3 x => cases h; exact int2_completes imul16_value fun _ => rfl
  case h_4 x => cases h; exact int2_completes (mulHigh_eq_highHalf x.s) fun _ => rfl
  case h_5 x => cases h; exact int2_completes (imin_value x.s) fun _ => rfl
  case h_6 x => cases h; exact int2_completes (imax_value x.s) fun _ => rfl
  case h_7 x => cases h; exact int1_completes iabs_value fun _ => rfl
  case h_8 x => cases h; exact int2_completes (fun _ _ => rfl) fun _ => rfl
  case h_9 x => cases h; exact int2_completes (fun _ _ => rfl) fun _ => rfl
  case h_10 x => cases h; exact int2_completes (fun _ _ => rfl) fun _ => rfl
  case h_11 x => cases h; exact int2_completes (fun _ _ => rfl) fun _ => rfl
  case h_12 => cases h

end Sys2Proof.Proofs

/-! PROOFS. Counts of bits and bit fields: O2. -/

namespace Sys2Proof.Proofs

open Machine Spec Laws

/-! ## Counts of bits (R190) -/

/-- Halving a number counts the bits above its lowest. -/
theorem popCount_eq_countP (n x : Nat) : popCount n x = (List.range n).countP x.testBit := by
  induction n generalizing x with
  | zero => rfl
  | succ n ih =>
    have habove : (fun k => x.testBit k) ∘ Nat.succ = (x / 2).testBit := funext (Nat.testBit_succ x)
    rw [popCount, ih, List.range_succ_eq_map, List.countP_cons, List.countP_map, habove, Nat.testBit_zero, Nat.add_comm]
    congr 1
    have := Nat.mod_two_eq_zero_or_one x
    split <;> simp_all

theorem popc_value (a : Word) : fPopc a = BitVec.ofNat 32 (ones a) := congrArg (BitVec.ofNat 32) (popCount_eq_countP 32 a.toNat)

/-- The bits above the highest that is 1 are the leading zeros. -/
theorem leadingZeros_eq_zerosAbove (a : Word) : leadingZeros 32 a.toNat = zerosAbove a := by
  unfold leadingZeros zerosAbove
  by_cases hz : a.toNat = 0
  · have hnone : (List.range 32).find? (fun k => a.getLsbD (31 - k)) = none := by
      rw [List.find?_eq_none]
      intro k _
      rw [BitVec.getLsbD, hz, Nat.zero_testBit]
      exact Bool.false_ne_true
    rw [hnone, hz]
    rfl
  · have hlog : a.toNat.log2 < 32 := (Nat.log2_lt hz).mpr a.isLt
    have hfind : (List.range 32).find? (fun k => a.getLsbD (31 - k)) = some (31 - a.toNat.log2) := by
      rw [List.find?_range_eq_some]
      refine ⟨?_, List.mem_range.mpr (by omega), fun j hj => ?_⟩
      · rw [BitVec.getLsbD, show 31 - (31 - a.toNat.log2) = a.toNat.log2 by omega]
        exact Nat.testBit_log2 hz
      · rw [BitVec.getLsbD, Nat.testBit_lt_two_pow ((Nat.log2_lt hz).mp (by omega))]
        rfl
    rw [hfind, if_neg (by simpa using hz)]
    rfl

theorem clz_value (a : Word) : fClz a = BitVec.ofNat 32 (zerosAbove a) := congrArg (BitVec.ofNat 32) (leadingZeros_eq_zerosAbove a)

/-- A mask's number is the sum of the powers of its bits. -/
theorem natOfBits_eq_sum (f : Nat → Bool) (n : Nat) : natOfBits f n = ((List.range n).map fun k => if f k then 2 ^ k else 0).sum := by
  induction n with
  | zero => rfl
  | succ n ih => rw [List.sum_range_succ, ← ih, natOfBits]

/-- The sum of the reflected powers is the number whose bits are reflected. -/
theorem natOfBits_reflect (f : Nat → Bool) (n : Nat) :
    natOfBits (fun k => f (n - 1 - k)) n = ((List.range n).map fun k => if f k then 2 ^ (n - 1 - k) else 0).sum := by
  rw [natOfBits_eq_sum]
  show ∑ k ∈ Finset.range n, (if f (n - 1 - k) then 2 ^ k else 0) = ∑ k ∈ Finset.range n, if f k then 2 ^ (n - 1 - k) else 0
  rw [← Finset.sum_range_reflect (fun k => if f k then 2 ^ (n - 1 - k) else 0)]
  refine Finset.sum_congr rfl fun k hk => ?_
  have := Finset.mem_range.mp hk
  rw [show n - 1 - (n - 1 - k) = k by omega]

theorem brev_value (a : Word) : fBrev a = mirrored a := by
  rw [fBrev, mirrored, ← natOfBits_reflect a.getLsbD 32]
  apply BitVec.eq_of_getLsbD_eq
  intro k hk
  rw [BitVec.getLsbD_reverse, BitVec.getMsbD, BitVec.getLsbD_ofNat, (testBit_natOfBits _ 32 k).1]
  simp [hk]

/-! ## Bit fields (R181, R182, R191) -/

theorem fieldPos_eq_fieldAt (ctl : Word) : fieldPos ctl = fieldAt ctl := by
  rw [fieldPos, Spec.fieldAt, BitVec.extractLsb'_toNat, Nat.shiftRight_zero]

theorem fieldWidth_eq_fieldLen (ctl : Word) : fieldWidth ctl = fieldLen ctl := by
  rw [fieldWidth, fieldLen, fieldPos_eq_fieldAt, BitVec.extractLsb'_toNat, Nat.shiftRight_eq_div_pow]

theorem fieldLen_le (ctl : Word) : fieldLen ctl ≤ 32 := Nat.le_trans (Nat.min_le_right _ _) (Nat.sub_le _ _)

theorem lowOnes_toNat {n : Nat} (h : n ≤ 32) : (lowOnes n).toNat = 2 ^ n - 1 := by
  rw [lowOnes, BitVec.toNat_ofNat]
  exact Nat.mod_eq_of_lt (Nat.lt_of_lt_of_le (Nat.sub_lt (Nat.two_pow_pos n) Nat.one_pos) (Nat.pow_le_pow_right (by decide) h))

theorem bitins_value (a b ctl : Word) : fBitins a b ctl =
    ((a &&& ~~~(lowOnes (fieldLen ctl) <<< fieldAt ctl)) ||| ((b <<< fieldAt ctl) &&& (lowOnes (fieldLen ctl) <<< fieldAt ctl))) := by
  have hmask : BitVec.ofNat 32 ((2 ^ fieldWidth ctl - 1) * 2 ^ fieldPos ctl) = lowOnes (fieldLen ctl) <<< fieldAt ctl := by
    rw [shiftLeft_eq_ofNat, lowOnes_toNat (fieldLen_le ctl), fieldWidth_eq_fieldLen, fieldPos_eq_fieldAt]
  rw [← hmask, ← fieldPos_eq_fieldAt]
  rfl

/-- The bit field that a control word names (R191). -/
def bitField (a ctl : Word) : Word := (a >>> fieldAt ctl) &&& lowOnes (fieldLen ctl)

theorem bitField_toNat (a ctl : Word) : (bitField a ctl).toNat = a.toNat / 2 ^ fieldAt ctl % 2 ^ fieldLen ctl := by
  rw [bitField, BitVec.toNat_and, lowOnes_toNat (fieldLen_le ctl), Nat.and_two_pow_sub_one_eq_mod, BitVec.toNat_ushiftRight,
    Nat.shiftRight_eq_div_pow]

/-- The top bit of a number of n bits. -/
theorem testBit_top {x n : Nat} (hn : 0 < n) (hx : x < 2 ^ n) : x.testBit (n - 1) = decide (2 ^ (n - 1) ≤ x) := by
  obtain ⟨m, rfl⟩ := Nat.exists_eq_add_of_le' hn
  have hdiv : x / 2 ^ m < 2 := Nat.div_lt_of_lt_mul (by rwa [Nat.pow_succ] at hx)
  have hle : 1 ≤ x / 2 ^ m ↔ 2 ^ m ≤ x := Nat.one_le_div_iff (Nat.two_pow_pos m)
  rw [Nat.add_sub_cancel, Nat.testBit_eq_decide_div_mod_eq, decide_eq_decide, ← hle]
  generalize x / 2 ^ m = q at hdiv ⊢
  omega

/-- A word of n bits with ones above them is 2^n less (R191). -/
theorem or_not_lowOnes {f : Word} {n : Nat} (hn : n ≤ 32) (hf : f.toNat < 2 ^ n) :
    f ||| ~~~lowOnes n = BitVec.ofInt 32 ((f.toNat : Int) - 2 ^ n) := by
  have hdisjoint : f &&& ~~~lowOnes n = 0#32 := by
    have hself : f &&& lowOnes n = f := by
      apply BitVec.eq_of_toNat_eq
      rw [BitVec.toNat_and, lowOnes_toNat hn, Nat.and_two_pow_sub_one_eq_mod, Nat.mod_eq_of_lt hf]
    rw [← hself, BitVec.and_assoc, BitVec.and_not_self]
    exact BitVec.and_zero
  have hpow : 2 ^ n ≤ 2 ^ 32 := Nat.pow_le_pow_right (by decide) hn
  apply BitVec.eq_of_toNat_eq
  rw [← BitVec.add_eq_or_of_and_eq_zero _ _ hdisjoint, BitVec.toNat_add, BitVec.toNat_not, lowOnes_toNat hn, BitVec.toNat_ofInt]
  have hcast : ((2 ^ n : Nat) : Int) = 2 ^ n := by push_cast; rfl
  rw [← hcast]
  generalize 2 ^ n = p at hf hpow ⊢
  omega

theorem bfx_value (sgn : Bool) (a ctl : Word) : fBfx sgn a ctl =
    if fieldLen ctl = 0 then 0
    else if sgn && (bitField a ctl).getLsbD (fieldLen ctl - 1) then bitField a ctl ||| ~~~lowOnes (fieldLen ctl) else bitField a ctl := by
  have hlt : (bitField a ctl).toNat < 2 ^ fieldLen ctl := by
    rw [bitField_toNat]
    exact Nat.mod_lt _ (Nat.two_pow_pos _)
  simp only [fBfx, fieldPos_eq_fieldAt, fieldWidth_eq_fieldLen, ← bitField_toNat, beq_iff_eq, ge_iff_le]
  by_cases hz : fieldLen ctl = 0
  · rw [if_pos hz, if_pos hz]
  · rw [if_neg hz, if_neg hz, or_not_lowOnes (fieldLen_le ctl) hlt, BitVec.getLsbD, testBit_top (Nat.pos_of_ne_zero hz) hlt,
      BitVec.ofNat_toNat, BitVec.setWidth_eq]

theorem shrcat_value (a b c : Word) : fShrcat a b c = BitVec.ofNat 32 ((b.toNat * 2 ^ 32 + a.toNat) / 2 ^ (c.toNat % 32)) := by
  apply BitVec.eq_of_toNat_eq
  rw [fShrcat, BitVec.toNat_setWidth, BitVec.toNat_ushiftRight, BitVec.toNat_append, ← Nat.shiftLeft_add_eq_or_of_lt a.isLt,
    Nat.shiftLeft_eq, Nat.shiftRight_eq_div_pow, BitVec.toNat_ofNat]

/-- A three-source integer instruction completes with the function that its table entry gives. -/
theorem int3_completes {i : Instr} {x : V3} {f h : Word → Word → Word → Word} (hf : ∀ a b c, f a b c = h a b c)
    (hx : ∀ s, exec i s = runV3 i x .int false .x (w3 fun _ a b c => res32 (f a b c)) s) :
    VecCompletes i (spec3 x .int .int .x fun _ a b c => word (h a b c)).op (spec3 x .int .int .x fun _ a b c => word (h a b c)).f := by
  obtain rfl : f = h := funext fun a => funext fun b => funext fun c => hf a b c
  exact vec_completes hx x.d.isLt nofun

/-- Settles O2: each instruction is the thread instruction of its table entry, once its function is written in numbers. -/
theorem bitCountsAndFields : Obligations.BitCountsAndFields := by
  intro i l h
  unfold bitTable at h
  split at h
  case h_1 x => cases h; exact int1_completes popc_value fun _ => rfl
  case h_2 x => cases h; exact int1_completes clz_value fun _ => rfl
  case h_3 x => cases h; exact int1_completes brev_value fun _ => rfl
  case h_4 x => cases h; exact int2_completes (bfx_value x.s) fun _ => rfl
  case h_5 x => cases h; exact int3_completes bitins_value fun _ => rfl
  case h_6 x => cases h; exact int3_completes shrcat_value fun _ => rfl
  case h_7 => cases h

end Sys2Proof.Proofs

/-! PROOFS. Shifts, rotates and 64-bit addresses: O3. -/

namespace Sys2Proof.Proofs

open Machine Spec Laws

/-! ## Shifts and rotates in numbers (R189) -/

theorem signed_wide_toNat (a : DWord) : Spec.signed 64 a.toNat = a.toInt := by
  rw [toInt_eq_signed, Spec.signed]
  split <;> split <;> omega

theorem shl_wide_value (a : DWord) (b : Word) : fShl true a b = BitVec.ofInt 64 (a.toNat * 2 ^ (b.toNat % 64)) := by
  have hcast : ((a.toNat * 2 ^ (b.toNat % 64) : Nat) : Int) = a.toNat * 2 ^ (b.toNat % 64) := by push_cast; rfl
  rw [← hcast, BitVec.ofInt_natCast]
  exact shiftLeft_eq_ofNat a _

theorem shr_wide_value (a : DWord) (b : Word) : fShr true a b = BitVec.ofInt 64 (a.toNat / 2 ^ (b.toNat % 64) : Nat) := by
  rw [BitVec.ofInt_natCast]
  exact ushiftRight_eq_ofNat a _

theorem sar_wide_value (a : DWord) (b : Word) : fSar true a b = BitVec.ofInt 64 (Spec.signed 64 a.toNat / 2 ^ (b.toNat % 64)) := by
  rw [signed_wide_toNat]
  show a.sshiftRight (b.toNat % 64) = _
  rw [BitVec.sshiftRight_eq, Int.shiftRight_eq_div_pow]
  rfl

/-- The two parts of a rotated number have no bit in common. -/
theorem rotateLeft_eq_ofNat {w k : Nat} (a : BitVec w) (hk : k < w) :
    a.rotateLeft k = BitVec.ofNat w (a.toNat * 2 ^ k + a.toNat / 2 ^ (w - k)) := by
  have hdisjoint : a <<< k &&& a >>> (w - k) = 0#w := by
    apply BitVec.eq_of_getLsbD_eq
    intro j hj
    rw [BitVec.getLsbD_and, BitVec.getLsbD_shiftLeft, BitVec.getLsbD_ushiftRight, BitVec.getLsbD_zero]
    by_cases hjk : j < k
    · simp [hjk]
    · rw [BitVec.getLsbD_of_ge a (w - k + j) (by omega), Bool.and_false]
  rw [BitVec.rotateLeft_def, Nat.mod_eq_of_lt hk, ← BitVec.add_eq_or_of_and_eq_zero _ _ hdisjoint, shiftLeft_eq_ofNat, ushiftRight_eq_ofNat,
    BitVec.ofNat_add]

theorem rot_value (a b : Word) : res64 (fRot false (a.setWidth 64) b) =
    word (BitVec.ofInt 32 (a.toNat * 2 ^ (b.toNat % 32) + a.toNat / 2 ^ (32 - b.toNat % 32) : Nat)) := by
  rw [BitVec.ofInt_natCast, ← rotateLeft_eq_ofNat a (Nat.mod_lt _ (by decide)), res64, fRot, lo32, setWidth_word]
  rfl

theorem rot_wide_value (a : DWord) (b : Word) : fRot true a b =
    BitVec.ofInt 64 (a.toNat * 2 ^ (b.toNat % 64) + a.toNat / 2 ^ (64 - b.toNat % 64) : Nat) := by
  rw [BitVec.ofInt_natCast, ← rotateLeft_eq_ofNat a (Nat.mod_lt _ (by decide))]
  rfl

/-- A 64-bit form that mod chooses names an even entry. -/
theorem pair_of_mod {x : V2} {b : Bool} (h : (x.mod == 0 || (b && x.wideD)) = true) (hwide : wideMod x = true) : x.d.toNat + 1 < 16 := by
  have hmod : x.mod = 1 := beq_iff_eq.mp hwide
  rw [hmod] at h
  exact pair_of_even x.d (Bool.and_eq_true_iff.mp h).2

/-- A shift or rotate completes with the numbers of its table entry, of 32 or of 64 bits. -/
theorem shift_completes {i : Instr} {x : V2} {f : Bool → DWord → Word → DWord} {f32 f64 : Nat → Nat → Int}
    (h32 : ∀ a b : Word, res64 (f false (a.setWidth 64) b) = word (BitVec.ofInt 32 (f32 a.toNat (b.toNat % 32))))
    (h64 : ∀ a b, f true a b = BitVec.ofInt 64 (f64 a.toNat (b.toNat % 64))) (hx : ∀ s, exec i s = runShift i x f s)
    (hd : wf i = true → (x.mod == 0 || (x.wideA && x.wideD)) = true) :
    VecCompletes i (shiftSpec x f32 f64).op (shiftSpec x f32 f64).f := by
  have hf : (fun (g : Ctx) t => res64 (f (wideMod x) (g.read .int (wideMod x) x.a t) (lo32 (g.read .int false x.b t)))) =
      (shiftSpec x f32 f64).f := by
    funext g t
    unfold shiftSpec
    by_cases hmod : x.mod = 1
    · have hwide : wideMod x = true := beq_iff_eq.mpr hmod
      rw [hwide, h64]
      simp only [hmod, ↓reduceIte]
      rfl
    · have hnarrow : wideMod x = false := beq_eq_false_iff_ne.mpr hmod
      rw [hnarrow, read_eq_opnd, h32]
      simp only [hmod, ↓reduceIte]
      rfl
  refine vec_completes (fun s => ?_) x.d.isLt fun hwf _ hwide => pair_of_mod (hd hwf) hwide
  rw [hx, ← hf]
  rfl

/-! ## Addresses (R192) -/

theorem ofInt_extended (sgn : Bool) (b : Word) : BitVec.ofInt 64 (number sgn b) = if sgn then b.signExtend 64 else b.setWidth 64 := by
  cases sgn with
  | false => exact (BitVec.ofInt_natCast 64 _).trans (BitVec.ofNat_toNat 64 b)
  | true => rfl

theorem shiftLeft_eq_mul_ofInt (a : DWord) (k : Nat) : a <<< k = a * BitVec.ofInt 64 (2 ^ k) := by
  have hcast : ((2 ^ k : Nat) : Int) = 2 ^ k := by push_cast; rfl
  rw [shiftLeft_eq_ofNat, BitVec.ofNat_mul, BitVec.ofNat_toNat, BitVec.setWidth_eq, ← hcast, BitVec.ofInt_natCast]

theorem lea_value (m : Nat) (sgn : Bool) (a : DWord) (b : Word) : fLea m sgn a b = BitVec.ofInt 64 (a.toNat + number sgn b * 2 ^ m) := by
  rw [BitVec.ofInt_add, BitVec.ofInt_mul, ofInt_extended, BitVec.ofInt_natCast, BitVec.ofNat_toNat, BitVec.setWidth_eq, ← shiftLeft_eq_mul_ofInt]
  rfl

theorem iadd64_value (a b : DWord) : a + b = BitVec.ofNat 64 (a.toNat + b.toNat) := by
  rw [BitVec.ofNat_add, BitVec.ofNat_toNat, BitVec.ofNat_toNat, BitVec.setWidth_eq, BitVec.setWidth_eq]

theorem lea_completes (x : V2) : VecCompletes (.lea x) ⟨[⟨x.a, true⟩, ⟨x.b, false⟩], x.d.toNat, x.w, true, .x⟩
    fun g t => ⟨BitVec.ofInt 64 ((g.read .int true x.a t).toNat + number x.s (opnd .int g x.b t) * 2 ^ x.mod.toNat), 0⟩ := by
  simp only [← lea_value]
  exact vec_completes (fun _ => rfl) x.d.isLt fun hwf _ _ => pair_of_even x.d (last_of_wf hwf rfl)

theorem iadd64_completes (x : V2) : VecCompletes (.iadd64 x) ⟨[⟨x.a, true⟩, ⟨x.b, true⟩], x.d.toNat, x.w, true, .x⟩
    fun g t => ⟨BitVec.ofNat 64 ((g.read .int true x.a t).toNat + (g.read .int true x.b t).toNat), 0⟩ := by
  simp only [← iadd64_value]
  exact vec_completes (fun _ => rfl) x.d.isLt fun hwf _ _ => pair_of_even x.d (last_of_wf hwf rfl)

/-- Settles O3: each shift is the thread instruction of its table entry in both widths; LEA and IADD64 are in their one. -/
theorem shiftsAndAddresses : Obligations.ShiftsAndAddresses := by
  intro i l h
  unfold shiftTable at h
  split at h
  case h_1 x => cases h; exact shift_completes shl16_value shl_wide_value (fun _ => rfl) fun h => last_of_wf h rfl
  case h_2 x => cases h; exact shift_completes shr16_value shr_wide_value (fun _ => rfl) fun h => last_of_wf h rfl
  case h_3 x => cases h; exact shift_completes sar16_value sar_wide_value (fun _ => rfl) fun h => last_of_wf h rfl
  case h_4 x => cases h; exact shift_completes rot_value rot_wide_value (fun _ => rfl) fun h => last_of_wf h rfl
  case h_5 x => cases h; exact lea_completes x
  case h_6 x => cases h; exact iadd64_completes x
  case h_7 => cases h

end Sys2Proof.Proofs

/-! PROOFS. Multiply-adds, integer dot products, selection and moves: O4. -/

namespace Sys2Proof.Proofs

open Machine Spec Laws

/-! ## Multiply-add (R179) -/

theorem muladd_value (a b c : Word) : fMuladd a b c = BitVec.ofNat 32 (a.toNat * b.toNat + c.toNat) := by
  rw [BitVec.ofNat_add, ← imul16_value, BitVec.ofNat_toNat, BitVec.setWidth_eq]
  rfl

theorem muladdh_value (x : V3) (a b c : Word) : fMuladdh (variantBit x) a b c = highHalf (!variant x) a b + c := by
  rw [← mulHigh_eq_highHalf]
  rfl

/-! ## Integer dot products (R125, R183) -/

theorem elemInt_eq_element (sgn : Bool) (n k : Nat) (a : Word) : elemInt a n k sgn = element sgn n k a := by
  cases sgn with
  | false => rfl
  | true => simp only [elemInt, element, elem, Spec.signed, Bool.true_and, decide_eq_true_eq, ge_iff_le, ↓reduceIte]

theorem foldl_add_eq_sum (f : Nat → Int) (l : List Nat) (n : Int) : l.foldl (fun r k => r + f k) n = n + (l.map f).sum := by
  induction l generalizing n with
  | nil => exact (Int.add_zero n).symm
  | cons k l ih => rw [List.foldl_cons, ih, List.map_cons, List.sum_cons, Int.add_assoc]

theorem dotInt_value (sgn sat : Bool) (n count : Nat) (a b c : Word) : dotInt n count sgn sat a b c =
    if sat then saturate sgn (dotSumInt sgn n (List.range count) a b c) else BitVec.ofInt 32 (dotSumInt sgn n (List.range count) a b c) := by
  have hsum : (List.range count).foldl (fun r k => r + elemInt a n k sgn * elemInt b n k sgn) (number sgn c) =
      dotSumInt sgn n (List.range count) a b c := by
    simp only [foldl_add_eq_sum, elemInt_eq_element]
    rfl
  rw [← hsum, ← clampInt_eq_saturate]
  cases sat <;> cases sgn <;> rfl

/-- An integer dot product over all its elements completes as its table entry says. -/
theorem dotInt_completes {i : Instr} {x : V3} {c : Consts} {sgn : Bool} {n count : Nat}
    (hx : ∀ s, exec i s = runDot i x c .int (fun _ a b ad => res32 (dotInt n count sgn (variantBit x) a b ad)) s) :
    VecCompletes i (dotSpec x c sgn n (List.range count)).op (dotSpec x c sgn n (List.range count)).f := by
  refine vec_completes (fun s => ?_) x.d.isLt nofun
  simp only [hx, dotInt_value]
  rfl

/-! ## Selection and moves (R180, R185) -/

theorem res_read (g : Ctx) (f : SrcField) (t : Nat) : (⟨g.read .int false f t, 0⟩ : LaneRes) = word (opnd .int g f t) := by
  rw [read_eq_opnd]
  rfl

theorem choose_completes (x : ChooseArgs) : VecCompletes (.choose x) ⟨[⟨x.a, false⟩, ⟨x.b, false⟩], x.d.toNat, x.w, false, .x⟩
    fun g t => word (if (g.preds[x.p.p].getLsbD t) ≠ x.p.inv then opnd .int g x.a t else opnd .int g x.b t) := by
  have hf : ∀ (g : Ctx) t, (⟨if g.pred x.p t then g.read .int false x.a t else g.read .int false x.b t, 0⟩ : LaneRes) =
      word (if (g.preds[x.p.p].getLsbD t) ≠ x.p.inv then opnd .int g x.a t else opnd .int g x.b t) := fun g t => by
    by_cases h : (g.preds[x.p.p].getLsbD t) = x.p.inv
    · rw [if_neg (not_not_intro h), ← res_read, Ctx.pred, h, bne_self_eq_false]
      rfl
    · rw [if_pos h, ← res_read, Ctx.pred, bne_iff_ne.mpr h]
      rfl
  simp only [← hf]
  exact vec_completes (fun _ => rfl) x.d.isLt nofun

theorem mov_completes (x : V2) : VecCompletes (.mov x) ⟨[⟨x.a, false⟩, ⟨x.b, wideMod x⟩], x.d.toNat, x.w, wideMod x, .x⟩
    fun g t => ⟨g.read .int (wideMod x) x.b t, 0⟩ :=
  vec_completes (fun _ => rfl) x.d.isLt fun hwf _ hwide => pair_of_mod (b := x.wideB) (last_of_wf hwf rfl) hwide

/-- Settles O4: each instruction is the thread instruction of its table entry, once its function is written in numbers. -/
theorem multiplyAddAndMoves : Obligations.MultiplyAddAndMoves := by
  intro i l h
  unfold mulTable at h
  split at h
  case h_1 x => cases h; exact int3_completes muladd_value fun _ => rfl
  case h_2 x => cases h; exact int3_completes (muladdh_value x) fun _ => rfl
  case h_3 x => cases h; exact dotInt_completes (count := 4) fun _ => rfl
  case h_4 x => cases h; exact dotInt_completes (count := 4) fun _ => rfl
  case h_5 x => cases h; exact dotInt_completes (count := 8) fun _ => rfl
  case h_6 x => cases h; exact choose_completes x
  case h_7 x => cases h; exact mov_completes x
  case h_8 => cases h

end Sys2Proof.Proofs

/-! PROOFS. Floating-point arithmetic and conversions: O7 and O10. -/

namespace Sys2Proof.Proofs

open Machine Spec Laws

/-! ## Sums, products, minima and maxima (R194, R195, R210) -/

/-- The function of each of the five operations in a format. -/
def opOf (f : Fmt) : FOp → FEnv → Nat → Nat → FRes
  | .add => fadd f
  | .sub => fsub f
  | .mul => fmul f
  | .min => fun e => fminmax f true e.ftz
  | .max => fun e => fminmax f false e.ftz

theorem fop_eq_floatOp (f : Fmt) (op : FOp) (env : FEnv) (mod : BitVec 3) (sat : Bool) :
    fop f op env mod sat = floatOp f (opOf f op) env mod sat := by
  cases op <;> rfl

theorem float32_completes {i : Instr} {x : V2} (op : FOp) (hx : ∀ s, exec i s = runF32 i x op s) :
    VecCompletes i (float32 x (opOf .b32 op)).op (float32 x (opOf .b32 op)).f := by
  refine vec_completes (fun s => ?_) x.d.isLt nofun
  simp only [hx, runF32, fOp32, fop_eq_floatOp]
  rfl

theorem float64_completes {i : Instr} {x : V2} (op : FOp) (hx : ∀ s, exec i s = runF64 i x op s) (hd : wf i = true → x.wideD = true) :
    VecCompletes i (float64 x (opOf .b64 op)).op (float64 x (opOf .b64 op)).f := by
  refine vec_completes (fun s => ?_) x.d.isLt fun hwf _ _ => pair_of_even x.d (hd hwf)
  simp only [hx, runF64, fOp64, fop_eq_floatOp]
  rfl

/-- A packed operation is the same operation on both halves. -/
theorem per2_eq (g : Nat → Nat → FRes) (a b : Word) : per2 g a b = packed (g (lowHalf a) (lowHalf b)) (g (topHalf a) (topHalf b)) := by
  simp only [per2, elem_zero, elem_one]
  rfl

theorem float16_completes {i : Instr} {x : V2} {c : Consts} {f : Fmt} (op : FOp) (hx : ∀ s, exec i s = runF16 i x c f op s) :
    VecCompletes i (float16 x c f (opOf f op)).op (float16 x c f (opOf f op)).f := by
  refine vec_completes (fun s => ?_) x.d.isLt nofun
  simp only [hx, runF16, fOp16, per2_eq, fop_eq_floatOp]
  rfl

/-- Settles O7: an instruction of a format differs from the others of it in its operation alone. -/
theorem floatingArithmetic : Obligations.FloatingArithmetic := by
  intro i l h
  unfold floatTable at h
  split at h
  case h_1 x => cases h; exact float32_completes .add fun _ => rfl
  case h_2 x => cases h; exact float32_completes .sub fun _ => rfl
  case h_3 x => cases h; exact float32_completes .mul fun _ => rfl
  case h_4 x => cases h; exact float32_completes .min fun _ => rfl
  case h_5 x => cases h; exact float32_completes .max fun _ => rfl
  case h_6 x => cases h; exact float64_completes .add (fun _ => rfl) fun h => last_of_wf h rfl
  case h_7 x => cases h; exact float64_completes .mul (fun _ => rfl) fun h => last_of_wf h rfl
  case h_8 x => cases h; exact float64_completes .min (fun _ => rfl) fun h => last_of_wf h rfl
  case h_9 x => cases h; exact float64_completes .max (fun _ => rfl) fun h => last_of_wf h rfl
  case h_10 x => cases h; exact float16_completes .add fun _ => rfl
  case h_11 x => cases h; exact float16_completes .mul fun _ => rfl
  case h_12 x => cases h; exact float16_completes .min fun _ => rfl
  case h_13 x => cases h; exact float16_completes .max fun _ => rfl
  case h_14 x => cases h; exact float16_completes .add fun _ => rfl
  case h_15 x => cases h; exact float16_completes .mul fun _ => rfl
  case h_16 x k => cases h; exact vec_completes (fun _ => rfl) x.d.isLt nofun
  case h_17 x k => cases h; exact vec_completes (fun _ => rfl) x.d.isLt nofun
  case h_18 => cases h

/-! ## Classes, rounding and conversions (R197, R198, R200 to R203) -/

/-- FCLASS reads constants of the format that it tests, which mod names (R197). -/
theorem fclass_completes (x : V2) {l : LaneSpec} (h : convertTable (.fclass x) = some l) : VecCompletes (.fclass x) l.op l.f := by
  cases h
  refine vec_completes (fun s => ?_) x.d.isLt nofun
  show execFclass x s = _
  unfold execFclass fFclass
  dsimp only
  generalize x.mod.toNat = m
  match m with
  | 0 => rfl
  | 1 => rfl
  | 2 => rfl
  | m + 3 => rfl

theorem fint_value (x : V2) (g : Ctx) (a : Word) : fFint g.fpmode x.mod.toNat x.s a =
    num64 (clampRes .b32 x.s (fintNum .b32 (if x.mod = 4 then rmode (g.fpmode.toNat % 4) else rmode x.mod.toNat) (g.fpmode.getLsbD 2) a.toNat)) := by
  by_cases h : x.mod = 4
  · rw [if_pos h, h]
    rfl
  · have hne : (x.mod.toNat == 4) = false := beq_eq_false_iff_ne.mpr fun hn => h (BitVec.eq_of_toNat_eq hn)
    rw [if_neg h, fFint, hne]
    rfl

theorem fint_completes (x : V2) : VecCompletes (.fint x) ⟨[⟨x.a, false⟩], x.d.toNat, x.w, false, .v⟩ fun g t =>
    num64 (clampRes .b32 x.s (fintNum .b32 (if x.mod = 4 then rmode (g.fpmode.toNat % 4) else rmode x.mod.toNat) (g.fpmode.getLsbD 2)
      (opnd .f32 g x.a t).toNat)) := by
  simp only [← fint_value]
  exact vec_completes (fun _ => rfl) x.d.isLt nofun

theorem pair_of_wf_cvt {x : V2} (h : wf (.cvt x) = true) (hwide : cvtWide (x.b.toNat % 16) = true) : x.d.toNat + 1 < 16 := by
  have hpair : (!cvtWide (x.b.toNat % 16) || x.wideD) = true := last_of_wf h rfl
  rw [hwide] at hpair
  exact pair_of_even x.d hpair

/-- Settles O10: FCLASS and FINT choose a format or a direction by mod as their table entry does; the others are its function. -/
theorem conversionResults : Obligations.ConversionResults := by
  intro i l h
  cases i with
  | fclass x => exact fclass_completes x h
  | fint x => cases h; exact fint_completes x
  | cvt x => cases h; exact vec_completes (fun _ => rfl) x.d.isLt fun hwf _ hwide => pair_of_wf_cvt hwf hwide
  | pack x => cases h; exact vec_completes (fun _ => rfl) x.d.isLt nofun
  | unpack x => cases h; exact vec_completes (fun _ => rfl) x.d.isLt nofun
  | _ => cases h

end Sys2Proof.Proofs

/-! PROOFS. Lanes: values moved, counted and combined over the threads, and O11. -/

namespace Sys2Proof.Proofs

open Machine Spec Laws

/-! ## XLANE (R204) -/

theorem xlaneSource_eq (mode t : Nat) (b : Word) : xlaneSource mode t b.toNat = laneSource mode t b := by
  match mode with
  | 0 => rfl
  | 1 =>
    show (if b.toNat ≤ t then t - b.toNat else t) = if t < b.toNat then t else t - b.toNat
    split_ifs <;> omega
  | 2 =>
    show (if t + b.toNat ≤ 255 then t + b.toNat else t) = if 255 < t + b.toNat then t else t + b.toNat
    split_ifs <;> omega
  | m + 3 => rfl

theorem xlane_completes (x : V2) : VecCompletes (.xlane x) ⟨[⟨x.a, false⟩, ⟨x.b, false⟩], x.d.toNat, x.w, false, .x⟩
    fun g t => ⟨g.read .int false x.a (laneSource x.mod.toNat t (opnd .int g x.b t)), 0⟩ := by
  simp only [← xlaneSource_eq, ← read_toNat]
  exact vec_completes (fun _ => rfl) x.d.isLt nofun

/-! ## POLL and PMOV to an entry (R205, R209) -/

theorem poll_count (m : LaneMask) : popCount 256 m.toNat = (List.range 256).countP fun k => m.getLsbD k := popCount_eq_countP 256 m.toNat

theorem poll_completes {x : V2} (h : ¬ x.mod.toNat ≤ 2) : VecCompletes (.poll x) ⟨[], x.d.toNat, x.w, false, .x⟩ fun g t =>
    word (if x.mod = 3 then (g.ballot (predOf x.a)).extractLsb' (32 * (t % 8)) 32
      else BitVec.ofNat 32 ((List.range 256).countP fun k => (g.ballot (predOf x.a)).getLsbD k)) := by
  refine vec_completes (fun s => ?_) x.d.isLt nofun
  show execPoll x s = _
  unfold execPoll
  simp only [h, ↓reduceIte, poll_count, beq_iff_eq, ← apply_ite res32]
  rfl

/-- Bits packed one by one are a mask's number. -/
theorem testBit_packBits (f : Nat → Bool) (l : List Nat) (j : Nat) :
    (l.foldr (fun k acc => acc ||| ((f k).toNat <<< (1 * k))) 0).testBit j = (l.contains j && f j) := by
  induction l with
  | nil => exact Nat.zero_testBit j
  | cons k l ih =>
    have hbit : ((f k).toNat <<< (1 * k)).testBit j = ((j == k) && f j) := by
      rw [Nat.one_mul, Nat.testBit_shiftLeft, Nat.testBit_bool_toNat]
      by_cases h : j = k
      · subst h
        simp
      · have hne : ¬ (k ≤ j ∧ j - k = 0) := by omega
        rw [beq_eq_false_iff_ne.mpr h, Bool.false_and, ← Bool.and_assoc, ← Bool.decide_and, decide_eq_false hne, Bool.false_and]
    rw [List.foldr_cons, Nat.testBit_or, ih, hbit, List.contains_cons, Bool.or_comm, Bool.and_or_distrib_right]

theorem packBits_eq_natOfBits (f : Nat → Bool) (n : Nat) : packBits 1 n (fun k => (f k).toNat) = natOfBits f n := by
  apply Nat.eq_of_testBit_eq
  intro j
  rw [packBits, testBit_packBits, (testBit_natOfBits f n j).1]
  simp [List.contains_eq_mem]

theorem predByte_eq_sum (g : Ctx) (t : Nat) :
    predByte g t = ((List.range 8).map fun k => if (g.preds[Fin.ofNat 8 k]).getLsbD t then 2 ^ k else 0).sum := by
  rw [predByte, packBits_eq_natOfBits, natOfBits_eq_sum]

theorem pmovGet_completes {x : V2} (h : x.mod = 0) : VecCompletes (.pmov x) ⟨[], x.d.toNat, x.w, false, .x⟩ fun g t =>
    word (BitVec.ofNat 32 (((List.range 8).map fun k => if (g.preds[Fin.ofNat 8 k]).getLsbD t then 2 ^ k else 0).sum)) := by
  have hf : (fun (g : Ctx) t => res32 (BitVec.ofNat 32 (predByte g t))) = fun g t =>
      word (BitVec.ofNat 32 (((List.range 8).map fun k => if (g.preds[Fin.ofNat 8 k]).getLsbD t then 2 ^ k else 0).sum)) :=
    funext fun g => funext fun t => congrArg (fun n => res32 (BitVec.ofNat 32 n)) (predByte_eq_sum g t)
  rw [← hf]
  exact vec_completes (fun s => if_pos (beq_iff_eq.mpr h)) x.d.isLt nofun

/-! ## SCAN and LRED (R206) -/

section Combine
variable (op : Nat) (sgn : Bool) (g : Ctx) (val : Nat → Word)

theorem scanRun_cons (t : Nat) (l : List Nat) (acc : Word) (fl : FFlags) : (scanRun op sgn g.fpmode val (t :: l) acc fl).1 =
    (t, acc, (scanStep op sgn g.fpmode acc (val t)).1) ::
      (scanRun op sgn g.fpmode val l (scanStep op sgn g.fpmode acc (val t)).1 (fl ||| (scanStep op sgn g.fpmode acc (val t)).2)).1 := rfl

/-- The final value and flags of a run over lanes are those of the combination. -/
theorem scanRun_end (l : List Nat) (acc : Word) (fl : FFlags) :
    (scanRun op sgn g.fpmode val l acc fl).2 = combine op sgn g val l (acc, fl) := by
  induction l generalizing acc fl with
  | nil => rfl
  | cons t l ih => exact ih _ _

/-- Each lane of a run has the combinations of the lanes before it, and of these with its own. -/
theorem scanRun_lookup (l : List Nat) (hl : l.Pairwise (· < ·)) (acc : Word) (fl : FFlags) {t : Nat} (ht : t ∈ l) :
    (scanRun op sgn g.fpmode val l acc fl).1.lookup t = some ((combine op sgn g val (l.filter (· < t)) (acc, fl)).1,
      (combine op sgn g val (l.filter (· < t + 1)) (acc, fl)).1) := by
  induction l generalizing acc fl with
  | nil => cases ht
  | cons u l ih =>
    obtain ⟨hu, hl⟩ := List.pairwise_cons.mp hl
    rw [scanRun_cons, List.lookup_cons]
    by_cases htu : t = u
    · subst htu
      have hbefore : (t :: l).filter (· < t) = [] := List.filter_eq_nil_iff.mpr fun v hv => by
        rcases List.mem_cons.mp hv with rfl | hv
        · simp
        · simpa using Nat.le_of_lt (hu v hv)
      have hupTo : (t :: l).filter (· < t + 1) = [t] := by
        rw [List.filter_cons_of_pos (by simp), List.filter_eq_nil_iff.mpr fun v hv => by simpa using hu v hv]
      rw [beq_self_eq_true, hbefore, hupTo]
      rfl
    · have htl : t ∈ l := (List.mem_cons.mp ht).resolve_left htu
      have hlt := hu t htl
      rw [beq_eq_false_iff_ne.mpr htu, List.filter_cons_of_pos (by simpa using hlt), List.filter_cons_of_pos (by simpa using by omega)]
      exact ih hl _ _ htl

theorem scanRun_lookup_none (l : List Nat) (acc : Word) (fl : FFlags) {t : Nat} (ht : t ∉ l) :
    (scanRun op sgn g.fpmode val l acc fl).1.lookup t = none := by
  induction l generalizing acc fl with
  | nil => rfl
  | cons u l ih =>
    obtain ⟨htu, htl⟩ := not_or.mp (mt List.mem_cons.mpr ht)
    rw [scanRun_cons, List.lookup_cons, beq_eq_false_iff_ne.mpr htu]
    exact ih _ _ htl

end Combine

/-- What a run starts from, as the table entries name it. -/
theorem combineVal_eq (x : V2) (g : Ctx) :
    (fun t => lo32 (g.read (if x.mod.toNat == 6 then .f32 else .int) false x.a t)) = combineVal x g := by
  have hc : (if x.mod.toNat == 6 then Consts.f32 else .int) = if x.mod = 6 then .f32 else .int :=
    if_congr (beq_iff_eq.trans (BitVec.toNat_inj (y := 6#3))) rfl rfl
  rw [hc]
  rfl

theorem scanOf_eq (g : Ctx) (x : V2) : scanOf g x =
    scanRun x.mod.toNat x.s g.fpmode (combineVal x g) g.lanes (scanIdentity x.mod.toNat x.s) 0 := by
  rw [← combineVal_eq]
  rfl

/-- The combination of all active lanes of an instruction's source, and of those below a lane. -/
def combinedAll (x : V2) (g : Ctx) : Word × FFlags := combine x.mod.toNat x.s g (combineVal x g) g.lanes (combineStart x)
def combinedBelow (x : V2) (g : Ctx) (k : Nat) : Word :=
  (combine x.mod.toNat x.s g (combineVal x g) (g.lanes.filter (· < k)) (combineStart x)).1

theorem scanOf_end (g : Ctx) (x : V2) : (scanOf g x).2 = combinedAll x g := by
  rw [scanOf_eq]
  exact scanRun_end _ _ _ _ _ _ _

theorem lanes_pairwise (g : Ctx) : g.lanes.Pairwise (· < ·) := List.pairwise_lt_range.filter _

theorem scanOf_lookup {g : Ctx} {x : V2} {t : Nat} (ht : t ∈ g.lanes) :
    (scanOf g x).1.lookup t = some (combinedBelow x g t, combinedBelow x g (t + 1)) := by
  rw [scanOf_eq]
  exact scanRun_lookup _ _ _ _ _ (lanes_pairwise g) _ _ ht

theorem scanOf_lookup_none {g : Ctx} {x : V2} {t : Nat} (ht : t ∉ g.lanes) : (scanOf g x).1.lookup t = none := by
  rw [scanOf_eq]
  exact scanRun_lookup_none _ _ _ _ _ _ _ ht

theorem lred_completes (x : V2) : VecCompletes (.lred x) ⟨[⟨x.a, false⟩], x.d.toNat, x.w, false, .x⟩
    fun g _ => ⟨(combinedAll x g).1.setWidth 64, (combinedAll x g).2⟩ := by
  simp only [← scanOf_end]
  exact vec_completes (fun _ => rfl) x.d.isLt nofun

theorem scan_completes (x : V2) : VecCompletes (.scan x) ⟨[⟨x.a, false⟩], x.d.toNat, x.w, false, .x⟩ fun g t =>
    if g.active.getLsbD t then
      ⟨(if x.b.getLsbD 0 then combinedBelow x g t else combinedBelow x g (t + 1)).setWidth 64, (combinedAll x g).2⟩
    else ⟨0, 0⟩ := by
  refine vec_completes (fun s => ?_) x.d.isLt nofun
  show execScan x s = _
  unfold execScan
  congr 1
  funext g t
  by_cases ht : g.active.getLsbD t = true
  · rw [if_pos ht, ← scanOf_end, scanOf_lookup (mem_lanes.mpr ⟨BitVec.lt_of_getLsbD ht, ht⟩)]
  · rw [if_neg ht, scanOf_lookup_none fun h => ht (mem_lanes.mp h).2]

/-- Settles O11: POLL and PMOV are the thread instruction of their table entry under the mod that it asks for; SCAN and LRED by the
run over the active lanes. -/
theorem laneResults : Obligations.LaneResults := by
  intro i l h
  unfold laneTable at h
  split at h
  case h_1 x => cases h; exact xlane_completes x
  case h_2 x =>
    split at h
    · cases h
    · next hmod => cases h; exact poll_completes hmod
  case h_3 x => cases h; exact scan_completes x
  case h_4 x => cases h; exact lred_completes x
  case h_5 x =>
    split at h
    · next hmod => cases h; exact pmovGet_completes hmod
    · cases h
  case h_6 => cases h

end Sys2Proof.Proofs

/-! PROOFS. Predicate destinations under the combine pair: O12. -/

namespace Sys2Proof.Proofs

open Machine Spec Laws

/-! ## One predicate written (R171) -/

/-- A write reaches the active threads alone. -/
theorem getLsbD_masked (m old new : LaneMask) {t : Nat} (ht : t < 256) :
    ((old &&& ~~~m) ||| (new &&& m)).getLsbD t = if m.getLsbD t then new.getLsbD t else old.getLsbD t := by
  rw [BitVec.getLsbD_or, BitVec.getLsbD_and, BitVec.getLsbD_and, BitVec.getLsbD_not]
  cases m.getLsbD t <;> simp [ht]

theorem lowThree (d : BitVec 4) : (d.extractLsb' 0 3).toNat = d.toNat % 8 := by
  rw [BitVec.extractLsb'_toNat, Nat.shiftRight_zero]

theorem getLsbD_writePred (x : Ctx) (d : BitVec 4) (w : Bool) (f : Nat → Bool) {p t : Nat} (hp : p < 8) (ht : t < 256) :
    ((x.writePred d w f).preds[Fin.ofNat 8 p]).getLsbD t =
      if p = (d.extractLsb' 0 3).toNat then
        if x.active.getLsbD t then mixed d w ((x.preds[Fin.ofNat 8 p]).getLsbD t) (f t) else (x.preds[Fin.ofNat 8 p]).getLsbD t
      else (x.preds[Fin.ofNat 8 p]).getLsbD t := by
  unfold Ctx.writePred
  simp only [Fin.getElem_fin, Fin.val_ofNat, Vector.getElem_set, Nat.mod_eq_of_lt hp]
  by_cases h : p = (d.extractLsb' 0 3).toNat
  · have hd : d.toNat % 8 = p := (lowThree d).symm.trans h.symm
    rw [if_pos hd, if_pos h, getLsbD_masked _ _ _ ht]
    simp only [hd, mixed]
    cases d.getLsbD 3 <;> cases w <;> simp [getLsbD_maskFn _ ht]
  · have hd : d.toNat % 8 ≠ p := fun hd => h (hd.symm.trans (lowThree d).symm)
    rw [if_neg hd, if_neg h]

theorem orFlags_zero (x : Ctx) : x.orFlags 0 = x := by
  have hz : x.fpflags ||| (0 : FFlags).setWidth 64 = x.fpflags := BitVec.or_zero
  rw [Ctx.orFlags, hz]

/-- An instruction that writes one predicate completes as its table entry says. -/
theorem onePred_completes {i : Instr} {srcs : List Src} {d : BitVec 4} {w : Bool} {c : Ctx → Nat → Bool} {fl : Ctx → FFlags}
    (hx : ∀ s, exec i s = runPred i srcs (fun g => (g.writePred d w (c g)).orFlags (fl g)) s) : PredCompletes i (onePred srcs d w c fl) := by
  refine pred_completes hx (fun _ => rfl) fun x p hp t ht => (getLsbD_writePred x d w (c x) hp ht).trans ?_
  simp only [onePred]
  split_ifs <;> rfl

/-- One that raises no flags. -/
theorem quietPred_completes {i : Instr} {srcs : List Src} {d : BitVec 4} {w : Bool} {c : Ctx → Nat → Bool}
    (hx : ∀ s, exec i s = runPred i srcs (fun g => g.writePred d w (c g)) s) : PredCompletes i (onePred srcs d w c fun _ => 0) := by
  refine onePred_completes fun s => (hx s).trans ?_
  simp only [orFlags_zero]

/-! ## Compares (R193, R196, R211) -/

theorem icond_eq_condition (c : Nat) (a b : Int) : icond c a b = condition c a b := by
  match c with
  | 0 => rfl
  | 1 => rfl
  | 2 => rfl
  | 3 => rfl
  | 4 => rfl
  | c + 5 => rfl

theorem icmp_completes (x : V2) : PredCompletes (.icmp x) (onePred [⟨x.a, false⟩, ⟨x.b, false⟩] x.d x.w
    (fun g t => condition x.mod.toNat (number x.s (opnd .int g x.a t)) (number x.s (opnd .int g x.b t))) fun _ => 0) := by
  simp only [← icond_eq_condition]
  exact quietPred_completes fun _ => rfl

theorem icmpi_completes (x : VI) : PredCompletes (.icmpi x) (onePred [⟨x.a, false⟩] x.d x.w
    (fun g t => condition (x.imm.extractLsb' 9 3).toNat (opnd .int g x.a t).toInt (x.imm.extractLsb' 0 9).toInt) fun _ => 0) := by
  simp only [← icond_eq_condition]
  exact quietPred_completes fun _ => rfl

theorem floatCompare_completes {i : Instr} {x : V2} {c : Consts} {f : Fmt} {wide : Bool} {ftz : Ctx → Bool}
    (hz : ∀ g : Ctx, (f == .b32 && g.fpmode.getLsbD 2) = ftz g) (hx : ∀ s, exec i s = runFcmp i x c f wide s) :
    PredCompletes i (floatCompare x c f wide ftz) := by
  obtain rfl : (fun g : Ctx => f == .b32 && g.fpmode.getLsbD 2) = ftz := funext hz
  exact onePred_completes hx

/-! ## HCMP2 writes two predicates (R196) -/

theorem halfCompare_eq (x : V2) (g : Ctx) (k t : Nat) : halfCompare x g k t =
    fcompare .b16 (g.fpmode.getLsbD 3) x.mod.toNat (elem (lo32 (g.read .f16 false x.a t)) 16 k) (elem (lo32 (g.read .f16 false x.b t)) 16 k) := by
  unfold elem
  rw [Nat.pow_mul]
  rfl

/-- An even predicate and the one after it, with one combine pair. -/
theorem succ_even : ∀ d : BitVec 4, d.getLsbD 0 = false →
    (d + 1).getLsbD 3 = d.getLsbD 3 ∧ ((d + 1).extractLsb' 0 3).toNat = (d.extractLsb' 0 3).toNat + 1 := by decide

theorem mixed_succ_even {d : BitVec 4} (h : d.getLsbD 0 = false) (w old c : Bool) : mixed (d + 1) w old c = mixed d w old c := by
  unfold mixed
  rw [(succ_even d h).1]

theorem hcmp2_completes (x : V2) {l : PredSpec} (h : predTable (.hcmp2 x) = some l) : PredCompletes (.hcmp2 x) l := by
  cases h
  intro s g hR
  have heven : x.d.getLsbD 0 = false := by simpa using (last_of_wf hR.formed rfl : (!x.d.getLsbD 0) = true)
  refine pred_completes (f := fun g => ((((g.writePred x.d x.w fun t => (halfCompare x g 0 t).1).writePred (x.d + 1) x.w
    fun t => (halfCompare x g 1 t).1).orFlags (gathered g fun t => (halfCompare x g 0 t).2))).orFlags
    (gathered g fun t => (halfCompare x g 1 t).2)) (fun s => ?_) (fun y => ?_) (fun y p hp t ht => ?_) s g hR
  · simp only [halfCompare_eq]
    rfl
  · show Ctx.orFlags _ _ = _
    rw [BitVec.setWidth_or, ← BitVec.or_assoc]
    rfl
  · have hsecond := getLsbD_writePred (y.writePred x.d x.w fun t => (halfCompare x y 0 t).1) (x.d + 1) x.w
      (fun t => (halfCompare x y 1 t).1) hp ht
    rw [getLsbD_writePred y x.d x.w _ hp ht, (succ_even x.d heven).2, mixed_succ_even heven] at hsecond
    refine Eq.trans hsecond ?_
    dsimp only
    by_cases h1 : p = (x.d.extractLsb' 0 3).toNat + 1
    · have h0 : p ≠ (x.d.extractLsb' 0 3).toNat := by omega
      simp only [if_pos h1, if_neg h0]
      rfl
    · simp only [if_neg h1]
      split_ifs <;> rfl

/-! ## Predicates of predicates (R172, R205, R208) -/

theorem pred_predOf (g : Ctx) (f : SrcField) (t : Nat) : g.pred (predOf f) t = fieldValue g f t := by
  have hlow : (f.extractLsb' 0 3).toNat = f.toNat % 8 := by rw [BitVec.extractLsb'_toNat, Nat.shiftRight_zero]
  simp only [fieldValue, hlow]
  rfl

theorem pcomb_completes (x : V2) {l : PredSpec} (h : predTable (.pcomb x) = some l) : PredCompletes (.pcomb x) l := by
  cases h
  refine quietPred_completes fun s => ?_
  simp only [← pred_predOf]
  show execPcomb x s = _
  unfold execPcomb
  generalize x.mod.toNat = m
  match m with
  | 0 => rfl
  | 1 => rfl
  | 2 => rfl
  | m + 3 => rfl

/-- A lane of the ballot is active, and its predicate holds. -/
theorem getLsbD_ballot (g : Ctx) (f : SrcField) {t : Nat} (ht : t < 256) :
    (g.ballot (predOf f)).getLsbD t = (g.active.getLsbD t && fieldValue g f t) := by
  rw [← pred_predOf, Ctx.ballot, Ctx.pred, BitVec.getLsbD_and]
  cases (predOf f).inv <;> simp [ht]

theorem ballot_eq_active (g : Ctx) (f : SrcField) : (g.ballot (predOf f) == g.active) = g.lanes.all fun t => fieldValue g f t := by
  rw [Bool.eq_iff_iff, beq_iff_eq, List.all_eq_true]
  constructor
  · intro h t ht
    obtain ⟨h256, hact⟩ := mem_lanes.mp ht
    have hbit := getLsbD_ballot g f h256
    rwa [h, hact, Bool.true_and, eq_comm] at hbit
  · intro h
    refine BitVec.eq_of_getLsbD_eq fun t ht => (getLsbD_ballot g f ht).trans ?_
    by_cases hact : g.active.getLsbD t = true
    · rw [h t (mem_lanes.mpr ⟨ht, hact⟩), Bool.and_true]
    · rw [Bool.eq_false_iff.mpr hact, Bool.false_and]

theorem ballot_eq_zero (g : Ctx) (f : SrcField) : (g.ballot (predOf f) == 0) = g.lanes.all fun t => !fieldValue g f t := by
  rw [Bool.eq_iff_iff, beq_iff_eq, List.all_eq_true]
  constructor
  · intro h t ht
    obtain ⟨h256, hact⟩ := mem_lanes.mp ht
    have hbit := getLsbD_ballot g f h256
    rw [h, hact, Bool.true_and] at hbit
    rw [← hbit]
    exact congrArg not BitVec.getLsbD_zero
  · intro h
    refine BitVec.eq_of_getLsbD_eq fun t ht => (getLsbD_ballot g f ht).trans ?_
    refine Eq.trans ?_ BitVec.getLsbD_zero.symm
    by_cases hact : g.active.getLsbD t = true
    · have hfalse : fieldValue g f t = false := by simpa using h t (mem_lanes.mpr ⟨ht, hact⟩)
      rw [hfalse, Bool.and_false]
    · rw [Bool.eq_false_iff.mpr hact, Bool.false_and]

theorem ballot_ne_zero (g : Ctx) (f : SrcField) : (g.ballot (predOf f) != 0) = g.lanes.any fun t => fieldValue g f t := by
  rw [bne, ballot_eq_zero, List.not_all_eq_any_not]
  simp only [Bool.not_not]

theorem vote_completes (x : V2) {l : PredSpec} (h : predTable (.poll x) = some l) : PredCompletes (.poll x) l := by
  unfold predTable at h
  dsimp only at h
  split at h
  · next hmod =>
    cases h
    refine quietPred_completes fun s => ?_
    simp only [← ballot_eq_active, ← ballot_ne_zero, ← ballot_eq_zero]
    refine Eq.trans (show exec (.poll x) s = execPoll x s from rfl) ((if_pos hmod).trans ?_)
    generalize x.mod.toNat = m
    match m with
    | 0 => rfl
    | 1 => rfl
    | m + 2 => rfl
  · cases h

/-! ## PMOV to the predicates (R209) -/

theorem pmovSet_completes {x : V2} (h : ¬ x.mod = 0) :
    PredCompletes (.pmov x) ⟨[⟨x.a, false⟩], fun g p t => (opnd .int g x.a t).getLsbD p, fun _ => 0⟩ := by
  refine pred_completes (fun s => if_neg (mt beq_iff_eq.mp h)) (fun y => ?_) fun y p hp t ht => ?_
  · have hz : y.fpflags ||| (0 : FFlags).setWidth 64 = y.fpflags := BitVec.or_zero
    rw [hz]
  · have hbit : (y.read .int false x.a t).getLsbD p = (opnd .int y x.a t).getLsbD p := by
      rw [opnd, BitVec.getLsbD_setWidth]
      simp [show p < 32 by omega]
    simp only [Fin.getElem_fin, Fin.val_ofNat, Nat.mod_eq_of_lt hp, Vector.getElem_mapFinIdx, getLsbD_masked _ _ _ ht,
      getLsbD_maskFn _ ht, hbit]

/-- Settles O12: each writes one predicate of a condition, but for HCMP2, which writes two, and PMOV, which writes eight. -/
theorem predicateResults : Obligations.PredicateResults := by
  intro i l h
  cases i with
  | icmp x => cases h; exact icmp_completes x
  | icmpi x => cases h; exact icmpi_completes x
  | fcmp x => cases h; exact floatCompare_completes (fun _ => rfl) fun _ => rfl
  | dcmp x => cases h; exact floatCompare_completes (fun _ => rfl) fun _ => rfl
  | hcmp2 x => exact hcmp2_completes x h
  | poll x => exact vote_completes x h
  | pcomb x => exact pcomb_completes x h
  | pmov x =>
    by_cases hmod : x.mod = 0
    · exact nomatch (if_pos hmod).symm.trans h
    · cases (if_neg hmod).symm.trans h
      exact pmovSet_completes hmod
  | _ => cases h

end Sys2Proof.Proofs
